-- ==== Sys2Proof/Word.lean ====
section
/-! DEFINITION. The plainest types the model is written in: bytes, words and finite maps as plain data. -/

namespace Sys2Proof

/-- One byte. -/
abbrev Byte := BitVec 8

/-- A 32-bit word: an FP32 value, a bollard, half a register. -/
abbrev Word32 := BitVec 32

/-- A finite map from a number to data, as a list of pairs (a key stands at most once when it is built by `Map.set`). -/
abbrev Map (α : Type) := List (Nat × α)

end Sys2Proof
end

