-- ==== Sys2Proof/Syntax.lean ====
section
/-! DEFINITION. The commands of the block: one constructor of `Instr` per row of spec/opcode_table.json. A command is
what comes from outside or comes about at a moment the spec names; its operands are the data that moment brings. -/

namespace Sys2Proof

/-- What one codeword reads with: its number in its granule, and what is added to which of its symbols (06 R164, R165). -/
structure WordErr where
  word : Nat
  errs : List (Nat × BitVec 16)
  deriving DecidableEq, Repr

/-- The codewords of a granule that are read with an error; for host memory any entry stands for a completion with EP set. -/
structure ReadBack where
  words : List WordErr
  deriving DecidableEq, Repr

/-- How a read of the module's own ends: answered within the bound, or late (06 R175). -/
inductive ReadEnd where
  | answered (rb : ReadBack)
  | late
  deriving DecidableEq, Repr

/-- A run-ahead fetch: its thread, and how its reads end, in their order (02 R35). -/
structure FetchRun where
  thread : Nat
  ends : List ReadEnd
  deriving DecidableEq, Repr

/-- Where a residue mismatch is met: the number of the array, and whether on a MATVEC's way to it (03 R102, 02 R52). -/
structure ResidueAt where
  array : Nat
  pontoon : Bool
  deriving DecidableEq, Repr

/-- A granule that a migration engine moves: its page slot, and how its codewords read (06 R171). -/
structure GranuleRun where
  slot : Nat
  rb : ReadBack
  deriving DecidableEq, Repr

/-- The tensors of a sample as they are written: its sequence number, and how the hub's requests end, in their order. -/
structure TensorRun where
  seq : Nat
  ends : List ReadEnd
  deriving DecidableEq, Repr

/-- A command of a hub engine: the number of its stream or job, and how the hub's requests end, in their order. -/
structure HubRun where
  no : Nat
  ends : List ReadEnd
  deriving DecidableEq, Repr

/-- An intake entry as read from host memory, and how the hub's requests end, in their order. -/
structure IntakeRun where
  entry : List Byte
  ends : List ReadEnd
  deriving DecidableEq, Repr

/-- A host read through BAR2: its length, and how the part in each granule it touches ends, in order (13 R342). -/
structure HostRead where
  len : Nat
  ends : List ReadEnd
  deriving DecidableEq, Repr

/-- A host write through BAR2: whether it came poisoned, and how the part in each granule ends, in order (13 R342). -/
structure HostStore where
  poisoned : Bool
  ends : List ReadEnd
  deriving DecidableEq, Repr

/-- A command that loads an image: its pair, and the address of a word that its reads find unreadable, if any (14 R370). -/
structure LoadRun where
  pair : Nat
  bad : Option Nat
  deriving DecidableEq, Repr

/-- A command that creates a ring in host memory: its pair, and whether firmware finds the ring's address unreadable (14 R384). -/
structure RingRun where
  pair : Nat
  bad : Bool
  deriving DecidableEq, Repr

/-- The extension block of a JOB_ENABLE, none where its read fails, and whether the intake ring's address is unreadable. -/
structure JobBlock where
  block : Option (List Byte)
  ringBad : Bool
  deriving DecidableEq, Repr

/-- A plan enable: firmware's choice of the handle, and the address of a word that its reads find unreadable, if any. -/
structure EnableRun where
  handle : Nat
  bad : Option Nat
  deriving DecidableEq, Repr

/-- What bring-up finds (17 R437, R447): the outcome of the tests and trainings of one reset. -/
structure Found where
  /-- bit q: quarter q is present and answers -/
  quarters : BitVec 4
  /-- per quarter, bit p: physical core p passed its self-test -/
  good : List (BitVec 68)
  /-- bit 4q + s: stack s of quarter q trained -/
  stackBits : BitVec 16
  /-- per quarter, bit 32s + c: channel c of stack s is unusable -/
  badChans : List (BitVec 128)
  /-- per quarter, bit k: package k trained -/
  pkgs : List (BitVec 16)
  /-- working lanes of the six quarter–quarter links -/
  qqLanes : List Nat
  /-- working lanes of the eight half-links -/
  hubLanes : List Nat
  /-- every hub unit passed its test -/
  hubOk : Bool
  /-- training of the links and memories succeeded on the fast path -/
  trainOk : Bool
  /-- frames with uncorrectable words: quarter, tier, frame -/
  badFrames : List (Nat × Nat × Nat)
  /-- per quarter, idle power in µJ per millisecond (15 R398) -/
  idle : List Nat
  deriving DecidableEq, Repr

/-- One run of pixels of one row in an RFC 4175 packet, already unpacked into samples of the three planes. -/
structure Seg where
  row : Nat
  off : Nat
  p0 : List Nat
  p1 : List Nat
  p2 : List Nat
  deriving DecidableEq, Repr

/-- An RTP packet over UDP as the port parsed it (12 R307, R310). -/
structure Packet where
  vlan : Option Nat
  v6 : Bool
  dstIp : Nat
  dstUdp : Nat
  srcIp : Nat
  srcUdp : Nat
  pt : Nat
  ssrc : Nat
  /-- extended sequence number -/
  seq : Nat
  /-- RTP timestamp: the packets of one frame share it -/
  ts : Nat
  segs : List Seg
  deriving DecidableEq, Repr

/-- A received Ethernet frame. -/
inductive EthFrame where
  /-- bad FCS -/
  | badFcs
  /-- good FCS, neither control, PTP nor RTP: a fragment, an unsupported protocol -/
  | other (len : Nat)
  /-- an RTP packet, and how the hub's requests for it end, in their order (06 R175, 12 R319) -/
  | rtp (len : Nat) (p : Packet) (ends : List ReadEnd)
  deriving DecidableEq, Repr

/-- A control message for the port, or one it sends (12 R307): address resolution for a target, an echo request to an address,
an IGMPv3 or MLDv2 query for a group, 0 for all, and a membership report. -/
inductive CtlMsg where
  | arp (target : Nat)
  | neighbour (target : Nat)
  | echo4 (dst : Nat) (data : List Byte)
  | echo6 (dst : Nat) (data : List Byte)
  | groupQuery (v6 : Bool) (group : Nat)
  | groupReport (v6 : Bool) (groups : List Nat)
  | rtcp
  | unsupported
  deriving DecidableEq, Repr

/-- A control message as it arrives, with its VLAN tag. -/
structure CtlFrame where
  vlan : Option Nat
  msg : CtlMsg
  deriving DecidableEq, Repr

/-- A PTP message as the island's clock uses it (16 R411 to R413): an Announce that the best time transmitter
algorithm judged, a Sync with the offset estimated by the end-to-end delay mechanism, or any other message. -/
inductive PtpMsg where
  | announce (gm : Nat) (selected : Bool)
  | sync (gm : Nat) (offset : Int)
  | other
  deriving DecidableEq, Repr

/-- A decoded picture: sample planes in row-major order (12 R326). -/
structure Picture where
  w : Nat
  h : Nat
  planes : List (List Nat)
  deriving DecidableEq, Repr

/-- The first sequence header, or JPEG frame header, of an upload (12 R323). `beta2` is twice the decoded bytes per
pixel; `chroma` 0 = 4:2:0, 1 = 4:2:2, 2 = 4:4:4, 3 = monochrome. -/
structure Header where
  w : Nat
  h : Nat
  deep : Bool
  chroma : Nat
  deriving DecidableEq, Repr

/-- What reading the headers of an upload gives (12 R323, R325). -/
inductive HeaderRead where
  | header (h : Header)
  | undecodable
  | unsupported
  | unreadable
  deriving DecidableEq, Repr

/-- A decode that starts: what the decoder reads of the headers, and how the hub's requests end, in their order. -/
structure DecodeRun where
  hdr : HeaderRead
  ends : List ReadEnd
  deriving DecidableEq, Repr

/-- How a decode ended (12 R325). -/
inductive DecodeEnd where
  | frames (fs : List Picture)
  /-- a later sequence header declared a larger size -/
  | larger (h : Header)
  | undecodable
  | unsupported
  | unreadable
  deriving DecidableEq, Repr

/-- A decode that ends, and how the hub's requests for it end, in their order. -/
structure DecodeDone where
  how : DecodeEnd
  ends : List ReadEnd
  deriving DecidableEq, Repr

/-- What a read of a hold word met: a single-bit error, or a double-bit one, met by an op of a thread or by none (18 R465). -/
structure HoldErr where
  double : Bool
  thread : Option Nat
  deriving DecidableEq, Repr

/-- A change of a port's link, and the RS-FEC codewords corrected and uncorrectable since the last (18 R458). -/
structure LinkReport where
  up : Bool
  corr : Nat
  uncorr : Nat
  deriving DecidableEq, Repr

/-- The input voltage after 1 s, and what the tests find (16 R430). -/
structure AutoReset where
  v400 : Nat
  found : Found
  deriving DecidableEq, Repr

/-- What a wake from Anchor comes from (16 R420). -/
inductive WakeSource where
  | heldWrite
  | portLink (port : Nat) (link : LinkReport)
  deriving DecidableEq, Repr

/-- The commands. -/
inductive Instr where
  -- ops starting on a thread of a core
  | matmul (core thread : Nat)
  | marshallingStage (core thread : Nat)
  | marshallingDeadline (core thread : Nat)
  | matvec (core thread : Nat)
  | conv (core thread : Nat)
  | convArgmax (core thread : Nat)
  | cropresize (core thread : Nat)
  | attnMatFwd (core thread : Nat)
  | attnMatBwd (core thread : Nat)
  | attnStream (core thread : Nat)
  | chainProduct (core thread : Nat)
  | recurStep (core thread : Nat)
  | stateXferExport (core thread : Nat)
  | stateXferImport (core thread : Nat)
  | stateXferZero (core thread : Nat)
  | elemwise (core thread : Nat)
  | normApply (core thread : Nat)
  | move (core thread : Nat)
  | gather (core thread : Nat)
  | prefetch (core thread : Nat)
  | signalAdd (core thread : Nat)
  | signalSet (core thread : Nat)
  | signalHost (core thread : Nat)
  | wait (core thread : Nat)
  | tideWait (core thread : Nat)
  | tideWaitTarget (core thread : Nat)
  | ferrySend (core thread : Nat)
  | ferrySendReturn (core thread : Nat)
  | ferryCombine (core thread : Nat)
  | forkSeq (core thread : Nat)
  | sealPageAppend (core thread : Nat)
  | sealPageSeal (core thread : Nat)
  | sealPageRelease (core thread : Nat)
  | nop (core thread : Nat)
  | opComplete (core thread : Nat)
  -- the descriptor engine and the request path
  | descriptorRunAheadFetch (core : Nat) (run : FetchRun)
  | requestIssue (core : Nat)
  | requestComplete (core req : Nat) (rb : ReadBack)
  | lateResponseBound (core req : Nat)
  | lateArrival (core req : Nat)
  | contextFaultStop (ctx : Nat)
  | tlbWalk (core thread va : Nat) (ends : List ReadEnd)
  | bollardUpdate (core bol : Nat)
  | waitBoundExpiry (core thread : Nat)
  | residueMismatch (core thread : Nat) (at_ : ResidueAt)
  | holdError (core : Nat) (err : HoldErr)
  | coreFaultHandling (core : Nat)
  | rollback (ctx : Nat)
  | standbyRefill (part quarter : Nat)
  | functionSetSwap (core : Nat)
  | routeTableSwap (core : Nat)
  -- the ferry fabric
  | ferryArrival (src dst land : Nat)
  | returnArrival (src dst : Nat)
  | creditReturn (src dst land : Nat)
  | batchEmission (core land : Nat)
  | flushDl (core land : Nat)
  | stallNotice (core : Nat)
  | flitRetry (link : Nat)
  | laneReplacement (link lane : Nat)
  | linkRetirement (link : Nat)
  | halfLinkRetirement (quarter half : Nat)
  -- memory engines
  | migrationGranuleMove (quarter : Nat) (run : GranuleRun)
  | migrationStepLate (quarter slot : Nat)
  | migrationEnd (quarter slot : Nat)
  | patrolScrub (quarter tier word : Nat) (rb : ReadBack)
  -- scheduling and runs
  | schedulingDecision
  | quantumExpiry (ctx : Nat)
  | switchOut (ctx : Nat)
  | switchIn (ctx : Nat)
  | submitEntryTake (queue : Nat) (entry : List Byte)
  | runEnd (plan : Nat)
  | energyApportionment (measured : List Nat) (hub : Nat)
  -- ingest
  | ethernetFrameReceive (port : Nat) (frame : EthFrame)
  | frameDl (run : HubRun)
  | senderLockRelease (entry : Nat)
  | ptpMessage (port : Nat) (msg : PtpMsg)
  | announceTimeout
  | controlProtocolMessage (port : Nat) (frame : CtlFrame)
  | portLinkStateChange (port : Nat) (link : LinkReport)
  | tideTick
  | intakeEntryFetch (job : Nat) (run : IntakeRun)
  | decodeStart (job seq : Nat) (run : DecodeRun)
  | decodeComplete (job seq : Nat) (done : DecodeDone)
  | tensorizerWrite (job : Nat) (run : TensorRun)
  | batchDl (run : HubRun)
  | releaseWordPoll (run : HubRun)
  | decoderOccupancySample (job busyNs : Nat)
  | encodeFrame (job seq frame : Nat) (ends : List ReadEnd)
  | guideDl (job seq frame : Nat)
  -- telemetry
  | snapshotTick
  | snapshotPublication
  | fwBeat
  | fwDead
  -- power and supply
  | capstanAdmission
  | wakeBoundExpiry
  | powerCapEvaluation (watts : Nat)
  | powerLimitNotMet
  | brownWarning (v400 v48 : Nat)
  | brownWarningClear (v400 below : Nat)
  | recoveryTimer
  | inputUndervoltageStop (v400 : Nat)
  | orderlyStopComplete
  | inputOvervoltageWarning (v400 : Nat)
  | inputOvervoltageClear (v400 : Nat)
  | inputOvervoltageStop (v400 : Nat)
  | inputPowerLoss
  | bus48Throttle (v400 v48 : Nat)
  | bus48Clear (v400 v48 : Nat)
  | bus48Stop (v48 : Nat)
  | rail12Stop (v12 : Nat)
  | conversionUnitLoss (group unit : Nat)
  | quarterThermalThrottle (quarter temp : Nat)
  | thermalLimitStep (quarter temp : Nat)
  | thermalRecovery (quarter temp : Nat)
  | coolantInletLimit (temp : Nat)
  | coolantInletClear (temp : Nat)
  | criticalTemperature (site temp : Nat)
  | anchorWake (src : WakeSource)
  | wakeComplete
  | holdEntryComplete
  | automaticReset (run : AutoReset)
  | powerOnReset (found : Found)
  | trialImageTimeout (found : Found)
  -- the host link
  | functionLevelReset
  | hotReset
  | linkDown
  | pcieLinkTraining (speed width : Nat)
  | bar2Read (offset : Nat) (read : HostRead)
  | bar2Write (offset : Nat) (bytes : List Byte) (store : HostStore)
  | quayRefusedAccess (offset len : Nat) (write : Bool)
  | registerWrite (offset : Nat) (bytes : List Byte)
  | qwCauseWrite (value : BitVec 64)
  | qwCauseEnWrite (value : BitVec 64)
  | qwHosterrRead
  | intakeTailWrite (ring : Nat) (value : BitVec 32)
  | submitTailWrite (queue : Nat) (value : BitVec 32)
  | eventHeadWrite (ctx : Nat) (value : BitVec 32)
  | bollardDoorbellAdd (core : Nat) (value : BitVec 64)
  | bollardDoorbellSet (core : Nat) (value : BitVec 64)
  | qwResetWarm (value : BitVec 64) (found : Found)
  | qwResetCold (value : BitVec 64) (found : Found)
  | msixVectorUnmask (vec : Nat)
  | msixHoldoffExpiry (vec : Nat)
  -- Espor commands: the pair whose accepted request firmware serves
  | ctxCreate (pair num tableQ : Nat)
  | ctxDestroy (pair : Nat)
  | ctxSet (pair : Nat)
  | ctxFaults (pair : Nat)
  | planEnable (pair : Nat) (run : EnableRun)
  | planDisable (pair : Nat)
  | fsetLoad (run : LoadRun)
  | routeLoad (run : LoadRun)
  | subqCreate (run : RingRun) (queue : Nat)
  | subqDestroy (pair : Nat)
  | map (pair frame : Nat)
  | unmap (pair : Nat)
  | mapAttr (pair : Nat)
  | migrate (pair : Nat)
  | retireFrame (pair : Nat)
  | retireUnit (pair : Nat)
  | scrubCfg (pair : Nat)
  | aperture (pair : Nat)
  | seqTable (pair : Nat)
  | seqDefine (pair : Nat)
  | seqRelease (pair : Nat)
  | portCfg (pair : Nat)
  | flowWrite (pair : Nat)
  | streamEnable (pair : Nat)
  | streamDisable (pair : Nat)
  | quarClear (pair : Nat)
  | jobEnable (pair job : Nat) (block : JobBlock)
  | jobDisable (pair : Nat)
  | quarList (pair : Nat)
  | partCreate (pair : Nat)
  | partDestroy (pair : Nat)
  | pstate (pair : Nat)
  | powerLimit (pair : Nat)
  | tideCfg (pair : Nat)
  | capstanCfg (pair : Nat)
  | healthRead (pair : Nat)
  | fwStage (pair : Nat) (block : Option (List Byte))
  | topoAccept (pair : Nat)
  | healthClear (pair : Nat)
  | errlogRead (pair : Nat)
  | evringCreate (run : RingRun)
  | evringDestroy (pair : Nat)
  | intrBind (pair : Nat)
  | snapArm (pair : Nat)
  | snapCancel (pair : Nat)
  | echo (pair : Nat)
  | info (pair : Nat)
  -- the sideband
  | setEndpointId (eid : Nat)
  | getEndpointId
  | getMctpVersionSupport
  | getMessageTypeSupport
  | getTid
  | getPldmVersion (type : Nat)
  | getPldmTypes
  | getPldmCommands (type : Nat)
  | getPdrRepositoryInfo
  | getPdr (handle : Nat)
  | getSensorReading (sensor : Nat)
  | getStateSensorReadings (sensor : Nat)
  | getFruRecordTableMetadata
  | getFruRecordTable
  | mailboxDoorbell (pair : Nat) (value : BitVec 64)
  | bar2Resize (log2 : Nat)
  | unsupportedPldmCommand (type cmd : Nat)
  deriving DecidableEq, Repr

end Sys2Proof
end

