-- ==== Sys2Proof/Decode.lean ====
section
/-! DEFINITION. Decoding: no row of spec/opcode_table.json gives bits (the commands are the block's, not words), so no
word spells a command. -/

namespace Sys2Proof

/-- The command a word spells by the table's bits: none, since no row gives bits. -/
def decodeTableWord (_nbits _w : Nat) : Option Instr := none

end Sys2Proof
end

