-- ==== Sys2Proof/Config.lean ====
section
/-! DEFINITION. What the spec leaves open, as constants without a body: nothing can evaluate them, so a claim holds
whatever they are. Each has its entry in notes/assumptions. -/

namespace Sys2Proof.Config

/-- A byte of host memory that the module has not written: the host's own (13; log 3). -/
opaque hostByte : Nat → Byte

/-- Which of the channels not yet visited comes next in an interleave round of a home: a hash the spec does not give
(06 R159; log 5). -/
opaque chanPick : (home round step : Nat) → Nat

/-- The bank within a channel, by a hash of the higher address bits (06 R159; log 5). -/
opaque bankOf : (home round : Nat) → Nat

/-- The DRAM row of a granule of a home (06 R178; log 5). -/
opaque rowOf : (home granule : Nat) → Nat

/-- Check symbol i of the pattern that a poison mark adds (06 R177; log 48). -/
opaque markSym : (i : Nat) → BitVec 16

/-- The bytes that a signal puts on a link (02 R59, 18 R458 give no size; log 5). -/
opaque signalBytes : Nat

/-- The module's Device Serial Number (13 R339; log 49). -/
opaque serial : BitVec 64

/-- PCI-SIG's vendor identifier of the maker (13 R340; log 49). -/
opaque vendorId : BitVec 16

/-- The compressed frame of a slow-tier granule, before the model takes a longer one raw (06 R168; log 6). -/
opaque frame : List Byte → List Byte

/-- What a slow-tier granule decompresses to where the decoder has altered its frame: before the model takes 2,048 bytes of it
(06 R165, R168; log 48). -/
opaque unframe : List Byte → List Byte

/-- The result of built-in function FUNC where the spec gives an error bound and no value (05 R149; log 7). -/
opaque sfu : (func : Nat) → Word32 → Word32

/-- A colour matrix coefficient: matrix, range, output and input channel; input 3 is the added constant (12 R328; log 8). -/
opaque csc : (csc range out inp : Nat) → Word32

/-- A chroma sample at a luma position of a picture whose chroma plane is smaller or absent: width, height, column, row,
plane (12 R328 states no filter; log 20). -/
opaque chroma : (w h x y : Nat) → List Nat → Nat

/-- The mean of an output pixel's area where the source is no whole multiple of the output: output width and height, column,
row, channel values (12 R328; log 20). -/
opaque areaMean : (ow oh u v : Nat) → List Word32 → Word32

/-- SHA-384 (17 R443, a published standard; log 9). -/
opaque sha384 : List Byte → BitVec 384

/-- ECDSA over P-384: public key, signature, message (17 R443, a published standard; log 9). -/
opaque ecdsaVerify : List Byte → List Byte → List Byte → Bool

/-- The energy, in pJ, of a context's busy cycles and link bytes on a quarter in one interval (15 R398, characterised; log 10). -/
opaque activity : (ctx quarter tide : Nat) → Nat

/-- What a context's HUB_ENGINE time and host-port bytes of one interval weigh in the hub's energy (15 R398; log 10). -/
opaque hubShare : (ns bytes : Nat) → Nat

/-- Frames of a core's recovery area and state save area (14 R372; log 53). -/
opaque areaFrames : Nat

/-- The bytes that an encoder engine makes of a frame: its configuration, the sample's frames, and the quantiser offsets of the
frames up to this one, empty for one without guidance (12 R335, R337, a codec's own standard; log 20). -/
opaque encode : (cfg : List Nat) → (frames : List Picture) → (offsets : List (List Int)) → List Byte

/-- A fresh free word, by a counter of State (log 4). -/
opaque freeWord : Nat → Word32

/-- Eight bytes of a mailbox pair's response area while the pair is BUSY: instant, pair, offset (14 R364; log 4). -/
opaque busyWord : (now pair off : Nat) → BitVec 64

/-- Characterised current, in mA, of one capstan request by kind (16 R422; log 11). -/
opaque capCurrent : (kind : Nat) → Nat

/-- The power, in watts, that the 48 V stage carries with a number of converters left, where the spec names none (16 R431; log 12). -/
opaque convPower : (group left : Nat) → Nat

/-- Bytes that a late store leaves in host memory (06 R177; log 3). -/
opaque lateHostByte : (counter addr : Nat) → Byte

/-- A dot product of two rows where a format has no width class, so that no rule gives its window (08 R230; log 17). -/
opaque openDot : (formatA formatB : Nat) → (rowA rowB : List Byte) → Word32

/-- Which of the two third quarters carries a detour: source core, destination core, landing or granule (11 R302, a hash;
log 5). -/
opaque detour : (src dst item : Nat) → Bool

/-- Which half-link carries a quarter's hub traffic while both are in service (11 R300; log 5). -/
opaque half : (quarter key : Nat) → Bool

end Sys2Proof.Config
end

