-- ==== Sys2Proof/Machine/State.lean ====
section
/-! DEFINITION. The state of the module as plain data: every register, buffer, queue, table and mode the spec names,
and the queue of waiting commands. INVENTORY.md lists each with its rule and its reset value. -/

namespace Sys2Proof.Machine

/-- Where the model stops: an address that does not exist. Safe: the hardware has nothing there either. -/
inductive Fault where
  /-- a BAR0 offset at or beyond 4 MiB or a BAR2 offset at or beyond the BAR's size (13 R344). Raised by REGISTER_WRITE,
  QUAY_REFUSED_ACCESS, BAR2_READ and BAR2_WRITE. Safe: no such access reaches the function. -/
  | noSuchAddress
  deriving DecidableEq, Repr

/-- Why a command has no meaning. -/
inductive Refusal where
  /-- an instruction that is not modelled, by its mnemonic. Raised by no arm of this model. Safe: the model stops. -/
  | notModelled (mnemonic : String)
  deriving DecidableEq, Repr

/-- Byte-addressed memory: addresses strictly rising, no byte equal to 0, which an unlisted address reads as. -/
abbrev Memory := List Host.Cell

/-! ### Fuses and configuration flash (00 R4, 17 R442 to R450) -/

/-- What is fused at manufacture. -/
structure Fuses where
  part : BitVec 12
  stepL : Nat
  stepD : Nat
  keys : List (BitVec 384)
  revoked : BitVec 4
  minSvn : Nat
  serial : List Byte
  made : List Byte
  macs : List (BitVec 48)
  deriving DecidableEq, Repr

/-- One quarter word of the expected-topology record (17 R446). -/
structure QuarterWord where
  cores : Nat
  present : Bool
  stackBits : BitVec 4
  pkgs : BitVec 16
  hubh : BitVec 2
  deriving DecidableEq, Repr

/-- The expected-topology record (17 R446). -/
structure TopoRec where
  tver : BitVec 16
  part : BitVec 16
  cfgGen : BitVec 32
  quarters : List QuarterWord
  qqlink : BitVec 8
  chanRet : List (BitVec 128)
  crc : BitVec 64
  deriving DecidableEq, Repr

/-- A pending RETIRE_UNIT (17 R449). -/
structure PendingUnit where
  quarter : Nat
  kind : Nat
  dev : Nat
  chan : Nat
  deriving DecidableEq, Repr

/-- What an image slot holds: the image of manufacture is authentic (log 13). -/
inductive Slot where
  | empty
  | factory (ver build : BitVec 32)
  | image (bytes : List Byte)
  deriving DecidableEq, Repr

structure Flash where
  slotA : Slot
  slotB : Slot
  activeB : Bool
  /-- the slot marked as trial, and whether it has booted -/
  trial : Option Bool
  booted : Bool
  topo : Option TopoRec
  pending : List PendingUnit
  /-- retired frames: quarter, tier, frame -/
  retired : List (Nat × Nat × Nat)
  /-- module resets since manufacture -/
  boots : Nat
  deriving DecidableEq, Repr

/-! ### The always-on island (16 R410, R421, 17 R439, 18 R459, 19 R480) -/

inductive Sync where
  | free | acquiring | locked | holdover
  deriving DecidableEq, Repr

structure TideCfg where
  profile : Nat
  domain : Nat
  ports : Nat
  num : Nat
  den : Nat
  tick0 : Nat
  deriving DecidableEq, Repr

/-- The health record (17 R439). -/
structure Health where
  hver : BitVec 16
  valid : Bool
  dirty : Bool
  warms : Nat
  cfgGen : BitVec 32
  fwBuild : BitVec 32
  slotB : Bool
  fallback : Bool
  bootReason : BitVec 16
  good : List (BitVec 68)
  crc : BitVec 64
  deriving DecidableEq, Repr

/-- An error-log record (18 R459). -/
structure ErrRec where
  num : Nat
  code : Nat
  ctx : Nat
  ctxv : Bool
  recov : Bool
  tide : Nat
  loc : BitVec 64
  aux : BitVec 64
  boot : Nat
  /-- returned by an ERRLOG_READ -/
  read : Bool
  deriving DecidableEq, Repr

/-- What the sideband answered last (19 R480 to R483). -/
inductive SbAnswer where
  | endpoint (eid : Nat)
  | versions (vs : List Nat)
  | types (ts : List Nat)
  | tid (t : Nat)
  | commands (cs : List Nat)
  | repository (records : Nat)
  /-- sensor, unit, resolution in thousandths, thresholds in thousandths by kind -/
  | pdr (sensor unit res : Nat) (thresholds : List (Nat × Nat))
  | reading (value : Int)
  | unavailable
  | fruMeta (records : Nat)
  | fru (maker part stepping : List Byte) (serial made : List Byte) (macs : List (BitVec 48))
  | unsupported
  | notReady
  | invalid
  deriving DecidableEq, Repr

structure Island where
  on : Bool
  /-- tide time in ns -/
  tide : Nat
  sync : Sync
  /-- the selected time transmitter and the port it is received on -/
  gm : Option (Nat × Nat)
  /-- last estimated offset, ns -/
  offset : Int
  /-- Sync messages in a row with an offset of at most 1 µs -/
  goodSyncs : Nat
  stepped : Bool
  /-- last valid Announce, tide time -/
  announceAt : Nat
  /-- rate of tide in ppb relative to nominal, and the part of a nanosecond it has gathered, in 10^-9 ns -/
  rate : Int
  frac : Int
  tideCfg : Option TideCfg
  /-- ticks begun, up to this number: the current tick -/
  tick : Option Nat
  health : Health
  errlog : List ErrRec
  errNext : Nat
  /-- 0 power-on, 1 cold, 2 warm, 3 automatic -/
  lastReset : Nat
  fullPath : Bool
  fastReason : Nat
  /-- boot number of the full path that saved the training parameters (17 R437) -/
  trained : Option Nat
  /-- the ADDR straps (19 R472) -/
  addr : Nat
  eid : Nat
  /-- the answer to the request that the module holds (19 R481) -/
  asked : Option SbAnswer
  /-- the answer sent last -/
  answer : Option SbAnswer
  deriving DecidableEq, Repr

/-! ### Quay window registers (13) -/

inductive ModState where
  | reset | selfTest | notReady | ready | stopping | stopped
  deriving DecidableEq, Repr

inductive PState where
  | run | hold | anchor | waking
  deriving DecidableEq, Repr

/-- A quay write held in Anchor (13 R362). -/
inductive HeldWrite where
  | bollard (core : Nat) (value : BitVec 64)
  | mailbox (pair : Nat) (value : BitVec 64)
  | submitTail (queue : Nat) (value : BitVec 32)
  | intakeTail (ring : Nat) (value : BitVec 32)
  deriving DecidableEq, Repr

/-- QW_TOPOLOGY, by fields (13 R353). -/
structure Topology where
  cores : List Nat
  spares : List Nat
  stackBits : List (BitVec 4)
  present : List Bool
  qq : List Nat
  hub : List Nat
  pkgs : List Nat
  gen : BitVec 8
  deriving DecidableEq, Repr

structure Quay where
  st : ModState
  ps : PState
  throttle : Bool
  degraded : Bool
  fwAlive : Bool
  linkLow : Bool
  reason : BitVec 16
  fwBeat : BitVec 32
  /-- tide time of the last change of FW_BEAT -/
  fwBeatAt : Nat
  v400 : Nat
  v48 : Nat
  v12 : Nat
  pIn : Nat
  warn : Bool
  tq : List Nat
  thub : Nat
  tcool : Nat
  throt : Bool
  crit : Bool
  speed : Nat
  width : Nat
  flit : Bool
  retrains : Nat
  cause : BitVec 64
  causeEn : BitVec 64
  badacc : Nat
  bar2miss : Nat
  roDrop : Nat
  ptrErr : Nat
  topo : Topology
  held : List HeldWrite
  /-- queue pointer words on entry to Anchor, by offset (13 R362) -/
  ptrs : Map Nat
  deriving DecidableEq, Repr

/-! ### Host link (13 R339 to R348) -/

/-- A mapped aperture window. -/
structure Window where
  ctx : Nat
  base : Nat
  deriving DecidableEq, Repr

/-- An MSI-X vector (13 R347, R348). -/
structure Vec where
  /-- message address and data of its table entry -/
  addr : Nat
  data : Nat
  masked : Bool
  pend : Bool
  /-- kind and index of the sources whose message it holds -/
  srcs : List (Nat × Nat)
  holdoff : Nat
  sentAt : Option Nat
  deriving DecidableEq, Repr

/-- A source bound to a vector: 0 event ring, 1 mailbox pair, 2 intake ring, 3 submit queue. -/
structure Binding where
  vec : Nat
  kind : Nat
  index : Nat
  deriving DecidableEq, Repr

/-- What the host sets in configuration space (13 R339, R344): the options of PCI Express that the module supports. -/
structure PcieCfg where
  /-- Command: memory space and bus master enables -/
  memEn : Bool
  busMaster : Bool
  /-- base addresses of BAR0, BAR2 and BAR4 -/
  bars : List Nat
  /-- Device Control: relaxed ordering, encoded maximum payload and maximum read request; completion timeout value -/
  relaxed : Bool
  mps : Nat
  mrrs : Nat
  cto : Nat
  /-- power state D3hot -/
  d3 : Bool
  /-- MSI-X enable and function mask -/
  msixEn : Bool
  funcMask : Bool
  /-- ECRC generation and checking -/
  ecrcGen : Bool
  ecrcChk : Bool
  /-- AER: uncorrectable status, mask and severity, correctable status and mask -/
  aer : List Nat
  /-- Data Link Feature exchange -/
  dlf : Bool
  deriving DecidableEq, Repr

structure HostLink where
  up : Bool
  cfg : PcieCfg
  /-- log2 of the BAR2 size -/
  bar2 : Nat
  windows : Map Window
  vecs : Map Vec
  binds : List Binding
  /-- vectors of the messages sent, oldest first -/
  sent : List Nat
  /-- the last read completion: its bytes, and the EP bit of each 64-byte word where one is set (13 R342) -/
  rdata : List Byte
  rep : List Bool
  deriving DecidableEq, Repr

/-! ### Espor mailboxes (14) -/

inductive PairState where
  | idle | busy | done
  deriving DecidableEq, Repr

structure Pair where
  /-- request area, 256 bytes -/
  req : Memory
  /-- response area, 256 bytes -/
  resp : Memory
  st : PairState
  deriving DecidableEq, Repr

/-- A deferred command whose work goes on after DONE (14 R367). -/
structure Deferred where
  /-- its number: a pair may carry another command before this one is complete -/
  id : Nat
  pair : Nat
  seq : Nat
  cmd : Nat
  ctx : Option Nat
  /-- the plan, job, target or frame it concerns -/
  obj : Nat
  /-- pages it still waits for -/
  left : Nat
  moved : Nat
  skipped : Nat
  /-- pages still to be asked for -/
  todo : List Nat
  deriving DecidableEq, Repr

structure Espor where
  pairs : Map Pair
  /-- accepted pairs in doorbell order -/
  order : List Nat
  deferred : List Deferred
  nextId : Nat
  deriving DecidableEq, Repr

/-! ### Memory (06) -/

structure MemSys where
  /-- module memory: address = home × 2^44 + byte, home = 2 × quarter + tier -/
  ram : Memory
  /-- 64-byte words that carry a poison mark, in the slow tier 2 KiB granules, by first byte -/
  marks : List Nat
  /-- bytes of host memory the module wrote -/
  host : List Host.Cell
  /-- corrected codewords per bank and scrub period -/
  bankCorr : Map Nat
  scrubHours : Nat
  scrubThresh : Nat
  /-- codewords read by the patrol scrub in the current scrub period, and that period (06 R167) -/
  scrubbed : List Nat
  scrubPeriod : Nat
  /-- the word that the reads of a command under way find unreadable, if any (the model's own) -/
  badVa : Option Nat
  /-- how the hub's next requests end, loaded from the command that makes them (the model's own) -/
  ends : List ReadEnd
  /-- free-value counter (the model's own) -/
  free : Nat
  deriving DecidableEq, Repr

/-! ### Contexts (15 R386, 07 R187) -/

inductive CtxState where
  | created | enabled | runnable | resident | switching | stopped
  deriving DecidableEq, Repr

/-- A leaf page-table entry (07 R189). -/
structure Leaf where
  va : Nat
  size : Nat
  ro : Bool
  pf : Bool
  seq : Bool
  pdi : Nat
  deriving DecidableEq, Repr

/-- A page-table node below the root (07 R188, R190): level 2, 1 or 0, its address range as a number of such ranges, and the
pool offset at which it lies. -/
structure Node where
  level : Nat
  pre : Nat
  off : Nat
  deriving DecidableEq, Repr

/-- A page descriptor (07 R191). -/
structure PageDesc where
  home : Nat
  homeQ : Nat
  size : Nat
  moored : Bool
  nopf : Bool
  ret : Bool
  mig : Bool
  sealed : Bool
  refs : Nat
  vslots : Nat
  addr : Nat
  deriving DecidableEq, Repr

inductive SeqState where
  | free | opened | frozen
  deriving DecidableEq, Repr

/-- A sequence descriptor (07 R201). -/
structure SeqDesc where
  base : Nat
  st : SeqState
  psz : Nat
  log2 : Nat
  slotL2 : Nat
  newT : Nat
  newQ : Nat
  /-- index of the last mapped page; none when FREE -/
  tail : Option Nat
  len : Nat
  parent : Option Nat
  forkLen : Nat
  deriving DecidableEq, Repr

/-- A fault record (06 R178). -/
structure FaultRec where
  num : Nat
  code : Nat
  core : Nat
  thread : Nat
  store : Bool
  fetch : Bool
  opTag : Nat
  va : Nat
  homeQ : Nat
  homeT : Nat
  dev : Nat
  chan : Nat
  bank : Nat
  array : Nat
  row : Nat
  synd : Nat
  tide : Nat
  ctx : Nat
  deriving DecidableEq, Repr

/-- An event ring (13 R357, 14 R381). -/
structure Ring where
  ba : Nat
  nent : Nat
  tail : BitVec 32
  head : BitVec 32
  err : Bool
  lost : Nat
  /-- records dropped since the last 0x0011 -/
  dropped : Nat
  deriving DecidableEq, Repr

/-- Virtual time as an exact fraction (15 R389). -/
structure VTime where
  n : Nat
  d : Nat
  deriving DecidableEq, Repr

/-- A sequence as it was before its first change after a step record: its descriptor, its leaves and the descriptors of their
pages (18 R467). -/
structure SeqSnap where
  /-- the record of the changing core that the change follows -/
  epoch : Nat
  seq : Nat
  desc : SeqDesc
  leaves : List Leaf
  pds : Map PageDesc
  /-- SEAL_PAGE and FORK_SEQ changes of the sequence in the epoch -/
  changes : Nat
  /-- contents of its pages that were released since: page descriptor index, bytes from 0, marked units -/
  kept : Map (Memory × List Nat)
  deriving DecidableEq, Repr

/-- A hub update held for a context that is not resident (15 R395). -/
structure HeldUpdate where
  core : Nat
  bol : Nat
  set : Bool
  val : Word32
  /-- a swap increment -/
  swap : Bool
  deriving DecidableEq, Repr

/-- A core fault handled by firmware and waiting for its rollback (18 R466, R467). -/
structure Recov where
  core : Nat
  phys : Nat
  array : Nat
  tide : Nat
  standby : Option Nat
  deriving DecidableEq, Repr

structure Ctx where
  interactive : Bool
  part : Option Nat
  shares : Nat
  waitMs : Nat
  limFast : Nat
  limSlow : Nat
  cores : BitVec 256
  tableQ : Nat
  /-- frames of the table pool, in pool order, and the nodes below the root (07 R190) -/
  pool : List Nat
  nodes : List Node
  /-- frames of the page descriptors: frame `i` holds those of indices 4,096 `i` onward (07 R187, R191) -/
  descFrames : Map Nat
  /-- quarter, first frame and number of frames of the fault log and of each core's recovery and save areas (14 R372) -/
  areas : List (Nat × Nat × Nat)
  st : CtxState
  v : VTime
  residentAt : Nat
  /-- the quantum has been reached -/
  quantumUp : Bool
  lastSwitchIn : Nat
  leaves : List Leaf
  pds : Map PageDesc
  seqVa : Nat
  seqN : Nat
  seqs : Map SeqDesc
  faults : List FaultRec
  faultNext : Nat
  faultLost : Nat
  /-- faults detected whose stop by firmware is still to come -/
  detected : List FaultRec
  ring : Option Ring
  held : List HeldUpdate
  /-- switch-in restores a rollback in place of the saved state -/
  rollbackDue : Bool
  snaps : List SeqSnap
  /-- the state it takes when its switch-out completes -/
  back : CtxState
  /-- a scheduling decision chose it: it switches in once its cores are clear -/
  chosen : Bool
  /-- slipway bytes per quarter of the switch-outs made for it -/
  displaced : List Nat
  /-- core faults whose rollback is still to come -/
  recov : List Recov
  /-- the fault that stopped it -/
  stopFault : Option FaultRec
  /-- its accounting counters at the end of the last interval (15 R398) -/
  metered : List Nat
  deriving DecidableEq, Repr

/-! ### Plans and submit queues (14 R372 to R375) -/

/-- A landing entry (11 R284). -/
structure Landing where
  ring : Nat
  tags : Nat
  rowBytes : Nat
  batch : Nat
  nb : Nat
  bol : Nat
  thread : Nat
  valid : Bool
  cr : Nat
  flushDl : Nat
  deriving DecidableEq, Repr

structure CoreEntry where
  core : Nat
  entry : List Nat
  loop : List Nat
  lands : List Landing
  deriving DecidableEq, Repr

/-- A declaration entry (15 R405). -/
structure Decl where
  core : Nat
  thread : Nat
  kind : Nat
  index : Nat
  value : Nat
  deriving DecidableEq, Repr

/-- The fixed-timing declarations of a plan. -/
structure Fixed where
  tickNs : Nat
  wcetNs : Nat
  segNs : Nat
  frtMhz : Nat
  decls : List Decl
  deriving DecidableEq, Repr

structure Run where
  queue : Nat
  tag : Nat
  evt : Bool
  /-- number of this run within the entry -/
  no : Nat
  /-- runs of the entry still to make after this one; none = until PLAN_DISABLE -/
  left : Option Nat
  /-- its threads have started -/
  started : Bool
  deriving DecidableEq, Repr

structure Plan where
  ctx : Nat
  cores : List CoreEntry
  tenTbl : Nat
  nten : Nat
  chainTbl : Nat
  nchain : Nat
  fixed : Option Fixed
  run : Option Run
  /-- disables with MODE 0 pending: pair and sequence number -/
  disabling : List (Nat × Nat)
  deriving DecidableEq, Repr

structure SubQ where
  ctx : Nat
  ba : Nat
  nent : Nat
  head : BitVec 32
  tail : BitVec 32
  err : Bool
  /-- plan of the entry being run -/
  cur : Option Nat
  /-- TAIL values with the order in which they were written -/
  posts : List (Nat × Nat)
  /-- the plan of its next entry, found busy -/
  waits : Option Nat
  deriving DecidableEq, Repr

/-! ### Cores (02, 03, 05, 09 to 11) -/

/-- The header of an op descriptor (02 R44). -/
structure OpHdr where
  opcode : Nat
  dver : Nat
  step : Bool
  ovl : Bool
  ieee : Bool
  spx : Bool
  tru : Bool
  evt : Bool
  flow : Nat
  tag : Nat
  preBol : Nat
  preEn : Bool
  preTake : Bool
  preVal : Word32
  postCore : Nat
  postBol : Nat
  postEn : Bool
  postInc : Nat
  pro : Nat
  epi : Nat
  loops : Nat × Nat × Nat
  deriving DecidableEq, Repr

inductive ThreadRun where
  | idle | running | ended | stopped
  deriving DecidableEq, Repr

/-- A run-ahead fetch that ended poisoned, charged to the op when the thread reaches its descriptor (02 R35). -/
structure FetchBad where
  addr : Nat
  code : Nat
  va : Nat
  synd : Nat
  deriving DecidableEq, Repr

structure Thread where
  st : ThreadRun
  entry : Nat
  loop : Nat
  next : Option Nat
  /-- descriptors fetched ahead -/
  staged : List Nat
  /-- fetches that ended poisoned -/
  bad : List FetchBad
  /-- number of the op it started last -/
  prev : Option Nat
  /-- when its next op came to wait: at the start of the op before it, and again when that op completed -/
  waitSince : Nat
  /-- when its pre-wait was last found satisfied, and the cycle in which a value of the bollard satisfied it -/
  metAt : Nat
  metCyc : Option Nat
  lastTick : Option Nat
  mshHead : Nat
  mshDone : Nat
  mshDl : Bool
  /-- events and HOST signals posted since the last step record -/
  posted : Nat
  /-- events and HOST signals still to be suppressed after a rollback -/
  suppress : Nat
  deriving DecidableEq, Repr

/-- What an op in progress still waits for besides its requests. -/
inductive Cond where
  | done
  | bollard (bol mode : Nat) (val : Word32) (since : Nat)
  /-- target instant, and the thread's last target tick before it -/
  | tide (target : Nat) (prev : Option Nat)
  /-- PREFETCH with WAITM 1: page descriptor indices still to switch home, those that still wait for queue space, and
  the destination home -/
  | pages (left waiting : List Nat) (home : Nat)
  deriving DecidableEq, Repr

/-- One row a FERRY_SEND still has to send; of a RETURN, `land` is the voyage. -/
structure SendRow where
  dst : Nat
  land : Nat
  token : Nat
  choice : Nat
  expert : Nat
  bytes : List Byte
  deriving DecidableEq, Repr

/-- A page that an append opens: its frames are taken as the op starts, its mapping is made as the op completes (07 R206). -/
structure Opened where
  seq : Nat
  va : Nat
  size : Nat
  homeQ : Nat
  tier : Nat
  frame : Nat
  deriving DecidableEq, Repr

/-- A change of sequences that takes effect when its op completes (07 R204). -/
inductive SeqOp where
  /-- `n` tokens to each of the sequences -/
  | append (seq layers n : Nat)
  | seal (seq n : Nat)
  | release (seq n : Nat)
  | fork (par n : Nat) (brs : List Nat)
  deriving DecidableEq, Repr

/-- A fault an op takes once its loads are consumed. -/
structure OpFault where
  code : Nat
  va : Nat
  row : Nat
  synd : Nat
  deriving DecidableEq, Repr

/-- The part of an op that takes effect when it completes. -/
structure OpEffect where
  /-- hold writes: core, offset, bytes -/
  stores : List (Nat × Nat × List Byte)
  /-- accumulator entries: key and FP32 word -/
  accs : List (Nat × Word32)
  /-- weight registers it leaves: key and FP32 word -/
  weights : List (Nat × Word32)
  /-- reads of other cores' holds: core and bytes (02 R32) -/
  remote : List (Nat × Nat)
  /-- core counter increments: word of SNAP_CORE and amount -/
  counts : List (Nat × Nat)
  seq : Option SeqOp
  /-- pages an append opens -/
  opened : List Opened
  /-- sequences it names -/
  seqs : List Nat
  closeVoyage : Option Nat
  /-- landing and buffer slot to release -/
  release : Option (Nat × Nat)
  /-- sparsity predictor entry it leaves -/
  predict : Option (Nat × List Bool)
  /-- return signals of marshalled rows: core, bollard (03 R91) -/
  rets : List (Nat × Nat)
  /-- a SIGNAL's own signal: target core, bollard, SET, operand -/
  signal : Option (Nat × Nat × Bool × Word32)
  /-- VALUE of a SIGNAL in HOST mode -/
  hostVal : Option Word32
  fault : Option OpFault
  deriving DecidableEq, Repr

/-- A memory request (02 R40): a slot, or still to be created. -/
structure Req where
  id : Nat
  thread : Nat
  /-- number of the op that made it -/
  op : Nat
  tag : Nat
  va : Nat
  len : Nat
  store : Bool
  data : List Byte
  shared : Bool
  /-- issue time on tide; none = in the reorder window or waiting for it -/
  issued : Option Nat
  /-- younger entries that passed it -/
  passed : Nat
  /-- merged into the load with this id -/
  into : Option Nat
  /-- a load whose outcome the feeder discards: its block is flagged zero (03 R94) -/
  quiet : Bool
  /-- a store of SEAL_PAGE APPEND, which may write sequence pages (07 R203) -/
  append : Bool
  /-- the RAM key of a row in a page that the append opens: it needs no translation -/
  place : Option Nat
  deriving DecidableEq, Repr

/-- What an op finds as it starts and keeps: the active banks (05 R155, 11 R282) and the sequences it names (08 R235, R236). -/
structure AtStart where
  fset : List Byte
  route : List Byte
  seqs : Map SeqDesc
  deriving DecidableEq, Repr

/-- An op in progress. -/
structure OpRec where
  no : Nat
  thread : Nat
  addr : Nat
  hdr : OpHdr
  claims : BitVec 10
  start : Nat
  /-- cycle count before which it does not complete -/
  due : Nat
  cond : Cond
  eff : OpEffect
  /-- requests waiting for a slot, in order -/
  todo : List Req
  send : List SendRow
  /-- landings holding rows sent since the last seal or stall notice -/
  sealTo : List (Nat × Nat)
  /-- landings it has sent rows to -/
  sentTo : List (Nat × Nat)
  voy : Nat
  creditWait : Nat
  acks : Nat
  /-- loads from device-window pages that have answered: address and bytes (07 R194) -/
  seen : List (Nat × List Byte)
  /-- what the op found as it started and keeps to its end -/
  found : AtStart
  deriving DecidableEq, Repr

/-- A signal on its way to a bollard (02 R61, R69). Source 256 is the hub; 257 is the hub with a swap increment (05 R155). `no`
orders it among the packets of class C0 (11 R300). -/
structure Signal where
  no : Nat
  src : Nat
  ctx : Nat
  e : Nat
  bol : Nat
  set : Bool
  val : Word32
  deriving DecidableEq, Repr

/-- A TLB entry (07 R195). -/
structure TlbEntry where
  ctx : Nat
  leaf : Leaf
  pd : PageDesc
  locked : Bool
  deriving DecidableEq, Repr

/-- A loaded bank pair: function set or route table (05 R155, 11 R282). -/
structure Banks where
  active : List Byte
  shadow : Option (List Byte)
  sync : Bool
  bol : Nat
  /-- the load that wrote the shadow bank -/
  load : Nat
  /-- SYNC: the increment has been applied to the bollard -/
  bumped : Bool
  /-- SYNC: a wait on the bollard was satisfied with the increment -/
  due : Bool
  deriving DecidableEq, Repr

structure Voyage where
  isOpen : Bool
  ret : Nat
  man : Nat
  cst : Nat
  outstanding : Nat
  since : Nat
  /-- thread and tag of the SEND that opened it -/
  thread : Nat
  tag : Nat
  deriving DecidableEq, Repr

/-- A landing at work (11 R285, R292). -/
structure LandState where
  cfg : Landing
  fill : Nat
  slot : Nat
  firstAt : Nat
  flushed : Bool
  /-- senders with a row in the fill buffer: core, voyage, sealed or stalled since its last row -/
  senders : List (Nat × Nat × Bool)
  /-- emitted buffers not yet released, oldest first -/
  emitted : List Nat
  deriving DecidableEq, Repr

/-- A step record (02 R49, 18 R461 to R463). -/
structure StepRec where
  no : Nat
  nexts : List (Option Nat)
  ticks : List (Option Nat)
  bols : Map Word32
  acc : Map Word32
  /-- operands included in the record that carry e at or above its number -/
  aIn : Map Word32
  /-- operands applied after the record that carry e below its number -/
  aLate : Map Word32
  /-- hub updates to bollards 60–63 since the record -/
  journal : List Signal
  /-- events and HOST signals each thread posted since the record -/
  posted : List Nat
  /-- a SET with e at or above the number was applied before the record -/
  setBefore : Bool
  deriving DecidableEq, Repr

structure Core where
  /-- the context whose state is on the core -/
  ctx : Option Nat
  hold : Memory
  /-- 64-byte hold words with a double-bit error are a core fault at once; the written map of 15 R393 -/
  written : BitVec 64
  /-- accumulator entries: key = (array × 32 + column) × 64 + entry -/
  acc : Map Word32
  /-- drain latches of the accumulator entries while an op's tiles drain (03 R73), by the same key -/
  latch : Map Word32
  /-- weight and scale registers (03 R74): key = ((array × 2 + side) × 33 + row) × 32 + column, side 0 active and 1 shadow,
  row 32 the column's scale -/
  weights : Map Word32
  bols : Map Word32
  /-- cycle count at which each bollard last rose from 0 -/
  rise : Map Nat
  /-- cycle count of each bollard's last take (02 R60) -/
  took : Map Nat
  inbox : List Signal
  threads : List Thread
  ops : List OpRec
  nextOp : Nat
  lastThread : Nat
  reqs : List Req
  nextReq : Nat
  /-- the first cycle in which the reorder window may issue a request again (02 R41) -/
  issueNext : Nat
  /-- the request the reorder window issued last: home and device, channel, bank, row -/
  lastBank : Option (Nat × Nat × Nat × Nat)
  tlb : List TlbEntry
  fset : Banks
  route : Banks
  /-- sparsity predictor: descriptor address and block bits, most recent first -/
  predictor : List (Nat × List Bool)
  credits : Map Nat
  voyages : Map Voyage
  lands : Map LandState
  steps : List StepRec
  recs : Nat
  /-- applied signals that carry e at or above the number of the next record -/
  ahead : List Signal
  /-- stopped by a residue mismatch or a hold error: array, tide time of detection, op tag, thread -/
  broken : Option (Nat × Nat × Nat × Nat)
  deriving DecidableEq, Repr

/-- What the slipway saves of a core (15 R394). -/
structure CoreSave where
  hold : Memory
  written : BitVec 64
  bols : Map Word32
  threads : List Thread
  acc : Map Word32
  credits : Map Nat
  voyages : Map Voyage
  lands : Map LandState
  fset : Banks
  route : Banks
  steps : List StepRec
  recs : Nat
  ahead : List Signal
  deriving DecidableEq, Repr

/-- A function-set or route load not yet swapped on every named core. -/
structure Load where
  id : Nat
  route : Bool
  pair : Nat
  seq : Nat
  ctx : Nat
  left : BitVec 256
  deriving DecidableEq, Repr

/-- Physical cores of a quarter (01 R13). -/
structure Phys where
  good : BitVec 68
  /-- physical core filling each logical position, in order; none = out of service -/
  fills : List (Option Nat)
  deriving DecidableEq, Repr

/-! ### Fabric (11 R299 to R303) -/

/-- A ferry in flight. KIND 0 rows, 1 seal, 2 stall, 3 return. -/
structure Ferry where
  src : Nat
  dst : Nat
  land : Nat
  voy : Nat
  kind : Nat
  ctx : Nat
  rowBytes : Nat
  rows : List SendRow
  deriving DecidableEq, Repr

/-- A credit packet in flight: owner of the credits, landing core and index, count. -/
structure Credit where
  /-- its order among the packets of class C0 (11 R300) -/
  no : Nat
  owner : Nat
  core : Nat
  land : Nat
  n : Nat
  deriving DecidableEq, Repr

/-- A link: 0–5 quarter–quarter, 8 + 2q + h half-links. -/
structure Link where
  spares : Nat
  retired : Bool
  deriving DecidableEq, Repr

/-! ### Migration (06 R170 to R172) -/

structure MigReq where
  ctx : Nat
  pdi : Nat
  home : Nat
  /-- number of the deferred command it belongs to -/
  deferred : Option Nat
  deriving DecidableEq, Repr

structure Mig where
  ctx : Nat
  pdi : Nat
  fromHome : Nat
  fromFrame : Nat
  toHome : Nat
  toFrame : Nat
  granules : Nat
  done : Nat
  lates : Nat
  /-- when the engine locked the granule it is moving (06 R170, R171) -/
  since : Nat
  /-- moving granules back after a third late end -/
  back : Bool
  deferred : Option Nat
  deriving DecidableEq, Repr

/-- A migration engine: its page slots and its queue. -/
structure MigEngine where
  slots : Map Mig
  queue : List MigReq
  deriving DecidableEq, Repr

/-! ### Partitions (15 R399) -/

structure Part where
  fixed : Bool
  clusters : BitVec 32
  standby : List (Option Nat)
  /-- per quarter, the standby position waiting for a refill, and the position that took it -/
  refill : List (Option (Nat × Nat))
  suspended : Bool
  deriving DecidableEq, Repr

/-! ### Ingest (12 R307 to R320) -/

structure PortCfg where
  v4 : Bool
  v6 : Bool
  tagged : Bool
  vlan : Nat
  pfx4 : Nat
  pfx6 : Nat
  ip4 : Nat
  ip6 : Nat
  deriving DecidableEq, Repr

structure Port where
  up : Bool
  cfg : Option PortCfg
  /-- last control message sent -/
  tx : Option CtlMsg
  deriving DecidableEq, Repr

/-- A flow-table entry (12 R309) with its sender lock (12 R313). -/
structure Flow where
  v6 : Bool
  ports : BitVec 4
  srcm : Bool
  ssrcm : Bool
  vlanm : Bool
  leg : Nat
  pt : Nat
  vlan : Nat
  dstUdp : Nat
  dstIp : Nat
  srcIp : Nat
  srcUdp : Nat
  ssrc : Nat
  ctx : Nat
  stream : Nat
  /-- locked source address, source port and SSRC -/
  lock : Option (Nat × Nat × Nat)
  lockAt : Nat
  pinned : Bool
  deriving DecidableEq, Repr

structure Quar where
  entry : Nat
  port : Nat
  v6 : Bool
  srcIp : Nat
  srcUdp : Nat
  ssrc : Nat
  dropped : Nat
  deriving DecidableEq, Repr

/-- TZCFG (14 R378). -/
structure TzCfg where
  cropX : Nat
  cropY : Nat
  cropW : Nat
  cropH : Nat
  ow : Nat
  oh : Nat
  tf : Nat
  fs : Nat
  csc : Nat
  range : Nat
  resize : Nat
  fmt : Nat
  mean : List Word32
  scale : List Word32
  deriving DecidableEq, Repr

/-- A frame a live stream is gathering. -/
structure FrameAsm where
  /-- its FRAME_SEQ -/
  no : Nat
  ts : Nat
  firstAt : Nat
  tick : Option Nat
  /-- pixels received per row -/
  got : Map Nat
  /-- runs of the rows that are not whole yet: their samples are written when the row is (12 R318) -/
  held : List Seg
  /-- a hub store of its samples ended late (12 R319) -/
  poison : Bool
  /-- the slot was not free: the frame is dropped whole -/
  dropped : Bool
  deriving DecidableEq, Repr

structure Stream where
  ctx : Nat
  w : Nat
  h : Nat
  samp : Nat
  depth : Nat
  colr : Nat
  legs : Nat
  nslot : Nat
  bol : Nat
  entries : List Nat
  ringVa : Nat
  relVa : Nat
  cores : List Nat
  frameDl : Nat
  lockIdle : Nat
  tzVa : Nat
  tz : Option TzCfg
  frameSeq : Nat
  /-- frames being gathered, oldest first -/
  frames : List FrameAsm
  /-- extended sequence numbers received, newest first -/
  seen : List Nat
  /-- RTP timestamps of closed frames, newest first -/
  closed : List Nat
  deriving DecidableEq, Repr

/-! ### Upload jobs (12 R321 to R337) -/

/-- ENCCFG (14 R378). -/
structure EncCfg where
  codec : Nat
  rc : Nat
  qp : Nat
  gain : Nat
  gop : Nat
  rate : Nat
  peak : Nat
  guideDl : Nat
  guideVa : Nat
  guideNs : Nat
  guideNf : Nat
  deriving DecidableEq, Repr

inductive SampleState where
  | taken | decoding | decoded | written
  deriving DecidableEq, Repr

structure Sample where
  inVa : Nat
  inLen : Nat
  codec : Nat
  flush : Bool
  noenc : Bool
  frames : Nat
  rawW : Nat
  rawH : Nat
  rawFmt : Nat
  outVa : Nat
  outMax : Nat
  tag : Nat
  st : SampleState
  reason : Nat
  void : Bool
  fill : Bool
  trunc : Bool
  poison : Bool
  srcW : Nat
  srcH : Nat
  pics : List Picture
  /-- next frame to encode, bytes written, encoder stopped -/
  encNext : Nat
  encLen : Nat
  encStop : Bool
  encOvf : Bool
  guideMiss : Bool
  /-- when the frame to encode became ready; deadline passed for it -/
  readyAt : Nat
  guideUp : Bool
  /-- quantiser offsets of the encoded frames in order, block by block; none for a frame without guidance -/
  qoffs : List (List Int)
  deriving DecidableEq, Repr

structure Job where
  ctx : Nat
  ba : Nat
  nent : Nat
  head : BitVec 32
  tail : BitVec 32
  err : Bool
  ndec : Nat
  ntz : Nat
  nenc : Nat
  division : Bool
  maxW : Nat
  maxH : Nat
  maxF : Nat
  budget : Nat
  nqb : Nat
  lowWater : Nat
  batch : Nat
  qbol : Nat
  divHi : Nat
  divTarget : Nat
  divLo : Nat
  qVa : Nat
  batchDl : Nat
  cons : List Nat
  tz : TzCfg
  enc : Option EncCfg
  nextSeq : Nat
  samples : Map Sample
  /-- batches whose header is written -/
  batches : Nat
  released : Int
  /-- tide time at which each open batch got its first sample -/
  firstAt : Map Nat
  /-- the sequence number taken last -/
  lastSeq : Nat
  alarmArmed : Bool
  /-- last ten occupancy samples, ns of engine time per 10 ms -/
  occ : List Nat
  lastP : Nat
  lowSince : Option Nat
  disabling : List (Nat × Nat)
  deriving DecidableEq, Repr

/-! ### Power (16 R418 to R432) -/

/-- A capstan request: 0 quarter, 1 hub group, 2 clock step. -/
structure CapReq where
  kind : Nat
  q : Nat
  at_ : Nat
  warned : Bool
  deriving DecidableEq, Repr

structure Power where
  clkLimit : Nat
  pwrLimit : Nat
  /-- power-cap clock of each cluster -/
  capClk : List Nat
  thermal : List Nat
  clocks : List Nat
  wakeBound : Nat
  queue : List CapReq
  lastQuarterUp : Option Nat
  /-- requests admitted in the last 10 ms at most: time, kind, current in mA -/
  recent : List (Nat × Nat × Nat)
  stepQ : Nat
  quartersUp : BitVec 4
  hubUp : Bool
  /-- brown-warning throttle in effect; 48 V throttle in effect -/
  brown : Bool
  bus48 : Bool
  bus48Warn : Bool
  /-- when the recovery timers started -/
  riseAt : Option Nat
  rise48At : Option Nat
  restoring : Bool
  vmin : Nat
  dipUs : Nat
  dips : Nat
  overWarn : Bool
  overSince : Option Nat
  noted : Bool
  /-- per quarter: thermal throttle in effect, and rising after recovery -/
  hot : BitVec 4
  inlet : Bool
  lastThermal : List Nat
  /-- converters or phases lost, group 0 the 48 V stage, 1 + q quarter q -/
  lost : List Nat
  convCap : Option Nat
  /-- fixed-timing partitions that a thermal throttle took below F_RT -/
  hotParts : List Nat
  /-- from when the input has stayed between 360 V and 420 V, as far as it was read (16 R430) -/
  steadyFrom : Nat
  /-- the power state to enter, with the pair and sequence number of its command -/
  target : Option (PState × Nat × Nat)
  deriving DecidableEq, Repr

/-! ### Counters and snapshots (18 R453 to R458) -/

/-- The snapshot machinery. -/
structure Snap where
  armTick : Option Nat
  period : Nat
  epoch : Nat
  publishing : Bool
  /-- shadows of the counters, and their header fields -/
  shadow : Map Nat
  shadowTick : Nat
  shadowTide : Nat
  /-- published counters -/
  area : Map Nat
  areaTick : Nat
  areaTide : Nat
  areaPeriod : Nat
  areaArmed : Bool
  epochB : Nat
  epochE : Nat
  skipped : Nat
  areaSkipped : Nat
  deriving DecidableEq, Repr

/-- No power, between reset release and the end of bring-up, or brought up. -/
inductive Boot where
  | off | pending | done
  deriving DecidableEq, Repr

/-- What steps 1 and 2 of a bring-up settle: the image, the code of the trial that failed, and the path (17 R437, R444). -/
structure Picked where
  slotB : Bool
  fallback : Bool
  why : Nat
  /-- the status of the first fast-path condition that fails, or 0 -/
  status : Nat
  full : Bool
  deriving DecidableEq, Repr

/-- A bring-up under way: the kind of its reset, what its tests find, whether its trial image hung, and from STATE 1 on what the
first steps settled. -/
structure Coming where
  kind : Nat
  found : Found
  hung : Bool
  picked : Option Picked
  deriving DecidableEq, Repr

/-- All the state the spec gives the module. -/
structure Hw where
  boot : Boot
  /-- the bring-up under way (17 R436) -/
  coming : Option Coming
  fuses : Fuses
  flash : Flash
  island : Island
  quay : Quay
  host : HostLink
  espor : Espor
  mem : MemSys
  ctxs : Map Ctx
  plans : Map Plan
  queues : Map SubQ
  /-- order of TAIL writes -/
  postNo : Nat
  cores : Map Core
  saves : Map CoreSave
  loads : List Load
  nextLoad : Nat
  phys : List Phys
  /-- logical positions taken out of service by a fault -/
  outOfService : BitVec 256
  /-- cluster cycle counts in thousandths of a cycle -/
  cycles : List Nat
  quarterTlb : List (Nat × TlbEntry)
  /-- requests that ended at the bound, their responses still to come: core, request, index in SNAP_CHAN -/
  late : List (Nat × Nat × Option Nat)
  /-- the hub's cache of host page list entries: entry address and entry (07 R193) -/
  hostTlb : List (Nat × Nat)
  ferries : List Ferry
  creditsInFlight : List Credit
  links : Map Link
  engines : List MigEngine
  parts : Map Part
  /-- an occasion for a scheduling decision has come, and no decision since (15 R391) -/
  occasion : Bool
  ports : List Port
  /-- frames that took effect ahead of their commands, in the order of their ports (12 R308) -/
  early : List (Nat × EthFrame)
  flows : Map Flow
  quars : Map Quar
  streams : Map Stream
  jobs : Map Job
  /-- the context whose ring was created with MODULE = 1 -/
  moduleRing : Option Nat
  power : Power
  counters : Map Nat
  snap : Snap
  idle : List Nat
  unowned : Nat
  fwVer : BitVec 32
  fwBuild : BitVec 32
  /-- what the last bring-up found -/
  found : Option Found
  deriving DecidableEq, Repr

/-- The state of the block: the module, and the queue of the commands that wait, first in, first out. -/
structure State where
  pending : List Instr
  m : Hw
  deriving DecidableEq, Repr

/-! ### Reset: t0 of a power-on reset (17 R435, R436) -/

/-- The record written at manufacture: every unit of 01 R11 in service (log 13). -/
def TopoRec.manufacture : TopoRec :=
  { tver := 1#16, part := 0x948#16, cfgGen := 1#32
    quarters := List.replicate 4 ⟨64, true, 0xF#4, 0xFFFF#16, 3#2⟩
    qqlink := 0x3F#8, chanRet := List.replicate 4 0#128, crc := 0x4FA0969FD74BB9AC#64 }

def Flash.manufacture : Flash :=
  { slotA := .factory 1#32 1#32, slotB := .empty, activeB := false, trial := none, booted := false, topo := some TopoRec.manufacture,
    pending := [], retired := [], boots := 0 }

/-- A PT948-A (log 13). -/
def Fuses.pt948 : Fuses :=
  { part := 0x948#12, stepL := 0, stepD := 0, keys := List.replicate 4 0#384, revoked := 0#4, minSvn := 0
    serial := List.replicate 8 0#8, made := List.replicate 4 0#8, macs := List.replicate 4 0#48 }

def Health.none : Health :=
  { hver := 1#16, valid := false, dirty := false, warms := 0, cfgGen := 0#32, fwBuild := 0#32, slotB := false
    fallback := false, bootReason := 0#16, good := List.replicate 4 0#68, crc := 0#64 }

def Island.reset : Island :=
  { on := true, tide := 0, sync := .free, gm := none, offset := 0, goodSyncs := 0, stepped := false
    announceAt := 0, rate := 0, frac := 0, tideCfg := none, tick := none, health := Health.none, errlog := [], errNext := 0
    lastReset := 0, fullPath := false, fastReason := 0, trained := none, addr := 7, eid := 0, asked := none, answer := none }

def Topology.zero : Topology :=
  { cores := [0, 0, 0, 0], spares := [0, 0, 0, 0], stackBits := List.replicate 4 0#4, present := List.replicate 4 false
    qq := List.replicate 6 0, hub := List.replicate 8 0, pkgs := [0, 0, 0, 0], gen := 0#8 }

def Quay.reset : Quay :=
  { st := .reset, ps := .run, throttle := false, degraded := false, fwAlive := false, linkLow := false
    reason := 0#16, fwBeat := 0#32, fwBeatAt := 0, v400 := 40000, v48 := 48000, v12 := 120, pIn := 0, warn := false
    tq := [90, 90, 90, 90], thub := 90, tcool := 90, throt := false, crit := false, speed := 0, width := 0
    flit := false, retrains := 0, cause := 0#64, causeEn := 0x7F#64, badacc := 0, bar2miss := 0, roDrop := 0
    ptrErr := 0, topo := Topology.zero, held := [], ptrs := [] }

/-- Values after a reset that PCI Express gives (PRESUMED, log 56). -/
def PcieCfg.reset : PcieCfg :=
  { memEn := false, busMaster := false, bars := [0, 0, 0], relaxed := true, mps := 0, mrrs := 2, cto := 0, d3 := false
    msixEn := false, funcMask := false, ecrcGen := false, ecrcChk := false, aer := [0, 0, 0x00462030, 0, 0x2000], dlf := true }

def HostLink.reset : HostLink :=
  { up := false, cfg := PcieCfg.reset, bar2 := 34, windows := [], vecs := [], binds := [], sent := [], rdata := [], rep := [] }

def Power.reset : Power :=
  { clkLimit := 1600, pwrLimit := 4800, capClk := List.replicate 32 1600, thermal := List.replicate 4 1600
    clocks := List.replicate 32 400, wakeBound := 20000, queue := [], lastQuarterUp := none, recent := []
    stepQ := 0, quartersUp := 0#4, hubUp := false, brown := false, bus48 := false, bus48Warn := false, riseAt := none
    rise48At := none, restoring := false, vmin := 40000, dipUs := 0, dips := 0, overWarn := false
    overSince := none, noted := false, hot := 0#4, inlet := false, lastThermal := List.replicate 4 0, lost := List.replicate 5 0, convCap := none, hotParts := []
    steadyFrom := 0, target := none }

def Snap.reset : Snap :=
  { armTick := none, period := 0, epoch := 0, publishing := false, shadow := [], shadowTick := 0, shadowTide := 0
    area := [], areaTick := 0, areaTide := 0, areaPeriod := 0, areaArmed := false, epochB := 0, epochE := 0
    skipped := 0, areaSkipped := 0 }

def MemSys.reset : MemSys :=
  { ram := [], marks := [], host := [], bankCorr := [], scrubHours := 24, scrubThresh := 64, scrubbed := [], scrubPeriod := 0, badVa := none, ends := [], free := 0 }

/-- The module right after reset release of a power-on reset: nothing has trained, no firmware runs. -/
def Hw.reset : Hw :=
  { boot := .pending, coming := none, fuses := Fuses.pt948, flash := Flash.manufacture, island := Island.reset
    quay := Quay.reset, host := HostLink.reset, espor := ⟨[], [], [], 0⟩, mem := MemSys.reset, ctxs := [], plans := []
    queues := [], postNo := 0, cores := [], saves := [], loads := [], nextLoad := 0
    phys := List.replicate 4 ⟨0#68, []⟩, outOfService := 0#256, cycles := List.replicate 32 0, quarterTlb := [], late := []
    hostTlb := [], ferries := [], creditsInFlight := [], links := [], engines := List.replicate 4 ⟨[], []⟩
    parts := [], occasion := false, ports := List.replicate 4 ⟨false, none, none⟩, early := [], flows := [], quars := [], streams := [], jobs := []
    moduleRing := none, power := Power.reset, counters := [], snap := Snap.reset, idle := [0, 0, 0, 0], unowned := 0
    fwVer := 0#32, fwBuild := 0#32, found := none }

/-- Reset: the module at t0, and no command waiting. -/
def State.reset : State := { pending := [], m := Hw.reset }

end Sys2Proof.Machine
end

