-- ==== Sys2Proof/Machine/Bits.lean ====
section
/-! DEFINITION. Bit fields, byte order, finite maps, memories and the CRC: the plain helpers every rule is written with. -/

namespace Sys2Proof.Machine

/-! ### Finite maps -/

def mget {α : Type} : Map α → Nat → Option α
  | [], _ => none
  | (j, v) :: t, k => if j = k then some v else mget t k

def mset {α : Type} : Map α → Nat → α → Map α
  | [], k, v => [(k, v)]
  | (j, w) :: t, k, v =>
    if j = k then (k, v) :: t else if k < j then (k, v) :: (j, w) :: t else (j, w) :: mset t k v

def mdel {α : Type} : Map α → Nat → Map α
  | [], _ => []
  | (j, w) :: t, k => if j = k then t else (j, w) :: mdel t k

def mgetD {α : Type} (m : Map α) (k : Nat) (d : α) : α := (mget m k).getD d

def mhas {α : Type} (m : Map α) (k : Nat) : Bool := (mget m k).isSome

/-- The least number not below `h`, among `h, h+1, …` up to `n` tries, that is no key. -/
def freshFrom {α : Type} (m : Map α) : Nat → Nat → Nat
  | h, 0 => h
  | h, n + 1 => if mhas m h then freshFrom m (h + 1) n else h

/-- `hint` when it is below `lim` and no key, else the least number below `lim` that is no key, else none. -/
def chooseKey {α : Type} (m : Map α) (hint lim : Nat) : Option Nat :=
  if hint < lim && !mhas m hint then some hint
  else
    let k := freshFrom m 0 (m.length + 1)
    if k < lim then some k else none

def lget {α : Type} (l : List α) (i : Nat) (d : α) : α := l.getD i d

def lset {α : Type} (l : List α) (i : Nat) (v : α) : List α := l.set i v

/-! ### Numbers and bytes (00 R7: little-endian) -/

def leNat : List Byte → Nat
  | [] => 0
  | b :: t => b.toNat + 256 * leNat t

/-- The `n` low bytes of `v`, lowest first. -/
def leBytes : Nat → Nat → List Byte
  | 0, _ => []
  | n + 1, v => BitVec.ofNat 8 v :: leBytes n (v / 256)

/-- Bits [hi:lo] of `v`. -/
def bits (v hi lo : Nat) : Nat := (v >>> lo) % 2 ^ (hi + 1 - lo)

/-- Bit `i` of `v`. -/
def bitb (v i : Nat) : Bool := v.testBit i

def b2n (b : Bool) : Nat := if b then 1 else 0

/-- The signed value of the low `w` bits of `v`. -/
def signed (w v : Nat) : Int :=
  let x := v % 2 ^ w
  if x < 2 ^ (w - 1) then (x : Int) else (x : Int) - (2 ^ w : Nat)

/-- The low `w` bits of an integer, as a number. -/
def wrapInt (w : Nat) (i : Int) : Nat := (i % ((2 ^ w : Nat) : Int)).toNat

def ceilDiv (a b : Nat) : Nat := (a + b - 1) / b

/-- A field packed at bit `pos`. -/
def fld (pos v : Nat) : Nat := v <<< pos

/-- `v` as the tag field of 16 bits in which 0xFFFF means none. -/
def opt16 (v : Nat) : Option Nat := if v = 0xFFFF then none else some v

def zeros (n : Nat) : List Byte := List.replicate n 0

/-- `l` cut or zero-padded to `n` bytes. -/
def fit (n : Nat) (l : List Byte) : List Byte := l.take n ++ zeros (n - l.length)

/-! ### Memories -/

def rd : Memory → Nat → Byte
  | [], _ => 0
  | (j, b) :: t, a => if j = a then b else rd t a

/-- Writing 0 removes the entry, so the form stays canonical. -/
def wr : Memory → Nat → Byte → Memory
  | [], a, b => if b = 0 then [] else [(a, b)]
  | (j, c) :: t, a, b =>
    if j = a then (if b = 0 then t else (a, b) :: t)
    else if a < j then (if b = 0 then (j, c) :: t else (a, b) :: (j, c) :: t)
    else (j, c) :: wr t a b

def rdN (m : Memory) (a n : Nat) : List Byte := (List.range n).map fun i => rd m (a + i)

def wrN : Memory → Nat → List Byte → Memory
  | m, _, [] => m
  | m, a, b :: t => wrN (wr m a b) (a + 1) t

/-- Every byte of [a, a + n) back to 0. -/
def wipe (m : Memory) (a n : Nat) : Memory := m.filter fun c => c.1 < a || a + n ≤ c.1

/-- The entries of [a, a + n). -/
def slice (m : Memory) (a n : Nat) : Memory := m.filter fun c => a ≤ c.1 && c.1 < a + n

/-- The canonical form, from address `lo` upward. -/
def wfFrom : Nat → Memory → Bool
  | _, [] => true
  | lo, (a, b) :: t => decide (lo ≤ a) && decide (b ≠ 0) && wfFrom (a + 1) t

/-- Addresses strictly rising, no byte equal to what an unlisted address reads as. -/
def Memory.wf (m : Memory) : Bool := wfFrom 0 m

/-- A byte of host memory: what the module wrote, else the host's own (a free value). -/
def hostRd : List Host.Cell → Nat → Byte
  | [], a => Config.hostByte a
  | (j, b) :: t, a => if j = a then b else hostRd t a

def hostWr : List Host.Cell → Nat → Byte → List Host.Cell
  | [], a, b => [(a, b)]
  | (j, c) :: t, a, b =>
    if j = a then (a, b) :: t else if a < j then (a, b) :: (j, c) :: t else (j, c) :: hostWr t a b

def hostWrN : List Host.Cell → Nat → List Byte → List Host.Cell
  | m, _, [] => m
  | m, a, b :: t => hostWrN (hostWr m a b) (a + 1) t

/-! ### CRC-64, ECMA-182, initial value all ones, no reflection, no inversion (03 R98) -/

def crcBit (c : BitVec 64) : BitVec 64 :=
  if c.msb then (c <<< 1) ^^^ 0x42F0E1EBA9EA3693#64 else c <<< 1

def crcByte (c : BitVec 64) (b : Byte) : BitVec 64 :=
  let c := c ^^^ (b.zeroExtend 64 <<< 56)
  crcBit (crcBit (crcBit (crcBit (crcBit (crcBit (crcBit (crcBit c)))))))

def crc64 (l : List Byte) : BitVec 64 := l.foldl crcByte 0xFFFFFFFFFFFFFFFF#64

/-! ### Exact fractions used by virtual time (15 R389) -/

def VTime.add (v : VTime) (n d : Nat) : VTime :=
  if v.d = d then ⟨v.n + n, d⟩ else ⟨v.n * d + n * v.d, v.d * d⟩

def VTime.lt (a b : VTime) : Bool := a.n * b.d < b.n * a.d

def VTime.max (a b : VTime) : VTime := if a.lt b then b else a

end Sys2Proof.Machine
end

