-- ==== Sys2Proof/Machine/Formats.lean ====
section
/-! DEFINITION. Number formats (04 R104 to R113): element encodings, row layouts, rounding and output conversion
(04 R119 to R122), with the notes that the conversion counters count (04 R487). -/

namespace Sys2Proof.Machine

/-- An exact value: NaN, an infinity, or (−1)^neg × m × 2^e. `num neg 0 _` is a signed zero. -/
inductive FV where
  | nan
  | inf (neg : Bool)
  | num (neg : Bool) (m : Nat) (e : Int)
  deriving DecidableEq, Repr

def FV.zero : FV := .num false 0 0

def FV.isZero : FV → Bool
  | .num _ m _ => m == 0
  | _ => false

def FV.isNan : FV → Bool
  | .nan => true
  | _ => false

def FV.isInf : FV → Bool
  | .inf _ => true
  | _ => false

def FV.neg : FV → FV
  | .nan => .nan
  | .inf s => .inf !s
  | .num s m e => .num (!s) m e

def FV.abs : FV → FV
  | .nan => .nan
  | .inf _ => .inf false
  | .num _ m e => .num false m e

def FV.sign : FV → Bool
  | .nan => false
  | .inf s => s
  | .num s _ _ => s

def FV.ofInt (i : Int) : FV := .num (i < 0) i.natAbs 0

/-- 2^e. -/
def FV.pow2 (e : Int) : FV := .num false 1 e

/-- Signed mantissas of two numbers at their common exponent. -/
def alignPair (s1 : Bool) (m1 : Nat) (e1 : Int) (s2 : Bool) (m2 : Nat) (e2 : Int) : Int × Int × Int :=
  let e := min e1 e2
  let a : Int := ((m1 <<< (e1 - e).toNat : Nat) : Int)
  let b : Int := ((m2 <<< (e2 - e).toNat : Nat) : Int)
  (if s1 then -a else a, if s2 then -b else b, e)

/-- Exact sum, with IEEE 754's infinities, NaN and signs of zero (04 R118). -/
def FV.add : FV → FV → FV
  | .nan, _ => .nan
  | _, .nan => .nan
  | .inf s, .inf t => if s = t then .inf s else .nan
  | .inf s, _ => .inf s
  | _, .inf t => .inf t
  | .num s1 m1 e1, .num s2 m2 e2 =>
    if m1 = 0 && m2 = 0 then .num (s1 && s2) 0 0
    else if m1 = 0 then .num s2 m2 e2
    else if m2 = 0 then .num s1 m1 e1
    else
      let (a, b, e) := alignPair s1 m1 e1 s2 m2 e2
      let c := a + b
      if c = 0 then .num false 0 0 else .num (c < 0) c.natAbs e

/-- Exact product (04 R115). -/
def FV.mul : FV → FV → FV
  | .nan, _ => .nan
  | _, .nan => .nan
  | .inf s, .inf t => .inf (s != t)
  | .inf s, .num t m _ => if m = 0 then .nan else .inf (s != t)
  | .num s m _, .inf t => if m = 0 then .nan else .inf (s != t)
  | .num s1 m1 e1, .num s2 m2 e2 => .num (s1 != s2) (m1 * m2) (e1 + e2)

def FV.sub (a b : FV) : FV := a.add b.neg

/-- Comparison of values that are not NaN; zeros are equal. -/
def FV.lt : FV → FV → Bool
  | .nan, _ => false
  | _, .nan => false
  | .inf s, .inf t => s && !t
  | .inf s, _ => s
  | _, .inf t => !t
  | .num s1 m1 e1, .num s2 m2 e2 =>
    let (a, b, _) := alignPair s1 m1 e1 s2 m2 e2
    a < b

def FV.le (a b : FV) : Bool := !a.isNan && !b.isNan && !(b.lt a)

/-- floor(log2 v) of a non-zero number. -/
def ilog (m : Nat) (e : Int) : Int := (m.log2 : Int) + e

/-! ### Rounding -/

/-- n × 2^e / d rounded to nearest, ties to even, to `p` significant bits and no finer than 2^emin: mantissa and exponent. -/
def rneRat (n d : Nat) (e : Int) (p : Nat) (emin : Int) : Nat × Int :=
  if n = 0 then (0, emin)
  else
    let l0 : Int := (n.log2 : Int) - (d.log2 : Int)
    -- l0 or l0 − 1 is floor(log2 (n / d))
    let l : Int := if 0 ≤ l0 then (if n < d <<< l0.toNat then l0 - 1 else l0)
      else (if n <<< (-l0).toNat < d then l0 - 1 else l0)
    let q := max (l + e - ((p : Int) - 1)) emin
    let (num, den) : Nat × Nat := if q ≤ e then (n <<< (e - q).toNat, d) else (n, d <<< (q - e).toNat)
    let quo := num / den
    let rem := num % den
    let up := decide (2 * rem > den) || (decide (2 * rem = den) && quo % 2 == 1)
    (if up then quo + 1 else quo, q)

/-- Binary floating-point parameters (04 R105). `special` 0: infinities and NaN; 1: NaN at all ones only; 2: neither. -/
structure Fp where
  eb : Nat
  fb : Nat
  bias : Nat
  special : Nat
  deriving DecidableEq, Repr

def Fp.fp32 : Fp := ⟨8, 23, 127, 0⟩
def Fp.bf16 : Fp := ⟨8, 7, 127, 0⟩
def Fp.fp16 : Fp := ⟨5, 10, 15, 0⟩
def Fp.e4m3 : Fp := ⟨4, 3, 7, 1⟩
def Fp.e5m2 : Fp := ⟨5, 2, 15, 0⟩
def Fp.e3m2 : Fp := ⟨3, 2, 3, 2⟩
def Fp.e2m3 : Fp := ⟨2, 3, 1, 2⟩
def Fp.e2m1 : Fp := ⟨2, 1, 1, 2⟩

/-- Exponent of the smallest step. -/
def Fp.emin (p : Fp) : Int := 1 - (p.bias : Int) - (p.fb : Int)

/-- Largest biased exponent of a finite number. -/
def Fp.emaxBiased (p : Fp) : Nat := if p.special = 0 then 2 ^ p.eb - 2 else 2 ^ p.eb - 1

/-- Encoding of the largest finite magnitude. -/
def Fp.maxBits (p : Fp) : Nat :=
  match p.special with
  | 0 => (2 ^ p.eb - 2) <<< p.fb ||| (2 ^ p.fb - 1)
  | 1 => (2 ^ p.eb - 1) <<< p.fb ||| (2 ^ p.fb - 2)
  | _ => 2 ^ (p.eb + p.fb) - 1

def Fp.decode (p : Fp) (v : Nat) : FV :=
  let f := bits v (p.fb - 1) 0
  let e := bits v (p.fb + p.eb - 1) p.fb
  let s := bitb v (p.fb + p.eb)
  if p.special = 0 && e = 2 ^ p.eb - 1 then (if f = 0 then .inf s else .nan)
  else if p.special = 1 && e = 2 ^ p.eb - 1 && f = 2 ^ p.fb - 1 then .nan
  else if e = 0 then .num s f p.emin
  else .num s (2 ^ p.fb + f) ((e : Int) - (p.bias : Int) - (p.fb : Int))

/-- The encoding of a rounded magnitude: mantissa of at most fb + 1 bits (or the next power of two) at exponent `q`.
None when it exceeds the largest finite magnitude. -/
def Fp.encodeMag (p : Fp) (mq : Nat × Int) : Option Nat :=
  let (m, q) := if mq.1 = 2 ^ (p.fb + 1) then (2 ^ p.fb, mq.2 + 1) else mq
  let code : Int := if m < 2 ^ p.fb then (m : Int)
    else ((q + (p.fb : Int) + (p.bias : Int)) * (2 ^ p.fb : Nat)) + ((m - 2 ^ p.fb : Nat) : Int)
  if code ≤ (p.maxBits : Int) then some code.toNat else none

def Fp.signBit (p : Fp) (s : Bool) : Nat := if s then 2 ^ (p.eb + p.fb) else 0

/-- The canonical NaN (04 R106). -/
def Fp.canonNan (p : Fp) : Nat :=
  if p.special = 0 then (2 ^ p.eb - 1) <<< p.fb ||| 2 ^ (p.fb - 1) else 2 ^ (p.eb + p.fb) - 1

def Fp.infBits (p : Fp) (s : Bool) : Nat := p.signBit s ||| ((2 ^ p.eb - 1) <<< p.fb)

/-- What a conversion of one element did (04 R487). -/
inductive Note where
  | none | sat | ovf | nanInt
  deriving DecidableEq, Repr

/-- Conversion into a floating-point element format (04 R119, R120). `ieee` is the op's OVF. -/
def Fp.convert (p : Fp) (ieee : Bool) : FV → Nat × Note
  | .nan => (p.canonNan, .none)
  | .inf s =>
    if !ieee then (p.signBit s ||| p.maxBits, .sat)
    else if p.special = 0 then (p.infBits s, .none)
    else (p.canonNan, .ovf)
  | .num s m e =>
    match p.encodeMag (rneRat m 1 e (p.fb + 1) p.emin) with
    | some c => (p.signBit s ||| c, .none)
    | none =>
      if !ieee then (p.signBit s ||| p.maxBits, .sat)
      else if p.special = 0 then (p.infBits s, .ovf)
      else (p.canonNan, .ovf)

/-! ### FP32 working values -/

def f32v (w : Word32) : FV := Fp.fp32.decode w.toNat

def f32nan : Word32 := 0x7FC00000#32
def f32zero : Word32 := 0#32
def f32one : Word32 := 0x3F800000#32

/-- RNE32 (04 R118): one rounding to FP32, overflow to an infinity. -/
def rne32 (v : FV) : Word32 := BitVec.ofNat 32 (Fp.fp32.convert true v).1

/-- RNE32 of the exact quotient n × 2^e / d with a sign. -/
def rne32Quot (s : Bool) (n d : Nat) (e : Int) : Word32 :=
  BitVec.ofNat 32 (Fp.fp32.signBit s |||
    ((Fp.fp32.encodeMag (rneRat n d e 24 Fp.fp32.emin)).getD ((2 ^ 8 - 1) <<< 23)))

/-- RNE32 of a / b, IEEE 754 special values. -/
def fdiv : FV → FV → Word32
  | .nan, _ => f32nan
  | _, .nan => f32nan
  | .inf _, .inf _ => f32nan
  | .inf s, .num t _ _ => rne32 (.inf (s != t))
  | .num s _ _, .inf t => rne32 (.num (s != t) 0 0)
  | .num s1 m1 e1, .num s2 m2 e2 =>
    if m2 = 0 then (if m1 = 0 then f32nan else rne32 (.inf (s1 != s2)))
    else rne32Quot (s1 != s2) m1 m2 (e1 - e2)

def fadd (a b : Word32) : Word32 := rne32 ((f32v a).add (f32v b))
def fsub (a b : Word32) : Word32 := rne32 ((f32v a).sub (f32v b))
def fmul (a b : Word32) : Word32 := rne32 ((f32v a).mul (f32v b))
/-- a × b + c, one rounding. -/
def ffma (a b c : Word32) : Word32 := rne32 (((f32v a).mul (f32v b)).add (f32v c))

/-- MAX and MIN (05 R131): NaN if either is, +0 greater than −0. -/
def fmax (a b : Word32) : Word32 :=
  let x := f32v a; let y := f32v b
  if x.isNan || y.isNan then f32nan
  else if x.lt y then b else if y.lt x then a
  else if x.sign then b else a

def fmin (a b : Word32) : Word32 :=
  let x := f32v a; let y := f32v b
  if x.isNan || y.isNan then f32nan
  else if x.lt y then a else if y.lt x then b
  else if x.sign then a else b

/-! ### Integers -/

/-- The integer nearest to a number, ties to even. -/
def rneInt (s : Bool) (m : Nat) (e : Int) : Int :=
  let (k, _) := if 0 ≤ e then (m <<< e.toNat, (0 : Int))
    else
      let d := 2 ^ (-e).toNat
      let q := m / d; let r := m % d
      (if 2 * r > d || (2 * r = d && q % 2 = 1) then q + 1 else q, 0)
  if s then -(k : Int) else (k : Int)

/-- floor of a number. -/
def floorInt (s : Bool) (m : Nat) (e : Int) : Int :=
  if 0 ≤ e then (if s then -((m <<< e.toNat : Nat) : Int) else ((m <<< e.toNat : Nat) : Int))
  else
    let d := 2 ^ (-e).toNat
    if s then -((ceilDiv m d : Nat) : Int) else ((m / d : Nat) : Int)

/-- Conversion into a two's complement integer of `w` bits (04 R119, R120). -/
def convertInt (w : Nat) : FV → Nat × Note
  | .nan => (0, .nanInt)
  | .inf s => (if s then 2 ^ (w - 1) else 2 ^ (w - 1) - 1, .sat)
  | .num s m e =>
    let i := rneInt s m e
    if i > ((2 ^ (w - 1) : Nat) : Int) - 1 then (2 ^ (w - 1) - 1, .sat)
    else if i < -((2 ^ (w - 1) : Nat) : Int) then (2 ^ (w - 1), .sat)
    else (wrapInt w i, .none)

/-! ### FP32X (04 R112, R113) -/

def fp32xDecode (v : Nat) : FV :=
  let head := bits v 31 0
  let comp := bits v 55 32
  match Fp.fp32.decode head with
  | .num s m e => .num s (m * 2 ^ 24 + comp) (e - 24)
  | x => x

def fp32xMax (s : Bool) : Nat := (Fp.fp32.signBit s ||| 0x7F7FFFFF) ||| (0xFFFFFF <<< 32)

/-- Rounding into FP32X with the op's OVF. -/
def fp32xConvert (ieee : Bool) : FV → Nat × Note
  | .nan => (0x7FC00000, .none)
  | .inf s => if ieee then (Fp.fp32.infBits s, .none) else (fp32xMax s, .sat)
  | .num s m e =>
    let (k, q) := rneRat m 1 e 48 (-173)
    let (k, q) := if k = 2 ^ 48 then (2 ^ 47, q + 1) else (k, q)
    match Fp.fp32.encodeMag (k / 2 ^ 24, q + 24) with
    | some h => ((Fp.fp32.signBit s ||| h) ||| ((k % 2 ^ 24) <<< 32), .none)
    | none => if ieee then (Fp.fp32.infBits s, .ovf) else (fp32xMax s, .sat)

/-! ### Format codes (04 R104) -/

/-- Element bits of a format code. -/
def fmtBits : Nat → Nat
  | 0x0 => 32 | 0x1 => 16 | 0x2 => 16 | 0x3 => 8 | 0x4 => 8 | 0x5 => 8 | 0x6 => 8 | 0x7 => 6 | 0x8 => 6
  | 0x9 => 4 | 0xA => 4 | 0xB => 2 | 0xC => 8 | 0xD => 32 | 0xE => 64 | _ => 0

/-- Bytes of one block scale; 0 for a format without blocks. -/
def fmtScale : Nat → Nat
  | 0x6 => 1 | 0x7 => 1 | 0x8 => 1 | 0x9 => 1 | 0xC => 1 | 0xB => 2 | _ => 0

def fmtBlock (f : Nat) : Bool := fmtScale f != 0

/-- Width class w; 0 where there is none. -/
def fmtWidth : Nat → Nat
  | 0x1 => 16 | 0x2 => 16 | 0x3 => 8 | 0x4 => 8 | 0x5 => 8 | 0x6 => 8 | 0x7 => 8 | 0x8 => 8 | 0x9 => 4
  | 0xA => 4 | 0xB => 2 | 0xC => 8 | _ => 0

/-- Product operand formats: 0x1 to 0xC (04 R114). -/
def fmtProd (f : Nat) : Bool := 1 ≤ f && f ≤ 0xC

/-- Output formats of a product op: any but 0xB, 0xE, 0xF (03 R85). -/
def fmtOut (f : Nat) : Bool := f ≤ 0xD && f != 0xB

/-- The element of a format from its bits, without its block scale. -/
def elemDecode (f v : Nat) : FV :=
  match f with
  | 0x0 => Fp.fp32.decode v
  | 0x1 => Fp.bf16.decode v
  | 0x2 => Fp.fp16.decode v
  | 0x3 => Fp.e4m3.decode v
  | 0x4 => Fp.e5m2.decode v
  | 0x5 => FV.ofInt (signed 8 v)
  | 0x6 => Fp.e4m3.decode v
  | 0x7 => Fp.e3m2.decode v
  | 0x8 => Fp.e2m3.decode v
  | 0x9 => Fp.e2m1.decode v
  | 0xA => FV.ofInt (signed 4 v)
  | 0xB => if v = 1 then .num false 1 0 else if v = 3 then .num true 1 0 else FV.zero
  | 0xC => (FV.ofInt (signed 8 v)).mul (FV.pow2 (-6))
  | 0xD => FV.ofInt (signed 32 v)
  | 0xE => fp32xDecode v
  | _ => .nan

/-- A block scale from its bytes (04 R110, R111). -/
def scaleDecode (f v : Nat) : FV :=
  if f = 0xB then Fp.bf16.decode v
  else if v = 0xFF then .nan else FV.pow2 ((v : Int) - 127)

/-- Conversion of one element into a format without blocks. -/
def elemConvert (f : Nat) (ieee : Bool) (x : FV) : Nat × Note :=
  match f with
  | 0x0 => Fp.fp32.convert ieee x
  | 0x1 => Fp.bf16.convert ieee x
  | 0x2 => Fp.fp16.convert ieee x
  | 0x3 => Fp.e4m3.convert ieee x
  | 0x4 => Fp.e5m2.convert ieee x
  | 0x5 => convertInt 8 x
  | 0xA => convertInt 4 x
  | 0xD => convertInt 32 x
  | 0xE => fp32xConvert ieee x
  | _ => (0, .none)

/-! ### Conversion into block formats (04 R121, R122) -/

/-- Exponent of the largest element of a block format. -/
def blockEmax : Nat → Int
  | 0x6 => 8 | 0x7 => 4 | 0x8 => 2 | 0x9 => 2 | _ => 0

/-- An element of a block format from a value already divided by its scale: saturates in both modes. -/
def blockElem (f : Nat) (x : FV) : Nat × Note :=
  match f with
  | 0x6 => Fp.e4m3.convert false x
  | 0x7 => Fp.e3m2.convert false x
  | 0x8 => Fp.e2m3.convert false x
  | 0x9 => Fp.e2m1.convert false x
  | _ => convertInt 8 (x.mul (FV.pow2 6))

/-- The largest finite FP32 value of a sign. -/
def f32maxV (s : Bool) : FV := .num s (2 ^ 24 - 1) 104

def largestLog : List FV → Option Int
  | [] => none
  | .num _ m e :: t =>
    if m = 0 then largestLog t
    else match largestLog t with
      | none => some (ilog m e)
      | some k => some (max k (ilog m e))
  | _ :: t => largestLog t

/-- Scale byte and elements of one E8M0 block; `xs` are its values without padding. -/
def mxBlock (f : Nat) (ieee : Bool) (xs : List FV) : Nat × List (Nat × Note) :=
  if xs.any FV.isNan then (0xFF, xs.map fun _ => (0, .none))
  else if ieee && xs.any FV.isInf then (0xFF, xs.map fun _ => (0, .ovf))
  else
    let ys := xs.map fun x => match x with | .inf s => f32maxV s | y => y
    match largestLog ys with
    | none => (0, ys.map fun y => ((blockElem f y).1, .none))
    | some l =>
      let x0 := max (l - blockEmax f) (-127)
      if x0 > 127 && ieee then (0xFF, ys.map fun _ => (0, .ovf))
      else
        let x := min x0 127
        ((x + 127).toNat, (xs.zip ys).map fun p =>
          let r := blockElem f (p.2.mul (FV.pow2 (-x)))
          (r.1, if p.1.isInf then .sat else r.2))

/-- BF16 scale bits, elements and the note of the scale itself, of one T2 block. -/
def t2Block (ieee : Bool) (xs : List FV) : Nat × List (Nat × Note) × Note :=
  if xs.any FV.isNan then (0x7FC0, xs.map fun _ => (0, .none), .none)
  else if ieee && xs.any FV.isInf then (0x7FC0, xs.map fun _ => (0, .ovf), .none)
  else
    let ys := xs.map fun x => match x with | .inf s => f32maxV s | y => y
    let sum := ys.foldl (fun a y => rne32 ((f32v a).add y.abs)) f32zero
    -- the exact quotient is rounded once, into BF16, with the op's OVF
    let (s, note) : Nat × Note := match f32v sum with
      | .num _ m e =>
        (match Fp.bf16.encodeMag (rneRat m (max xs.length 1) e 8 Fp.bf16.emin) with
         | some c => (c, .none)
         | none => if ieee then (Fp.bf16.infBits false, .ovf) else (Fp.bf16.maxBits, .sat))
      | _ => if ieee then (Fp.bf16.infBits false, .none) else (Fp.bf16.maxBits, .sat)
    let sv := Fp.bf16.decode s
    let es := (xs.zip ys).map fun p =>
      let note : Note := if p.1.isInf then .sat else .none
      match sv, p.2 with
      | .num _ sm se, .num n m e =>
        if sm = 0 then ((0 : Nat), note)
        else
          -- nearest integer to m × 2^(e − se) / sm, clamped to ±1: 1 exactly when the quotient exceeds one half
          let d := e - se
          let big := if 0 ≤ d then decide (2 * (m <<< d.toNat) > sm) else decide (2 * m > sm <<< (-d).toNat)
          (if big then (if n then 3 else 1) else 0, note)
      | _, _ => (0, note)
    (s, es, note)

/-! ### Rows (04 R108, R109) -/

/-- Bytes of a row of `n` elements. -/
def rowBytes (f n : Nat) : Nat := ceilDiv (n * fmtBits f) 8 + (if fmtBlock f then ceilDiv n 32 * fmtScale f else 0)

/-- Bytes of the element region. -/
def elemBytes (f n : Nat) : Nat := ceilDiv (n * fmtBits f) 8

/-- Byte of a row that holds element `i` (02 R55, 04 R109). -/
def rowOffset (f i : Nat) : Nat := i * fmtBits f / 8

/-- A row read: its elements without scales, and its block scales. -/
structure RowV where
  elems : List FV
  scales : List FV
  deriving DecidableEq, Repr

/-- The elements and scales of a row of `n` elements from its bytes. -/
def rowDecode (f n : Nat) (bs : List Byte) : RowV :=
  let eb := elemBytes f n
  let v := leNat (bs.take eb)
  let b := fmtBits f
  let z := fmtScale f
  { elems := (List.range n).map fun i => elemDecode f (bits v (b * i + b - 1) (b * i))
    scales := if z = 0 then []
      else (List.range (ceilDiv n 32)).map fun j => scaleDecode f (leNat ((bs.drop (eb + j * z)).take z)) }

/-- Value of element `i` of a row with its scale applied. -/
def RowV.val (r : RowV) (i : Nat) : FV :=
  match r.scales[i / 32]? with
  | none => r.elems.getD i FV.zero
  | some s => (r.elems.getD i FV.zero).mul s

/-- All values of a row with their scales applied. -/
def RowV.vals (r : RowV) : List FV := (List.range r.elems.length).map r.val

/-- A list cut into pieces of `k`. -/
def chunks {α : Type} (k : Nat) : Nat → List α → List (List α)
  | 0, _ => []
  | _, [] => []
  | n + 1, l => l.take k :: chunks k n (l.drop k)

/-- Packs elements of `b` bits into a number, first lowest. -/
def packBits (b : Nat) : List Nat → Nat
  | [] => 0
  | x :: t => x % 2 ^ b + 2 ^ b * packBits b t

/-- A row of values converted into a format: its bytes and its conversion notes. -/
def rowEncode (f : Nat) (ieee : Bool) (xs : List FV) : List Byte × List Note :=
  let b := fmtBits f
  if !fmtBlock f then
    let es := xs.map (elemConvert f ieee)
    (leBytes (elemBytes f xs.length) (packBits b (es.map (·.1))), es.map (·.2))
  else
    let bl := chunks 32 (xs.length + 1) xs
    if f = 0xB then
      let rs := bl.map (t2Block ieee)
      let es := rs.flatMap fun r => r.2.1
      (leBytes (elemBytes f xs.length) (packBits b (es.map (·.1))) ++ rs.flatMap (fun r => leBytes 2 r.1),
       es.map (·.2) ++ rs.map fun r => r.2.2)
    else
      let rs := bl.map (mxBlock f ieee)
      let es := rs.flatMap (·.2)
      (leBytes (elemBytes f xs.length) (packBits b (es.map (·.1))) ++ rs.flatMap (fun r => leBytes 1 r.1),
       es.map (·.2))

/-- A value rounded into a format and read back exactly (05 R134, R137): a row at a time. -/
def rowRound (f : Nat) (ieee : Bool) (xs : List FV) : List FV :=
  (rowDecode f xs.length (rowEncode f ieee xs).1).vals

/-- Conversion of a value into FP32 with the op's OVF, and what it counts (04 R487, 05 R126, R131). -/
def toF32 (ieee : Bool) (x : FV) : Word32 × Note :=
  let r := Fp.fp32.convert ieee x
  (BitVec.ofNat 32 r.1, r.2)

/-- Counts of the three conversion counters (04 R487): saturated, overflowed, NaN to integer. -/
structure Conv where
  sat : Nat
  ovf : Nat
  nanInt : Nat
  deriving DecidableEq, Repr

def Conv.zero : Conv := ⟨0, 0, 0⟩
def Conv.add (a b : Conv) : Conv := ⟨a.sat + b.sat, a.ovf + b.ovf, a.nanInt + b.nanInt⟩
def Conv.ofNotes (ns : List Note) : Conv :=
  ⟨ns.count .sat, ns.count .ovf, ns.count .nanInt⟩

/-! ### Products and groups (04 R115 to R118) -/

/-- Truncation toward zero to an integer multiple of 2^u: the signed multiple. -/
def truncTo (s : Bool) (m : Nat) (e u : Int) : Int :=
  let k : Nat := if u ≤ e then m <<< (e - u).toNat else m >>> (u - e).toNat
  if s then -(k : Int) else (k : Int)

/-- Σ of a group from its exact products; `w` is the width class of the pair. -/
def groupSigma (w : Nat) (ps : List FV) : FV :=
  if ps.any FV.isNan then .nan
  else
    let pos := ps.any fun p => match p with | .inf s => !s | _ => false
    let neg := ps.any fun p => match p with | .inf s => s | _ => false
    if pos && neg then .nan
    else if pos then .inf false
    else if neg then .inf true
    else match largestLog ps with
      | none => .num (ps.all FV.sign) 0 0
      | some e =>
        let u := e - (if w = 16 then 40 else 32) + 1
        let t := ps.foldl (fun acc p => match p with | .num s m x => acc + truncTo s m x u | _ => acc) (0 : Int)
        if t = 0 then FV.zero else .num (t < 0) t.natAbs u

/-- The accumulator update a ← RNE32(a + Σ × σ). -/
def accUpdate (w : Nat) (a : Word32) (ps : List FV) (sigma : FV) : Word32 :=
  rne32 ((f32v a).add ((groupSigma w ps).mul sigma))

/-- Width class of a pair (03 R71). -/
def pairWidth (f g : Nat) : Nat := max (fmtWidth f) (fmtWidth g)

end Sys2Proof.Machine
end

