-- ==== Sys2Proof/Machine/Flags.lean ====
section
/-! DEFINITION. Flags and counts the host can see: counters (18 R453), MSI-X vectors (13 R347, R348), the causes of
vector 0 (13 R356), QW_STATUS, QW_HOSTERR and QW_TOPOLOGY changes (13 R353 to R356), event records (14 R381 to R383) and
the error log (18 R459). -/

namespace Sys2Proof.Machine

def Hw.now (m : Hw) : Nat := m.island.tide

/-! ### Counters -/

/-- The key of a counter: block of the snapshot-area map, index, word. -/
def ckey (block index word : Nat) : Nat := block * 2 ^ 32 + index * 2 ^ 8 + word

/-- The OVF word's own place. -/
def ovfWord : Nat := 255

/-- Word numbers of SNAP_CORE. -/
abbrev cBUSY : Nat := 0
abbrev cOPS : Nat := 1
abbrev cSTALE : Nat := 2
abbrev cSAT : Nat := 3
abbrev cOVF : Nat := 4
abbrev cNANINT : Nat := 5
abbrev cSPX : Nat := 6
abbrev cTRU : Nat := 7
abbrev cPFSKIP : Nat := 8
abbrev cPFDROP : Nat := 9
abbrev cOOB : Nat := 10
abbrev cFERRYDROP : Nat := 11
abbrev cLATETIDE : Nat := 12
abbrev cWESKIP : Nat := 13
abbrev cWEINV : Nat := 14
abbrev cTLBMISS : Nat := 15
abbrev cWALKS : Nat := 16
abbrev cHOLDCORR : Nat := 17
abbrev cSTEPS : Nat := 18
abbrev cROLLBACKS : Nat := 19

/-- The counters after adding `n`, and whether the counter saturated now for the first time since its origin (18 R453). -/
def countAdd (c : Map Nat) (block index word n : Nat) : Map Nat × Bool :=
  let k := ckey block index word
  let v := mgetD c k 0 + n
  if v < 2 ^ 64 then (if n = 0 then c else mset c k v, false)
  else
    let o := ckey block index ovfWord
    let old := mgetD c o 0
    (mset (mset c k (2 ^ 64 - 1)) o (old ||| 1 <<< word), !old.testBit word)

/-- Every counter of a block's index back to its origin. -/
def countClear (c : Map Nat) (block index : Nat) : Map Nat :=
  c.filter fun e => e.1 < ckey block index 0 || ckey block index 255 < e.1

/-! ### MSI-X -/

def vecDefault : Vec := ⟨0, 0, true, false, [], 0, none⟩

def HostLink.vec (h : HostLink) (v : Nat) : Vec := mgetD h.vecs v vecDefault

/-- The vector's holdoff has passed at time `now`. -/
def Vec.ready (v : Vec) (now : Nat) : Bool :=
  match v.sentAt with
  | none => true
  | some t => t + v.holdoff * 1000 ≤ now

/-- No message is sent: MSI-X is off or masked as a whole, or the function may not send (13 R347). One that arises while MSI-X is
off is held as under the function mask (DESIGN CHOICE, log 56). -/
def PcieCfg.silent (c : PcieCfg) : Bool := !c.msixEn || c.funcMask || !c.busMaster || c.d3

/-- A message of vector `v` arises from sources: sent, or held by a mask or the holdoff. -/
def HostLink.raiseFor (h : HostLink) (now v : Nat) (srcs : List (Nat × Nat)) : HostLink :=
  let x := h.vec v
  if x.masked || h.cfg.silent || !x.ready now then
    { h with vecs := mset h.vecs v { x with pend := true, srcs := (x.srcs ++ srcs).eraseDups } }
  else
    { h with vecs := mset h.vecs v { x with pend := false, srcs := [], sentAt := some now }, sent := h.sent ++ [v] }

def HostLink.raise (h : HostLink) (now v : Nat) : HostLink := h.raiseFor now v []

/-- A held message is sent when no mask and no holdoff holds it any more. -/
def HostLink.release (h : HostLink) (now v : Nat) : HostLink :=
  let x := h.vec v
  if x.pend && !x.masked && !h.cfg.silent && x.ready now then h.raise now v else h

def HostLink.releaseAll (h : HostLink) (now : Nat) : HostLink := (List.range 64).foldl (fun h v => h.release now v) h

def HostLink.vecOf (h : HostLink) (kind index : Nat) : Option Nat :=
  (h.binds.find? fun b => b.kind == kind && b.index == index).map (·.vec)

/-- The message of a bound source. -/
def HostLink.notify (h : HostLink) (now kind index : Nat) : HostLink :=
  match h.vecOf kind index with
  | none => h
  | some v => h.raiseFor now v [(kind, index)]

def Hw.notify (m : Hw) (kind index : Nat) : Hw := { m with host := m.host.notify m.now kind index }

/-- A source that leaves takes its binding with it. -/
def HostLink.unbind (h : HostLink) (kind index : Nat) : HostLink :=
  { h with binds := h.binds.filter fun b => !(b.kind == kind && b.index == index)
           vecs := h.vecs.map fun v => (v.1, { v.2 with srcs := v.2.srcs.filter fun s => s != (kind, index) }) }

def Hw.unbind (m : Hw) (kind index : Nat) : Hw := { m with host := m.host.unbind kind index }

/-- The function answers the host's memory accesses: its link is up, also before Ready (13 R362), it is enabled, and not in D3hot
(13 R339). -/
def Hw.hostOn (m : Hw) : Bool := m.boot != .off && m.host.up && m.host.cfg.memEn && !m.host.cfg.d3

/-! ### QW_CAUSE -/

/-- Sets cause `i` (13 R356). -/
def Hw.cause (m : Hw) (i : Nat) : Hw :=
  if m.quay.cause.getLsbD i then m
  else
    { m with
      quay := { m.quay with cause := m.quay.cause ||| (1#64 <<< i) }
      host := if m.quay.causeEn.getLsbD i then m.host.raise m.now 0 else m.host }

/-- QW_STATUS.STATE and REASON. -/
def Hw.setStatus (m : Hw) (st : ModState) (reason : BitVec 16) : Hw :=
  let ch := m.quay.st != st
  let m := { m with quay := { m.quay with st := st, reason := reason } }
  if ch then m.cause 0 else m

def Hw.setThrottle (m : Hw) (b : Bool) : Hw :=
  if m.quay.throttle = b then m else { m with quay := { m.quay with throttle := b } }.cause 0

/-- One more in a 16-bit saturating field. -/
def sat16 (n : Nat) : Nat := min (n + 1) 0xFFFF

inductive HostErr where
  | badacc | bar2miss | roDrop | ptrErr
  deriving DecidableEq, Repr

/-- Counts in QW_HOSTERR; a field that rises from 0 sets QW_CAUSE.HOSTERR. -/
def Hw.hosterr (m : Hw) (e : HostErr) : Hw :=
  let q := m.quay
  let (old, q) : Nat × Quay := match e with
    | .badacc => (q.badacc, { q with badacc := sat16 q.badacc })
    | .bar2miss => (q.bar2miss, { q with bar2miss := sat16 q.bar2miss })
    | .roDrop => (q.roDrop, { q with roDrop := sat16 q.roDrop })
    | .ptrErr => (q.ptrErr, { q with ptrErr := sat16 q.ptrErr })
  let m := { m with quay := q }
  if old = 0 then m.cause 6 else m

/-- A new QW_TOPOLOGY: each change of either word increments GEN and sets QW_CAUSE.TOPO (13 R353). -/
def Hw.setTopo (m : Hw) (t : Topology) : Hw :=
  if { t with gen := m.quay.topo.gen } = m.quay.topo then m
  else { m with quay := { m.quay with topo := { t with gen := m.quay.topo.gen + 1 } } }.cause 3


def Hw.degrade (m : Hw) : Hw := { m with quay := { m.quay with degraded := true } }

/-! ### Events -/

/-- Packs fields (width, value) from the lowest bit up (14 R383). -/
def packFields : List (Nat × Nat) → Nat
  | [] => 0
  | (w, v) :: t => v % 2 ^ w + 2 ^ w * packFields t

/-! ### The health record (17 R439) -/

/-- Bytes 0 to 55. -/
def Health.body (h : Health) : List Byte :=
  leBytes 16 (packFields
    [(16, h.hver.toNat), (1, b2n h.valid), (1, b2n h.dirty), (6, 0), (6, h.warms), (2, 0), (32, h.cfgGen.toNat),
     (32, h.fwBuild.toNat), (1, b2n h.slotB), (1, b2n h.fallback), (14, 0), (16, h.bootReason.toNat)])
    ++ leBytes 40 (packFields (h.good.map fun g => (68, g.toNat)))

def Health.bytes (h : Health) : List Byte := h.body ++ leBytes 8 h.crc.toNat

/-- The record is written whenever one of its fields changes, under a new CRC. -/
def Hw.setHealth (m : Hw) (h : Health) : Hw :=
  { m with island := { m.island with health := { h with crc := crc64 h.body } } }

/-- The health record turns DIRTY. -/
def Hw.dirty (m : Hw) : Hw := m.setHealth { m.island.health with dirty := true }

/-- An event record (14 R382). -/
def eventBytes (code : Nat) (ctx : Option Nat) (rseq tide payload : Nat) : List Byte :=
  leBytes 16 (packFields [(16, code), (10, ctx.getD 0), (1, b2n ctx.isNone), (5, 0), (32, rseq), (64, tide)])
    ++ leBytes 16 payload

def Ring.full (r : Ring) : Bool := (r.tail - r.head).toNat == r.nent

/-- Writes one record into a ring with space: the record's bytes in host memory, then TAIL. -/
def Ring.put (r : Ring) (host : List Host.Cell) (code : Nat) (ctx : Option Nat) (tide payload : Nat) :
    Ring × List Host.Cell :=
  ({ r with tail := r.tail + 1 },
   hostWrN host (r.ba + (r.tail.toNat % r.nent) * 32) (eventBytes code ctx r.tail.toNat tide payload))

/-- A record that finds the ring full is dropped and counted in LOST. -/
def Ring.drop (r : Ring) : Ring :=
  { r with lost := min (r.lost + 1) 0xFFFFFFFF, dropped := r.dropped + 1 }

/-- The context whose ring takes an event: the context's own, or the module ring's. -/
def Hw.ringOwner (m : Hw) (ctx : Option Nat) : Option (Nat × Ctx × Ring) :=
  match ctx <|> m.moduleRing with
  | none => none
  | some c =>
    match mget m.ctxs c with
    | none => none
    | some x => x.ring.map fun r => (c, x, r)

/-- Puts an event into the ring that takes it, or counts it in EVT_NO_RING; the flag tells that this counter saturated now. -/
def Hw.putRing (m : Hw) (code : Nat) (ctx : Option Nat) (payload : Nat) : Hw × Bool :=
  match m.ringOwner ctx with
  | none =>
    let r := countAdd m.counters 1 0 4 1
    ({ m with counters := r.1 }, r.2)
  | some (c, x, r) =>
    if r.full then ({ m with ctxs := mset m.ctxs c { x with ring := some r.drop } }, false)
    else
      let p := r.put m.mem.host code ctx m.now payload
      ({ m with
         ctxs := mset m.ctxs c { x with ring := some p.1 }
         mem := { m.mem with host := p.2 }
         host := m.host.notify m.now 0 c }, false)

/-- An event into its ring; a first saturation of EVT_NO_RING posts event 0x0681 (18 R453). -/
def Hw.toRing (m : Hw) (code : Nat) (ctx : Option Nat) (payload : Nat) : Hw :=
  let r := m.putRing code ctx payload
  if r.2 then (r.1.putRing 0x0681 none (packFields [(8, 1), (16, 0), (8, 4)])).1 else r.1

/-- Adds to a counter; the first saturation posts event 0x0681 (18 R453). -/
def Hw.count (m : Hw) (block index word n : Nat) : Hw :=
  let r := countAdd m.counters block index word n
  let m := { m with counters := r.1 }
  if r.2 then m.toRing 0x0681 none (packFields [(8, block), (16, index), (8, word)]) else m

def Hw.countCore (m : Hw) (core word n : Nat) : Hw := m.count 6 core word n

/-- Codes of events that write an error-log record (18 R459). -/
def errCode (code : Nat) : Bool :=
  (0x0288 ≤ code && code ≤ 0x028B) || code == 0x0482 || (0x0585 ≤ code && code ≤ 0x058B) || code == 0x0680
    || (0x0888 ≤ code && code ≤ 0x088A)

/-- Writes an error-log record of a detection at time `t`; the log keeps the 512 newest (18 R459). -/
def Hw.logErrorAt (m : Hw) (t code : Nat) (ctx : Option Nat) (recov : Bool) (loc aux : Nat) : Hw :=
  let i := m.island
  let r : ErrRec := { num := i.errNext, code := code, ctx := ctx.getD 0, ctxv := ctx.isSome, recov := recov
                      tide := t, loc := BitVec.ofNat 64 loc, aux := BitVec.ofNat 64 aux, boot := m.flash.boots
                      read := false }
  let old := if i.errlog.length < 512 then i.errlog else i.errlog.drop 1
  let lost := if i.errlog.length < 512 then 0 else match i.errlog with | o :: _ => b2n (!o.read) | [] => 0
  { m with island := { i with errlog := old ++ [r], errNext := i.errNext + 1 } }.count 1 0 5 lost

def Hw.logError (m : Hw) (code : Nat) (ctx : Option Nat) (recov : Bool) (loc aux : Nat) : Hw :=
  m.logErrorAt m.now code ctx recov loc aux

/-- An event: into its ring, and into the error log where its code is one of the log's. -/
def Hw.eventAs (m : Hw) (code : Nat) (ctx : Option Nat) (payload : List (Nat × Nat)) (recov : Bool) (aux : Nat) : Hw :=
  let p := packFields payload
  let m := m.toRing code ctx p
  if errCode code then
    m.logError code ctx recov (p % 2 ^ 64) (if code == 0x0289 then aux else p / 2 ^ 64)
  else m

/-- `aux` is the syndrome of 0x0289; an uncorrectable word and a stop are visible to jobs. -/
def Hw.eventAux (m : Hw) (code : Nat) (ctx : Option Nat) (payload : List (Nat × Nat)) (aux : Nat) : Hw :=
  m.eventAs code ctx payload (code != 0x0289 && code != 0x0587) aux

def Hw.event (m : Hw) (code : Nat) (ctx : Option Nat) (payload : List (Nat × Nat)) : Hw := m.eventAux code ctx payload 0

/-- Event 0x0010: a deferred command is complete (14 R367, R383). -/
def Hw.eventDone (m : Hw) (ctx : Option Nat) (pair seq cmd status count0 count1 : Nat) : Hw :=
  m.event 0x0010 ctx [(8, pair), (16, seq), (16, cmd), (16, status), (8, 0), (32, count0), (32, count1)]

end Sys2Proof.Machine
end

