-- ==== Sys2Proof/Machine/PageTable.lean ====
section
/-! DEFINITION. Page tables as they lie in memory (07 R187 to R191): the entries of a context's nodes, where the nodes lie in
its table pool, the bytes of page descriptors and where these lie, and a walk, entry by entry. A context keeps its leaves and
descriptors as records; the words here are what its moored frames hold (log 50). -/

namespace Sys2Proof.Machine

def pageBytes (size : Nat) : Nat := if size = 0 then 65536 else if size = 1 then 2 ^ 21 else 2 ^ 30

def Ctx.leafAt (x : Ctx) (va : Nat) : Option Leaf :=
  x.leaves.find? fun l => l.va ≤ va && va < l.va + pageBytes l.size

/-- A page of a sequence range, or of the sequence table (07 R201, R203). -/
def Ctx.guarded (x : Ctx) (l : Leaf) : Bool :=
  l.seq || (x.seqN != 0 && x.seqVa ≤ l.va && l.va < x.seqVa + ceilDiv (64 * x.seqN) 65536 * 65536)

/-- Leaf and page descriptor of a virtual address: what a walk finds (07 R188, R189, R191). -/
def Ctx.walk (x : Ctx) (va : Nat) : Option (Leaf × PageDesc) :=
  match x.leafAt va with
  | none => none
  | some l => (mget x.pds l.pdi).map fun p => (l, p)

/-! ### Entries and nodes -/

/-- Bytes that one entry of a level covers (07 R188). -/
def entrySpan (level : Nat) : Nat :=
  match level with
  | 0 => 2 ^ 16 | 1 => 2 ^ 21 | 2 => 2 ^ 30 | _ => 2 ^ 43

def nodeEntries (level : Nat) : Nat :=
  match level with
  | 0 => 32 | 1 => 512 | 2 => 8192 | _ => 16384

def nodeBytes (level : Nat) : Nat := 8 * nodeEntries level

/-- Bytes of address that a whole node covers. -/
def nodeSpan (level : Nat) : Nat := entrySpan level * nodeEntries level

/-- A leaf as a page-table entry (07 R189). -/
def Leaf.entry (l : Leaf) : Nat :=
  packFields [(1, 1), (1, 1), (1, b2n l.ro), (1, b2n l.pf), (1, b2n l.seq), (27, 0), (32, l.pdi)]

/-- The entry that names a node: its pool offset in units of 256 bytes (07 R189, R190). -/
def Node.entry (n : Node) : Nat := packFields [(1, 1), (31, 0), (32, n.off / 256)]

/-- The leaf that the entry of a level over an address holds: a page of the size that the level maps. -/
def Ctx.leafIn (x : Ctx) (level va : Nat) : Option Leaf :=
  x.leaves.find? fun l => l.size == level && l.va == va - va % entrySpan level

/-- The node that the entry of level `level` + 1 over an address names. -/
def Ctx.nodeIn (x : Ctx) (level va : Nat) : Option Node :=
  x.nodes.find? fun n => n.level == level && n.pre == va / nodeSpan level

/-- The 8 bytes of the entry that a walk of an address reads at a level. -/
def Ctx.entryAt (x : Ctx) (level va : Nat) : Nat :=
  match (if level < 3 then x.leafIn level va else none) with
  | some l => l.entry
  | none => if level = 0 then 0 else match x.nodeIn (level - 1) va with | some n => n.entry | none => 0

/-- Reads of a walk from the node at a pool offset down: the pool offset of the entry read at each level, to the first leaf or
entry that is not valid; with the PDI of the leaf (07 R188). -/
def Ctx.walkFrom (x : Ctx) (va : Nat) : Nat → Nat → List Nat × Option Nat
  | level, off =>
    let here := off + 8 * (va / entrySpan level % nodeEntries level)
    let e := x.entryAt level va
    if e % 2 = 0 then ([here], none)
    else if e / 2 % 2 = 1 then ([here], some (e / 2 ^ 32))
    else match level with
      | 0 => ([here], none)
      | k + 1 =>
        let r := x.walkFrom va k (256 * (e / 2 ^ 32))
        (here :: r.1, r.2)

/-- A walk from the root, at pool offset 0. -/
def Ctx.tableWalk (x : Ctx) (va : Nat) : List Nat × Option Nat := x.walkFrom va 3 0

/-- Where a pool offset lies: a byte of a frame of the table quarter (07 R190). -/
def Ctx.poolByte (x : Ctx) (off : Nat) : Option Nat := x.pool[off / 65536]?.map fun f => f * 65536 + off % 65536

/-- A page descriptor as 16 bytes; a free one has HOME 4 (07 R191). -/
def PageDesc.bytes (p : Option PageDesc) (ctx : Nat) : List Byte :=
  leBytes 16 (match p with
    | none => 4
    | some p => packFields [(3, p.home), (2, if p.home ≤ 1 then p.homeQ else 0), (2, p.size), (1, b2n p.moored), (1, b2n p.nopf),
        (1, b2n p.ret), (1, b2n p.mig), (1, b2n p.sealed), (4, 0), (16, p.refs), (16, p.vslots), (10, ctx), (6, 0),
        (64, p.addr)])

/-- Where the descriptor of an index lies in the table quarter. -/
def Ctx.descByte (x : Ctx) (pdi : Nat) : Option Nat :=
  (mget x.descFrames (pdi / 4096)).map fun f => f * 65536 + pdi % 4096 * 16

/-- The bytes that a walk of an address reads in the table quarter, with their lengths: an entry at each level, then the
descriptor of the leaf it finds (07 R195). -/
def Ctx.walkReads (x : Ctx) (va : Nat) : List (Nat × Nat) :=
  let w := x.tableWalk va
  (w.1.filterMap fun o => (x.poolByte o).map fun b => (b, 8))
    ++ (match w.2.bind x.descByte with | some b => [(b, 16)] | none => [])

/-! ### Placing nodes and descriptors -/

/-- The nodes a leaf needs below the root. -/
def Leaf.needs (l : Leaf) : List (Nat × Nat) :=
  (2, l.va / nodeSpan 2) :: ((if l.size < 2 then [(1, l.va / nodeSpan 1)] else []) ++ (if l.size = 0 then [(0, l.va / nodeSpan 0)] else []))

/-- The lowest pool offset above the root at which a node of a level fits, aligned to its size: firmware's choice (log 50). -/
def freeOffset (ns : List Node) (level : Nat) : Nat :=
  let n := nodeBytes level
  let up (o : Nat) : Nat := ceilDiv o n * n
  ((0x20000 :: ns.map fun k => up (k.off + nodeBytes k.level)).filter fun o =>
    ns.all fun k => o + n ≤ k.off || k.off + nodeBytes k.level ≤ o).foldl
    (fun a o => if a = 0 then o else min a o) 0

/-- Adds the nodes that a list of leaves needs and that are not there. -/
def placeNodes (ns : List Node) (ls : List Leaf) : List Node :=
  (ls.flatMap Leaf.needs).foldl (fun ns k =>
    if ns.any fun n => n.level == k.1 && n.pre == k.2 then ns else ns ++ [⟨k.1, k.2, freeOffset ns k.1⟩]) ns

/-- Nodes that no leaf needs any more are given up. -/
def Ctx.usedNodes (x : Ctx) : List Node :=
  x.nodes.filter fun n => x.leaves.any fun l => l.needs.contains (n.level, n.pre)

/-- Pool frames that hold the root and a list of nodes (07 R190). -/
def poolSpan (ns : List Node) : Nat := ns.foldl (fun a n => max a ((n.off + nodeBytes n.level - 1) / 65536 + 1)) 2

/-- A context with its nodes placed. -/
def Ctx.placed (x : Ctx) : Ctx := { x with nodes := placeNodes x.usedNodes x.leaves }

/-- Pool frames that a context's leaves need with others beside them. -/
def Ctx.poolNeed (x : Ctx) (new : List Leaf) : Nat := poolSpan ({ x with leaves := x.leaves ++ new } : Ctx).placed.nodes

/-- Frames of descriptors that a list of indices needs and the context lacks. -/
def Ctx.descNeed (x : Ctx) (pdis : List Nat) : List Nat :=
  ((pdis.map fun k => k / 4096).eraseDups).filter fun i => !mhas x.descFrames i

/-- Frames of tables that new leaves and descriptors make a context take. -/
def Ctx.tableGrowth (x : Ctx) (new : List Leaf) (pdis : List Nat) : Nat :=
  x.poolNeed new - x.pool.length + (x.descNeed pdis).length

/-- Free page descriptor indices, ascending. -/
def freshPdis : Nat → Map PageDesc → Nat → List Nat
  | 0, _, _ => []
  | n + 1, pds, lo =>
    let k := freshFrom pds lo (pds.length + 1)
    k :: freshPdis n pds (k + 1)

/-- The leaf an append's new page gets; its index is chosen as the append completes. -/
def Opened.leaf (o : Opened) : Leaf := { va := o.va, size := o.size, ro := true, pf := false, seq := true, pdi := 0 }

end Sys2Proof.Machine
end

