-- ==== Sys2Proof/Machine/Quay.lean ====
section
/-! DEFINITION. The quay window as a register map (13 R350 to R362, 18 R457, R458): what an 8-byte read of each offset
returns. Loads of a device-window page read it (07 R194). -/

namespace Sys2Proof.Machine

def ModState.code : ModState → Nat
  | .reset => 0 | .selfTest => 1 | .notReady => 2 | .ready => 3 | .stopping => 4 | .stopped => 5

def PState.code : PState → Nat
  | .run => 0 | .hold => 1 | .anchor => 2 | .waking => 3

def Sync.code : Sync → Nat
  | .free => 0 | .acquiring => 1 | .locked => 2 | .holdover => 3

def PairState.code : PairState → Nat
  | .idle => 0 | .busy => 1 | .done => 2

/-- The variant's maximum clock in MHz and input power limit in 100 W (00 R3, 17 R450). -/
def Fuses.clk (f : Fuses) : Nat := if f.part = 0x948#12 then 1600 else if f.part = 0x936#12 then 1300 else 1050
def Fuses.pwr (f : Fuses) : Nat := if f.part = 0x948#12 then 48 else if f.part = 0x936#12 then 36 else 28

/-! ### Identity and capability -/

def qwId (m : Hw) : Nat :=
  packFields [(12, m.fuses.part.toNat), (4, m.fuses.stepL), (4, m.fuses.stepD), (12, 0), (16, 1)]

def qwCaps (m : Hw) : Nat :=
  packFields [(12, m.fuses.clk), (8, m.fuses.pwr), (10, 1023), (4, 8), (6, 63), (6, 63), (7, 63), (8, 255)]

def qwTopo0 (t : Topology) : Nat :=
  packFields ((List.range 4).flatMap fun q =>
    [(7, lget t.cores q 0), (3, lget t.spares q 0), (4, (lget t.stackBits q 0#4).toNat), (1, b2n (lget t.present q false)),
     (1, 0)])

def qwTopo1 (t : Topology) : Nat :=
  packFields ((List.range 6).map (fun i => (2, lget t.qq i 0)) ++ (List.range 8).map (fun i => (2, lget t.hub i 0))
    ++ (List.range 4).map (fun q => (5, lget t.pkgs q 0)) ++ [(8, 0), (8, t.gen.toNat)])

/-! ### Status, time, supply, thermal, link and causes -/

def qwStatus (q : Quay) : Nat :=
  packFields [(3, q.st.code), (3, q.ps.code), (1, b2n q.throttle), (1, b2n q.degraded), (1, b2n q.fwAlive),
    (1, b2n q.linkLow), (6, 0), (16, q.reason.toNat), (32, q.fwBeat.toNat)]

/-- QW_TIDE_STAT: TICK is 0 while no tick rate is set, and 0xFFFF_FFFF before tick 0 of the rate that is set (13 R354, 16 R414). -/
def qwTideStat (m : Hw) : Nat :=
  packFields [(2, m.island.sync.code), (30, 0),
    (32, match m.island.tideCfg, m.island.tick with
      | none, _ => 0
      | some _, none => 0xFFFFFFFF
      | some _, some t => t)]

def qwSupply (q : Quay) : Nat :=
  packFields [(16, q.v400), (16, q.v48), (8, q.v12), (16, q.pIn), (1, b2n q.warn)]

def qwThermal (q : Quay) : Nat :=
  packFields ((List.range 4).map (fun i => (10, lget q.tq i 0)) ++
    [(10, q.thub), (10, q.tcool), (1, b2n q.throt), (1, b2n q.crit)])

def qwLink (q : Quay) : Nat :=
  packFields [(3, q.speed), (5, q.width), (1, b2n q.flit), (7, 0), (16, q.retrains)]

def qwHosterr (q : Quay) : Nat := packFields [(16, q.badacc), (16, q.bar2miss), (16, q.roDrop), (16, q.ptrErr)]

/-- The identity and status registers, which are answered in every state. -/
def quayFixed (m : Hw) (off : Nat) : Option Nat :=
  match off with
  | 0x0000 => some (qwId m)
  | 0x0008 => some (qwCaps m)
  | 0x0010 => some (qwTopo0 m.quay.topo)
  | 0x0018 => some (qwTopo1 m.quay.topo)
  | 0x1000 => some (qwStatus m.quay)
  | 0x1008 => some (m.now % 2 ^ 64)
  | 0x1010 => some (qwTideStat m)
  | 0x1020 => some (qwSupply m.quay)
  | 0x1028 => some (qwThermal m.quay)
  | 0x1030 => some (qwLink m.quay)
  | 0x1038 => some m.quay.cause.toNat
  | 0x1040 => some m.quay.causeEn.toNat
  | 0x1048 => some (qwHosterr m.quay)
  | _ => none

/-! ### Mailbox pairs (14 R363) -/

def Pair.idle : Pair := ⟨[], [], .idle⟩

def Espor.pair (e : Espor) (n : Nat) : Pair := mgetD e.pairs n Pair.idle

/-- The reserved fields of the request header have access RW in 14 R363, so they read back what was written (DESIGN CHOICE, log 44:
00 R8 would have them read 0). Eight bytes of pair `n` at an instant; the hub maintains STATE, and the rest of the response area is undefined from the
doorbell until DONE (14 R364; log 4). -/
def pairWord (now n : Nat) (p : Pair) (off : Nat) : Nat :=
  if off < 256 then leNat (rdN p.req off 8)
  else
    let v := if p.st == .busy then (Config.busyWord now n off).toNat else leNat (rdN p.resp (off - 256) 8)
    if off = 256 then v - v % 8 + p.st.code else v

/-! ### Queue pointers -/

/-- A word of the pointer blocks as it stands. -/
def pointerWord (m : Hw) (off : Nat) : Nat :=
  if off < 0x1000 then
    match mget m.jobs (off / 16) with
    | none => 0
    | some j => if off / 16 < 64 then (if off % 16 = 0 then j.tail.toNat else j.head.toNat + b2n j.err * 2 ^ 32) else 0
  else if off < 0x9000 then
    let o := off - 0x1000
    match (mget m.ctxs (o / 32)).bind Ctx.ring with
    | none => 0
    | some r =>
      match o % 32 with
      | 0 => r.tail.toNat
      | 8 => r.head.toNat + b2n r.err * 2 ^ 32
      | 16 => r.lost
      | _ => 0
  else
    let o := off - 0x9000
    if o / 16 < 256 then
      match mget m.queues (o / 16) with
      | none => 0
      | some q => if o % 16 = 0 then q.tail.toNat else q.head.toNat + b2n q.err * 2 ^ 32
    else 0

/-- Offsets of the pointer words that rings have. -/
def pointerOffs (m : Hw) : List Nat :=
  m.jobs.flatMap (fun j => [16 * j.1, 16 * j.1 + 8]) ++ m.ctxs.flatMap (fun c => (List.range 3).map fun i => 0x1000 + 32 * c.1 + 8 * i)
    ++ m.queues.flatMap fun q => [0x9000 + 16 * q.1, 0x9000 + 16 * q.1 + 8]

/-- As Anchor is entered the window keeps the queue pointers' values (13 R362). -/
def Hw.keepPtrs (m : Hw) : Hw :=
  { m with quay := { m.quay with ptrs := (pointerOffs m).foldl (fun p o => mset p o (pointerWord m o)) [] } }

/-- In Anchor, and until it has woken, the module answers with the queue pointers it held on entry. -/
def Quay.asleep (q : Quay) : Bool := q.ps == .anchor || q.ps == .waking

/-- What the window shows of the pointer blocks. -/
def queueWord (m : Hw) (off : Nat) : Nat := if m.quay.asleep then mgetD m.quay.ptrs off 0 else pointerWord m off

/-! ### Snapshot area -/

/-- First offset, number and bytes of each block of the snapshot area, from block 1 (18 R458). -/
def snapMap : List (Nat × Nat × Nat × Nat) :=
  [(1, 0x00400, 1, 256), (2, 0x00800, 4, 256), (3, 0x00C00, 16, 64), (4, 0x02000, 512, 64), (5, 0x0A000, 64, 128),
   (6, 0x10000, 256, 256), (7, 0x20000, 576, 32), (8, 0x40000, 1024, 256)]

def snapHdrWord (s : Snap) (i : Nat) : Nat :=
  match i with
  | 0 => s.epochB + s.areaSkipped * 2 ^ 32
  | 1 => s.areaTick
  | 2 => s.areaTide
  | 3 => s.areaPeriod + b2n s.areaArmed * 2 ^ 32
  | 7 => s.epochE * 2 ^ 32
  | _ => 0

/-- The word at an offset into the snapshot area. -/
def snapWord (s : Snap) (off : Nat) : Nat :=
  if off < 64 then snapHdrWord s (off / 8)
  else
    match snapMap.find? fun b => b.2.1 ≤ off && off < b.2.1 + b.2.2.1 * b.2.2.2 with
    | none => 0
    | some (blk, base, _, size) =>
      let o := off - base
      let w := o % size / 8
      mgetD s.area (ckey blk (o / size) (if w = size / 8 - 1 then ovfWord else w)) 0

/-- The module answers only identity, status and time (13 R362, 17 R436). -/
def Hw.inReset (m : Hw) : Bool :=
  match m.quay.st with
  | .reset | .selfTest | .stopped => true
  | _ => false

/-- What an 8-byte host read of an aligned offset returns; no read has a side effect here. -/
def quayWord (m : Hw) (off : Nat) : Nat :=
  match quayFixed m off with
  | some v => v
  | none =>
    if m.inReset then 0
    else if 0x10000 ≤ off && off < 0x18000 then
      pairWord m.now ((off - 0x10000) / 512) (m.espor.pair ((off - 0x10000) / 512)) ((off - 0x10000) % 512)
    else if 0x20000 ≤ off && off < 0x30000 then queueWord m (off - 0x20000)
    else if 0x100000 ≤ off && off < 0x200000 then snapWord m.snap (off - 0x100000)
    else 0

/-- QW_RESET takes KIND in bits [15:0], CONFIRM 0xC17E in [31:16] and 0 above (13 R359, R361). -/
def resetWord (value : BitVec 64) (kind : Nat) : Bool := value.toNat == kind + 0xC17E * 65536

/-- A byte of the hub window image (07 R194). -/
def quayByte (m : Hw) (off : Nat) : Byte := BitVec.ofNat 8 (quayWord m (off - off % 8) >>> (8 * (off % 8)))

end Sys2Proof.Machine
end

