-- ==== Sys2Proof/Machine/Ops.lean ====
section
/-! DEFINITION. The named operations every command is written with: cores and contexts, physical memory and homes
(06 R158, R177), translation (07 R188 to R196), fabric counts (11 R299 to R303), signals (02 R61, 15 R395), faults and
stops (06 R176, R178), clearing (02 R67) and Espor answers (14 R370). -/

namespace Sys2Proof.Machine

/-- A command's effect on the module, with the queue as it stands. -/
def onHw (f : Hw → Hw) (s : State) : Host.Outcome State Fault Refusal := .next { s with m := f s.m }

/-! ### Cores -/

def OpEffect.none : OpEffect :=
  { stores := [], accs := [], weights := [], remote := [], counts := [], seq := Option.none, opened := [], seqs := [], closeVoyage := Option.none
    release := Option.none, predict := Option.none, rets := [], signal := Option.none, hostVal := Option.none
    fault := Option.none }

def Thread.idle : Thread :=
  { st := .idle, entry := 0, loop := 0, next := none, staged := [], bad := [], prev := none, waitSince := 0, metAt := 0, metCyc := none, lastTick := none
    mshHead := 0, mshDone := 0, mshDl := false, posted := 0, suppress := 0 }

def Banks.empty : Banks := ⟨[], none, false, 0, 0, false, false⟩

/-- A core after clearing (02 R67): plan configuration is not context state, so the banks are given. Before any op has started,
thread 3 counts as the one that started last, so that thread 0 comes first (02 R36; DESIGN CHOICE, log 46). -/
def Core.clearedWith (fset route : Banks) : Core :=
  { ctx := none, hold := [], written := 0#64, acc := [], latch := [], weights := [], bols := [], rise := [], took := [], inbox := []
    threads := List.replicate 4 Thread.idle, ops := [], nextOp := 0, lastThread := 3, reqs := [], nextReq := 0, issueNext := 0
    lastBank := none, tlb := [], fset := fset, route := route, predictor := [], credits := [], voyages := []
    lands := [], steps := [], recs := 0, ahead := [], broken := none }

def Core.cleared : Core := Core.clearedWith Banks.empty Banks.empty

def Hw.core (m : Hw) (k : Nat) : Core := mgetD m.cores k Core.cleared

def Hw.setCore (m : Hw) (k : Nat) (c : Core) : Hw := { m with cores := mset m.cores k c }

def Hw.updCore (m : Hw) (k : Nat) (f : Core → Core) : Hw := m.setCore k (f (m.core k))

def Core.thread (c : Core) (t : Nat) : Thread := lget c.threads t Thread.idle

def Core.setThread (c : Core) (t : Nat) (x : Thread) : Core := { c with threads := lset c.threads t x }

def Core.bol (c : Core) (b : Nat) : Word32 := mgetD c.bols b 0#32

def Core.setBol (c : Core) (b : Nat) (v : Word32) : Core := { c with bols := mset c.bols b v }

/-- The written map bits of the regions a hold write touches (15 R393). -/
def regionBits (off n : Nat) : BitVec 64 :=
  if n = 0 then 0#64
  else (List.range ((off + n - 1) / 65536 + 1 - off / 65536)).foldl
    (fun w i => w ||| (1#64 <<< (off / 65536 + i))) 0#64

/-- A hold write: the bytes and the written map. -/
def Core.holdWrite (c : Core) (off : Nat) (bs : List Byte) : Core :=
  { c with hold := wrN c.hold off bs, written := c.written ||| regionBits off bs.length }

/-- The physical core that fills a logical position. -/
def Hw.physOf (m : Hw) (k : Nat) : Option Nat := lget (lget m.phys (k / 64) ⟨0#68, []⟩).fills (k % 64) none

/-- A logical position that names a core (01 R12, 17 R445). -/
def Hw.coreValid (m : Hw) (k : Nat) : Bool := k < 256 && (m.physOf k).isSome && !m.outOfService.getLsbD k

/-- The core identifiers of a bitmap, ascending. -/
def coreList (b : BitVec 256) : List Nat := (List.range 256).filter fun k => b.getLsbD k

/-- Cycle count of a core's cluster. -/
def Hw.cyc (m : Hw) (k : Nat) : Nat := lget m.cycles (k / 8) 0 / 1000

/-- The cluster clocks run: powered quarters, in the power states that clock them. -/
def Hw.clocked (m : Hw) : Bool := m.boot == .done && m.quay.ps == .run && m.quay.st != .stopped

/-! ### Contexts -/

def Hw.updCtx (m : Hw) (c : Nat) (f : Ctx → Ctx) : Hw :=
  match mget m.ctxs c with
  | none => m
  | some x => { m with ctxs := mset m.ctxs c (f x) }

def Hw.ctxCores (m : Hw) (c : Nat) : List Nat :=
  match mget m.ctxs c with
  | none => []
  | some x => coreList x.cores

/-- The context whose state is on core `k`. -/
def Hw.runs (m : Hw) (k c : Nat) : Bool := (m.core k).ctx == some c

/-- A context's state is on every core of its set. -/
def Hw.onCores (m : Hw) (c : Nat) : Bool :=
  !(m.ctxCores c).isEmpty && (m.ctxCores c).all fun k => m.runs k c

/-- The context's partition, if it runs in fixed-timing mode (15 R401). -/
def Hw.fixedPart (m : Hw) (c : Nat) : Option Nat :=
  match mget m.ctxs c with
  | none => none
  | some x =>
    match x.part with
    | none => none
    | some p => match mget m.parts p with
      | some q => if q.fixed then some p else none
      | none => none

def Hw.isFixed (m : Hw) (c : Nat) : Bool := (m.fixedPart c).isSome

/-- Enabled plans of a context: handle and plan. -/
def Hw.plansOf (m : Hw) (c : Nat) : List (Nat × Plan) := m.plans.filter fun p => p.2.ctx == c

/-- The plan of a context that uses core `k`. -/
def Hw.planOn (m : Hw) (c k : Nat) : Option (Nat × Plan) :=
  (m.plansOf c).find? fun p => p.2.cores.any fun e => e.core == k

/-! ### Physical memory -/

/-- The RAM key of a byte of a home: home = 2 × quarter + tier. -/
def ramKey (homeQ tier byte : Nat) : Nat := (2 * homeQ + tier) * 2 ^ 44 + byte

def keyTier (k : Nat) : Nat := k / 2 ^ 44 % 2

def keyQ (k : Nat) : Nat := k / 2 ^ 45

/-- Bytes a poison mark covers: a word, in the slow tier a granule (06 R177). -/
def markSize (k : Nat) : Nat := if keyTier k = 0 then 64 else 2048

def markOf (k : Nat) : Nat := k - k % markSize k

/-- The marks of the units that [k, k + n) touches; one granule at most. -/
def marksIn (k n : Nat) : List Nat :=
  if n = 0 then []
  else (List.range ((k + n - 1) / markSize k + 1 - k / markSize k)).map fun i => markOf k + i * markSize k

/-- The words of an access at key `k`, each with its number in the granule: the 64-byte words it touches, in the slow tier the
codewords of the granule's frame (06 R164, R169). -/
def wordsIn (k n sectors : Nat) : List (Nat × Nat) :=
  if keyTier k = 0 then
    (if n = 0 then [] else
      (List.range ((k + n - 1) / 64 + 1 - k / 64)).map fun i => (k - k % 64 + 64 * i, (k / 64 + i) % 32))
  else (List.range (2 * sectors)).map fun i => (k - k % 2048 + 64 * i, i)

def MemSys.poisoned (s : MemSys) (k n : Nat) : Bool := (marksIn k n).any fun w => s.marks.contains w

def addMark (l : List Nat) (w : Nat) : List Nat := if l.contains w then l else w :: l

/-- Marks every unit that [k, k + n) touches. -/
def MemSys.poison (s : MemSys) (k n : Nat) : MemSys := { s with marks := (marksIn k n).foldl addMark s.marks }

/-- A store of bytes at a key: a whole unit clears its mark, a part leaves it (06 R177). -/
def MemSys.store (s : MemSys) (k : Nat) (bs : List Byte) : MemSys :=
  let whole := (marksIn k bs.length).filter fun w => k ≤ w && w + markSize k ≤ k + bs.length
  { s with ram := wrN s.ram k bs, marks := s.marks.filter fun w => !whole.contains w }

/-- Frames of a home zeroed before reuse (07 R192). -/
def MemSys.zeroFrames (s : MemSys) (homeQ tier frame n : Nat) : MemSys :=
  let k := ramKey homeQ tier (frame * 65536)
  { s with ram := wipe s.ram k (n * 65536), marks := s.marks.filter fun w => w < k || k + n * 65536 ≤ w }

/-! ### Translation -/

/-- Where a byte lives. -/
inductive Loc where
  | ram (key : Nat)
  | host (addr : Nat)
  | quay (off : Nat)
  deriving DecidableEq, Repr

/-- A migration in progress of a page. -/
def Hw.migOf (m : Hw) (c pdi : Nat) : Option Mig :=
  (m.engines.flatMap fun e => e.slots.map (·.2)).find? fun g => g.ctx == c && g.pdi == pdi

/-- The granule that a migration's engine has locked: the next one in its direction (06 R170). -/
def Mig.lockedGranule (g : Mig) : Option Nat :=
  if g.back then (if g.done = 0 then none else some (g.done - 1)) else if g.done < g.granules then some g.done else none

/-- The host page list entry at an address: from the hub's cache, else from host memory (07 R193). -/
def Hw.hostEntry (m : Hw) (a : Nat) : Nat :=
  match m.hostTlb.find? fun e => e.1 == a with
  | some e => e.2
  | none => leNat ((List.range 8).map fun i => hostRd m.mem.host (a + i))

/-- The hub's walker reads the list entry for an access to a host page: it stays in the cache, the oldest of 4,096 leaving. -/
def Hw.hostFill (m : Hw) (p : PageDesc) (o : Nat) : Hw :=
  let a := p.addr + o / 4096 * 8
  if p.home = 2 && m.hostTlb.all (fun e => e.1 != a) then { m with hostTlb := ((a, m.hostEntry a) :: m.hostTlb).take 4096 }
  else m

/-- The place of offset `o` of a page: granules already moved are at the new home (06 R170). -/
def Hw.pageLoc (m : Hw) (c pdi : Nat) (p : PageDesc) (o : Nat) : Option Loc :=
  match p.home with
  | 0 | 1 =>
    match m.migOf c pdi with
    | some g =>
      if o / 2048 < g.done then
        some (.ram (g.toHome * 2 ^ 44 + g.toFrame * 65536 + o))
      else some (.ram (g.fromHome * 2 ^ 44 + g.fromFrame * 65536 + o))
    | none => some (.ram (ramKey p.homeQ p.home (p.addr * 65536 + o)))
  | 2 =>
    let e := m.hostEntry (p.addr + o / 4096 * 8)
    if e % 2 = 1 then some (.host (e / 4096 * 4096 + o % 4096)) else none
  | 3 => some (.quay (p.addr + o))
  | _ => none

def Hw.locOf (m : Hw) (c va : Nat) : Option (Leaf × PageDesc × Option Loc) :=
  match mget m.ctxs c with
  | none => none
  | some x =>
    match x.walk va with
    | none => none
    | some (l, p) => some (l, p, m.pageLoc c l.pdi p (va - l.va))

/-- Pieces of [va, va + n) that each lie within one aligned 2 KiB granule (02 R40). -/
def granules : Nat → Nat → Nat → List (Nat × Nat)
  | 0, _, _ => []
  | f + 1, va, n =>
    if n = 0 then []
    else
      let k := min n (2048 - va % 2048)
      (va, k) :: granules f (va + k) (n - k)

def pieces (va n : Nat) : List (Nat × Nat) := granules (n / 2048 + 2) va n

/-- Bytes at a place. -/
def Hw.readLoc (m : Hw) (l : Loc) (n : Nat) : List Byte :=
  match l with
  | .ram k => rdN m.mem.ram k n
  | .host a => (List.range n).map fun i => hostRd m.mem.host (a + i)
  | .quay o => (List.range n).map fun i => quayByte m (o + i)

/-- Bytes of context memory; an address without translation gives zeros, and its request faults. -/
def Hw.peek (m : Hw) (c va n : Nat) : List Byte :=
  (pieces va n).flatMap fun p =>
    match m.locOf c p.1 with
    | some (_, _, some l) => m.readLoc l p.2
    | _ => zeros p.2

/-- Every byte of a range is mapped. -/
def Hw.mapped (m : Hw) (c va n : Nat) : Bool :=
  (pieces va n).all fun p => match m.locOf c p.1 with | some (_, _, some _) => true | _ => false

/-- Every byte of a range is mapped read-only. -/
def Hw.mappedRO (m : Hw) (c va n : Nat) : Bool :=
  (pieces va n).all fun p => match m.locOf c p.1 with | some (l, _, some _) => l.ro | _ => false

/-- Some word of a range carries a poison mark. -/
def Hw.marked (m : Hw) (c va n : Nat) : Bool :=
  (pieces va n).any fun p =>
    match m.locOf c p.1 with
    | some (_, _, some (.ram k)) => m.mem.poisoned k p.2
    | _ => false

/-- Stores bytes at a place within one granule. -/
def Hw.putLoc (m : Hw) (l : Loc) (bs : List Byte) : Hw :=
  match l with
  | .ram k => { m with mem := m.mem.store k bs }
  | .host a => { m with mem := { m.mem with host := hostWrN m.mem.host a bs } }
  | .quay _ => m

/-- Stores bytes within one granule at its home. -/
def Hw.pokePiece (m : Hw) (c va : Nat) (bs : List Byte) : Hw :=
  match m.locOf c va with
  | some (_, _, some l) => m.putLoc l bs
  | _ => m

/-- Stores bytes of context memory, granule by granule. -/
def Hw.poke (m : Hw) (c va : Nat) (bs : List Byte) : Hw :=
  ((pieces va bs.length).foldl (fun (a : Hw × List Byte) p => (a.1.pokePiece c p.1 (a.2.take p.2), a.2.drop p.2))
    (m, bs)).1

/-- The hub writes a structure into context memory; poison follows the words a marked source gives (12 R330). -/
def Hw.pokeMark (m : Hw) (c va : Nat) (bs : List Byte) (bad : Bool) : Hw :=
  let m := m.poke c va bs
  if bad then
    (pieces va bs.length).foldl (fun (m : Hw) p =>
      match m.locOf c p.1 with
      | some (_, _, some (.ram k)) => { m with mem := m.mem.poison k p.2 }
      | _ => m) m
  else m

/-- Why a structure a command names cannot be read, 0x0008 under 14 R370: a word is marked, or the command's read of it fails. -/
def Hw.unreadable (m : Hw) (c va n : Nat) : Bool :=
  m.marked c va n || (match m.mem.badVa with | some b => va ≤ b && b < va + n | none => false)

/-! ### TLBs (07 R195, R196) -/

def tlbHit (t : List TlbEntry) (c va : Nat) : Option TlbEntry :=
  t.find? fun e => e.ctx == c && e.leaf.va ≤ va && va < e.leaf.va + pageBytes e.leaf.size

/-- Entries of a core TLB and of a quarter TLB (07 R195). -/
def coreTlbCap : Nat := 512
def quarterTlbCap : Nat := 16384

/-- A fill; the least recent entry that is not locked leaves when the TLB is full. -/
def tlbFill (cap : Nat) (t : List TlbEntry) (e : TlbEntry) : List TlbEntry :=
  let t := t.filter fun x => !(x.ctx == e.ctx && x.leaf.va == e.leaf.va)
  if t.length < cap then e :: t
  else e :: (match t.reverse.find? fun x => !x.locked with
    | some v => t.filter fun x => !(x.ctx == v.ctx && x.leaf.va == v.leaf.va)
    | none => t)

/-- Invalidation in every core TLB, every quarter TLB and the hub cache. -/
def Hw.invalidate (m : Hw) (f : TlbEntry → Bool) : Hw :=
  { m with
    cores := m.cores.map fun p => (p.1, { p.2 with tlb := p.2.tlb.filter fun e => !f e })
    quarterTlb := m.quarterTlb.filter fun p => !f p.2
    hostTlb := [] }

def Hw.invalidateRange (m : Hw) (c va n : Nat) : Hw :=
  m.invalidate fun e => e.ctx == c && va < e.leaf.va + pageBytes e.leaf.size && e.leaf.va < va + n

def Hw.invalidatePdi (m : Hw) (c pdi : Nat) : Hw := m.invalidate fun e => e.ctx == c && e.leaf.pdi == pdi

def Hw.invalidateCtx (m : Hw) (c : Nat) : Hw := m.invalidate fun e => e.ctx == c

/-! ### Frames -/

/-- The channels of a home in service, 32 × stack + channel, or its packages: units retired or absent are left out (06 R181). -/
def Hw.units (m : Hw) (q tier : Nat) : List Nat :=
  let t := m.quay.topo
  if tier = 1 then
    let on := match m.flash.topo with | some r => (lget r.quarters q ⟨0, false, 0#4, 0xFFFF#16, 0#2⟩).pkgs | none => 0xFFFF#16
    ((List.range 16).filter on.getLsbD).take (lget t.pkgs q 0)
  else
    let st := lget t.stackBits q 0#4
    let ret := match m.flash.topo with | some r => lget r.chanRet q 0#128 | none => 0#128
    (List.range 128).filter fun c => st.getLsbD (c / 32) && !ret.getLsbD c

/-- Frames of a home in service: units retired or absent reduce it (06 R181). -/
def Hw.frameCap (m : Hw) (q tier : Nat) : Nat :=
  if tier = 1 then lget m.quay.topo.pkgs q 0 * 2 ^ 20 else (m.units q tier).length * 24576

/-- Pages that appends in progress of a context, or of all, are opening. -/
def Hw.opening (m : Hw) (c : Option Nat) : List Opened :=
  (m.cores.filter fun k => c.isNone || k.2.ctx == c).flatMap fun k => k.2.ops.flatMap fun o => o.eff.opened

/-- Frames that appends take: those of pages they open, and those that a row still in flight goes to. -/
def Hw.openRuns (m : Hw) (q tier : Nat) : List (Nat × Nat) :=
  (((m.opening none).filter fun o => o.homeQ == q && o.tier == tier).map fun o => (o.frame, pageBytes o.size / 65536))
    ++ m.cores.flatMap fun k => k.2.reqs.filterMap fun r => match r.place with
      | some a => if a / 2 ^ 44 == 2 * q + tier then some (a % 2 ^ 44 / 65536, 1) else none
      | none => none

/-- Used runs of frames of a home: pages, pools, descriptors, migration targets and retired frames. -/
def Hw.usedRuns (m : Hw) (q tier : Nat) : List (Nat × Nat) :=
  m.ctxs.flatMap (fun c =>
    (c.2.pds.filter fun p => p.2.home == tier && p.2.homeQ == q).map (fun p => (p.2.addr, pageBytes p.2.size / 65536))
    ++ (if tier = 0 && c.2.tableQ == q then (c.2.pool ++ c.2.descFrames.map (·.2)).map (fun f => (f, 1)) else [])
    ++ (if tier = 0 then (c.2.areas.filter fun a => a.1 == q).map (·.2) else []))
  ++ (m.engines.flatMap fun e => (e.slots.filter fun g => g.2.toHome == 2 * q + tier).map fun g =>
        (g.2.toFrame, g.2.granules / 32))
  ++ m.openRuns q tier
  ++ ((m.flash.retired.filter fun r => r.1 == q && r.2.1 == tier).map fun r => (r.2.2, 1))

/-- Frames that a context's tables will take for the pages its appends in progress open (07 R190, R206). -/
def Hw.openingGrowth (m : Hw) (c : Nat) : Nat :=
  match mget m.ctxs c, m.opening (some c) with
  | some x, o :: os => x.tableGrowth ((o :: os).map Opened.leaf) (freshPdis (os.length + 1) x.pds 1)
  | _, _ => 0

/-- Frames free in a home, beside those that tables will take as appends complete. -/
def Hw.framesFree (m : Hw) (q tier : Nat) : Nat :=
  let due := if tier = 0 then (m.ctxs.filter fun c => c.2.tableQ == q).foldl (fun a c => a + m.openingGrowth c.1) 0 else 0
  m.frameCap q tier - ((m.usedRuns q tier).foldl (fun a r => a + r.2) 0) - due

def runFits (used : List (Nat × Nat)) (cap f n : Nat) : Bool :=
  decide (f + n ≤ cap) && used.all fun r => decide (f + n ≤ r.1) || decide (r.1 + r.2 ≤ f)

/-- The free run of `n` frames that firmware takes: its choice `hint` where that run is free, else the lowest. -/
def Hw.allocRun (m : Hw) (q tier n hint : Nat) : Option Nat :=
  let used := m.usedRuns q tier
  let cap := m.frameCap q tier
  if runFits used cap hint n then some hint
  else
    ((0 :: used.map fun r => r.1 + r.2).filter fun f => runFits used cap f n).foldl
      (fun a f => match a with | none => some f | some g => some (min f g)) none

/-- Runs of `n` frames for some pages, in order: each at firmware's choice where it is free; `acc` are runs taken beside. -/
def Hw.allocPages (m : Hw) (q tier n : Nat) : Nat → Nat → List (Nat × Nat) → List Nat → Option (List Nat)
  | 0, _, _, fs => some fs.reverse
  | k + 1, hint, acc, fs =>
    let used := acc ++ m.usedRuns q tier
    let cap := m.frameCap q tier
    let f := if runFits used cap hint n then some hint
      else ((0 :: used.map fun r => r.1 + r.2).filter fun f => runFits used cap f n).foldl
        (fun a f => match a with | none => some f | some g => some (min f g)) none
    match f with
    | none => none
    | some f => Hw.allocPages m q tier n k (hint + n) ((f, n) :: acc) (f :: fs)

/-- Bytes of a context homed in a tier, over every quarter (15 R388). -/
def Ctx.tierBytes (x : Ctx) (tier : Nat) : Nat :=
  (x.pds.filter fun p => p.2.home == tier).foldl (fun a p => a + pageBytes p.2.size) 0

def Ctx.limOf (x : Ctx) (tier : Nat) : Nat := if tier = 0 then x.limFast else x.limSlow

/-- `add` more bytes in a tier stay within the context's limit; 0 is no limit. -/
def Ctx.within (x : Ctx) (tier add : Nat) : Bool := x.limOf tier == 0 || x.tierBytes tier + add ≤ x.limOf tier

/-- Moored bytes of a quarter's tier (06 R173): pages, and the frames of table pools and descriptors (07 R187, R190). -/
def Hw.mooredBytes (m : Hw) (q tier : Nat) : Nat :=
  m.ctxs.foldl (fun a c =>
    (c.2.pds.filter fun p => p.2.moored && p.2.home == tier && p.2.homeQ == q).foldl
      (fun a p => a + pageBytes p.2.size)
      (a + (if tier = 0 && c.2.tableQ == q then 65536 * (c.2.pool.length + c.2.descFrames.length) else 0))) 0

def moorLimit (tier : Nat) : Nat := if tier = 0 then 160 * 2 ^ 30 else 768 * 2 ^ 30

/-- The frames of a page go back, zeroed. -/
def Hw.freePage (m : Hw) (p : PageDesc) : Hw :=
  if p.home ≤ 1 then { m with mem := m.mem.zeroFrames p.homeQ p.home p.addr (pageBytes p.size / 65536) } else m

/-- The contents of a page, as a rollback to a kept epoch needs them (18 R467). -/
def Hw.pageImage (m : Hw) (p : PageDesc) : Memory × List Nat :=
  let k := ramKey p.homeQ p.home (p.addr * 65536)
  let n := pageBytes p.size
  if p.home ≤ 1 then
    ((slice m.mem.ram k n).map fun c => (c.1 - k, c.2),
     (m.mem.marks.filter fun w => k ≤ w && w < k + n).map fun w => w - k)
  else ([], [])

/-- Kept sequences that had the page hold its contents. -/
def Ctx.keepPage (x : Ctx) (pdi : Nat) (img : Memory × List Nat) : Ctx :=
  { x with snaps := x.snaps.map fun s => if mhas s.pds pdi then { s with kept := mset s.kept pdi img } else s }

/-! ### What waits for a page (06 R171, R179, 07 R200, 14 R367) -/

/-- A page has switched home, or its migration has ended: ops with WAITM 1 no longer wait for it. -/
def Hw.pageArrived (m : Hw) (c pdi : Nat) : Hw :=
  { m with cores := m.cores.map fun k =>
      if k.2.ctx == some c then
        (k.1, { k.2 with ops := k.2.ops.map fun o =>
          match o.cond with
          | .pages left w h => { o with cond := .pages (left.filter fun p => p != pdi) w h }
          | _ => o })
      else k }

/-- A deferred MIGRATE with no page left to wait for reports and leaves. -/
def Hw.putDeferred (m : Hw) (d : Deferred) : Hw :=
  let others := m.espor.deferred.filter fun x => x.id != d.id
  if d.left = 0 && d.todo.isEmpty then
    { m with espor := { m.espor with deferred := others } }.eventDone d.ctx d.pair d.seq d.cmd 0 d.moved d.skipped
  else { m with espor := { m.espor with deferred := others ++ [d] } }

/-- One page of deferred command `n` is done; at the last one its event follows. -/
def Hw.pageDone (m : Hw) (n : Nat) (moved : Bool) : Hw :=
  match m.espor.deferred.find? fun d => d.id == n with
  | none => m
  | some d =>
    m.putDeferred { d with left := d.left - 1, moved := d.moved + b2n moved, skipped := d.skipped + b2n !moved }

/-- A migration ends without its page: the page was unmapped. Its new frames are free, and whatever waited goes on. -/
def Hw.cutMove (m : Hw) (c pdi va : Nat) : Hw :=
  let mine := (m.engines.flatMap fun e => e.slots.map (·.2)).filter fun g => g.ctx == c && g.pdi == pdi
  let asked := (m.engines.flatMap fun e => e.queue).filter fun r => r.ctx == c && r.pdi == pdi
  let m := { m with engines := m.engines.map fun e =>
    ⟨e.slots.filter fun g => !(g.2.ctx == c && g.2.pdi == pdi), e.queue.filter fun r => !(r.ctx == c && r.pdi == pdi)⟩ }
  let m := mine.foldl (fun (m : Hw) g =>
    ({ m with mem := m.mem.zeroFrames (g.toHome / 2) (g.toHome % 2) g.toFrame (g.granules / 32) }.event 0x028A (some c)
      [(64, va), (8, 1), (2, g.toHome / 2), (2, g.toHome % 2)]).count 1 0 6 1) m
  let m := ((mine.map (·.deferred)) ++ asked.map (·.deferred)).foldl (fun (m : Hw) d => match d with
    | some n => m.pageDone n false
    | none => m) m
  m.pageArrived c pdi

/-- A frame as RETIRE_FRAME's deferred record names it. -/
def frameKey (q tier frame : Nat) : Nat := (2 * q + tier) * 2 ^ 32 + frame

/-- Some page, table pool or migration uses a frame. -/
def Hw.frameUsed (m : Hw) (q tier f : Nat) : Bool :=
  (m.usedRuns q tier).any fun r => r.1 ≤ f && f < r.1 + r.2

/-- An area of a context that holds a frame leaves its run for a free one. -/
def Hw.moveArea (m : Hw) (q f : Nat) : Hw :=
  let here (a : Nat × Nat × Nat) : Bool := a.1 == q && a.2.1 ≤ f && f < a.2.1 + a.2.2
  match m.ctxs.find? fun c => c.2.areas.any here with
  | none => m
  | some (c, x) => match x.areas.find? here with
    | none => m
    | some a => match m.allocRun q 0 a.2.2 0 with
      | none => m
      | some g =>
        { m with ctxs := mset m.ctxs c { x with areas := x.areas.map fun b => if b == a then (q, g, a.2.2) else b }
                 mem := m.mem.zeroFrames q 0 a.2.1 a.2.2 }

/-- A table pool, or a frame of descriptors, leaves a frame for a free one. -/
def Hw.movePool (m : Hw) (q f : Nat) : Hw :=
  let m := m.moveArea q f
  match m.ctxs.find? fun c => c.2.tableQ == q && (c.2.pool.contains f || c.2.descFrames.any fun d => d.2 == f),
      m.allocRun q 0 1 0 with
  | some (c, x), some g =>
    let y := { x with pool := x.pool.map fun h => if h == f then g else h
                      descFrames := x.descFrames.map fun d => if d.2 == f then (d.1, g) else d }
    { m with ctxs := mset m.ctxs c y, mem := m.mem.zeroFrames q 0 f 1 }
  | _, _ => m

/-- A frame that nothing uses any more is recorded as retired, and event 0x028B follows (06 R179). -/
def Hw.settleRetire (m : Hw) (d : Deferred) : Hw :=
  let q := d.obj / 2 ^ 33
  let t := d.obj / 2 ^ 32 % 2
  let f := d.obj % 2 ^ 32
  let m := if t = 0 then m.movePool q f else m
  if m.frameUsed q t f then m
  else
    { m with
      flash := { m.flash with retired := m.flash.retired ++ [(q, t, f)] }
      espor := { m.espor with deferred := m.espor.deferred.filter fun e => e != d } }.degrade.event 0x028B none
      [(2, q), (2, t), (28, 0), (32, f)]

def Hw.settleRetires (m : Hw) : Hw :=
  (m.espor.deferred.filter fun d => d.cmd == 0x0205).foldl Hw.settleRetire m

/-- One reference of a page less; at 0 it is unmapped and its frames are free (07 R192). -/
def Hw.unref (m : Hw) (c pdi va : Nat) : Hw :=
  match mget m.ctxs c with
  | none => m
  | some x =>
    match mget x.pds pdi with
    | none => m
    | some p =>
      if p.refs ≤ 1 then
        let m := { m with ctxs := mset m.ctxs c ({ x with pds := mdel x.pds pdi }.keepPage pdi (m.pageImage p)) }.freePage p
        let m := if p.mig then m.cutMove c pdi va else m
        if p.ret then m.settleRetires else m
      else { m with ctxs := mset m.ctxs c { x with pds := mset x.pds pdi { p with refs := p.refs - 1 } } }

/-- A free page descriptor index, 1 to 0x07FF_FFFF (07 R189). -/
def Ctx.freshPdi (x : Ctx) : Option Nat :=
  let k := freshFrom x.pds 1 (x.pds.length + 1)
  if k < 0x08000000 then some k else none

/-- Removes the leaves of [va, va + n) and their references. -/
def Hw.unmapRange (m : Hw) (c va n : Nat) : Hw :=
  match mget m.ctxs c with
  | none => m
  | some x =>
    let hit := x.leaves.filter fun l => va ≤ l.va && l.va < va + n
    let m := { m with ctxs := mset m.ctxs c { x with leaves := x.leaves.filter fun l => !(va ≤ l.va && l.va < va + n) } }
    (hit.foldl (fun m l => m.unref c l.pdi l.va) m).invalidateRange c va n

/-- Adds frames to a context's pool until it holds its nodes, and to its descriptors until every one has its place. -/
def Hw.growPoolN : Nat → Hw → Nat → Hw
  | 0, m, _ => m
  | n + 1, m, c =>
    match mget m.ctxs c with
    | none => m
    | some x =>
      match m.allocRun x.tableQ 0 1 0, x.descNeed (x.pds.map (·.1)) with
      | none, _ => m
      | some f, ds =>
        if x.pool.length < poolSpan x.nodes then
          Hw.growPoolN n { m with ctxs := mset m.ctxs c { x with pool := x.pool ++ [f] } } c
        else match ds with
          | i :: _ => Hw.growPoolN n { m with ctxs := mset m.ctxs c { x with descFrames := mset x.descFrames i f } } c
          | [] => m

/-- The tables after leaves and descriptors were added: nodes placed, frames taken (07 R190). -/
def Hw.growPool (m : Hw) (c : Nat) : Hw :=
  match mget m.ctxs c with
  | none => m
  | some x =>
    let x := x.placed
    Hw.growPoolN (x.tableGrowth [] (x.pds.map (·.1))) { m with ctxs := mset m.ctxs c x } c

/-! ### Fabric counts -/

/-- The quarter–quarter link of a pair, in QW_TOPOLOGY order (13 R353). -/
def qqIndex (a b : Nat) : Nat :=
  let lo := min a b; let hi := max a b
  if lo = 0 then hi - 1 else if lo = 1 then hi + 1 else 5

def linkDefault (i : Nat) : Link := ⟨if i < 6 then 4 else 1, false⟩

def Hw.link (m : Hw) (i : Nat) : Link := mgetD m.links i (linkDefault i)

/-- The third quarters of a pair, ascending. -/
def thirds (a b : Nat) : List Nat := (List.range 4).filter fun q => q != a && q != b

/-- What a path's hash is formed from: source core, destination core, and landing or granule (11 R302); 256 stands for a
place that is no core. -/
def pathKey (src dst item : Nat) : Nat := (item * 512 + src) * 512 + dst

/-- The third quarter that a detour takes, if the pair's direct link is retired: the path (11 R302). -/
def Hw.detourOf (m : Hw) (a b key : Nat) : Option Nat :=
  if a < 4 && b < 4 && a != b && (m.link (qqIndex a b)).retired then
    some (lget (thirds a b) (b2n (Config.detour (key / 512 % 512) (key % 512) (key / 2 ^ 18))) 0)
  else none

/-- Bytes between two fabric nodes: each link crossed counts them, and the context's fabric counters (11 R302, 15 R397).
The rules are silent on a second failure: a detour keeps its third quarter though a link of the detour is retired too, and
half-link 1 carries the traffic of a quarter whose half-links are both retired (DESIGN CHOICE, log 5). -/
def Hw.traffic (m : Hw) (ctx : Option Nat) (a b n key : Nat) : Hw :=
  if a = b then m
  else if a < 4 && b < 4 then
    let i := qqIndex a b
    let path : List (Nat × Bool) :=
      match m.detourOf a b key with
      | some t => [(qqIndex a t, true), (qqIndex t b, true)]
      | none => [(i, false)]
    let m := path.foldl (fun m p =>
      let m := m.count 3 p.1 0 n
      if p.2 then m.count 3 p.1 1 n else m) m
    match ctx with
    | none => m
    | some c => m.count 8 c 20 (n * path.length)
  else
    let q := min a b
    let h := if (m.link (8 + 2 * q)).retired then 1 else if (m.link (9 + 2 * q)).retired then 0
      else b2n (Config.half q key)
    let m := m.count 3 (8 + 2 * q + h) 0 n
    match ctx with
    | none => m
    | some c => m.count 8 c 21 n

/-- The frame of a slow-tier granule: compressed where it fits in 15 sectors of 128 bytes, else the granule raw (06 R168). -/
def frameOf (bs : List Byte) : List Byte :=
  let f := Config.frame bs
  if f.length ≤ 15 * 128 then f ++ zeros (128 * max 1 (ceilDiv f.length 128) - f.length) else bs

/-- Sectors of a granule's frame: 1 to 16 (06 R168). -/
def sectorsOf (bs : List Byte) : Nat := min 16 (max 1 (ceilDiv (frameOf bs).length 128))

/-- The fabric node of a core, or of the hub. -/
def nodeOf (src : Nat) : Nat := if src < 256 then src / 64 else 4

/-- Bytes of the frame of the granule at a key, in a memory's contents. -/
def frameBytes (ram : Memory) (k : Nat) : Nat := 128 * sectorsOf (rdN ram (k - k % 2048) 2048)

/-- Accounting of bytes that core `src`, or the hub as 256, moved at a home (15 R397). In the slow tier a read reads the
sectors of its granule's frame, and a part-granule write reads the frame that stood in `old` and writes one (06 R169); a
granule read there crosses the fabric with its 2,048 bytes (06 R161). -/
def Hw.account (m : Hw) (c : Nat) (src : Nat) (l : Loc) (n : Nat) (store : Bool) (old : Memory) : Hw :=
  let key (g : Nat) := pathKey src 256 g
  match l with
  | .ram k =>
    let q := keyQ k
    let slow := keyTier k != 0
    let m :=
      if !slow then m.count 8 c ((if store then 6 else 2) + q) n
      else if !store then m.count 8 c (10 + q) (frameBytes m.mem.ram k)
      else if n = 2048 then m.count 8 c (14 + q) (frameBytes m.mem.ram k)
      else (m.count 8 c (10 + q) (frameBytes old k)).count 8 c (14 + q) (frameBytes m.mem.ram k)
    m.traffic (some c) (nodeOf src) q (if slow && !store then 2048 else n) (key (k / 2048))
  | .host _ => (m.count 8 c (if store then 19 else 18) n).traffic (some c) (nodeOf src) 4 n (key 0)
  | .quay _ => m.traffic (some c) (nodeOf src) 4 n (key 0)

/-- The control processor's reads of context memory cross the link of the quarter they are homed in (01 R20). -/
def Hw.ctlRead (m : Hw) (c va n : Nat) : Hw :=
  (pieces va n).foldl (fun (m : Hw) p => match m.locOf c p.1 with
    | some (_, _, some (.ram k)) => m.traffic (some c) (keyQ k) 4 p.2 (pathKey 256 256 (k / 2048))
    | _ => m) m

/-- What the control processor writes to a quarter crosses its link. -/
def Hw.ctlWrite (m : Hw) (c q n : Nat) : Hw := m.traffic (some c) 4 q n (pathKey 256 256 0)

/-- The reads of a page-table walk cross the fabric from the table quarter to the walking core's (01 R20, 07 R195). -/
def Hw.walkTraffic (m : Hw) (core ctx va : Nat) : Hw :=
  match mget m.ctxs ctx with
  | none => m
  | some x => (x.walkReads va).foldl (fun (m : Hw) p =>
      m.traffic (some ctx) (core / 64) x.tableQ p.2 (pathKey core 256 (p.1 / 2048))) m

/-! ### Signals (02 R59 to R61, 15 R395) -/

/-- A signal of a core on its way to a bollard. -/
def Hw.signal (m : Hw) (src ctx e tgt bol : Nat) (set : Bool) (val : Word32) : Hw :=
  { m.updCore tgt fun c => { c with inbox := c.inbox ++ [(⟨m.postNo, src, ctx, e, bol, set, val⟩ : Signal)] } with
    postNo := m.postNo + 1 }.traffic (some ctx) (nodeOf src) (nodeOf tgt) Config.signalBytes (pathKey (min src 256) tgt 0)

/-- The path of a class C0 packet: the third quarter of a detour, if any. Signals take the path of item 0. -/
def Hw.pathOf (m : Hw) (src dst item : Nat) : Option Nat := m.detourOf (nodeOf src) (nodeOf dst) (pathKey src dst item)

/-- A signal of a core, or of the hub as 256, that is on its way to core `core` ahead of packet `no` of the same source and path;
those of bollard `but` do not count (11 R300). -/
def Hw.signalAhead (m : Hw) (core src no : Nat) (path : Option Nat) (but : Option Nat) : Bool :=
  (m.core core).inbox.any fun q => min q.src 256 == src && q.no < no && some q.bol != but && m.pathOf src core 0 == path

/-- A credit of a core that is on its way to core `core` ahead of packet `no` of the same path (11 R300). -/
def Hw.creditAhead (m : Hw) (core src no : Nat) (path : Option Nat) : Bool :=
  m.creditsInFlight.any fun k => k.core == src && k.owner == core && k.no < no && m.pathOf src core k.land == path

/-- A signal has reached its core: no packet of its source, target and path is ahead of it (11 R300). -/
def Hw.arrived (m : Hw) (core : Nat) (s : Signal) : Bool :=
  let src := min s.src 256
  let path := m.pathOf src core 0
  !m.signalAhead core src s.no path (some s.bol) && !m.creditAhead core src s.no path

/-- A hub update that the hub itself generates, `src` 256, or 257 for a swap increment: held while the context is not
resident. -/
def Hw.hubUpdateAs (m : Hw) (src ctx core bol : Nat) (set : Bool) (val : Word32) : Hw :=
  match mget m.ctxs ctx with
  | none => m
  | some x =>
    if m.runs core ctx then m.signal src ctx 0 core bol set val
    else { m with ctxs := mset m.ctxs ctx { x with held := x.held ++ [⟨core, bol, set, val, src == 257⟩] } }

def Hw.hubUpdate (m : Hw) (ctx core bol : Nat) (set : Bool) (val : Word32) : Hw :=
  m.hubUpdateAs 256 ctx core bol set val

/-! ### Faults (06 R176, R178) -/

/-- A fault record with everything 0 but what a fault without a memory request carries. -/
def FaultRec.base (m : Hw) (code core thread tag ctx : Nat) : FaultRec :=
  { num := 0, code := code, core := core, thread := thread, store := false, fetch := false, opTag := tag, va := 0
    homeQ := 0, homeT := 3, dev := 0, chan := 0, bank := 0, array := 0, row := 0, synd := 0, tide := m.now, ctx := ctx }

/-- The elements of a list in an order that `pick` chooses: which of those left comes next, step by step. -/
def dealt {α : Type} (pick : Nat → Nat) : Nat → List α → List α
  | 0, _ => []
  | n + 1, l =>
    match l.drop (pick n % l.length) with
    | [] => []
    | x :: _ => x :: dealt pick n (l.eraseIdx (pick n % l.length))

/-- The channel of a granule of a home: consecutive granules visit every unit in service once per interleave round, in an
order fixed by a hash (06 R159, R181). -/
def Hw.unitOf (m : Hw) (home g : Nat) : Nat :=
  let us := m.units (home / 2) (home % 2)
  let n := max us.length 1
  lget (dealt (Config.chanPick home (g / n)) us.length us) (g % n) 0

/-- Device, channel, bank and row of a key: stack 0 to 3 and channel 0 to 31, or package 0 to 15 (06 R158, R159, R178). -/
def Hw.placeOf (m : Hw) (k : Nat) : Nat × Nat × Nat × Nat :=
  let home := k / 2 ^ 44
  let g := k % 2 ^ 44 / 2048
  let u := m.unitOf home g
  let b := Config.bankOf home (g / max (m.units (home / 2) (home % 2)).length 1)
  let row := Config.rowOf home g % 2 ^ 32
  if keyTier k = 0 then (u / 32 % 4, u % 32, b % 64, row) else (u % 16, 0, b % 32, row)

/-- Index in SNAP_CHAN of a key's channel or package (18 R458). -/
def Hw.chanOf (m : Hw) (k : Nat) : Nat :=
  let p := m.placeOf k
  if keyTier k = 0 then 144 * keyQ k + 32 * p.1 + p.2.1 else 144 * keyQ k + 128 + p.1

/-- The payload of 0x0288 and 0x0289 for a key. -/
def Hw.bankPayload (m : Hw) (k : Nat) : List (Nat × Nat) :=
  let p := m.placeOf k
  [(2, keyQ k), (2, keyTier k), (4, p.1), (5, p.2.1), (6, p.2.2.1), (13, 0), (32, p.2.2.2)]

/-- The places a fault record names for a request. -/
def FaultRec.place (r : FaultRec) (m : Hw) (l : Loc) : FaultRec :=
  match l with
  | .ram k =>
    let b := m.placeOf k
    { r with homeQ := keyQ k, homeT := keyTier k, dev := b.1, chan := b.2.1, bank := b.2.2.1, row := b.2.2.2 }
  | .host _ => { r with homeT := 2 }
  | .quay _ => r

/-- A thread stops: it starts no further op, and its ops in progress end at once; requests in flight go on. -/
def Core.stopThread (c : Core) (t : Nat) : Core :=
  let x := c.thread t
  let first := (c.ops.find? fun o => o.thread == t).map (·.addr)
  let keep := c.reqs.filter fun r => r.thread != t || r.issued.isSome
  { c with
    threads := lset c.threads t { x with st := if x.st == .idle || x.st == .ended then x.st else .stopped
                                         next := first <|> x.next }
    ops := c.ops.filter fun o => o.thread != t
    -- a load that waited for one that leaves goes its own way
    reqs := keep.map fun r => match r.into with
      | some i => if keep.any fun q => q.id == i then r else { r with into := none }
      | none => r }

/-- Every thread of a core stops. -/
def Core.stopAll (c : Core) : Core := (List.range 4).foldl Core.stopThread c

/-- A fault detected by the hardware: the op's thread stops, and the record waits for firmware. -/
def Hw.fault (m : Hw) (core thread : Nat) (r : FaultRec) : Hw :=
  (m.updCore core fun c => c.stopThread thread).updCtx r.ctx fun x => { x with detected := x.detected ++ [r] }

/-- The payload of a fault event (14 R383). -/
def faultPayload (r : FaultRec) : List (Nat × Nat) :=
  [(32, r.opTag), (8, r.core), (2, r.thread), (22, 0), (32, r.num)]

/-- Location and AUX of the error-log record of a fault: 0x0288's packing and the syndrome. -/
def faultLoc (r : FaultRec) : Nat :=
  packFields [(2, r.homeQ), (2, r.homeT), (4, r.dev), (5, r.chan), (6, r.bank), (13, 0), (32, r.row)]

/-- Puts a record into the context's fault log (14 R380) and posts its event; memory faults also write the error log. -/
def Hw.recordFault (m : Hw) (c : Nat) (r : FaultRec) : Hw :=
  match mget m.ctxs c with
  | none => m
  | some x =>
    let r := { r with num := x.faultNext }
    let x := if x.faults.length < 64 then { x with faults := x.faults ++ [r], faultNext := x.faultNext + 1 }
      else { x with faultLost := x.faultLost + 1, faultNext := x.faultNext + 1 }
    let m := { m with ctxs := mset m.ctxs c { x with stopFault := x.stopFault <|> some r } }
    let m := m.event r.code (some c) (faultPayload r)
    if 0x0280 ≤ r.code && r.code ≤ 0x0282 then m.logErrorAt r.tide r.code (some c) false (faultLoc r) r.synd else m

/-- Every thread of the context stops on every core. -/
def Hw.stopThreads (m : Hw) (c : Nat) : Hw :=
  (m.ctxCores c).foldl (fun m k => if (m.core k).ctx == some c then m.updCore k Core.stopAll else m) m

/-! ### Clearing (02 R67) -/

/-- A core clears its context state; its banks are plan configuration and stay with the context. What reaches its bollards
later is still on its way (02 R69). -/
def Hw.clearCore (m : Hw) (k : Nat) : Hw := m.setCore k { Core.cleared with inbox := (m.core k).inbox }

/-- A core keeps its position but no context: the banks stay. -/
def Hw.clearKeep (m : Hw) (k : Nat) : Hw :=
  let c := m.core k
  m.setCore k { Core.clearedWith c.fset c.route with inbox := c.inbox }

/-! ### Espor answers (14 R364, R370) -/

/-- Parameter byte `off` of a pair's request, `n` bytes. -/
def Pair.arg (p : Pair) (off n : Nat) : Nat := leNat (rdN p.req (32 + off) n)

def Pair.cmd (p : Pair) : Nat := leNat (rdN p.req 0 2)
def Pair.len (p : Pair) : Nat := leNat (rdN p.req 2 1)
def Pair.seq (p : Pair) : Nat := leNat (rdN p.req 4 2)
def Pair.ctxNo (p : Pair) : Nat := leNat (rdN p.req 6 2) % 1024
def Pair.ctxv (p : Pair) : Bool := leNat (rdN p.req 6 2) / 1024 % 2 == 1
def Pair.xaddr (p : Pair) : Nat := leNat (rdN p.req 8 8)
def Pair.xlen (p : Pair) : Nat := leNat (rdN p.req 16 4)

/-- The response of a pair: parameters and header, then STATE reads DONE. -/
def Pair.answer (p : Pair) (defer : Bool) (status detail : Nat) (out : List Byte) : Pair :=
  let h := leBytes 16 (packFields [(3, 0), (1, b2n defer), (12, 0), (16, status), (16, p.seq), (16, p.cmd), (64, detail)])
    ++ leBytes 16 out.length
  { p with resp := wrN [] 0 (h ++ out.take 224), st := .done }

/-- Firmware writes the response of pair `n`; its message follows (14 R364). -/
def Hw.answer (m : Hw) (n : Nat) (defer : Bool) (status detail : Nat) (out : List Byte) : Hw :=
  let e := m.espor
  { m with espor := { e with pairs := mset e.pairs n ((e.pair n).answer defer status detail out)
                             order := e.order.filter fun k => k != n } }.notify 1 n

end Sys2Proof.Machine
end

