-- ==== Sys2Proof/Machine/Operands.lean ====
section
/-! DEFINITION. Operand forms: the op descriptor header (02 R44), tensor descriptors (02 R54 to R57), outer loops
(02 R50), footprints (02 R485), and reading and writing rows of tensors (04 R108, R109). -/

namespace Sys2Proof.Machine

/-! ### The header -/

def OpHdr.parse (d : Nat) : OpHdr :=
  { opcode := bits d 7 0, dver := bits d 11 8, step := bitb d 12, ovl := bitb d 13, ieee := bitb d 14
    spx := bitb d 15, tru := bitb d 16, evt := bitb d 17, flow := bits d 19 18, tag := bits d 63 32
    preBol := bits d 69 64, preEn := bitb d 70, preTake := bitb d 71, preVal := BitVec.ofNat 32 (bits d 127 96)
    postCore := bits d 135 128, postBol := bits d 141 136, postEn := bitb d 142, postInc := bits d 159 144
    pro := bits d 175 160, epi := bits d 191 176, loops := (bits d 207 192 + 1, bits d 223 208 + 1, bits d 239 224 + 1) }

/-- Reserved bits of the header. -/
def hdrReserved (d : Nat) : Bool :=
  bits d 31 20 != 0 || bits d 95 72 != 0 || bitb d 143 || bits d 255 240 != 0 || bits d 19 18 == 3

/-- Instances of an op in order, level 0 innermost (02 R50). -/
def OpHdr.instances (h : OpHdr) : List (Nat × Nat × Nat) :=
  (List.range h.loops.2.2).flatMap fun j2 => (List.range h.loops.2.1).flatMap fun j1 =>
    (List.range h.loops.1).map fun j0 => (j0, j1, j2)

def OpHdr.count (h : OpHdr) : Nat := h.loops.1 * h.loops.2.1 * h.loops.2.2

def OpHdr.loop (h : OpHdr) (l : Nat) : Nat := if l = 0 then h.loops.1 else if l = 1 then h.loops.2.1 else h.loops.2.2

/-! ### Tensors -/

structure Ten where
  addr : Nat
  space : Nat
  remote : Nat
  fmt : Nat
  /-- extents of dimensions 0 to 4 -/
  size : List Nat
  /-- strides in bytes of dimensions 1 to 4 -/
  stride : List Nat
  deriving DecidableEq, Repr

def strideUnit (s : Nat) : Nat := if s = 0 then 1 else if s = 1 then 64 else if s = 2 then 4096 else 2097152

def Ten.parse (d : Nat) : Ten :=
  let space := bits d 58 57
  { addr := if space = 0 then bits d 56 0 else bits d 21 0
    space := space
    remote := if space = 2 then bits d 29 22 else 0
    fmt := bits d 62 59
    size := (List.range 5).map fun i => bits d (79 + 16 * i) (64 + 16 * i) + 1
    stride := (List.range 4).map fun i =>
      bits d (167 + 24 * i) (144 + 24 * i) * strideUnit (bits d (241 + 2 * i) (240 + 2 * i)) }

/-- Reserved bits and encodings of a tensor descriptor (02 R54). -/
def tenReserved (d : Nat) : Bool :=
  bitb d 63 || bits d 255 248 != 0 || bits d 58 57 == 3 ||
    (bits d 58 57 == 1 && bits d 56 22 != 0) || (bits d 58 57 == 2 && bits d 56 30 != 0)

def Ten.ext (t : Ten) (i : Nat) : Nat := lget t.size i 1

def Ten.str (t : Ten) (k : Nat) : Nat := if k = 0 then 0 else lget t.stride (k - 1) 0

/-- Bytes of one row. -/
def Ten.row (t : Ten) : Nat := rowBytes t.fmt (t.ext 0)

/-- Base address of an instance (02 R50). -/
def Ten.base (t : Ten) (r : Nat) (j : Nat × Nat × Nat) : Nat :=
  t.addr + j.1 * t.str r + j.2.1 * t.str (r + 1) + j.2.2 * t.str (r + 2)

/-- Addresses of the rows one instance of rank `r` reaches, dimension 1 fastest. -/
def Ten.rows (t : Ten) (r base : Nat) : List Nat :=
  match r with
  | 0 | 1 => [base]
  | 2 => (List.range (t.ext 1)).map fun i => base + i * t.str 1
  | _ => (List.range (t.ext 2)).flatMap fun k => (List.range (t.ext 1)).map fun i => base + i * t.str 1 + k * t.str 2

/-- First bytes of the rows that rank 5 reaches (07 R199): every index of every dimension. -/
def Ten.allRows (t : Ten) : List Nat :=
  (List.range (t.ext 4)).flatMap fun a => (List.range (t.ext 3)).flatMap fun b =>
    (t.rows 3 (t.addr + a * t.str 4 + b * t.str 3))

/-- Rows of the footprint of an operand of rank `r`, over every instance (02 R485). -/
def Ten.footRows (t : Ten) (r : Nat) (h : OpHdr) : List Nat :=
  h.instances.flatMap fun j => t.rows r (t.base r j)

/-- Footprint as intervals: first byte and length. -/
def Ten.foot (t : Ten) (r : Nat) (h : OpHdr) : List (Nat × Nat) := (t.footRows r h).map fun a => (a, t.row)

def overlaps (a b : List (Nat × Nat)) : Bool := a.any fun x => b.any fun y => x.1 < y.1 + y.2 && y.1 < x.1 + x.2

/-- Two operands may share bytes only in one space (and one hold). -/
def Ten.sameSpace (s t : Ten) (core : Nat) : Bool :=
  let p (x : Ten) : Nat := if x.space = 0 then 256 else if x.space = 1 then core else x.remote
  p s == p t

/-- Row geometry (02 R56). -/
def Ten.geomOk (t : Ten) : Bool :=
  (!fmtBlock t.fmt || t.ext 0 % 32 == 0) && (t.fmt != 0xA || t.ext 0 % 2 == 0)

def fmtAlign (f : Nat) : Nat :=
  if f = 0 || f = 0xD || f = 0xE then 4 else if f = 1 || f = 2 then 2 else 1

def Ten.alignOk (t : Ten) : Bool :=
  t.addr % fmtAlign t.fmt == 0 && t.stride.all fun s => s % fmtAlign t.fmt == 0

/-- Outer loops (02 R50) for an operand of rank `r`. -/
def Ten.loopOk (t : Ten) (r : Nat) (h : OpHdr) : Bool :=
  (List.range 3).all fun l =>
    h.loop l == 1 || (r + l ≤ 4 && (t.str (r + l) == 0 || h.loop l ≤ t.ext (r + l)))

/-- Bytes of the elements `i` up to `i + n` of a row without blocks, and the first byte. -/
def Ten.part (t : Ten) (row i n : Nat) : Nat × Nat :=
  let a := row + i * fmtBits t.fmt / 8
  (a, row + ceilDiv ((i + n) * fmtBits t.fmt) 8 - a)

/-! ### An op's surroundings -/

structure Env where
  m : Hw
  core : Nat
  ctx : Nat
  thread : Nat
  plan : Plan
  /-- the descriptor as a number -/
  d : Nat
  h : OpHdr
  /-- address of the descriptor -/
  addr : Nat
  /-- output width of an op whose rows are positions of a map, 0 for rows of dimension 1; and its tile -/
  ow : Nat
  tile : Nat
  /-- what its loads from device-window pages answered (07 R194) -/
  seen : List (Nat × List Byte)

def Env.tenDesc (e : Env) (i : Nat) : Nat := leNat (e.m.peek e.ctx (e.plan.tenTbl + 32 * i) 32)

/-- The tensor a 16-bit field of the descriptor names. -/
def Env.ten (e : Env) (i : Nat) : Ten := Ten.parse (e.tenDesc i)

def Env.opt (e : Env) (i : Nat) : Option Ten := if i = 0xFFFF then none else some (e.ten i)

def Env.field (e : Env) (hi lo : Nat) : Nat := bits e.d hi lo

/-- The hold a tensor lies in. -/
def Env.holdOf (e : Env) (t : Ten) : Nat := if t.space = 2 then t.remote else e.core

/-- Bytes at an address, with those that loads have answered in their place. -/
def patched (seen : List (Nat × List Byte)) (a : Nat) (bs : List Byte) : List Byte :=
  if seen.isEmpty then bs
  else (List.zip (List.range bs.length) bs).map fun p =>
    match seen.find? fun s => s.1 ≤ a + p.1 && a + p.1 < s.1 + s.2.length with
    | some s => s.2.getD (a + p.1 - s.1) p.2
    | none => p.2

/-- Bytes of a tensor's space at an address. -/
def Env.read (e : Env) (t : Ten) (a n : Nat) : List Byte :=
  if t.space = 0 then patched e.seen a (e.m.peek e.ctx a n) else rdN (e.m.core (e.holdOf t)).hold a n

/-- The row of a tensor at an address. -/
def Env.row (e : Env) (t : Ten) (a : Nat) : RowV := rowDecode t.fmt (t.ext 0) (e.read t a t.row)

def Env.rowVals (e : Env) (t : Ten) (a : Nat) : List FV := (e.row t a).vals

/-- Element `i` of the row at `a`, for formats without blocks. -/
def Env.elem (e : Env) (t : Ten) (a i : Nat) : FV :=
  let b := fmtBits t.fmt
  let p := t.part a i 1
  elemDecode t.fmt (bits (leNat (e.read t p.1 p.2)) (i * b % 8 + b - 1) (i * b % 8))

/-- The signed INT32 value of element `i` of the row at `a`. -/
def Env.int32 (e : Env) (t : Ten) (a i : Nat) : Int := signed 32 (leNat (e.read t (a + 4 * i) 4))

/-- An operand's reads as memory requests: nothing for a hold. -/
def Ten.loads (t : Ten) (l : List (Nat × Nat)) : List (Nat × Nat) := if t.space = 0 then l else []

def Ten.ownHold (t : Ten) : Bool := t.space == 1

/-- Address of data row `row` of an operand shaped as the data: rank 2, or rank 3 for positions of a map (05 R132, 09 R242,
R246). -/
def Env.rowAddr (e : Env) (t : Ten) (j : Nat × Nat × Nat) (row : Nat) : Nat :=
  if e.ow = 0 then t.base 2 j + row * t.str 1
  else t.base 3 j + e.tile * t.str 3 + row / e.ow * t.str 2 + row % e.ow * t.str 1

/-! ### What an op body gives -/

/-- A write of an op's output. -/
structure Wr where
  space : Nat
  core : Nat
  addr : Nat
  bytes : List Byte

structure Body where
  loads : List (Nat × Nat)
  wrs : List Wr
  accs : List (Nat × Word32)
  /-- drain latches while its tiles drain (03 R73) -/
  latches : List (Nat × Word32)
  /-- weight registers it leaves (03 R74, R75) -/
  weights : List (Nat × Word32)
  /-- loads whose outcome the feeder discards (03 R94) -/
  quiet : List (Nat × Nat)
  /-- stores that go before `wrs`, and what the op reads back of them (08 R228) -/
  early : List Wr
  back : List (Nat × Nat)
  /-- reads of other cores' holds: core and bytes (02 R32) -/
  remote : List (Nat × Nat)
  counts : List (Nat × Nat)
  conv : Conv
  /-- cycles from start when every operand lies in the core's own hold -/
  cycles : Nat
  seq : Option SeqOp
  /-- pages an append opens (07 R206) -/
  opened : List Opened
  seqs : List Nat
  predict : Option (Nat × List Bool)
  rets : List (Nat × Nat)
  fault : Option OpFault

def Body.empty : Body := ⟨[], [], [], [], [], [], [], [], [], [], Conv.zero, 0, none, [], [], none, [], none⟩

def Env.wr (e : Env) (t : Ten) (a : Nat) (bs : List Byte) : Wr := ⟨t.space, e.holdOf t, a, bs⟩

/-- One output row from its values. -/
def Env.out (e : Env) (t : Ten) (a : Nat) (xs : List FV) : Wr × Conv :=
  let r := rowEncode t.fmt e.h.ieee xs
  (e.wr t a r.1, Conv.ofNotes r.2)

/-- Rows of output, with what their conversion counts. -/
def Env.outs (e : Env) (t : Ten) (rows : List (Nat × List FV)) : List Wr × Conv :=
  let rs := rows.map fun p => e.out t p.1 p.2
  (rs.map (·.1), rs.foldl (fun a p => a.add p.2) Conv.zero)

/-- Elements `i` onward of a row in a format without blocks: whole bytes. -/
def Env.outPart (e : Env) (t : Ten) (row i : Nat) (xs : List FV) : Wr × Conv :=
  let es := xs.map (elemConvert t.fmt e.h.ieee)
  let p := t.part row i xs.length
  (e.wr t p.1 (leBytes p.2 (packBits (fmtBits t.fmt) (es.map (·.1)))), Conv.ofNotes (es.map (·.2)))

/-- Cycles only where every operand lies in the core's own hold. -/
def cyclesIf (ts : List Ten) (n : Nat) : Nat := if ts.all Ten.ownHold then n else 0

end Sys2Proof.Machine
end

