-- ==== Sys2Proof/Machine/Elementary.lean ====
section
/-! DEFINITION. The exact elementary functions that the error bounds of the special-function unit refer to (05 R148, R149),
in fixed point with 512 fractional bits. Every value formed here differs from the mathematical one by less than 2^−480. -/

namespace Sys2Proof.Machine

/-- Fractional bits. -/
def fxBits : Nat := 512

def fxOne : Int := 2 ^ fxBits

/-- The fixed-point image of m × 2^e with a sign, rounded down in magnitude. -/
def fxOf (s : Bool) (m : Nat) (e : Int) : Int :=
  let k := e + (fxBits : Int)
  let a : Nat := if 0 ≤ k then m <<< k.toNat else m >>> (-k).toNat
  if s then -(a : Int) else (a : Int)

def fxMul (a b : Int) : Int := a * b / fxOne
def fxDiv (a b : Int) : Int := a * fxOne / b

def isqrtN : Nat → Nat → Nat → Nat
  | 0, lo, _ => lo
  | f + 1, lo, n =>
    -- lo is a lower bound built bit by bit from 2^f down
    let c := lo + 2 ^ f
    isqrtN f (if c * c ≤ n then c else lo) n

/-- floor of the square root. -/
def isqrt (n : Nat) : Nat := isqrtN (n.log2 / 2 + 1) 0 n

def fxSqrt (a : Int) : Int := (isqrt (a.toNat <<< fxBits) : Int)

/-- Sum of a series: each term is formed from the one before and its index. -/
def fxSeries (n : Nat) (first : Int) (next : Nat → Int → Int) (value : Nat → Int → Int) : Int :=
  ((List.range n).foldl (fun (p : Int × Int) i => (next i p.1, p.2 + value i p.1)) (first, 0)).2

/-- Σ z^(2i + 1) / (2i + 1), with alternating signs where `alt`: atan or artanh of a |z| ≤ 1/3. -/
def fxOdd (alt : Bool) (z : Int) : Int :=
  let q := if alt then -(fxMul z z) else fxMul z z
  fxSeries 200 z (fun _ t => fxMul t q) fun i t => t / (2 * i + 1 : Nat)

def fxLn2 : Int := 2 * fxOdd false (fxOne / 3)

/-- π = 16 atan(1/5) − 4 atan(1/239). -/
def fxPi : Int := 16 * fxOdd true (fxOne / 5) - 4 * fxOdd true (fxOne / 239)

/-- e^x. -/
def fxExp (x : Int) : Int :=
  let k := x / fxLn2
  let r := x - k * fxLn2
  let s := fxSeries 120 fxOne (fun i t => fxMul t r / (i + 1 : Nat)) fun _ t => t
  if 0 ≤ k then s * 2 ^ k.toNat else s / 2 ^ (-k).toNat

/-- ln x of a positive x, from x = t × 2^k with 1 ≤ t < 2 and ln t = 2 artanh((t − 1) / (t + 1)). -/
def fxLn (x : Int) : Int :=
  let k : Int := (x.toNat.log2 : Int) - (fxBits : Int)
  let t := if 0 ≤ k then x / 2 ^ k.toNat else x * 2 ^ (-k).toNat
  k * fxLn2 + 2 * fxOdd false (fxDiv (t - fxOne) (t + fxOne))

/-- sin x and cos x after reduction by 2π. -/
def fxSinCos (cos : Bool) (x : Int) : Int :=
  let p := 2 * fxPi
  let r := x - x / p * p
  let q := fxMul r r
  let o : Nat := if cos then 1 else 2
  fxSeries 160 (if cos then fxOne else r) (fun i t => -(fxMul t q / ((2 * i + o) * (2 * i + o + 1) : Nat))) fun _ t => t

/-- erf x = 2/√π × Σ (−1)^i x^(2i+1) / (i! (2i + 1)), for |x| < 8. -/
def fxErf (x : Int) : Int :=
  let q := fxMul x x
  fxDiv (2 * fxSeries 460 x (fun i t => -(fxMul t q / (i + 1 : Nat))) fun i t => t / (2 * i + 1 : Nat)) (fxSqrt fxPi)

/-- 1 / (1 + e^−x). -/
def fxSigmoid (x : Int) : Int := fxDiv fxOne (fxOne + fxExp (-x))

/-- The exact value of built-in function FUNC at a number inside its input range. Below −400 the exponentials of SIGMOID,
SILU and SOFTPLUS are less than 2^−480. -/
def fxFunc (func : Nat) (x : Int) : Int :=
  let c := max x (-400 * fxOne)
  match func with
  | 0x01 => fxExp x
  | 0x02 => fxExp (fxMul x fxLn2)
  | 0x03 => fxLn x
  | 0x04 => fxDiv (fxLn x) fxLn2
  | 0x05 => fxDiv fxOne x
  | 0x06 => fxDiv fxOne (fxSqrt x)
  | 0x07 => fxSqrt x
  | 0x08 =>
    let e := fxExp (2 * x)
    fxDiv (e - fxOne) (e + fxOne)
  | 0x09 => fxSigmoid c
  | 0x0A => fxMul c (fxSigmoid c)
  | 0x0B => fxMul x (fxOne + fxErf (fxDiv x (fxSqrt (2 * fxOne)))) / 2
  | 0x0C => fxErf x
  | 0x0D => fxLn (fxOne + fxExp c)
  | 0x0E => fxSinCos false x
  | _ => fxSinCos true x

end Sys2Proof.Machine
end

