-- ==== Sys2Proof/Machine/Sfu.lean ====
section
/-! DEFINITION. The special-function unit: built-in functions with their special results and ranges (05 R148, R149) and
micro-programmed functions (05 R151 to R154). Where the spec gives a built-in result only within an error bound, the
results are a free function among those that keep the bounds and the monotone intervals of R150 (log 7). -/

namespace Sys2Proof.Machine

/-- An exact rational constant n / 100 against a value: v < n / 100. -/
def FV.ltC (v : FV) (n : Int) : Bool := (v.mul (FV.ofInt 100)).lt (FV.ofInt n)
def FV.leC (v : FV) (n : Int) : Bool := (v.mul (FV.ofInt 100)).le (FV.ofInt n)

def f32inf (neg : Bool) : Word32 := if neg then 0xFF800000#32 else 0x7F800000#32
def f32negZero : Word32 := 0x80000000#32

/-- The results that R149 states exactly: special inputs, and the ends of the input ranges. -/
def sfuExact (func : Nat) (x : FV) (wx : Word32) : Option Word32 :=
  let sgn (r : Word32) : Word32 := if x.sign then r ||| 0x80000000#32 else r
  match func with
  | 0x01 => if !(x.leC 8872) then some (f32inf false) else if x.ltC (-10397) then some f32zero else none
  | 0x02 => if !(x.ltC 12800) then some (f32inf false) else if x.ltC (-15000) then some f32zero else none
  | 0x03 | 0x04 =>
    if x.isZero then some (f32inf true) else if x.sign then some f32nan else if x.isInf then some (f32inf false) else none
  | 0x05 => if x.isZero then some (f32inf x.sign) else if x.isInf then some (sgn f32zero) else none
  | 0x06 =>
    if x.isZero then some (f32inf x.sign) else if x.sign then some f32nan else if x.isInf then some f32zero else none
  | 0x07 => if x.isZero then some wx else if x.sign then some f32nan else if x.isInf then some (f32inf false) else none
  | 0x08 => if x.abs.lt (FV.pow2 (-12)) then some wx else if !(x.abs.ltC 900) then some (sgn f32one) else none
  | 0x09 => if !(x.ltC 1750) then some f32one else if x.ltC (-10397) then some f32zero else none
  | 0x0A => if !(x.ltC 1750) then some wx else none
  | 0x0B => if !(x.leC 1000) then some wx else if x.ltC (-1000) then some f32negZero else none
  | 0x0C => if !(x.abs.ltC 392) then some (sgn f32one) else none
  | 0x0D => if !(x.ltC 2000) then some wx else none
  | _ => if x.isInf then some f32nan else none

/-- An error bound of R149: in ulp of the exact value, absolute as a power of two, or only the range [−1, 1]. -/
inductive SfuBound where
  | ulps (k : Nat)
  | within (e : Int)
  | unit
  deriving DecidableEq, Repr

/-- The bound for an input whose result is not stated exactly. -/
def sfuBound (func : Nat) (x : FV) : SfuBound :=
  match func with
  | 0x01 => if x.ltC (-8733) then .within (-149) else .ulps 1
  | 0x02 => if x.ltC (-12600) then .within (-149) else .ulps 1
  | 0x03 | 0x04 => if (FV.num false 31 (-5)).le x && x.le (.num false 33 (-5)) then .ulps 2 else .ulps 1
  | 0x05 => if (FV.pow2 126).lt x.abs then .within (-149) else .ulps 1
  | 0x06 | 0x07 => .ulps 1
  | 0x08 => if x.abs.lt (FV.pow2 (-1)) then .ulps 2 else .ulps 1
  | 0x09 => if x.ltC (-8733) then .within (-149) else .ulps 2
  | 0x0A => if x.ltC (-8733) then .within (-140) else .ulps 3
  | 0x0B => .ulps 3
  | 0x0C => if x.abs.lt (FV.pow2 (-12)) then .ulps 1 else .ulps 2
  | 0x0D => .ulps 2
  | _ =>
    if (FV.pow2 17).lt x.abs then .unit
    else match x with
      | .num _ m e => if 4 * fxOf false m e ≤ fxPi then .ulps 1 else .within (-24)
      | _ => .unit

/-- Exponent of ulp(y) for a y with floor(log2 |y|) = l (05 R148). -/
def ulpExp (l : Int) : Int := max l (-126) - 23

/-- The exact value in fixed point: SILU and SOFTPLUS, whose ranges below the table's last have no end, approach 0 at −∞. -/
def sfuValue (func : Nat) : FV → Option Int
  | .num s m e => some (fxFunc func (fxOf s m e))
  | .inf true => if func = 0x0A || func = 0x0D then some 0 else none
  | _ => none

/-- EXP2 keeps the p̂ of 08 R217 in their range: no negative zero, at most 1 up to 0, and at least 1/2 above −1. -/
def sfuRange (func : Nat) (x : FV) (r : Word32) : Bool :=
  func != 0x02 || (!(f32v r).sign && (!x.le FV.zero || (f32v r).le (FV.pow2 0))
    && (!(FV.num true 1 0).le x || (FV.pow2 (-1)).le (f32v r)))

/-- A result is within the bound of the exact value, up to the 2^−480 by which that is known. -/
def sfuWithin (func : Nat) (x : FV) (r : Word32) : Bool :=
  match sfuValue func x with
  | some y =>
    let b := sfuBound func x
    let slack : Nat := 2 ^ 32
    let tol : Int := match b with
      | .ulps k => k * fxOf false 1 (ulpExp (((y.natAbs + slack).log2 : Int) - (fxBits : Int)))
      | .within k => fxOf false 1 k
      | .unit => 0
    (match f32v r with
     | .num t n d =>
       if b == .unit then (FV.num false n d).le (FV.pow2 0) else decide ((fxOf t n d - y).natAbs ≤ tol.toNat + slack)
     -- a value beyond the format is an infinity
     | .inf t => t == decide (y < 0) && b != .unit && decide (fxOf false 1 128 ≤ y.natAbs + tol)
     | .nan => false)
  | none => false

/-- The intervals of R150, with the direction: true where the function increases. -/
def sfuMonotone (func : Nat) : List ((FV → Bool) × Bool) :=
  let all (_ : FV) : Bool := true
  let nonneg (x : FV) : Bool := !x.sign || x.isZero
  let pos (x : FV) : Bool := !x.sign && !x.isZero && !x.isInf
  let neg (x : FV) : Bool := x.sign && !x.isZero && !x.isInf
  -- x ≥ −n / 100,000
  let above (n : Int) (x : FV) : Bool := (FV.ofInt (-n)).le (x.mul (FV.ofInt 100000))
  let below (n : Int) (x : FV) : Bool := (x.mul (FV.ofInt 100000)).le (FV.ofInt (-n))
  match func with
  | 0x01 | 0x02 | 0x08 | 0x09 | 0x0C | 0x0D => [(all, true)]
  | 0x03 | 0x04 | 0x07 => [(nonneg, true)]
  | 0x05 => [(pos, false), (neg, false)]
  | 0x06 => [(pos, false)]
  | 0x0A => [(above 127846, true), (below 127846, false)]
  | 0x0B => [(above 75179, true), (below 75179, false)]
  | _ => []

/-- The unit's function with `f` for the results that are not stated exactly; NaN gives the canonical NaN. -/
def sfuWith (f : Word32 → Word32) (func : Nat) (w : Word32) : Word32 :=
  if (f32v w).isNan then f32nan else (sfuExact func (f32v w) w).getD (f w)

/-- `f` keeps the bounds of R149 and the range of 08 R217 at every input and never steps backward on the intervals of R150. A function has one value
at a seam, so the polynomials on either side agree there. -/
def sfuLawful (func : Nat) (f : Word32 → Word32) : Bool :=
  decide ((∀ w : Word32, (f32v w).isNan ∨ (sfuExact func (f32v w) w).isSome ∨
      (sfuWithin func (f32v w) (f w) ∧ sfuRange func (f32v w) (f w))) ∧
    ∀ a b : Word32, (f32v a).lt (f32v b) → ∀ i ∈ sfuMonotone func, i.1 (f32v a) → i.1 (f32v b) →
      (if i.2 then (f32v (sfuWith f func a)).le (f32v (sfuWith f func b))
        else (f32v (sfuWith f func b)).le (f32v (sfuWith f func a))))

/-- The exact value rounded once. -/
def sfuNearest (func : Nat) (w : Word32) : Word32 :=
  match sfuValue func (f32v w) with
  | some y =>
    if sfuBound func (f32v w) == .unit then f32zero
    else rne32 (.num (y < 0) y.natAbs (-(fxBits : Int)))
  | none => f32nan

/-- Built-in function FUNC (05 R149, R150): the hardware's coefficients, which the spec does not give, are a free function
among those that keep the rules (log 7). -/
def builtin (func : Nat) (w : Word32) : Word32 :=
  sfuWith (if sfuLawful func (Config.sfu func) then Config.sfu func else sfuNearest func) func w

def fexp (w : Word32) : Word32 := builtin 0x01 w
def frecip (w : Word32) : Word32 := builtin 0x05 w
def frsqrt (w : Word32) : Word32 := builtin 0x06 w
def ftanh (w : Word32) : Word32 := builtin 0x08 w
def fsigmoid (w : Word32) : Word32 := builtin 0x09 w

/-! ### Micro-programmed functions -/

structure Micro where
  v : List Word32
  /-- latched coefficient entry c0 to c3; none before the first LUT -/
  lut : Option (Nat × Nat × Nat × Nat)
  deriving DecidableEq, Repr

def imgNat (img : List Byte) (off n : Nat) : Nat := leNat ((img.drop off).take n)

/-- Rounding to an integral value, sign of zero kept (05 R153). -/
def rint (mode : Nat) (x : FV) : FV :=
  match x with
  | .num s m e =>
    let i : Int := if mode = 0 then rneInt s m e else if mode = 1 then floorInt s m e
      else (if s then -(floorInt false m e) else floorInt false m e)
    if i = 0 then .num s 0 0 else FV.ofInt i
  | y => y

/-- SA × 2^SB for an integer SB; the spec states no result for another SB (log 7). -/
def ldexp (a b : Word32) : Word32 :=
  match f32v b with
  | .num s m e =>
    let i := floorInt s m e
    if (FV.ofInt i).le (.num s m e) && (FV.num s m e).le (FV.ofInt i) then
      rne32 ((f32v a).mul (FV.pow2 (max (-1000) (min 1000 i))))
    else Config.sfu 0x100 b
  | _ => Config.sfu 0x100 b

def Micro.get (u : Micro) (i : Nat) : Word32 := lget u.v i f32zero

/-- One micro-word on a lane. -/
def microStep (img : List Byte) (u : Micro) (w : Nat) : Micro :=
  let op := bits w 5 0
  let dst := bits w 8 6
  let sa := u.get (bits w 11 9)
  let sb := u.get (bits w 14 12)
  let imm := BitVec.ofNat 32 (bits w 63 32)
  let mode := bits w 23 16
  let b := if mode % 2 = 1 then imm else sb
  let set (r : Word32) : Micro := { u with v := lset u.v dst r }
  match op with
  | 0x01 => set (fadd sa b)
  | 0x02 => set (fmul sa b)
  | 0x03 => set (ffma sa b (u.get dst))
  | 0x04 => set (fmin sa b)
  | 0x05 => set (fmax sa b)
  | 0x06 => set (rne32 (rint (bits mode 2 1) (f32v sa)))
  | 0x07 =>
    let i : Nat := match f32v sa with
      | .nan => 0
      | .inf s => if s then 0 else 1023
      | .num s m e => (max 0 (min 1023 (floorInt s m e))).toNat
    { u with lut := some (imgNat img (16 * i) 4, imgNat img (16 * i + 4) 4, imgNat img (16 * i + 8) 4,
                          imgNat img (16 * i + 12) 4) }
  | 0x08 =>
    let c (n : Nat) : Word32 := BitVec.ofNat 32 n
    (match u.lut with
     | none => set (Config.sfu 0x101 sa)
     | some l => set (ffma (ffma (ffma (c l.2.2.2) sa (c l.2.2.1)) sa (c l.2.1)) sa (c l.1)))
  | 0x09 => set (ldexp sa sb)
  | 0x0A => if (f32v sa).lt (f32v imm) then set sb else u
  | 0x0B =>
    if (f32v sa).isNan then set f32nan
    else if mode.testBit 1 then set (sa ^^^ 0x80000000#32) else set (sa &&& 0x7FFFFFFF#32)
  | _ => u

def fsetEntry (img : List Byte) (i : Nat) : Nat := imgNat img (0x4800 + 2 * i) 2

/-- Entry `i` is marked valid. -/
def fsetValid (img : List Byte) (i : Nat) : Bool := bitb (fsetEntry img i) 15

/-- The micro-words of entry `i`. -/
def fsetWords (img : List Byte) (i : Nat) : List Nat :=
  let e := fsetEntry img i
  (List.range (bits e 14 8)).map fun j => imgNat img (0x4000 + 8 * (bits e 7 0 + j)) 8

/-- Step count s of entry `i`. -/
def fsetSteps (img : List Byte) (i : Nat) : Nat := bits (fsetEntry img i) 14 8 - 1

def microRun (img : List Byte) (i : Nat) (x : Word32) : Word32 :=
  let u0 : Micro := ⟨x :: List.replicate 7 f32zero, none⟩
  ((fsetWords img i).foldl (microStep img) u0).get 0

/-- An SFU stage: built-in below 0x10, entry FUNC − 0x80 of the function set from 0x80. -/
def sfuStage (img : List Byte) (func : Nat) (x : Word32) : Word32 :=
  if func < 0x80 then builtin func x else microRun img (func - 0x80) x

end Sys2Proof.Machine
end

