-- ==== Sys2Proof/Machine/Chain.lean ====
section
/-! DEFINITION. Prologue and epilogue chains (05 R126 to R135), row statistics (05 R137 to R139) and their application
(05 R141, R147). A chain works on one row at a time; the rules make every element's result independent of the tiles. -/

namespace Sys2Proof.Machine

/-- A stage word (05 R129). -/
structure Stage where
  kind : Nat
  bcast : Nat
  func : Nat
  opnd : Nat
  aux : Nat
  aux2 : Nat
  imm : Word32
  imm2 : Word32
  deriving DecidableEq, Repr

def Stage.parse (w : Nat) : Stage :=
  { kind := bits w 5 0, bcast := bits w 7 6, func := bits w 15 8, opnd := bits w 31 16, aux := bits w 47 32
    aux2 := bits w 63 48, imm := BitVec.ofNat 32 (bits w 95 64), imm2 := BitVec.ofNat 32 (bits w 127 96) }

def chainStages (d : Nat) : List Stage :=
  ((List.range 8).map fun s => Stage.parse (bits d (128 * s + 127) (128 * s))).takeWhile fun s => s.kind != 0

/-- The chain a header index names. -/
def Env.chain (e : Env) (i : Nat) : List Stage :=
  if i = 0xFFFF then [] else chainStages (leNat (e.m.peek e.ctx (e.plan.chainTbl + 128 * i) 128))

def Env.epi (e : Env) : List Stage := e.chain e.h.epi
def Env.pro (e : Env) : List Stage := e.chain e.h.pro

/-- One element inside a chain: its FP32 value, masked or not, what conversions did to it, and what the conversion of a T2
block scale did in the block it begins (04 R487). -/
structure Cell where
  v : Word32
  masked : Bool
  note : Note
  more : List Note
  deriving DecidableEq, Repr

def Note.or (a b : Note) : Note := if a = .none then b else a

/-- What the conversions of a row of cells count, its own conversion's notes `r` among them: per element once, and per T2
block scale (04 R487). -/
def cellNotes (ys : List Cell) (r : List Note) : List Note :=
  ((List.zip ys r).map fun p => p.1.note.or p.2) ++ r.drop ys.length ++ ys.flatMap (·.more)

/-- What the conversions inside a chain count for cells that are not converted again. -/
def chainNotes (ys : List Cell) : List Note := ys.map (·.note) ++ ys.flatMap (·.more)

/-- −2^100 (05 R133). -/
def maskValue : Word32 := 0xF1800000#32

/-- Stage operand per column: rank and shape by BCAST (05 R132), with what its conversion counts for the element it meets. -/
def Env.operand (e : Env) (bcast ten : Nat) (imm : Word32) (j : Nat × Nat × Nat) (row n : Nat) : List (Word32 × Note) :=
  if bcast = 3 || ten = 0xFFFF then List.replicate n (imm, .none)
  else
    let t := e.ten ten
    match bcast with
    | 0 => (e.rowVals t (e.rowAddr t j row)).map (toF32 e.h.ieee)
    | 1 => (e.rowVals t (t.base 1 j)).map (toF32 e.h.ieee)
    | _ => List.replicate n (toF32 e.h.ieee ((e.row t (t.base 1 j)).val row))

/-- The mask bit of each position (05 R133). -/
def Env.maskBits (e : Env) (t : Ten) (bcast : Nat) (j : Nat × Nat × Nat) (row n : Nat) : List Bool :=
  let a := if bcast = 0 then e.rowAddr t j row else t.base 1 j
  let bs := e.read t a (ceilDiv n 8)
  (List.range n).map fun i => bitb (lget bs (i / 8) 0#8).toNat (i % 8)

def zipCells (f : Word32 → Word32 → Word32) (xs : List Cell) (as : List (Word32 × Note)) : List Cell :=
  (List.zip xs as).map fun p => { p.1 with v := f p.1.v p.2.1, note := p.1.note.or p.2.2 }

/-! ### Statistics (05 R138, R139) -/

/-- The four elements of one block's entry. -/
structure StatBlk where
  c : Word32
  s1 : Word32
  s2 : Word32
  n : Word32
  deriving DecidableEq, Repr

def f32ofNat (n : Nat) : Word32 := rne32 (.num false n 0)

/-- MOMENT mode over the counted values of a block. -/
def statMoment (shift : Nat) (est : Word32) (xs : List Word32) : StatBlk :=
  match xs with
  | [] => ⟨f32zero, f32zero, f32zero, f32zero⟩
  | x :: _ =>
    let c := if shift = 0 then f32zero else if shift = 1 then x else est
    let r := xs.foldl (fun (p : Word32 × Word32) v =>
      let d := fsub v c
      (fadd p.1 d, fadd p.2 (fmul d d))) (f32zero, f32zero)
    ⟨c, r.1, r.2, f32ofNat xs.length⟩

/-- EXPSUM mode over the counted values of a block. -/
def statExpsum (xs : List Word32) : StatBlk :=
  match xs with
  | [] => ⟨maskValue, f32zero, f32zero, f32zero⟩
  | x :: t =>
    let m := t.foldl fmax (if (f32v x).isNan then f32nan else x)
    ⟨m, xs.foldl (fun s v => fadd s (fexp (fsub v m))) f32zero, f32zero, f32ofNat xs.length⟩

/-- The entries of a row from its values, masked positions not counted. -/
def rowStats (mode shift : Nat) (est : Word32) (xs : List (Word32 × Bool)) : List StatBlk :=
  (chunks 32 (xs.length + 1) xs).map fun b =>
    let vs := (b.filter fun p => !p.2).map (·.1)
    if mode = 0 then statMoment shift est vs else statExpsum vs

/-- Blocks that take part. -/
def liveBlocks (bs : List StatBlk) : List StatBlk := bs.filter fun b => FV.zero.lt (f32v b.n)

/-- What a row's finishing needs: a function from x and the column's γ and β to y (05 R141). -/
inductive Finish where
  | zero
  | norm (mu r : Word32)
  | rms (r : Word32)
  | softmax (m rs : Word32)
  deriving DecidableEq, Repr

def finishOf (mode : Nat) (eps : Word32) (all : List StatBlk) : Finish :=
  let bs := liveBlocks all
  let n := bs.foldl (fun a b => a.add (f32v b.n)) FV.zero
  match bs with
  | [] => .zero
  | b0 :: _ =>
    let two : Word32 := 0x40000000#32
    match mode with
    | 0 =>
      let ref := b0.c
      let t := bs.foldl (fun t b => fadd t (fadd (fmul b.n (fsub b.c ref)) b.s1)) f32zero
      let mu := fadd ref (fdiv (f32v t) n)
      let q := bs.foldl (fun q b =>
        let d := fsub b.c mu
        fadd q (fadd b.s2 (fmul d (fadd (fmul two b.s1) (fmul b.n d))))) f32zero
      let v := fmax (fdiv (f32v q) n) f32zero
      .norm mu (frsqrt (fadd v eps))
    | 1 =>
      let q := bs.foldl (fun q b =>
        fadd q (fadd b.s2 (fmul b.c (fadd (fmul two b.s1) (fmul b.n b.c))))) f32zero
      .rms (frsqrt (fadd (fmax (fdiv (f32v q) n) f32zero) eps))
    | _ =>
      let m := bs.foldl (fun m b => fmax m b.c) b0.c
      -- a block of −∞ alone adds +0 unless every counted value is −∞ (R147)
      let s := bs.foldl (fun s b =>
        if f32v b.c == .inf true && f32v m != .inf true then s
        else fadd s (fmul b.s1 (fexp (fsub b.c m)))) f32zero
      .softmax m (frecip s)

/-- The finished value of a position that is not masked; a softmax value is at most 1 (05 R147). -/
def Finish.apply (f : Finish) (x g b : Word32) : Word32 :=
  match f with
  | .zero => f32zero
  | .norm mu r => fadd (fmul (fmul (fsub x mu) r) g) b
  | .rms r => fadd (fmul (fmul x r) g) b
  | .softmax m rs => fmin (fmul (fexp (fsub x m)) rs) f32one

def finishRow (f : Finish) (xs : List Cell) (gs bs : List (Word32 × Note)) : List Cell :=
  (List.zip xs (List.zip gs bs)).map fun p =>
    { p.1 with v := if p.1.masked then f32zero else f.apply p.1.v p.2.1.1 p.2.2.1
               note := (p.1.note.or p.2.1.2).or p.2.2.2 }

/-- Block entries of a row of a statistics tensor: FP32 results as they were formed, so that every way of finishing the row
gives the same bits (05 R142; log 47). -/
def Env.statRow (e : Env) (t : Ten) (a : Nat) : List StatBlk :=
  (chunks 4 (t.ext 0 + 1) ((e.rowVals t a).map rne32)).map fun q =>
    ⟨lget q 0 0#32, lget q 1 0#32, lget q 2 0#32, lget q 3 0#32⟩

/-- γ or β per column: a constant where the tensor is absent. -/
def Env.column (e : Env) (ten : Nat) (dflt : Word32) (j : Nat × Nat × Nat) (n : Nat) : List (Word32 × Note) :=
  e.operand 1 ten dflt j 0 n

/-- The shift estimate of a row. It is no element of a result, so its conversion counts nothing (05 R138; log 47). -/
def Env.estimate (e : Env) (ten : Nat) (j : Nat × Nat × Nat) (row : Nat) : Word32 :=
  (lget (e.operand 2 ten f32zero j row 1) 0 (f32zero, .none)).1

/-! ### Running a chain -/

/-- One stage on row `row` of instance `j`. A ROWNORM takes its estimate from OPND, γ from AUX, β from AUX2, ε from IMM
and its immediate shift from IMM2; an APPLY takes ST from OPND, γ, β and ε alike (log 14). -/
def Env.stage (e : Env) (img : List Byte) (j : Nat × Nat × Nat) (row : Nat) (xs : List Cell) (s : Stage) : List Cell :=
  let n := xs.length
  let a := e.operand s.bcast s.opnd s.imm j row n
  match s.kind with
  | 0x01 => zipCells fadd xs a
  | 0x02 => zipCells fmul xs a
  | 0x03 =>
    let b := if s.aux = 0xFFFF then List.replicate n (s.imm2, Note.none) else e.operand s.bcast s.aux s.imm2 j row n
    (List.zip xs (List.zip a b)).map fun p =>
      { p.1 with v := ffma p.1.v p.2.1.1 p.2.2.1, note := (p.1.note.or p.2.1.2).or p.2.2.2 }
  | 0x04 => zipCells fmax xs a
  | 0x05 => zipCells fmin xs a
  | 0x06 => xs.map fun x => { x with v := fmin (fmax x.v s.imm) s.imm2 }
  | 0x07 => xs.map fun x => { x with v := sfuStage img s.func x.v }
  | 0x08 =>
    (List.zip xs (e.maskBits (e.ten s.opnd) s.bcast j row n)).map fun p =>
      if p.2 then { p.1 with v := maskValue, masked := true } else p.1
  | 0x09 =>
    let f := s.func % 16
    let r := rowEncode f e.h.ieee (xs.map fun x => f32v x.v)
    let back := (rowDecode f n r.1).vals
    (List.zip (List.range n) (List.zip xs (List.zip back r.2))).map fun p =>
      { p.2.1 with v := rne32 p.2.2.1, note := p.2.1.note.or p.2.2.2
                   more := p.2.1.more ++ (if p.1 % 32 = 0 then (r.2[n + p.1 / 32]?).toList else []) }
  | 0x11 =>
    let t := e.ten s.opnd
    let f := finishOf (s.func % 4) s.imm (e.statRow t (t.base 2 j + row * t.str 1))
    finishRow f xs (e.column s.aux f32one j n) (e.column s.aux2 f32zero j n)
  | 0x12 =>
    let sh := s.func / 4 % 4
    let est := if sh = 2 then e.estimate s.opnd j row else s.imm2
    let f := finishOf (s.func % 4) s.imm (rowStats 0 sh est (xs.map fun x => (x.v, x.masked)))
    finishRow f xs (e.column s.aux f32one j n) (e.column s.aux2 f32zero j n)
  | 0x13 =>
    let f := finishOf 2 f32zero (rowStats 1 0 f32zero (xs.map fun x => (x.v, x.masked)))
    finishRow f xs (List.replicate n (f32one, .none)) (List.replicate n (f32zero, .none))
  | _ => xs

/-- A chain on one row; STAT is not among the stages that change values. -/
def Env.runChain (e : Env) (st : List Stage) (j : Nat × Nat × Nat) (row : Nat) (xs : List Cell) : List Cell :=
  let img := (e.m.core e.core).fset.active
  st.foldl (e.stage img j row) xs

def cellOf (w : Word32) : Cell := ⟨w, false, .none, []⟩

/-- A value converted to FP32 as it enters a chain (05 R126, R144). -/
def cellIn (ieee : Bool) (x : FV) : Cell :=
  let r := toF32 ieee x
  ⟨r.1, false, r.2, []⟩

/-- The prologue on one row of the activation operand: values in the operand's own format (05 R126). Elements of a K group
that `zero` names enter it as +0 (03 R93). -/
def Env.proRowZ (e : Env) (t : Ten) (j : Nat × Nat × Nat) (row a : Nat) (zero : Nat → Bool) : RowV × Conv :=
  match e.pro with
  | [] => (e.row t a, Conv.zero)
  | st =>
    let vs := e.rowVals t a
    let xs := (List.zip (List.range vs.length) vs).map fun p => cellIn e.h.ieee (if zero (p.1 / 32) then FV.zero else p.2)
    let ys := e.runChain st j row xs
    let r := rowEncode t.fmt e.h.ieee (ys.map fun c => f32v c.v)
    (rowDecode t.fmt ys.length r.1, Conv.ofNotes (cellNotes ys r.2))

def Env.proRow (e : Env) (t : Ten) (j : Nat × Nat × Nat) (row a : Nat) : RowV × Conv :=
  e.proRowZ t j row a fun _ => false

/-- The STAT stage of a chain, when its last stage is one. -/
def statOf (st : List Stage) : Option Stage := st.getLast?.bind fun s => if s.kind = 0x10 then some s else none

/-- One drained row: the chain, output conversion, the stores, and the statistics entry of a STAT stage (05 R137). -/
def Env.drainCells (e : Env) (st : List Stage) (t : Ten) (j : Nat × Nat × Nat) (row a : Nat) (xs : List Cell) :
    List Wr × Conv :=
  let ys := e.runChain st j row xs
  let r := rowEncode t.fmt e.h.ieee (ys.map fun c => f32v c.v)
  let notes := cellNotes ys r.2
  let w := e.wr t a r.1
  match statOf st with
  | none => ([w], Conv.ofNotes notes)
  | some s =>
    let back := (rowDecode t.fmt ys.length r.1).vals.map rne32
    let sh := s.func / 4 % 4
    let est := if sh = 2 then e.estimate s.opnd j row else s.imm
    let bl := rowStats (s.func % 4) sh est ((List.zip back ys).map fun p => (p.1, p.2.masked))
    let ts := e.ten s.aux
    let sw := e.wr ts (e.rowAddr ts j row) (bl.flatMap fun b => [b.c, b.s1, b.s2, b.n].flatMap fun x => leBytes 4 x.toNat)
    ([w, sw], Conv.ofNotes notes)

/-- A drained row of accumulator values. -/
def Env.drainRow (e : Env) (st : List Stage) (t : Ten) (j : Nat × Nat × Nat) (row a : Nat) (acc : List Word32) :
    List Wr × Conv := e.drainCells st t j row a (acc.map cellOf)

/-! ### Operands a chain reads, and timing (05 R130, R135) -/

/-- Tensor indices a stage reads, with the rank of each. -/
def Stage.reads (s : Stage) : List (Nat × Nat) :=
  let r := if s.bcast = 0 then 2 else 1
  let some? (i k : Nat) : List (Nat × Nat) := if i = 0xFFFF then [] else [(i, k)]
  match s.kind with
  | 0x01 | 0x02 | 0x04 | 0x05 | 0x08 => if s.bcast = 3 then [] else some? s.opnd r
  | 0x03 => (if s.bcast = 3 then [] else some? s.opnd r) ++ some? s.aux r
  | 0x10 => if s.func / 4 % 4 = 2 then some? s.opnd 1 else []
  | 0x11 => some? s.opnd 2 ++ some? s.aux 1 ++ some? s.aux2 1
  | 0x12 => (if s.func / 4 % 4 = 2 then some? s.opnd 1 else []) ++ some? s.aux 1 ++ some? s.aux2 1
  | _ => []

def Env.chainTens (e : Env) (st : List Stage) : List (Nat × Ten) :=
  (st.flatMap Stage.reads).map fun p => (if p.2 = 2 && e.ow != 0 then 3 else p.2, e.ten p.1)

def Env.chainLoads (e : Env) (st : List Stage) : List (Nat × Nat) :=
  (e.chainTens st).flatMap fun p => p.2.loads (p.2.foot p.1 e.h)

/-- A gate cell (10 R264). -/
def isGate (s : Stage) : Bool := 0x20 ≤ s.kind && s.kind ≤ 0x24

/-- What `n` evaluations of a micro-programmed g add to a gate's latency. -/
def gateExtra (img : List Byte) (s : Stage) (n : Nat) : Nat :=
  if s.func < 0x80 then 0 else n * (2 * fsetSteps img (s.func - 0x80))

/-- Latency of a stage in cycles. -/
def stageLat (img : List Byte) (nB : Nat) (s : Stage) : Nat :=
  match s.kind with
  | 0x01 | 0x02 | 0x04 | 0x05 | 0x06 | 0x08 | 0x09 => 2
  | 0x03 => 3
  | 0x07 => if s.func < 0x80 then 12 else 4 + 2 * fsetSteps img (s.func - 0x80)
  | 0x10 => 6
  | 0x11 => 24 + ceilDiv nB 8
  | 0x20 => 6 + gateExtra img s 1
  | 0x21 => 14 + gateExtra img s 1
  | 0x22 => 20 + gateExtra img s 1
  | 0x23 => 26 + gateExtra img s 1
  | 0x24 => 30 + gateExtra img s 2
  | _ => 0

/-- Rate of a stage in values per cycle, as a fraction; `side` is 4,096 in a prologue and 256 in an epilogue. -/
def stageRate (img : List Byte) (side : Nat) (s : Stage) : Nat × Nat :=
  let micro : Nat × Nat := if s.func < 0x80 then (256, 1) else (256, max 1 (ceilDiv (fsetSteps img (s.func - 0x80)) 4))
  match s.kind with
  | 0x07 => micro
  | 0x10 | 0x12 | 0x13 => (256, 1)
  | _ => if isGate s then micro else (side, 1)

/-- The lower of two rates. -/
def slower (a b : Nat × Nat) : Nat × Nat := if a.1 * b.2 ≤ b.1 * a.2 then a else b

/-- Cycles for `n` values at a rate, rounded up. -/
def atRate (n : Nat) (r : Nat × Nat) : Nat := ceilDiv (n * r.2) r.1

def chainLat (img : List Byte) (nB : Nat) (st : List Stage) : Nat := st.foldl (fun a s => a + stageLat img nB s) 0

def chainRate (img : List Byte) (side : Nat) (st : List Stage) : Nat × Nat :=
  st.foldl (fun a s => slower a (stageRate img side s)) (side, 1)

/-- A chain with an SFU stage claims the SFU (02 R52). -/
def usesSfu (st : List Stage) : Bool := st.any fun s => s.kind == 0x07 || (isGate s && 0x80 ≤ s.func)

end Sys2Proof.Machine
end

