-- ==== Sys2Proof/Machine/Engine.lean ====
section
/-! DEFINITION. The descriptor engine: when an op starts (02 R33, R36, R45, R52), what a start leaves in progress, when it
completes (02 R37), and what completion does (02 R46, R47, R49, 18 R461 to R463). An op's values are formed from what its
operands hold when it starts, but for loads from device-window pages (07 R194); its stores take effect as its store requests complete, hold stores as the op completes
(log 15). -/

namespace Sys2Proof.Machine

/-! ### Units (02 R52, 11 R283): arrays, feeder, drain, SFU, window engine, pontoon path, SAU, send, return, combine lane -/

def unitBits (l : List Nat) : BitVec 10 := l.foldl (fun w i => w ||| (1#10 <<< i)) 0#10

def opcodeUnits (op mode : Nat) : List Nat :=
  match op with
  | 0x01 => [0, 1, 2] | 0x02 => [5, 2] | 0x03 => [4, 0, 2] | 0x04 => [4, 2] | 0x05 => [0, 1, 2, 3] | 0x06 => [6, 2]
  | 0x07 => [6, 2] | 0x08 => [0, 1, 2] | 0x09 => [0] | 0x0A => [2, 3] | 0x0B => [1, 2]
  | 0x20 => if mode = 0 then [7] else [8]
  | 0x21 => [9, 2]
  | _ => []

def Env.units (e : Env) : BitVec 10 :=
  unitBits (opcodeUnits e.h.opcode (e.field 321 320) ++ (if usesSfu e.pro || usesSfu e.epi
      || (e.h.opcode == 0x07 && e.field 353 352 == 0 && usesSfu (e.chain (e.field 351 336))) then [3] else []))

/-! ### Start conditions -/

/-- The surroundings of the op a thread has reached: its context resident, the thread running, its descriptor staged. -/
def Hw.envOf (m : Hw) (core thread : Nat) : Option Env :=
  let c := m.core core
  let t := c.thread thread
  match c.ctx, t.next with
  | some x, some a =>
    match mget m.ctxs x, m.planOn x core with
    | some y, some p =>
      if m.coreValid core && thread < 4 && y.st == .resident && m.quay.st == .ready && m.clocked && c.broken.isNone
          && t.st == .running && t.staged.contains a then
        let d := leNat (m.peek x a 128)
        some { m := m, core := core, ctx := x, thread := thread, plan := p.2, d := d, h := OpHdr.parse d, addr := a, ow := 0
               tile := 0, seen := [] }
      else none
    | _, _ => none
  | _, _ => none

/-- The op has issued its last load (02 R36): a WAIT as its condition holds, a TIDE_WAIT only as it completes. -/
def Core.loadsIssued (c : Core) (o : OpRec) : Bool :=
  o.todo.all (fun r => r.store) && c.reqs.all (fun r => r.op != o.no || r.store || r.issued.isSome || r.into.isSome)
    && o.hdr.opcode != 0x1A && (match o.cond with | .bollard .. => false | _ => true)

/-- Item 1 of 02 R36. With OVL 0 no earlier op of the thread is in progress, since the op observes the stores of all of
them (02 R39; log 46). -/
def Env.predOk (e : Env) : Bool :=
  let c := e.m.core e.core
  if e.h.ovl then
    match (c.thread e.thread).prev with
    | none => true
    | some n => (c.ops.filter fun o => o.no == n).all fun o => c.loadsIssued o
  else c.ops.all fun o => o.thread != e.thread

/-- A pre-wait's condition on a bollard value (02 R45). -/
def preHolds (h : OpHdr) (v : Word32) : Bool :=
  !h.preEn || (if h.preTake then h.preVal ≤ v else !(v - h.preVal).msb)

/-- The pre-wait is satisfied: by the bollard's value, or, in reach mode, by a value it took in this cycle (02 R60). -/
def Env.preOk (e : Env) : Bool :=
  let c := e.m.core e.core
  preHolds e.h (c.bol e.h.preBol) || (!e.h.preTake && (c.thread e.thread).metCyc == some (e.m.cyc e.core))

def Core.busy (c : Core) : BitVec 10 := c.ops.foldl (fun w o => w ||| o.claims) 0#10

def Env.unitsOk (e : Env) : Bool := (e.m.core e.core).busy &&& e.units == 0#10

/-- A thread's next op has its pre-wait satisfied on bollard `b`. -/
def Hw.preSatisfied (m : Hw) (core b : Nat) : Bool :=
  (List.range 4).any fun t => match m.envOf core t with
    | some e => e.h.preEn && e.h.preBol == b && e.preOk && e.predOk
    | none => false

/-- The banks may swap in this cycle; `unit` is the claim that holds them in ASYNC mode (05 R155). -/
def Hw.mayswap (m : Hw) (core unit : Nat) (b : Banks) : Bool :=
  b.shadow.isSome &&
    (if b.sync then b.bumped && (b.due || m.preSatisfied core b.bol) else !(m.core core).busy.getLsbD unit)

/-- No swap falls in this cycle: ops that start at or after a swap use the new bank, so the swap comes first (05 R155). -/
def Env.swapOk (e : Env) : Bool :=
  let c := e.m.core e.core
  !e.m.mayswap e.core 3 c.fset && !e.m.mayswap e.core 7 c.route

/-- Sequences a SEAL_PAGE or FORK_SEQ names (07 R205, R209). -/
def Env.seqNames (e : Env) : List Nat :=
  let n := e.field 279 272 + 1
  let run (s : Nat) : List Nat := (List.range n).map fun l => s + l
  match e.h.opcode with
  | 0x28 => run (e.field 271 256) ++
      (List.range (e.field 283 280)).flatMap fun b => run (e.field (303 + 16 * b) (288 + 16 * b))
  | 0x29 => run (e.field 271 256)
  | _ => []

/-- What a marshalling start finds on a bollard: the value that its own take-mode pre-wait leaves, where both are on one bollard,
so that the two are one take of the cycle (02 R60, 03 R90; DESIGN CHOICE, log 46). -/
def Env.mshValue (e : Env) (b : Nat) : Word32 :=
  (e.m.core e.core).bol b - (if e.h.preEn && e.h.preTake && e.h.preBol == b then e.h.preVal else 0#32)

/-- Start conditions that an op body adds: a sequence op waits for the one in progress (07 R204), a combine for its
voyage (11 R297), a marshalling stage for its rows (03 R90). -/
def Env.extraOk (e : Env) : Bool :=
  let c := e.m.core e.core
  match e.h.opcode with
  | 0x01 =>
    if e.field 404 404 = 1 then
      let b := (e.mshValue (e.field 413 408)).toNat
      let t := c.thread e.thread
      decide (e.field 424 416 ≤ b) || (t.mshDl && decide (1 ≤ b)
        && decide (max (mgetD c.rise (e.field 413 408) 0) t.mshDone + e.field 479 448 ≤ e.m.cyc e.core))
    else true
  | 0x21 =>
    (match mget c.voyages (e.field 337 336) with
     | some v => v.outstanding == 0
     | none => true)
  | 0x28 | 0x29 =>
    let names := e.seqNames
    (e.m.ctxCores e.ctx).all fun k => (e.m.core k).ops.all fun o => o.eff.seqs.all fun s => !names.contains s
  | _ => true

/-- Bollards an op takes from as it starts: its take-mode pre-wait, and a marshalling start (02 R60). -/
def Env.takes (e : Env) : List Nat :=
  (if e.h.preEn && e.h.preTake then [e.h.preBol] else [])
    ++ (if e.h.opcode == 0x01 && e.field 404 404 == 1 then [e.field 413 408] else [])

/-- A bollard's take of the cycle has been made (02 R60). -/
def Core.tookNow (c : Core) (cyc b : Nat) : Bool := mget c.took b == some cyc

/-- The take of the cycle is still to be made on every bollard the op takes from. -/
def Env.takeFree (e : Env) : Bool := e.takes.all fun b => !(e.m.core e.core).tookNow (e.m.cyc e.core) b

def Env.ready (e : Env) : Bool := e.predOk && e.preOk && e.unitsOk && e.swapOk && e.extraOk && e.takeFree

/-- Threads after `last` in round-robin order, up to and excluding `t` (02 R36). -/
def before (last t : Nat) : List Nat :=
  ((List.range 4).map fun i => (last + 1 + i) % 4).takeWhile fun x => x != t

/-- A WAIT's condition on a bollard value (02 R64). -/
def waitHolds (mode : Nat) (val v : Word32) : Bool :=
  match mode with
  | 0 => !(v - val).msb
  | 1 => v == val
  | _ => val ≤ v

/-- The WAIT ops in take mode of a bollard whose condition holds: since when, and the thread. -/
def Core.takeWaits (c : Core) (b : Nat) : List (Nat × Nat) :=
  c.ops.filterMap fun o => match o.cond with
    | .bollard bol 2 val since => if bol == b && val ≤ c.bol b then some (since, o.thread) else none
    | _ => none

def earlier (a b : Nat × Nat) : Bool := a.1 < b.1 || (a.1 == b.1 && a.2 < b.2)

/-- When the thread began waiting, with the tie by thread number (02 R60). -/
def Env.waitKey (e : Env) : Nat × Nat := (((e.m.core e.core).thread e.thread).waitSince, e.thread)

/-- The op can start under 02 R36: every start condition holds, and no thread that comes first in round-robin order is
startable with an overlapping claim. -/
def Env.canStart (e : Env) : Bool :=
  e.ready && (before (e.m.core e.core).lastThread e.thread).all fun t =>
    match e.m.envOf e.core t with
    | some f => !f.ready || f.units &&& e.units == 0#10
    | none => true

/-- The op can start, and of every bollard it takes from it is the waiter that began waiting earliest among those that could
take in this cycle (02 R36, R60). -/
def Env.turnOk (e : Env) : Bool :=
  e.canStart && e.takes.all fun b =>
    ((e.m.core e.core).takeWaits b).all (fun w => earlier e.waitKey w) && (List.range 4).all fun t =>
      match e.m.envOf e.core t with
      | some f => t == e.thread || !f.canStart || !f.takes.contains b || earlier e.waitKey f.waitKey
      | none => true

/-- The op a thread would start now, when every start condition holds in this cycle. -/
def Hw.startable (m : Hw) (core thread : Nat) : Option Env :=
  match m.envOf core thread with
  | some e => if e.turnOk then some e else none
  | none => none

/-! ### Requests of an op -/

/-- Slots in use (02 R40): a merged load and an ended request hold none. -/
def Core.slots (c : Core) : List Req := c.reqs.filter fun r => r.into.isNone

/-- Where a new request of a thread finds a slot: reserved (some false), shared (some true) or none. -/
def Core.slotFor (c : Core) (t : Nat) : Option Bool :=
  let s := c.slots
  if (s.filter fun r => r.thread == t && !r.shared).length < 4 then some false
  else if (s.filter fun r => r.shared).length < 32 then some true
  else none

/-- Up to 16 of the oldest unissued requests (02 R41). -/
def Core.window (c : Core) : List Req := (c.reqs.filter fun r => r.issued.isNone && r.into.isNone).take 16

/-- The load of the same granule, in the window or in flight, that a load merges with (02 R41): no store of the granule
was created between the two (02 R42). -/
def Core.mergeWith (c : Core) (r : Req) : Option Nat :=
  let same := c.reqs.filter fun q => q.va / 2048 == r.va / 2048 && q.id < r.id
  if r.store then none
  else
    (same.find? fun q => !q.store && q.into.isNone && (q.issued.isSome || c.window.any fun w => w.id == q.id)
      && same.all fun p => !p.store || p.id < q.id).map (·.id)

/-- Loads that wait merge with what has come into the window. -/
def Core.merge (c : Core) : Core :=
  c.reqs.foldl (fun c r =>
    if r.issued.isSome || r.into.isSome || c.reqs.any (fun q => q.into == some r.id) then c
    else { c with reqs := c.reqs.map fun q => if q.id == r.id then { q with into := c.mergeWith r } else q }) c

/-- Moves requests of op `o` into slots, in order; its stores come after its loads are consumed (02 R40; DESIGN CHOICE,
log 46). -/
def fillOne : Nat → Core → OpRec → Core × OpRec
  | 0, c, o => (c, o)
  | n + 1, c, o =>
    match o.todo with
    | [] => (c, o)
    | r :: rest =>
      if r.store && c.reqs.any (fun q => q.op == o.no && !q.store) then (c, o)
      else match c.slotFor o.thread with
        | none => (c, o)
        | some sh =>
          let r := { r with id := c.nextReq, shared := sh }
          let r := { r with into := c.mergeWith r }
          fillOne n { c with reqs := c.reqs ++ [r], nextReq := c.nextReq + 1 } { o with todo := rest }

def fillAll : Core → List OpRec → Core × List OpRec
  | c, [] => (c, [])
  | c, o :: t =>
    let p := fillOne (o.todo.length + 1) c o
    let q := fillAll p.1 t
    (q.1, p.2 :: q.2)

/-- Creates every request that finds a slot. -/
def Core.fill (c : Core) : Core :=
  let c := c.merge
  let p := fillAll c c.ops
  { p.1 with ops := p.2 }

/-- Requests of an op: one per granule touched, loads before stores, and what it reads back between its early stores and the
others; the outcome of its quiet loads is discarded. -/
def mkReqs (no thread tag : Nat) (b : Body) : List Req :=
  let base : Req := { id := 0, thread := thread, op := no, tag := tag, va := 0, len := 0, store := false, data := []
                      shared := false, issued := none, passed := 0, into := none, quiet := false
                      append := (match b.seq with | some (.append ..) => true | _ => false), place := none }
  let ld (l : List (Nat × Nat)) := (l.flatMap fun p => pieces p.1 p.2).map fun (p : Nat × Nat) => { base with va := p.1, len := p.2 }
  let st (wrs : List Wr) := (wrs.filter fun w => w.space == 0).flatMap fun w =>
    (pieces w.addr w.bytes.length).map fun p =>
      { base with va := p.1, len := p.2, store := true, data := (w.bytes.drop (p.1 - w.addr)).take p.2
                  place := (b.opened.find? fun o => o.va ≤ p.1 && p.1 < o.va + pageBytes o.size).map fun o =>
                    ramKey o.homeQ o.tier (o.frame * 65536 + (p.1 - o.va)) }
  ld b.loads ++ (ld b.quiet).map (fun r => { r with quiet := true }) ++ st b.early ++ ld b.back ++ st b.wrs

/-! ### Starting -/

/-- The next descriptor under FLOW (02 R33). -/
def flowNext (h : OpHdr) (addr loop : Nat) : Option Nat :=
  match h.flow with
  | 0 => some (addr + 128)
  | 1 => some loop
  | _ => none

/-- A wait on bollard `b` was satisfied by a value that includes the increment. -/
def Banks.satisfied (b : Nat) (x : Banks) : Banks :=
  if x.shadow.isSome && x.sync && x.bumped && x.bol == b then { x with due := true } else x

def Core.waitSatisfied (c : Core) (b : Nat) : Core :=
  { c with fset := c.fset.satisfied b, route := c.route.satisfied b }

/-- Before bollard `b` changes: threads whose pre-wait its value satisfies are noted, so that a reach-mode waiter sees each
value the bollard takes (02 R60), the wait bound runs from the last moment of satisfaction (02 R66; log 46), and, where the
op waits for nothing before it, a swap comes due (05 R155). -/
def Hw.noteWaits (m : Hw) (core b : Nat) : Hw :=
  (List.range 4).foldl (fun (m : Hw) t =>
    match m.envOf core t with
    | some e =>
      if e.h.preEn && e.h.preBol == b && preHolds e.h ((m.core core).bol b) then
        m.updCore core fun c =>
          let c := c.setThread t { c.thread t with metAt := m.now, metCyc := some (m.cyc core) }
          if e.predOk then c.waitSatisfied b else c
      else m
    | none => m) m

/-- WAIT ops in reach or equal mode on bollard `b` that its value satisfies are over (02 R60, R64). -/
def Core.checkWaits (c : Core) (b : Nat) : Core :=
  let hit (o : OpRec) : Bool := match o.cond with
    | .bollard bol mode val _ => bol == b && mode != 2 && waitHolds mode val (c.bol b)
    | _ => false
  if c.ops.any hit then
    ({ c with ops := c.ops.map fun o => if hit o then { o with cond := .done } else o }).waitSatisfied b
  else c

/-- A take: what it subtracts, and its cycle (02 R60). -/
def Core.takeBol (c : Core) (cyc b : Nat) (v : Word32) : Core :=
  { c.setBol b (c.bol b - v) with took := mset c.took b cyc }

/-- The take of a take-mode pre-wait, in the cycle its op starts (02 R45); the value it leaves may end a WAIT (02 R64). -/
def Core.takePre (c : Core) (cyc : Nat) (h : OpHdr) : Core :=
  if h.preEn && h.preTake then (c.takeBol cyc h.preBol h.preVal).checkWaits h.preBol else c

/-- The hold part of an op's writes. -/
def holdWrs (l : List Wr) : List (Nat × Nat × List Byte) :=
  (l.filter fun w => w.space != 0).map fun w => (w.core, w.addr, w.bytes)

/-- What an op does as it completes, by its body. -/
def OpEffect.ofBody (b : Body) : OpEffect :=
  { OpEffect.none with
    stores := holdWrs (b.early ++ b.wrs), accs := b.accs, weights := b.weights, remote := b.remote
    counts := b.counts ++ [(cSAT, b.conv.sat), (cOVF, b.conv.ovf), (cNANINT, b.conv.nanInt)]
    seq := b.seq, opened := b.opened, seqs := b.seqs, predict := b.predict, rets := b.rets, fault := b.fault }

/-- What an op keeps from its start to its end. -/
def Env.found (e : Env) : AtStart :=
  let c := e.m.core e.core
  ⟨c.fset.active, c.route.active, match mget e.m.ctxs e.ctx with | some x => x.seqs | none => []⟩

/-- What an op leaves in progress: the thread moves on under FLOW, the op claims its units and makes its requests. The next
op's pre-wait begins to wait here, and again when this op completes (02 R66; DESIGN CHOICE, log 46). -/
def Core.begin (c : Core) (e : Env) (now cyc : Nat) (b : Body) (cond : Cond) (f : OpRec → OpRec) : Core :=
  let c := c.takePre cyc e.h
  let t := c.thread e.thread
  let o : OpRec :=
    { no := c.nextOp, thread := e.thread, addr := e.addr, hdr := e.h, claims := e.units, start := now
      due := cyc + b.cycles, cond := cond, eff := OpEffect.ofBody b, todo := mkReqs c.nextOp e.thread e.h.tag b
      send := [], sealTo := [], sentTo := [], voy := 0, creditWait := 0, acks := 0, seen := []
      found := e.found }
  let c := c.setThread e.thread
    { t with next := flowNext e.h e.addr t.loop, staged := t.staged.filter (fun a => a != e.addr)
             prev := some c.nextOp, waitSince := now, metAt := now, metCyc := none }
  ({ c with
      latch := b.latches.foldl (fun (a : Map Word32) (p : Nat × Word32) => mset a p.1 p.2) c.latch
      ops := c.ops ++ [f o]
      nextOp := c.nextOp + 1
      lastThread := e.thread }).fill

/-- The record of an op's own fault. -/
def Hw.opFaultRec (m : Hw) (core ctx : Nat) (o : OpRec) (f : OpFault) : FaultRec :=
  { FaultRec.base m f.code core o.thread o.hdr.tag ctx with va := f.va, row := f.row, synd := f.synd }

/-- Every load of an op is consumed. -/
def Core.loadsIn (c : Core) (o : OpRec) : Bool :=
  o.todo.all (fun r => r.store) && c.reqs.all (fun r => r.op != o.no || r.store)

/-- Bytes between the holds of two cores use the fabric paths of memory traffic (02 R32, 11 R301). -/
def Hw.holdTraffic (m : Hw) (ctx core other n : Nat) : Hw := m.traffic (some ctx) (core / 64) (other / 64) n (pathKey core other 0)

/-- Hold writes of an op of core `core`, on any core of the context. -/
def Hw.holdStores (m : Hw) (ctx core : Nat) (l : List (Nat × Nat × List Byte)) : Hw :=
  l.foldl (fun m w => (m.updCore w.1 fun c => c.holdWrite w.2.1 w.2.2).holdTraffic ctx core w.1 w.2.2.length) m

/-- What a SEND that faults has done by then: the status and the drops of the choices before (11 R289). -/
def Hw.partDone (m : Hw) (ctx core : Nat) (f : OpEffect) : Hw :=
  f.counts.foldl (fun m p => m.countCore core p.1 p.2) (m.holdStores ctx core f.stores)

/-- An op whose loads are consumed, and whose rows before the fault have left, takes the fault its values give; of a number the
newest op counts. -/
def Hw.settle (m : Hw) (core no : Nat) : Hw :=
  let c := m.core core
  match c.ops.findRev? fun o => o.no == no, c.ctx with
  | some o, some x =>
    (match o.eff.fault with
     | some f =>
       if c.loadsIn o && o.send.isEmpty then
         let m := if o.hdr.opcode == 0x20 then m.partDone x core o.eff else m
         m.fault core o.thread (m.opFaultRec core x o f)
       else m
     | none => m)
  | _, _ => m

/-- The waits on the bollards an op takes from, noted before the takes. -/
def Env.noted (e : Env) (m : Hw) : Hw := e.takes.foldl (fun m b => m.noteWaits e.core b) m

/-- Starts the op a thread has reached, when it is one of `kind` and every start condition holds. -/
def Hw.startWith (m : Hw) (core thread : Nat) (kind : Env → Bool) (body : Env → Body) (cond : Env → Cond)
    (f : Env → OpRec → OpRec) (after : Env → Hw → Hw) : Hw :=
  match m.startable core thread with
  | none => m
  | some e =>
    if kind e then
      after e (((e.noted m).updCore core fun c => c.begin e m.now (m.cyc core) (body e) (cond e) (f e)).settle core
        (m.core core).nextOp)
    else m

def Hw.startOp (m : Hw) (core thread : Nat) (kind : Env → Bool) (body : Env → Body) : Hw :=
  m.startWith core thread kind body (fun _ => .done) (fun _ o => o) (fun _ h => h)

/-! ### Events and signals of a thread -/

/-- An event or HOST signal of a thread: suppressed while a rollback's replay repeats it (18 R467). -/
def Hw.threadEvent (m : Hw) (core thread ctx code : Nat) (payload : List (Nat × Nat)) : Hw :=
  let t := (m.core core).thread thread
  if 0 < t.suppress then m.updCore core fun c => c.setThread thread { t with suppress := t.suppress - 1 }
  else
    let m := m.updCore core fun c => { c.setThread thread { t with posted := t.posted + 1 } with
      steps := c.steps.map fun r => { r with posted := lset r.posted thread (lget r.posted thread 0 + 1) } }
    (m.traffic (some ctx) (nodeOf core) 4 Config.signalBytes (pathKey core 256 0)).event code (some ctx) payload

/-! ### Completion -/

def Cond.met : Cond → Bool
  | .done => true
  | .pages [] [] _ => true
  | _ => false

/-- Every earlier op of the thread is complete: a signal is issued only when their stores are visible (02 R61). -/
def Core.oldest (c : Core) (o : OpRec) : Bool := c.ops.all fun p => p.thread != o.thread || o.no ≤ p.no

def Core.signalOk (c : Core) (o : OpRec) : Bool :=
  !(o.hdr.postEn || o.eff.signal.isSome || o.eff.hostVal.isSome || !o.eff.rets.isEmpty) || c.oldest o

/-- Every load consumed, every store visible, the wait over and the cycle count reached (02 R37). -/
def Core.opDone (c : Core) (cyc : Nat) (o : OpRec) : Bool :=
  o.cond.met && c.signalOk o && o.todo.isEmpty && o.send.isEmpty && o.acks == 0 && decide (o.due ≤ cyc) && o.eff.fault.isNone
    && c.reqs.all (fun r => r.op != o.no)

/-- Sum of ADD operands per bollard among signals that carry e at or above `n`. -/
def aheadSum (n : Nat) (l : List Signal) : Map Word32 :=
  (l.filter fun s => !s.set && n ≤ s.e).foldl (fun a s => mset a s.bol (mgetD a s.bol 0#32 + s.val)) []

/-- The step record an op with STEP 1 writes; events and HOST signals that a replay still suppresses have been posted since it
already. The core keeps its two newest (02 R49, 18 R461, R463, 10 R276). -/
def Core.stepRecord (c : Core) : Core :=
  let n := c.recs + 1
  let r : StepRec :=
    { no := n, nexts := c.threads.map (·.next), ticks := c.threads.map (·.lastTick), bols := c.bols, acc := c.acc
      aIn := aheadSum n c.ahead, aLate := [], journal := []
      posted := c.threads.map (·.suppress)
      setBefore := c.ahead.any fun s => s.set && n ≤ s.e }
  { c with steps := (c.steps ++ [r]).drop ((c.steps.length + 1) - 2), recs := n
           ahead := c.ahead.filter fun s => n + 1 ≤ s.e }

/-- The key of what is saved of a core for a context. -/
def saveKey (ctx core : Nat) : Nat := ctx * 256 + core

/-- Records a core has written in its run, on the core or as saved. -/
def Hw.recsOf (m : Hw) (ctx k : Nat) : Nat :=
  if m.runs k ctx then (m.core k).recs
  else match mget m.saves (saveKey ctx k) with
    | some s => s.recs
    | none => 0

/-- The newest epoch that every core of the context's enabled plans has recorded (18 R461). -/
def Hw.epochOf (m : Hw) (ctx : Nat) : Nat :=
  match ((m.plansOf ctx).flatMap fun p => p.2.cores.map (·.core)).map fun k => m.recsOf ctx k with
  | [] => 0
  | r :: t => t.foldl min r

/-- What no rollback can need any more is forgotten as an epoch completes. -/
def Hw.epochMark (m : Hw) (ctx : Nat) : Hw :=
  let e := m.epochOf ctx
  m.updCtx ctx fun x => { x with snaps := x.snaps.filter fun s => e ≤ s.epoch }

/-- An op's reads of other cores' holds. -/
def Hw.holdReads (m : Hw) (ctx core : Nat) (l : List (Nat × Nat)) : Hw :=
  l.foldl (fun m w => m.holdTraffic ctx core w.1 w.2) m

def Core.setAccs (c : Core) (l : List (Nat × Word32)) : Core :=
  { c with acc := l.foldl (fun a p => mset a p.1 p.2) c.acc }

/-- The weight registers an op leaves; the drain latches of an op that used the arrays are empty (03 R73 to R75). -/
def Core.setWeights (c : Core) (arrays : Bool) (l : List (Nat × Word32)) : Core :=
  { c with weights := l.foldl (fun a p => mset a p.1 p.2) c.weights, latch := if arrays then [] else c.latch }

/-- The predictor keeps 16 descriptors, most recently used first (03 R93, R94). -/
def Core.predict (c : Core) (p : Option (Nat × List Bool)) : Core :=
  match p with
  | none => c
  | some e => { c with predictor := (e :: c.predictor.filter fun q => q.1 != e.1).take 16 }

/-- After the last op of a thread whose FLOW ended it, the thread has ended for this run (02 R33). -/
def Core.threadEnd (c : Core) (t : Nat) : Core :=
  let x := c.thread t
  if x.st == .running && x.next.isNone && c.ops.all (fun o => o.thread != t) then
    c.setThread t { x with st := .ended }
  else c

/-- A thread that has reached a descriptor whose fetch ended poisoned takes the fault as its op's own (02 R35, 06 R176). -/
def Hw.chargeFetch (m : Hw) (core thread : Nat) : Hw :=
  let c := m.core core
  let t := c.thread thread
  match c.ctx, t.bad.find? fun b => t.next == some b.addr with
  | some x, some b =>
    if t.st == .running && c.ops.all (fun o => o.thread != thread) then
      let r := { FaultRec.base m b.code core thread (OpHdr.parse (leNat (m.peek x b.addr 128))).tag x with
        va := b.va, fetch := true, synd := b.synd }
      m.fault core thread (match m.locOf x b.va with
        | some (_, _, some l) => r.place m l
        | _ => r)
    else m
  | _, _ => m

/-- An op leaves: counters, signals, completion event, step record, and the thread goes on. A replay from the record does not
repeat the op, so its own event comes before the record. -/
def Hw.retire (m : Hw) (core ctx : Nat) (o : OpRec) : Hw :=
  let m := m.updCore core fun c =>
    let t := c.thread o.thread
    let c := c.setThread o.thread (if t.prev == some o.no then { t with waitSince := m.now } else t)
    ({ c with ops := c.ops.filter fun p => p.no != o.no }).predict o.eff.predict
  let m := m.updCore core fun c => (c.setAccs o.eff.accs).setWeights (o.claims.getLsbD 0) o.eff.weights
  let m := o.eff.counts.foldl (fun m p => m.countCore core p.1 p.2) (m.countCore core cOPS 1)
  let m := o.eff.rets.foldl (fun m r => m.signal core ctx (m.core core).recs r.1 r.2 false 1#32) m
  let m := match o.eff.signal with
    | some g => m.signal core ctx (m.core core).recs g.1 g.2.1 g.2.2.1 g.2.2.2
    | none => m
  let m := match o.eff.hostVal with
    | some v => m.threadEvent core o.thread ctx 0x0190 [(32, o.hdr.tag), (8, core), (2, o.thread), (22, 0), (32, v.toNat)]
    | none => m
  let m := if o.hdr.postEn then
      m.signal core ctx (m.core core).recs o.hdr.postCore o.hdr.postBol false (BitVec.ofNat 32 o.hdr.postInc)
    else m
  let m := if o.hdr.evt then
      m.threadEvent core o.thread ctx 0x0191 [(32, o.hdr.tag), (8, core), (2, o.thread)]
    else m
  let m := if o.hdr.step then
      ((m.updCore core Core.stepRecord).countCore core cSTEPS 1).epochMark ctx
    else m
  (m.updCore core fun c => (c.threadEnd o.thread).fill).chargeFetch core o.thread

end Sys2Proof.Machine
end

