-- ==== Sys2Proof/Machine/Matmul.lean ====
section
/-! DEFINITION. MATMUL with its speculation and its marshalling stage, and MATVEC (03 R71 to R100, 04 R115 to R118). -/

namespace Sys2Proof.Machine

/-! ### Products -/

/-- Group sum operands of one K group: exact products of the elements that are not padded. -/
def groupProducts (a b : List FV) (g : Nat) : List FV :=
  (List.zip ((a.drop (32 * g)).take 32) ((b.drop (32 * g)).take 32)).map fun p => p.1.mul p.2

def scaleAt (r : RowV) (g : Nat) : FV := match r.scales with | [] => .num false 1 0 | l => lget l g FV.zero

/-- One output element: the groups of `a` and `b` in ascending order onto an accumulator (03 R72); a group of `a` flagged
zero takes the zero group sum (03 R95). -/
def dotFrom (w : Nat) (zero : Nat → Bool) (acc : Word32) (a b : RowV) : Word32 :=
  (List.range (ceilDiv b.elems.length 32)).foldl (fun acc g =>
    if zero g then
      accUpdate w acc (((b.elems.drop (32 * g)).take 32).map fun y => FV.zero.mul y) (scaleAt b g)
    else accUpdate w acc (groupProducts a.elems b.elems g) ((scaleAt a g).mul (scaleAt b g))) acc

/-- The weights of each output column along K: blocks along K keep their scales, blocks along N are multiplied in as the
weights load (04 R117), so a T2 zero under a negative scale enters as −0 (DESIGN CHOICE, log 47: 04 R111 also counts a T2
zero as +0). -/
def Env.weightCols (e : Env) (t : Ten) (kn : Bool) (base : Nat) : List RowV :=
  if kn then
    let rows := (t.rows 2 base).map (e.rowVals t)
    (List.range (t.ext 0)).map fun n => ⟨rows.map fun r => lget r n FV.zero, []⟩
  else (t.rows 2 base).map (e.row t)

/-- FP32 values of a row of an accumulator operand. -/
def Env.accRow (e : Env) (t : Option Ten) (j : Nat × Nat × Nat) (m n : Nat) : List Word32 :=
  match t with
  | none => List.replicate n f32zero
  | some t => (e.rowVals t (t.base 2 j + m * t.str 1)).map rne32

/-! ### Sparsity flags (03 R86, R93, R94) -/

/-- The flag of the block of 32 rows `r` and group `g`. -/
def Env.flag (e : Env) (zf : Ten) (j : Nat × Nat × Nat) (r g : Nat) : Bool :=
  bitb (lget (e.read zf (zf.base 2 j + r * zf.str 1 + g / 8) 1) 0 0#8).toNat (g % 8)

/-- Flags of one instance, block row by block row and group by group; a predictor entry holds them instance by instance, the
first 4,096 (DESIGN CHOICE, log 46: 03 R94 numbers no block). -/
def Env.flags (e : Env) (zf : Ten) (j : Nat × Nat × Nat) (nR nK : Nat) : List Bool :=
  (List.range nR).flatMap fun r => (List.range nK).map fun g => e.flag zf j r g

/-- M-blocks (two block rows) of one instance with a block predicted zero that is not flagged zero. -/
def missBlocks (nR nK : Nat) (pred flags : List Bool) : Nat :=
  ((List.range (ceilDiv nR 2)).filter fun b =>
    (List.range (min (2 * nK) (nR * nK - 2 * nK * b))).any fun i =>
      lget pred (2 * nK * b + i) false && !lget flags (2 * nK * b + i) false).length

/-- The ZO bytes of one block row from the values of its rows: 1 where the whole block is +0 (03 R86). -/
def zoRow (nN : Nat) (rows : List (List FV)) : List Byte :=
  (List.range (ceilDiv nN 8)).map fun i =>
    BitVec.ofNat 8 ((List.range 8).foldl (fun a k =>
      let b := 8 * i + k
      if b < nN && rows.all (fun r => ((r.drop (32 * b)).take 32).all fun v => v.isZero && !v.sign) then a + 2 ^ k
      else a) 0)

/-! ### Timing (03 R82, 05 R135) -/

def matmulCycles (img : List Byte) (pro epi : List Stage) (shape w i m n k : Nat) : Nat :=
  let nK := ceilDiv k 32
  let nB := ceilDiv k 32
  let cp := chainLat img nB pro
  let ce := chainLat img nB epi
  let d := if shape = 1 then 8192 / w else if shape = 2 then 512 / w else 4096 / w
  let fp := if pro.isEmpty then 1 else atRate d (chainRate img 4096 pro)
  let fe := if epi.isEmpty then 1 else atRate 256 (chainRate img 256 epi)
  let base := match shape with
    | 1 => 16 + ceilDiv (i * ceilDiv m 32 * ceilDiv n 16) 32 * (max (nK * 6 * w) (64 * fe) * fp) + 24
    | 2 => 2 * w + 16 + i * ceilDiv m 64 * ceilDiv (ceilDiv n 32) 8 * (max (nK * 4 * w) (64 * fe) * fp) + 24
    | 3 => 2 * w + 16 + i * ceilDiv m 64 * ceilDiv n 32 * (max (ceilDiv nK 8 * max (4 * w) 32) (8 * fe) * fp) + 56
    | _ => 2 * w + 16 + ceilDiv (i * ceilDiv m 64 * ceilDiv n 32) 8 * (max (nK * 4 * w) (64 * fe) * fp) + 24
  let ap := if pro.any (fun s => s.kind == 0x11) then 2 * w + 16 + i * m * ceilDiv nB 8 + 24 else 0
  max base ap + cp + ce

def matvecCycles (img : List Byte) (pro epi : List Stage) (w i m n k fw : Nat) (kn : Bool) : Nat :=
  let nK := ceilDiv k 32
  let l := if w = 16 then 1024 else 2048
  let wb := if kn then 32 * nK * rowBytes fw n else n * rowBytes fw (32 * nK)
  let t := max (ceilDiv wb 2048) (ceilDiv (m * 32 * nK * n) l)
  let t := if pro.isEmpty then t else max t (atRate (m * 32 * nK) (chainRate img 4096 pro))
  let ap := if pro.any (fun s => s.kind == 0x11) then 2 * w + 16 + i * m * ceilDiv nK 8 + 24 else 0
  max (40 + i * t) ap + chainLat img nK pro + chainLat img nK epi

/-! ### MATMUL -/

structure MatmulBody where
  a : Ten
  b : Ten
  c : Ten
  acc : Option Ten
  zf : Option Ten
  zo : Option Ten
  ruTbl : Option Ten
  ruPrev : Option Ten
  mshTag : Option Ten
  shape : Nat
  kn : Bool
  marshal : Bool
  mshBol : Nat
  mshMin : Nat
  mshMax : Nat
  mshDl : Nat

def Env.matmul (e : Env) : MatmulBody :=
  { a := e.ten (e.field 271 256), b := e.ten (e.field 287 272), c := e.ten (e.field 303 288)
    acc := e.opt (e.field 319 304), zf := e.opt (e.field 335 320), zo := e.opt (e.field 351 336)
    ruTbl := e.opt (e.field 367 352), ruPrev := e.opt (e.field 383 368), mshTag := e.opt (e.field 399 384)
    shape := e.field 402 400, kn := bitb e.d 403, marshal := bitb e.d 404, mshBol := e.field 413 408
    mshMin := e.field 424 416, mshMax := e.field 433 425, mshDl := e.field 479 448 }

/-- SPX and TRU are treated as 0 in fixed-timing mode (02 R48). -/
def Env.spxOn (e : Env) : Bool := e.h.spx && !e.m.isFixed e.ctx
def Env.truOn (e : Env) : Bool := e.h.tru && !e.m.isFixed e.ctx

/-- A reuse decision for one M-block: hash, and whether the hit is confirmed (03 R98, R99). -/
def Env.reuse (e : Env) (a tbl prev : Ten) (j : Nat × Nat × Nat) (rows : List Nat) (mb : Nat) : BitVec 64 × Bool × Bool :=
  let bytes := rows.flatMap fun r => e.read a (a.base 2 j + r * a.str 1) a.row
  let h := crc64 bytes
  let ent := leNat (e.read tbl (tbl.base 2 j + mb * tbl.str 1) 8)
  let matched := bitb ent 63 && ent % 2 ^ 63 == h.toNat % 2 ^ 63
  let old := rows.flatMap fun r => e.read prev (prev.base 2 j + r * prev.str 1) prev.row
  (h, matched, matched && bytes == old)

/-! ### Registers of the arrays (03 R73 to R75, R79) -/

/-- Key of a weight register, or with row 32 of a scale register (03 R74). -/
def wKey (array side row col : Nat) : Nat := ((array * 2 + side) * 33 + row) * 32 + col

/-- Key of an accumulator entry and of its drain latch (03 R73). -/
def accKey (array col entry : Nat) : Nat := (array * 32 + col) * 64 + entry

/-- The shadow registers of an array take a tile: per cell, and in row 32 the scales (03 R74). -/
def loadShadow (array : Nat) (tile : Nat → Nat → Word32) (w : Map Word32) : Map Word32 :=
  (List.range 33).foldl (fun w r => (List.range 32).foldl (fun w c => mset w (wKey array 1 r c) (tile r c)) w) w

/-- All cells of an array swap their active and shadow registers at once (03 R75). -/
def swapSides (array : Nat) (w : Map Word32) : Map Word32 :=
  (List.range 33).foldl (fun v r => (List.range 32).foldl (fun v c =>
    mset (mset v (wKey array 0 r c) (mgetD w (wKey array 1 r c) f32zero)) (wKey array 1 r c)
      (mgetD w (wKey array 0 r c) f32zero)) v) w

/-- A pass of group `g` over 32 columns from `n0`: the tile loads into the shadow registers, then the sides swap. -/
def runPass (cols : List RowV) (array g n0 : Nat) (w : Map Word32) : Map Word32 :=
  let tile (r c : Nat) : Word32 :=
    let v := lget cols (n0 + c) ⟨[], []⟩
    if r = 32 then rne32 (scaleAt v g) else rne32 (lget v.elems (32 * g + r) FV.zero)
  swapSides array (loadShadow array tile w)

/-- A Q16 pass of quadrant `q` of an array over 16 columns: the active registers hold the first 16 indices of the group, the
shadow registers the other 16 (03 R79); the scales of the two quadrants of a column stand in its two scale registers
(DESIGN CHOICE, log 46). -/
def runQuadrant (cols : List RowV) (array q g n0 : Nat) (w : Map Word32) : Map Word32 :=
  (List.range 16).foldl (fun w c =>
    let v := lget cols (n0 + c) ⟨[], []⟩
    let col := 16 * (q % 2) + c
    let w := mset w (wKey array (q / 2) 32 col) (rne32 (scaleAt v g))
    (List.range 32).foldl (fun w k =>
      mset w (wKey array (k / 16) (16 * (q / 2) + k % 16) col) (rne32 (lget v.elems (32 * g + k) FV.zero))) w) w

/-- What the output tile with number `t` of an op leaves in the arrays: its column's weights, and one accumulator entry per
output. Tiles go to arrays, or to quadrants, in ascending order (DESIGN CHOICE, log 46: 03 R80 leaves the deal to the
hardware). `val i c` is entry `i` of the tile's column `c`. -/
structure Regs where
  weights : Map Word32
  accs : List (Nat × Word32)

/-- A W32 tile in array `a`: its column's passes, and one entry per output. -/
def Regs.one (s : Regs) (a : Nat) (cols : List RowV) (nK n0 : Nat) (val : Nat → Nat → Word32) : Regs :=
  ⟨(List.range nK).foldl (fun w g => runPass cols a g n0 w) s.weights,
   s.accs ++ (List.range 32).flatMap fun c => (List.range 64).map fun i => (accKey a c i, val i c)⟩

def Regs.tile (s : Regs) (shape t : Nat) (cols : List RowV) (nK n0 : Nat) (val : Nat → Nat → Word32) : Regs :=
  let bank (array col0 ent0 m n : Nat) : List (Nat × Word32) :=
    (List.range n).flatMap fun c => (List.range m).map fun i => (accKey array (col0 + c) (ent0 + i), val i c)
  match shape with
  | 1 =>
    let a := t / 4 % 8
    let q := t % 4
    ⟨(List.range nK).foldl (fun w g => runQuadrant cols a q g n0 w) s.weights,
     s.accs ++ bank a (16 * (q % 2)) (32 * (q / 2)) 32 16⟩
  | 2 =>
    ⟨(List.range 8).foldl (fun w a => (List.range nK).foldl (fun w g => runPass cols a g (n0 + 32 * a) w) w) s.weights,
     s.accs ++ (List.range 8).flatMap fun a =>
       (List.range 32).flatMap fun c => (List.range 64).map fun i => (accKey a c i, val i (32 * a + c))⟩
  | 3 =>
    ⟨(List.range nK).foldl (fun w g => runPass cols (g % 8) g n0 w) s.weights, s.accs ++ bank 7 0 0 64 32⟩
  | _ => s.one (t % 8) cols nK n0 val

/-- Rows and columns of an output tile (03 R79). -/
def tileSize (shape : Nat) : Nat × Nat := if shape = 1 then (32, 16) else if shape = 2 then (64, 256) else (64, 32)

/-- The tiles of one M × N product in order, M-block by M-block; `skip` are the rows of M-blocks without a pass. -/
def Regs.sweep (s : Regs) (shape t0 mM nN nK : Nat) (cols : List RowV) (skip : Nat → Bool) (val : Nat → Nat → Word32) :
    Regs :=
  let z := tileSize shape
  let nT := ceilDiv nN z.2
  (List.range (ceilDiv mM z.1)).foldl (fun s b => if skip (b * z.1) then s else
    (List.range nT).foldl (fun s n =>
      s.tile shape (t0 + b * nT + n) cols nK (n * z.2) fun i c => val (b * z.1 + i) (n * z.2 + c)) s) s

/-! ### One instance of a product -/

/-- What one instance writes, and what it leaves in the arrays. -/
structure MmPart where
  wrs : List Wr
  val : Nat → Nat → Word32
  cols : List RowV
  skip : Nat → Bool
  conv : Conv
  hits : Nat
  /-- rows whose block's hash matched, which are compared -/
  matched : List Nat
  misses : Nat

/-- The ZO entries of the drained rows, each with its row number in the op's M (03 R86): a row's own store comes first among
its writes. -/
def Env.zoWrites (e : Env) (c : Ten) (zo : Option Ten) (j : Nat × Nat × Nat) (rows : List (Nat × List Wr)) : List Wr :=
  match zo with
  | none => []
  | some z =>
    let vals : List (Nat × List FV) := rows.map fun p =>
      (p.1, match p.2 with
            | w :: _ => (rowDecode c.fmt (c.ext 0) w.bytes).vals
            | [] => [])
    (rows.map fun r => r.1 / 32).eraseDups.map fun b =>
      e.wr z (z.base 2 j + b * z.str 1)
        (zoRow (ceilDiv (c.ext 0) 32) ((vals.filter fun v => v.1 / 32 == b).map (·.2)))

/-- The rows of an output with their computed values, drained; ZO of the block rows computed. -/
def Env.drainRows (e : Env) (c : Ten) (zo : Option Ten) (epi : List Stage) (j : Nat × Nat × Nat)
    (rows : List (Nat × List Word32)) : List Wr × Conv :=
  let ds := rows.map fun r => e.drainRow epi c j r.1 (c.base 2 j + r.1 * c.str 1) r.2
  (ds.flatMap (·.1) ++ e.zoWrites c zo j ((List.zip rows ds).map fun p => (p.1.1, p.2.1)),
   ds.foldl (fun a d => a.add d.2) Conv.zero)

/-- A row of activations as the feeder gives it, and the groups that take the zero group sum: a group whose block is flagged
zero enters a prologue as +0, so that the result is the one without flags, and takes the zero group sum where there is no
prologue (03 R93, R95; DESIGN CHOICE, log 46). -/
def Env.feed (e : Env) (a : Ten) (j : Nat × Nat × Nat) (row addr : Nat) (flagged : Nat → Bool) :
    (RowV × Conv) × (Nat → Bool) :=
  (e.proRowZ a j row addr flagged, fun g => e.pro.isEmpty && flagged g)

/-- Columns padded with +0 to whole tiles (02 R58). -/
def padCols (width kk : Nat) (cols : List RowV) : List RowV :=
  cols ++ List.replicate (ceilDiv cols.length width * width - cols.length) ⟨List.replicate kk FV.zero, []⟩

def Env.matmulPart (e : Env) (x : MatmulBody) (pred : List Bool) (ix : Nat) (j : Nat × Nat × Nat) : MmPart :=
  let mM := x.a.ext 1
  let nK := ceilDiv (x.a.ext 0) 32
  let nR := ceilDiv mM 32
  let w := pairWidth x.a.fmt x.b.fmt
  let cols := e.weightCols x.b x.kn (x.b.base 2 j)
  let flags := match x.zf with
    | some z => if e.spxOn then e.flags z j nR nK else []
    | none => []
  let feed (r : Nat) := e.feed x.a j r (x.a.base 2 j + r * x.a.str 1) fun g => lget flags (r / 32 * nK + g) false
  let rowOf (r : Nat) : (Nat × List Word32) × Conv :=
    let a := feed r
    ((r, (List.zip cols (e.accRow x.acc j r (x.c.ext 0))).map fun p => dotFrom w a.2 p.2 a.1.1 p.1), a.1.2)
  let pad := padCols (tileSize x.shape).2 (x.a.ext 0) cols
  let val (r n : Nat) : Word32 :=
    let b := lget pad n ⟨[], []⟩
    if r < mM then
      let a := feed r
      dotFrom w a.2 (lget (e.accRow x.acc j r (x.c.ext 0)) n f32zero) a.1.1 b
    else dotFrom w (fun _ => true) f32zero ⟨[], []⟩ b
  let blocks := (List.range (ceilDiv mM 64)).map fun b => (b, (List.range (min 64 (mM - 64 * b))).map fun i => 64 * b + i)
  let decide? (b : Nat × List Nat) : Option (BitVec 64 × Bool × Bool) :=
    match x.ruTbl, x.ruPrev with
    | some t, some p => if e.truOn then some (e.reuse x.a t p j b.2 b.1) else none
    | _, _ => none
  let todo := blocks.map fun b => (b, decide? b)
  let live := todo.filter fun b => match b.2 with | some d => !d.2.2 | none => true
  let rs := live.flatMap fun b => b.1.2.map rowOf
  let dr := e.drainRows x.c x.zo e.epi j (rs.map (·.1))
  let tbl := live.flatMap fun b => match b.2, x.ruTbl with
    | some d, some t => [e.wr t (t.base 2 j + b.1.1 * t.str 1) (leBytes 8 (d.1.toNat % 2 ^ 63 + 2 ^ 63))]
    | _, _ => []
  let myPred := (pred.drop (ix * nR * nK)).take (nR * nK)
  { wrs := dr.1 ++ tbl
    val := val
    cols := pad
    skip := fun r => (todo.any fun b => b.1.1 == r / 64 && match b.2 with | some d => d.2.2 | none => false)
    conv := rs.foldl (fun a r => a.add r.2) dr.2
    hits := todo.length - live.length
    matched := (todo.filter fun b => match b.2 with | some d => d.2.1 | none => false).flatMap (·.1.2)
    misses := if flags.isEmpty then 0 else missBlocks nR nK myPred flags }

/-- Bytes of K group `g` of the row at `row`: its elements, and its scale in a block format. -/
def Ten.group (t : Ten) (row g : Nat) : List (Nat × Nat) :=
  t.part row (32 * g) (min 32 (t.ext 0 - 32 * g))
    :: (if fmtBlock t.fmt then [(row + elemBytes t.fmt (t.ext 0) + g * fmtScale t.fmt, fmtScale t.fmt)] else [])

/-- Loads of A, by whether their outcome counts (03 R94): every block that is not predicted zero, and every block predicted
zero that is not flagged zero; the feeder discards the outcome of those flagged zero. -/
def Env.aLoads (e : Env) (x : MatmulBody) (pred : List Bool) : List (Nat × Nat) × List (Nat × Nat) :=
  match x.zf, e.spxOn with
  | some z, true =>
    let nK := ceilDiv (x.a.ext 0) 32
    let nR := ceilDiv (x.a.ext 1) 32
    let blocks (want : Bool) : List (Nat × Nat) :=
      (List.zip (List.range e.h.count) e.h.instances).flatMap fun ij => (List.range (x.a.ext 1)).flatMap fun r =>
        let row := x.a.base 2 ij.2 + r * x.a.str 1
        ((List.range nK).filter fun g =>
          let fl := e.flag z ij.2 (r / 32) g
          fl == !want && !(fl && lget pred ((ij.1 * nR + r / 32) * nK + g) false)).flatMap (x.a.group row)
    (z.loads (z.foot 2 e.h) ++ x.a.loads (blocks true), x.a.loads (blocks false))
  | _, _ => (x.a.loads (x.a.foot 2 e.h), [])

/-- The predictor's bits for this descriptor: none predicted zero without an entry (03 R94). -/
def Env.predicted (e : Env) : List Bool :=
  match (e.m.core e.core).predictor.find? fun p => p.1 == e.addr with
  | some p => p.2
  | none => []

def optLoads (t : Option Ten) (h : OpHdr) : List (Nat × Nat) :=
  match t with
  | none => []
  | some t => t.loads (t.foot 2 h)

def Env.matmulBody (e : Env) : Body :=
  let x := e.matmul
  let img := (e.m.core e.core).fset.active
  let is := e.h.instances
  let pred := e.predicted
  let ps := (List.zip (List.range is.length) is).map fun p => e.matmulPart x pred p.1 p.2
  let nK := ceilDiv (x.a.ext 0) 32
  let nR := ceilDiv (x.a.ext 1) 32
  let flags := match x.zf with
    | some z => if e.spxOn then some ((is.flatMap fun j => e.flags z j nR nK).take 4096) else none
    | none => none
  let ops := [x.a, x.b, x.c] ++ x.acc.toList ++ x.zo.toList ++ (e.chainTens e.pro ++ e.chainTens e.epi).map (·.2)
  let cyc := matmulCycles img e.pro e.epi x.shape (pairWidth x.a.fmt x.b.fmt) e.h.count (x.a.ext 1) (x.c.ext 0)
    (x.a.ext 0)
  let al := e.aLoads x pred
  -- the count is exact where SPX and TRU have no effect (R82)
  let effect := (flags.getD []).any id || ps.any fun p => 0 < p.misses || !p.matched.isEmpty
  let compared := (List.zip is ps).flatMap fun q => match x.ruPrev with
    | some t => t.loads (q.2.matched.map fun r => (t.base 2 q.1 + r * t.str 1, t.row))
    | none => []
  let z := tileSize x.shape
  let perInst := ceilDiv (x.a.ext 1) z.1 * ceilDiv (x.c.ext 0) z.2
  let regs := (List.zip (List.range ps.length) ps).foldl (fun s p =>
    Regs.sweep s x.shape (p.1 * perInst) (x.a.ext 1) (x.c.ext 0) nK p.2.cols p.2.skip p.2.val)
    (⟨(e.m.core e.core).weights, []⟩ : Regs)
  { Body.empty with
    loads := al.1 ++ x.b.loads (x.b.foot 2 e.h) ++ optLoads x.acc e.h ++ e.chainLoads e.pro ++ e.chainLoads e.epi
      ++ (if e.truOn then optLoads x.ruTbl e.h ++ compared else [])
    quiet := al.2
    wrs := ps.flatMap (·.wrs)
    accs := regs.accs
    latches := regs.accs
    weights := regs.weights
    counts := [(cSPX, ps.foldl (fun a p => a + p.misses) 0), (cTRU, ps.foldl (fun a p => a + p.hits) 0)]
    conv := ps.foldl (fun a p => a.add p.conv) Conv.zero
    cycles := if effect then 0 else cyclesIf ops cyc
    predict := flags.map fun f => (e.addr, f) }

/-- MATMUL without the marshalling stage. -/
def execMatmul (core thread : Nat) : State → Host.Outcome State Fault Refusal :=
  onHw fun m => m.startOp core thread (fun e => e.h.opcode == 0x01 && !bitb e.d 404) Env.matmulBody

/-! ### The marshalling stage (03 R89 to R92) -/

/-- The tag entry of slot `s` as a number. -/
def Env.mshTagOf (e : Env) (t : Ten) (s : Nat) : Nat := leNat (e.read t (t.addr + s * t.str 1) 16)

/-- The first `n` slots whose tag is valid, from slot `head`, ascending with wrap-around. -/
def Env.mshSlots (e : Env) (t : Ten) (s head n : Nat) : List Nat :=
  (((List.range s).map fun i => (head + i) % s).filter fun i => bitb (e.mshTagOf t i) 57).take n

structure Msh where
  n : Nat
  slots : List Nat
  tags : List Nat
  ten : Ten

def Env.mshTake (e : Env) : Msh :=
  let x := e.matmul
  let c := e.m.core e.core
  let t := x.mshTag.getD x.a
  let n := min (e.mshValue x.mshBol).toNat x.mshMax
  let ss := e.mshSlots t (x.a.ext 1) (c.thread e.thread).mshHead n
  ⟨n, ss, ss.map (e.mshTagOf t), t⟩

/-- The row of the batch from slot `s`: operands of the chains are those of the row's slot, so that a row's result does not
depend on its batch (04 R125), while ZO describes the rows of the batch. -/
def Env.marshalBody (e : Env) : Body :=
  let x := e.matmul
  let k := e.mshTake
  let j := (0, 0, 0)
  let w := pairWidth x.a.fmt x.b.fmt
  let nK := ceilDiv (x.a.ext 0) 32
  let nR := ceilDiv (x.a.ext 1) 32
  let flags := match x.zf with
    | some z => if e.spxOn then some (e.flags z j nR nK) else none
    | none => none
  let flagged (s g : Nat) : Bool := lget (flags.getD []) (s / 32 * nK + g) false
  let pred := e.predicted
  let missed (s : Nat) : Bool := flags.isSome && (List.range nK).any fun g =>
    lget pred (s / 32 * nK + g) false && !flagged s g
  let feed (s : Nat) := e.feed x.a j s (x.a.base 2 j + s * x.a.str 1) (flagged s)
  let cols := padCols (tileSize x.shape).2 (x.a.ext 0) (e.weightCols x.b x.kn (x.b.base 2 j))
  let val (i n : Nat) : Word32 :=
    let b := lget cols n ⟨[], []⟩
    match k.slots[i]? with
    | some s => dotFrom w (feed s).2 f32zero (feed s).1.1 b
    | none => dotFrom w (fun _ => true) f32zero ⟨[], []⟩ b
  let rs := (List.zip (List.range k.slots.length) (List.zip k.slots k.tags)).map fun p =>
    let out := { x.c with addr := bits p.2.2 56 0, space := 0 }
    let a := feed p.2.1
    let d := e.drainRow e.epi out j p.2.1 out.addr ((cols.take (x.c.ext 0)).map fun b => dotFrom w a.2 f32zero a.1.1 b)
    (p.1, d.1, d.2.add a.1.2)
  let regs := Regs.sweep ⟨(e.m.core e.core).weights, []⟩ x.shape 0 k.slots.length (x.c.ext 0) nK cols (fun _ => false) val
  { Body.empty with
    loads := (match x.zf with | some z => if e.spxOn then z.loads (z.foot 2 e.h) else [] | none => [])
      ++ x.b.loads (x.b.foot 2 e.h) ++ e.chainLoads e.pro ++ e.chainLoads e.epi
    wrs := rs.flatMap (·.2.1) ++ e.zoWrites x.c x.zo j (rs.map fun r => (r.1, r.2.1))
    accs := regs.accs
    latches := regs.accs
    weights := regs.weights
    counts := [(cSPX, ((List.range (ceilDiv k.slots.length 64)).filter fun b =>
      ((k.slots.drop (64 * b)).take 64).any missed).length)]
    conv := rs.foldl (fun a r => a.add r.2.2) Conv.zero
    predict := flags.map fun f => (e.addr, f.take 4096)
    rets := (k.tags.filter fun t => bitb t 78).map fun t => (bits t 71 64, bits t 77 72) }

/-- At the start of a batch: the rows leave the bollard, their tags are no longer valid, the head moves on. -/
def Env.mshStart (e : Env) (m : Hw) : Hw :=
  let x := e.matmul
  let k := e.mshTake
  m.updCore e.core fun c =>
    let c := (c.takeBol (m.cyc e.core) x.mshBol (BitVec.ofNat 32 k.n)).checkWaits x.mshBol
    let c := (List.zip k.slots k.tags).foldl (fun c p =>
      c.holdWrite (k.ten.addr + p.1 * k.ten.str 1) (leBytes 16 (p.2 - 2 ^ 57))) c
    let t := c.thread e.thread
    c.setThread e.thread { t with mshDl := false
                                  mshHead := match k.slots.getLast? with
                                    | some s => (s + 1) % max (x.a.ext 1) 1
                                    | none => t.mshHead }

/-- MATMUL with MARSHAL 1. -/
def execMarshallingStage (core thread : Nat) : State → Host.Outcome State Fault Refusal :=
  onHw fun m => m.startWith core thread (fun e => e.h.opcode == 0x01 && bitb e.d 404) Env.marshalBody
    (fun _ => .done) (fun _ o => o) Env.mshStart

/-- The deadline of a marshalling stage passes with a row deposited. -/
def Hw.mshDeadline (m : Hw) (core thread : Nat) : Hw :=
  match m.envOf core thread with
  | none => m
  | some e =>
    let x := e.matmul
    let c := m.core core
    let t := c.thread thread
    let since := max (mgetD c.rise x.mshBol 0) t.mshDone
    if e.h.opcode == 0x01 && x.marshal && e.predOk && x.mshDl != 0 && 1 ≤ (c.bol x.mshBol).toNat
        && since + x.mshDl ≤ m.cyc core then
      m.updCore core fun c => c.setThread thread { t with mshDl := true }
    else m

def execMarshallingDeadline (core thread : Nat) : State → Host.Outcome State Fault Refusal :=
  onHw fun m => m.mshDeadline core thread

/-! ### MATVEC (03 R87, R88) -/

def Env.matvecBody (e : Env) : Body :=
  let x := e.ten (e.field 271 256)
  let wt := e.ten (e.field 287 272)
  let y := e.ten (e.field 303 288)
  let acc := e.opt (e.field 319 304)
  let kn := bitb e.d 320
  let img := (e.m.core e.core).fset.active
  let w := pairWidth x.fmt wt.fmt
  let rs := e.h.instances.map fun j =>
    let cols := e.weightCols wt kn (wt.base 2 j)
    let rows := (List.range (x.ext 1)).map fun r =>
      let a := e.proRow x j r (x.base 2 j + r * x.str 1)
      ((r, (List.zip cols (e.accRow acc j r (y.ext 0))).map fun p => dotFrom w (fun _ => false) p.2 a.1 p.1), a.2)
    let d := e.drainRows y none e.epi j (rows.map (·.1))
    (d.1, rows.foldl (fun a r => a.add r.2) d.2)
  let ops := [x, wt, y] ++ acc.toList ++ (e.chainTens e.pro ++ e.chainTens e.epi).map (·.2)
  { Body.empty with
    loads := x.loads (x.foot 2 e.h) ++ optLoads acc e.h ++ e.chainLoads e.pro ++ e.chainLoads e.epi
    wrs := rs.flatMap (·.1)
    conv := rs.foldl (fun a r => a.add r.2) Conv.zero
    cycles := cyclesIf ops
      (matvecCycles img e.pro e.epi w e.h.count (x.ext 1) (y.ext 0) (x.ext 0) wt.fmt kn) }

def execMatvec (core thread : Nat) : State → Host.Outcome State Fault Refusal :=
  onHw fun m => m.startOp core thread (fun e => e.h.opcode == 0x02) Env.matvecBody

end Sys2Proof.Machine
end

