-- ==== Sys2Proof/Machine/Recur.lean ====
section
/-! DEFINITION. Recurrence: gate cells and column layout (10 R261 to R266), RECUR_STEP (10 R267 to R271), STATE_XFER
(10 R272 to R274). -/

namespace Sys2Proof.Machine

/-! ### Bindings -/

structure Binding4 where
  arr0 : Nat
  cell : Nat
  sx : Bool
  ns : Nat
  /-- K tiles -/
  nKt : Nat
  deriving DecidableEq

def cellG (cell : Nat) : Nat := match cell with | 0 => 1 | 1 => 2 | 2 => 2 | 3 => 3 | _ => 4

/-- Product columns per state element. -/
def Binding4.gc (b : Binding4) : Nat := if b.cell = 0 && b.sx then 2 else cellG b.cell

def Binding4.ncol (b : Binding4) : Nat := b.gc * b.ns

/-- Accumulator key of entry `m` of product column `n`: the last array of the column's chain (10 R262, R266). -/
def Binding4.key (b : Binding4) (n m : Nat) : Nat := ((b.arr0 + n / 32 * b.nKt + (b.nKt - 1)) * 32 + n % 32) * 64 + m

/-- The state of element `j`, stream `m`, as its entry contents: HEAD, and COMP above it. -/
def Core.stateOf (c : Core) (b : Binding4) (j m : Nat) : Nat :=
  let head := (mgetD c.acc (b.key (b.gc * j) m) 0#32).toNat
  if b.sx then head + 2 ^ 32 * ((mgetD c.acc (b.key (b.gc * j + 1) m) 0#32).toNat % 2 ^ 24) else head

/-- The entries that hold a state value. -/
def Binding4.entries (b : Binding4) (j m v : Nat) : List (Nat × Word32) :=
  (b.key (b.gc * j) m, BitVec.ofNat 32 v)
    :: (if b.sx then [(b.key (b.gc * j + 1) m, BitVec.ofNat 32 (bits v 55 32))] else [])

def Binding4.val (b : Binding4) (v : Nat) : FV := if b.sx then fp32xDecode v else Fp.fp32.decode v

/-- ρs: one rounding into the state's format. An FP32X update that overflows becomes an infinity whatever OVF says, as one of
FP32 does under RNE32 (DESIGN CHOICE, log 47: 04 R113 says only that it overflows). -/
def Binding4.round (b : Binding4) (v : FV) : Nat := if b.sx then (fp32xConvert true v).1 else (rne32 v).toNat

/-! ### Gate cells (10 R263) -/

def gateG (img : List Byte) (func : Nat) (x : Word32) : Word32 :=
  if func = 0 then rne32 (f32v x) else if func < 0x80 then builtin func x else microRun img (func - 0x80) x

/-- New state and output from the slots, the old state and GRU's projection; c′32 is rounded with the op's OVF, and what that
conversion counts is the output's (04 R487). -/
def Binding4.gate (b : Binding4) (ieee : Bool) (g : Word32 → Word32) (z : Nat → Word32) (c : Nat) (xp2 : Word32) :
    Nat × Word32 × Note :=
  let cv := b.val c
  let c32 (n : Nat) : Word32 × Note := toF32 ieee (b.val n)
  let thru (f : Word32 → Word32) (n : Nat) : Nat × Word32 × Note := (n, f (c32 n).1, (c32 n).2)
  let fma (f : Word32) (t : Word32) : Nat := b.round (((f32v f).mul cv).add (f32v t))
  match b.cell with
  | 0 =>
    thru g (b.round (cv.add (f32v (z 0))))
  | 1 =>
    thru id (fma (g (z 1)) (z 0))
  | 2 =>
    let f := fsigmoid (z 1)
    thru id (fma f (fmul (fsub f32one f) (g (z 0))))
  | 3 =>
    let r := fsigmoid (z 0)
    let u := fsigmoid (z 1)
    let k := g (fadd xp2 (fmul r (z 2)))
    thru id (fma u (fmul (fsub f32one u) k))
  | _ =>
    let i := fsigmoid (z 0)
    let f := fsigmoid (z 1)
    let o := fsigmoid (z 2)
    thru (fun h => fmul o (g h)) (fma f (fmul i (g (z 3))))

/-! ### RECUR_STEP -/

structure RecurBody where
  x : Option Ten
  win : Option Ten
  xp : Option Ten
  u : Option Ten
  hin : Option Ten
  h : Option Ten
  rs : Option Ten
  b : Binding4
  hf : Nat
  s : Nat
  l : Nat

def Env.recur (e : Env) : RecurBody :=
  let u := e.opt (e.field 319 304)
  let ns := e.field 407 400 + 1
  { x := e.opt (e.field 271 256), win := e.opt (e.field 287 272), xp := e.opt (e.field 303 288), u := u
    hin := e.opt (e.field 335 320), h := e.opt (e.field 351 336), rs := e.opt (e.field 367 352)
    b := { arr0 := e.field 370 368, cell := e.field 373 371, sx := bitb e.d 374, ns := ns
           nKt := if u.isSome then ceilDiv ns 32 else 1 }
    hf := e.field 378 375, s := e.field 389 384 + 1, l := e.field 397 392 + 1 }

/-- XP of every step and stream: computed, or supplied (10 R268). -/
def Env.xpRows (e : Env) (r : RecurBody) : List (Nat × Nat × List Word32 × Conv) :=
  (List.range r.l).flatMap fun k => (List.range r.s).map fun m =>
    match r.x, r.win with
    | some x, some w =>
      let a := e.proRow x (0, 0, 0) (k * r.s + m) (x.addr + k * x.str 2 + m * x.str 1)
      (k, m, (List.range r.b.ncol).map fun n =>
        dotFrom (pairWidth x.fmt w.fmt) (fun _ => false) f32zero a.1 (e.row w (w.addr + n * w.str 1)), a.2)
    | _, _ =>
      (k, m, (match r.xp with
        | some t => (e.rowVals t (t.addr + k * t.str 2 + m * t.str 1)).map rne32
        | none => []), Conv.zero)

/-- A stream's state in a run: entry contents by element, the fed-back h, what conversions counted so far, and the latches of
its last step. -/
structure StreamSt where
  c : List Nat
  h : RowV
  conv : Conv
  lat : List Word32

def Env.resetMark (e : Env) (r : RecurBody) (k m : Nat) : Bool :=
  match r.rs with
  | none => false
  | some t => bitb (lget (e.read t (t.addr + k * t.str 1 + m / 8) 1) 0 0#8).toNat (m % 8)

/-- One serial step of one stream: the new state, and h as cells. Conversions before the gate stage, into HF and into H each
count (04 R487; log 47). -/
def Env.recurStep (e : Env) (r : RecurBody) (pre post : List Stage) (gs : Stage) (k m : Nat) (xp : List Word32)
    (st : StreamSt) : StreamSt × List Cell :=
  let img := (e.m.core e.core).fset.active
  let zeroH := rowDecode r.hf r.b.ns (rowEncode r.hf e.h.ieee (List.replicate r.b.ns FV.zero)).1
  let st := if e.resetMark r k m then ⟨List.replicate r.b.ns 0, zeroH, st.conv, []⟩ else st
  let gru := r.b.cell = 3
  let lat := (List.range r.b.ncol).map fun n =>
    let start := if gru && n % 3 = 2 then f32zero else lget xp n f32zero
    match r.u with
    | none => start
    | some u => dotFrom (pairWidth r.hf u.fmt) (fun _ => false) start st.h (e.row u (u.addr + n * u.str 1))
  let zc := e.runChain pre (0, 0, 0) 0 (lat.map cellOf)
  let zs := zc.map (·.v)
  let out := (List.range r.b.ns).map fun j =>
    r.b.gate e.h.ieee (gateG img gs.func) (fun i => lget zs (r.b.gc * j + i) f32zero) (lget st.c j 0)
      (lget xp (r.b.gc * j + 2) f32zero)
  let hs := e.runChain post (0, 0, 0) 0 (out.map fun o => ⟨o.2.1, false, o.2.2, []⟩)
  let fb := rowEncode r.hf e.h.ieee (hs.map fun c => f32v c.v)
  (⟨out.map (·.1), rowDecode r.hf hs.length fb.1, (st.conv.add (Conv.ofNotes (chainNotes zc))).add
    (Conv.ofNotes (if r.h.isSome then fb.2 else cellNotes hs fb.2)), lat⟩, hs)

/-- Every step of one stream: the final state and the cells of h by step. -/
def Env.recurStream (e : Env) (r : RecurBody) (pre post : List Stage) (gs : Stage)
    (xps : List (Nat × Nat × List Word32 × Conv)) (m : Nat) : StreamSt × List (Nat × List Cell) :=
  let c := e.m.core e.core
  let h0 := match r.hin with
    | some t => e.row t (t.addr + m * t.str 1)
    | none => rowDecode r.hf r.b.ns (rowEncode r.hf e.h.ieee (List.replicate r.b.ns FV.zero)).1
  (List.range r.l).foldl (fun (a : StreamSt × List (Nat × List Cell)) k =>
    let xp := match xps.find? fun x => x.1 == k && x.2.1 == m with | some x => x.2.2.1 | none => []
    let s := e.recurStep r pre post gs k m xp a.1
    (s.1, a.2 ++ [(k, s.2)])) (⟨(List.range r.b.ns).map fun j => c.stateOf r.b j m, h0, Conv.zero, []⟩, [])

def Env.recurCycles (e : Env) (r : RecurBody) : Nat :=
  let img := (e.m.core e.core).fset.active
  let w := match r.u with | some u => pairWidth r.hf u.fmt | none => fmtWidth r.hf
  let nNt := ceilDiv r.b.ncol 32
  let narr := r.b.nKt * nNt
  let a := match r.x, r.win with
    | some x, some wi =>
      let wA := pairWidth x.fmt wi.fmt
      let nKin := ceilDiv (x.ext 0) 32
      2 * wA + 16 + ceilDiv (ceilDiv (r.l * r.s) 64 * nNt) narr * max (nKin * 4 * wA) 64 + chainLat img nKin e.pro
    | _, _ => 0
  let rho := chainRate img 256 e.epi
  let pu := if r.u.isSome then ceilDiv r.s (16 / max w 1) else 0
  let nu := if r.u.isSome then 10 * r.b.nKt else 0
  let t := max pu (atRate (r.s * r.b.ncol) rho) + nu + chainLat img (ceilDiv r.b.ns 32) e.epi + 12
  24 + a + 2 * w + 16 + r.l * t + 24

/-- Arrays of a binding (10 R266). -/
def Binding4.narr (b : Binding4) : Nat := b.nKt * ceilDiv b.ncol 32

/-- What the projection leaves in the bound arrays: W32 tiles of X × WIN, dealt to them in ascending order (10 R268; log 46). -/
def Env.projRegs (e : Env) (r : RecurBody) (xps : List (Nat × Nat × List Word32 × Conv)) (s : Regs) : Regs :=
  match r.x, r.win with
  | some x, some w =>
    let nN := ceilDiv r.b.ncol 32
    let cols := padCols 32 (x.ext 0) ((List.range r.b.ncol).map fun n => e.row w (w.addr + n * w.str 1))
    (List.range (ceilDiv xps.length 64)).foldl (fun s b => (List.range nN).foldl (fun s t =>
      s.one (r.b.arr0 + (b * nN + t) % max r.b.narr 1) cols (ceilDiv (x.ext 0) 32) (32 * t) fun i c =>
        match xps[64 * b + i]? with
        | some p => lget p.2.2.1 (32 * t + c) f32zero
        | none => dotFrom (pairWidth x.fmt w.fmt) (fun _ => true) f32zero ⟨[], []⟩ (lget cols (32 * t + c) ⟨[], []⟩)) s) s
  | _, _ => s

/-- U tile (kt, nt) in array ARR0 + nt × nKt + kt (10 R266, R268). -/
def Env.uTiles (e : Env) (r : RecurBody) (w : Map Word32) : Map Word32 :=
  match r.u with
  | none => w
  | some u =>
    let cols := padCols 32 r.b.ns ((List.range r.b.ncol).map fun n => e.row u (u.addr + n * u.str 1))
    (List.range (ceilDiv r.b.ncol 32)).foldl (fun w nt => (List.range r.b.nKt).foldl (fun w kt =>
      runPass cols (r.b.arr0 + nt * r.b.nKt + kt) kt (32 * nt) w) w) w

def Env.recurBody (e : Env) : Body :=
  let r := e.recur
  let pre := e.epi.takeWhile fun s => !isGate s
  let rest := e.epi.drop pre.length
  match rest with
  | [] => Body.empty
  | gs :: post =>
    let xps := e.xpRows r
    let runs := (List.range r.s).map fun m => (m, e.recurStream r pre post gs xps m)
    let xw := match r.x, r.xp with
      | some _, some t => xps.map fun x =>
          e.wr t (t.addr + x.1 * t.str 2 + x.2.1 * t.str 1) (x.2.2.1.flatMap fun v => leBytes 4 v.toNat)
      | _, _ => []
    let hw : List (Wr × Conv) := match r.h with
      | none => []
      | some t => runs.flatMap fun p => p.2.2.map fun k =>
          let o := rowEncode t.fmt e.h.ieee (k.2.map fun c => f32v c.v)
          (e.wr t (t.addr + k.1 * t.str 2 + p.1 * t.str 1) o.1, Conv.ofNotes (cellNotes k.2 o.2))
    let one (t : Option Ten) (k : Nat) : List (Nat × Nat) := match t with | some t => t.loads (t.foot k e.h) | none => []
    let ops := r.x.toList ++ r.win.toList ++ r.xp.toList ++ r.u.toList ++ r.hin.toList ++ r.h.toList ++ r.rs.toList
      ++ (e.chainTens e.pro ++ e.chainTens e.epi).map (·.2)
    let proj := e.projRegs r xps ⟨(e.m.core e.core).weights, []⟩
    { Body.empty with
      weights := e.uTiles r proj.weights
      latches := proj.accs ++ runs.flatMap fun p =>
        (List.zip (List.range r.b.ncol) p.2.1.lat).map fun n => (r.b.key n.1 p.1, n.2)
      loads := one r.x 3 ++ one r.win 2 ++ one r.hin 2 ++ one r.rs 2 ++ e.chainLoads e.pro ++ e.chainLoads e.epi
      wrs := xw ++ hw.map (·.1)
      accs := runs.flatMap fun p => (List.zip (List.range r.b.ns) p.2.1.c).flatMap fun c => r.b.entries c.1 p.1 c.2
      conv := (hw.map (·.2) ++ xps.map (·.2.2.2) ++ runs.map (·.2.1.conv)).foldl (fun a c => a.add c) Conv.zero
      cycles := cyclesIf ops (e.recurCycles r) }

/-- RECUR_STEP. -/
def execRecurStep (core thread : Nat) : State → Host.Outcome State Fault Refusal :=
  onHw fun m => m.startOp core thread (fun e => e.h.opcode == 0x08) Env.recurBody

/-! ### STATE_XFER -/

/-- Descriptors of a stream from its entry point, address and number, up to the last (02 R33, R34). -/
def Hw.streamFrom (m : Hw) (ctx : Nat) : Nat → Nat → List (Nat × Nat)
  | 0, _ => []
  | n + 1, a =>
    let d := leNat (m.peek ctx a 128)
    (a, d) :: (if (OpHdr.parse d).flow = 0 then Hw.streamFrom m ctx n (a + 128) else [])

/-- Descriptors of the streams that a context's plan runs on a core. -/
def Hw.streamsOn (m : Hw) (ctx core : Nat) : List Nat :=
  match m.planOn ctx core with
  | none => []
  | some p => ((p.2.cores.filter fun e => e.core == core).flatMap fun e => e.entry).flatMap fun a =>
      if a = 0 then [] else (m.streamFrom ctx 65536 a).map (·.2)

/-- The bindings of a core in its context's plan (10 R258). -/
def Hw.bindings (m : Hw) (ctx core : Nat) : List Binding4 :=
  let ds := m.streamsOn ctx core
  let hasU (a : Nat) : Bool := ds.any fun d => bits d 7 0 == 0x08 && bits d 370 368 == a && bits d 319 304 != 0xFFFF
  let mk (arr0 cell : Nat) (sx : Bool) (ns : Nat) : Binding4 := ⟨arr0, cell, sx, ns, if hasU arr0 then ceilDiv ns 32 else 1⟩
  (ds.filterMap fun d => match bits d 7 0 with
    | 0x08 => some (mk (bits d 370 368) (bits d 373 371) (bitb d 374) (bits d 407 400 + 1))
    | 0x09 => some (mk (bits d 274 272) (bits d 277 275) (bitb d 278) (bits d 295 288 + 1))
    | _ => none).eraseDups

/-- Of a core's accumulator entries, the images of its bindings: what is saved and recorded of them (10 R275, R276). -/
def Hw.bindingImages (m : Hw) (ctx core : Nat) (acc : Map Word32) : Map Word32 :=
  let arrs := (m.bindings ctx core).flatMap fun b => (List.range b.narr).map fun i => b.arr0 + i
  acc.filter fun a => arrs.contains (a.1 / 2048)

/-- The binding of arrays from ARR0 has recurrent weights: what the core's RECUR_STEP ops that name it say (log 19). -/
def Env.hasU (e : Env) (arr0 : Nat) : Bool :=
  match e.plan.cores.find? fun c => c.core == e.core with
  | none => false
  | some c => c.entry.any fun a => a != 0 && (e.m.streamFrom e.ctx 65536 a).any fun p =>
      (OpHdr.parse p.2).opcode == 0x08 && bits p.2 370 368 == arr0 && bits p.2 319 304 != 0xFFFF

structure XferBody where
  img : Option Ten
  b : Binding4
  dir : Nat
  sb : Nat
  n : Nat
  tag : Nat

def Env.xfer (e : Env) : XferBody :=
  let ns := e.field 295 288 + 1
  { img := e.opt (e.field 271 256)
    b := { arr0 := e.field 274 272, cell := e.field 277 275, sx := bitb e.d 278, ns := ns
           nKt := if e.hasU (e.field 274 272) then ceilDiv ns 32 else 1 }
    dir := e.field 280 279, sb := e.field 301 296, n := e.field 307 302 + 1, tag := e.field 383 320 }

/-- Bytes of one stream's record. -/
def XferBody.recBytes (x : XferBody) : Nat := ceilDiv (x.b.ns * (if x.b.sx then 8 else 4)) 64 * 64

def XferBody.imgBytes (x : XferBody) : Nat := 64 + x.n * x.recBytes

/-- The image of the named streams (10 R273). -/
def Core.image (c : Core) (x : XferBody) : List Byte :=
  let w := if x.b.sx then 8 else 4
  let recs := (List.range x.n).flatMap fun i =>
    fit x.recBytes ((List.range x.b.ns).flatMap fun j => leBytes w (c.stateOf x.b j (x.sb + i)))
  leBytes 64 (packFields [(16, 1), (1, b2n x.b.sx), (3, x.b.cell), (4, 0), (8, x.b.ns - 1), (6, x.n - 1), (26, 0),
    (64, (crc64 recs).toNat), (64, x.tag)]) ++ recs

/-- An image agrees with the body, and its CRC holds (10 R274). -/
def XferBody.accepts (x : XferBody) (img : List Byte) : Bool :=
  let h := leNat (img.take 64)
  let recs := img.drop 64
  bits h 15 0 == 1 && bitb h 16 == x.b.sx && bits h 19 17 == x.b.cell && bits h 31 24 == x.b.ns - 1
    && bits h 37 32 == x.n - 1 && bits h 127 64 == (crc64 recs).toNat

def XferBody.imported (x : XferBody) (img : List Byte) : List (Nat × Word32) :=
  let w := if x.b.sx then 8 else 4
  (List.range x.n).flatMap fun i => (List.range x.b.ns).flatMap fun j =>
    x.b.entries j (x.sb + i) (leNat ((img.drop (64 + i * x.recBytes + j * w)).take w))

def XferBody.time (x : XferBody) : Nat := cyclesIf x.img.toList (32 + ceilDiv x.imgBytes 512)

def Env.exportBody (e : Env) : Body :=
  let x := e.xfer
  { Body.empty with
    wrs := match x.img with | some t => [e.wr t t.addr ((e.m.core e.core).image x)] | none => []
    cycles := x.time }

def Env.importBody (e : Env) : Body :=
  let x := e.xfer
  match x.img with
  | none => Body.empty
  | some t =>
    let img := e.read t t.addr x.imgBytes
    let ok := x.accepts img
    { Body.empty with
      loads := t.loads [(t.addr, x.imgBytes)]
      remote := if t.space = 2 then [(t.remote, x.imgBytes)] else []
      accs := if ok then x.imported img else []
      cycles := x.time
      fault := if ok then none else some ⟨0x0183, 0, 0, 0⟩ }

def Env.zeroBody (e : Env) : Body :=
  let x := e.xfer
  { Body.empty with
    accs := (List.range x.n).flatMap fun i => (List.range x.b.ns).flatMap fun j => x.b.entries j (x.sb + i) 0
    cycles := x.time }

/-- STATE_XFER, EXPORT. -/
def execStateXferExport (core thread : Nat) : State → Host.Outcome State Fault Refusal :=
  onHw fun m => m.startOp core thread (fun e => e.h.opcode == 0x09 && e.field 280 279 == 0) Env.exportBody

/-- STATE_XFER, IMPORT. -/
def execStateXferImport (core thread : Nat) : State → Host.Outcome State Fault Refusal :=
  onHw fun m => m.startOp core thread (fun e => e.h.opcode == 0x09 && e.field 280 279 == 1) Env.importBody

/-- STATE_XFER, ZERO. -/
def execStateXferZero (core thread : Nat) : State → Host.Outcome State Fault Refusal :=
  onHw fun m => m.startOp core thread (fun e => e.h.opcode == 0x09 && e.field 280 279 == 2) Env.zeroBody

end Sys2Proof.Machine
end

