-- ==== Sys2Proof/Machine/Ferry.lean ====
section
/-! DEFINITION. Ferries: landings, voyages, credits and batches, FERRY_SEND and FERRY_COMBINE (11 R284 to R298), and the
faults of fabric lanes and links (11 R301 to R303). -/

namespace Sys2Proof.Machine

/-! ### Landings -/

def Landing.rows (l : Landing) : Nat := 32 * 2 ^ l.batch

def Landing.none : Landing := ⟨0, 0, 64, 0, 2, 0, 0, false, 1, 0⟩

/-- The landing table of a core in a context's enabled plan. -/
def Hw.landingOf (m : Hw) (ctx core land : Nat) : Landing :=
  match m.planOn ctx core with
  | none => Landing.none
  | some p => match p.2.cores.find? fun e => e.core == core with
    | none => Landing.none
    | some e => lget e.lands land Landing.none

def Hw.landState (m : Hw) (ctx core land : Nat) : LandState :=
  mgetD (m.core core).lands land ⟨m.landingOf ctx core land, 0, 0, 0, false, [], []⟩

def Core.setLand (c : Core) (land : Nat) (s : LandState) : Core := { c with lands := mset c.lands land s }

def Landing.rowAt (l : Landing) (buf slot : Nat) : Nat := l.ring + (buf * l.rows + slot) * l.rowBytes
def Landing.tagAt (l : Landing) (buf slot : Nat) : Nat := l.tags + 16 * (buf * l.rows + slot)

/-- A slot tag (11 R285). -/
def slotTag (origin voy : Nat) (r : SendRow) : List Byte :=
  leBytes 16 (packFields [(8, origin), (2, voy), (1, 1), (21, 0), (16, r.token), (3, r.choice), (13, 0), (12, r.expert)])

def Core.tagOf (c : Core) (l : Landing) (buf slot : Nat) : Nat := leNat (rdN c.hold (l.tagAt buf slot) 16)

/-- Valid slots of a buffer: slot and tag. -/
def Core.validSlots (c : Core) (l : Landing) (buf : Nat) : List (Nat × Nat) :=
  ((List.range l.rows).map fun s => (s, c.tagOf l buf s)).filter fun p => bitb p.2 10

/-- Cores of the context whose plan holds a SEND (11 R291). -/
def Hw.senders (m : Hw) (ctx : Nat) : Nat :=
  (((m.plansOf ctx).flatMap fun p => p.2.cores).filter fun e =>
    e.entry.any fun a => a != 0 && (m.streamFrom ctx 65536 a).any fun d =>
      bits d.2 7 0 == 0x20 && bits d.2 321 320 == 0).length

/-- Credits not held as rows, CR × nS − H. -/
def Hw.outCredits (m : Hw) (ctx core : Nat) (s : LandState) : Nat :=
  let held := s.slot + (s.emitted.map fun b => ((m.core core).validSlots s.cfg b).length).foldl (· + ·) 0
  s.cfg.cr * m.senders ctx - held

/-- An emission that is not full leaves room for every credit outside the landing (11 R292). -/
def Hw.roomOk (m : Hw) (ctx core : Nat) (s : LandState) : Bool :=
  decide (m.outCredits ctx core s ≤ s.cfg.rows * (s.cfg.nb - 1 - s.emitted.length))

/-- Items 1 to 3 of 11 R292. -/
def Hw.emit123 (m : Hw) (ctx core : Nat) (s : LandState) : Bool :=
  s.slot == s.cfg.rows ||
    (0 < s.slot && (s.senders.all (fun x => x.2.2) || (s.cfg.flushDl != 0 && s.flushed)) && m.roomOk ctx core s)

/-- A thread waits on bollard `b`: in a WAIT op, or before an op whose pre-wait does not hold. -/
def Hw.waitsOn (m : Hw) (core thread b : Nat) : Bool :=
  ((m.core core).ops.any fun o => o.thread == thread &&
    (match o.cond with | .bollard bol _ _ _ => bol == b | _ => false))
  || (match m.envOf core thread with
      | some e => e.h.preEn && e.h.preBol == b && !e.preOk && e.predOk
      | none => false)

/-- Item 4: the empty batch that keeps the berth's rotation moving. -/
def Hw.emitEmpty (m : Hw) (ctx core land : Nat) (s : LandState) : Bool :=
  s.slot == 0 && m.waitsOn core s.cfg.thread s.cfg.bol && m.roomOk ctx core s
    && (List.range 16).any fun k =>
      let t := m.landState ctx core k
      k != land && t.cfg.valid && t.cfg.thread == s.cfg.thread && m.emit123 ctx core t

/-- The fill buffer becomes the berth's: VALID of its unfilled slots is cleared and BOL rises by 1. -/
def Hw.emitBatch (m : Hw) (ctx core land : Nat) (s : LandState) : Hw :=
  let m := m.updCore core fun c =>
    let c := (List.range (s.cfg.rows - s.slot)).foldl (fun (c : Core) i =>
      let a := s.cfg.tagAt s.fill (s.slot + i) + 1
      c.holdWrite a [rd c.hold a &&& 0xFB#8]) c
    c.setLand land { s with fill := (s.fill + 1) % s.cfg.nb, slot := 0, firstAt := 0, flushed := false, senders := []
                            emitted := s.emitted ++ [s.fill] }
  m.signal core ctx (m.core core).recs core s.cfg.bol false 1#32

/-- BATCH_EMISSION. -/
def execBatchEmission (core land : Nat) : State → Host.Outcome State Fault Refusal :=
  onHw fun m =>
    match (m.core core).ctx with
    | none => m
    | some x =>
      let s := m.landState x core land
      if land < 16 && s.cfg.valid && s.emitted.length < s.cfg.nb && m.runs core x
          && (m.emit123 x core s || m.emitEmpty x core land s) then m.emitBatch x core land s
      else m

/-- FLUSH_DL: the deadline of the first row of a fill buffer has passed. -/
def execFlushDl (core land : Nat) : State → Host.Outcome State Fault Refusal :=
  onHw fun m =>
    match (m.core core).ctx with
    | none => m
    | some x =>
      let s := m.landState x core land
      if land < 16 && s.cfg.valid && 0 < s.slot && s.cfg.flushDl != 0 && s.firstAt + s.cfg.flushDl ≤ m.cyc core then
        m.updCore core fun c => c.setLand land { s with flushed := true }
      else m

/-! ### Ferries leaving -/

def creditKey (core land : Nat) : Nat := core * 16 + land

/-- Credits a sending core holds for a landing; CR of them at enable (11 R291). -/
def Hw.creditsOf (m : Hw) (ctx src dst land : Nat) : Nat :=
  mgetD (m.core src).credits (creditKey dst land) (m.landingOf ctx dst land).cr

/-- Bytes of a ferry on the fabric (11 R290). -/
def ferryBytes (rows rowBytes : Nat) : Nat := 32 + rows * (16 + rowBytes)

/-- A ferry enters the fabric. -/
def Hw.launch (m : Hw) (f : Ferry) : Hw :=
  ({ m with ferries := m.ferries ++ [f] }).traffic (some f.ctx) (f.src / 64) (f.dst / 64)
    (ferryBytes f.rows.length f.rowBytes) (pathKey f.src f.dst f.land)

def Hw.setOp (m : Hw) (core : Nat) (o : OpRec) : Hw :=
  m.updCore core fun c => { c with ops := c.ops.map fun (p : OpRec) => if p.no == o.no then o else p }

/-- Rows at the front of a send list that share one ferry. -/
def shared (cr rb : Nat) (l : List SendRow) : List SendRow :=
  match l with
  | [] => []
  | r :: _ => (l.takeWhile fun q => q.dst == r.dst && q.land == r.land).take (min 16 (min cr (16384 / max rb 1)))

/-- A SEND's ferries leave while its port holds the credits; seals follow the last row (11 R289). -/
def sendOut : Nat → Hw → Nat → Nat → OpRec → Hw
  | 0, m, core, _, o => m.setOp core o
  | n + 1, m, core, ctx, o =>
    match o.send with
    | [] =>
      if o.eff.fault.isSome then m.setOp core { o with sealTo := [] }
      else
        let m := m.setOp core { o with sealTo := [], sentTo := [] }
        o.sentTo.foldl (fun m t => m.launch ⟨core, t.1, t.2, o.voy, 1, ctx, 64, []⟩) m
    | r :: _ =>
      let l := m.landingOf ctx r.dst r.land
      let g := shared l.cr r.bytes.length o.send
      let have_ := m.creditsOf ctx core r.dst r.land
      if have_ < g.length || g.isEmpty then m.setOp core o
      else
        let m := m.updCore core fun c => { c with credits := mset c.credits (creditKey r.dst r.land) (have_ - g.length) }
        let m := m.launch ⟨core, r.dst, r.land, o.voy, 0, ctx, r.bytes.length, g⟩
        let owner := (r.dst, r.land)
        sendOut n m core ctx
          { o with send := o.send.drop g.length, acks := o.acks + g.length, creditWait := m.cyc core
                   sealTo := if o.sealTo.contains owner then o.sealTo else o.sealTo ++ [owner]
                   sentTo := if o.sentTo.contains owner then o.sentTo else o.sentTo ++ [owner] }

/-- The result ferries of a RETURN: rows to one source and voyage share ferries of up to 16 (11 R295). -/
def returnFerries (core ctx : Nat) (rows : List SendRow) : List Ferry :=
  ((rows.map fun r => (r.dst, r.land)).eraseDups).flatMap fun k =>
    let g := rows.filter fun r => r.dst == k.1 && r.land == k.2
    (List.range (ceilDiv g.length 16)).map fun i =>
      let f := (g.drop (16 * i)).take 16
      ⟨core, k.1, 0, k.2, 3, ctx, match f with | r :: _ => r.bytes.length | [] => 64, f⟩

/-- A landing releases its oldest buffer and sends one credit for each valid row to the row's origin. -/
def Hw.releaseBuf (m : Hw) (core ctx land : Nat) (rows : List SendRow) : Hw :=
  let s := m.landState ctx core land
  let m := m.updCore core fun c => c.setLand land { s with emitted := s.emitted.drop 1 }
  (rows.map fun r => r.dst).eraseDups.foldl (fun (m : Hw) d =>
    let k : Credit := ⟨m.postNo, d, core, land, (rows.filter fun r => r.dst == d).length⟩
    ({ m with creditsInFlight := m.creditsInFlight ++ [k], postNo := m.postNo + 1 }).traffic (some ctx) (core / 64) (d / 64) 16 (pathKey core d land)) m

/-- What the ferry port of a core can send now that its ops' loads are consumed. -/
def Hw.pumpFerries (m : Hw) (core : Nat) : Hw :=
  match (m.core core).ctx with
  | none => m
  | some x =>
    let m := match (m.core core).ops.find? fun o => o.claims.getLsbD 7 && !o.send.isEmpty with
      | some o => if (m.core core).loadsIn o then (sendOut (o.send.length + 1) m core x o).settle core o.no else m
      | none => m
    match (m.core core).ops.find? fun o => o.claims.getLsbD 8 && o.eff.release.isSome && o.eff.fault.isNone with
    | some o =>
      if (m.core core).loadsIn o then
        let m := (returnFerries core x o.send).foldl Hw.launch m
        let m := match o.eff.release with
          | some r => m.releaseBuf core x r.1 o.send
          | none => m
        m.setOp core { o with send := [], acks := o.acks + o.send.length, eff := { o.eff with release := none } }
      else m
    | none => m

/-! ### FERRY_SEND -/

/-- One choice of a manifest: status 0 sent, 1 none, 2 dropped, 3 a fault. -/
structure Choice where
  token : Nat
  choice : Nat
  status : Nat
  code : Nat
  row : SendRow

/-- The element of a manifest row as its 32 bits. -/
def Env.word (e : Env) (t : Ten) (a i : Nat) : Nat := leNat (e.read t (a + 4 * i) 4)

/-- The choices of a SEND in order, up to and including one that faults (11 R289). -/
def sendChoices (e : Env) (x man : Ten) (route : List Byte) (quota : Nat) : List (Nat × Nat) → Map Nat → List Choice
  | [], _ => []
  | (t, c) :: rest, sent =>
    let ex := e.word man (man.addr + t * man.str 1) (2 * c)
    let none_ : SendRow := ⟨0, 0, t, c, 0, []⟩
    if ex % 2 ^ 16 = 0xFFFF then ⟨t, c, 1, 0, none_⟩ :: sendChoices e x man route quota rest sent
    else if 0x0FFF < ex then [⟨t, c, 3, 0x0884, none_⟩]
    else
      let r := leNat ((route.drop (4 * ex)).take 4)
      let l := e.m.landingOf e.ctx (bits r 7 0) (bits r 11 8)
      if !bitb r 15 || !l.valid then [⟨t, c, 3, 0x0881, none_⟩]
      else
        let n := mgetD sent ex 0
        if quota != 0 && quota ≤ n then ⟨t, c, 2, 0, none_⟩ :: sendChoices e x man route quota rest sent
        else if x.row != l.rowBytes then [⟨t, c, 3, 0x0882, none_⟩]
        else
          ⟨t, c, 0, 0, ⟨bits r 7 0, bits r 11 8, t, c, ex, e.read x (x.addr + t * x.str 1) x.row⟩⟩
            :: sendChoices e x man route quota rest (mset sent ex (n + 1))

def Env.choices (e : Env) : List Choice :=
  let x := e.ten (e.field 271 256)
  let man := e.ten (e.field 287 272)
  let k := man.ext 0 / 2
  sendChoices e x man (e.m.core e.core).route.active (e.field 351 336)
    ((List.range (man.ext 1)).flatMap fun t => (List.range k).map fun c => (t, c)) []

/-- Rows of each ferry of a send list. -/
def ferrySizes (e : Env) : Nat → List SendRow → List Nat
  | 0, _ => []
  | n + 1, l =>
    match l with
    | [] => []
    | r :: _ =>
      let k := max 1 (shared (e.m.landingOf e.ctx r.dst r.land).cr r.bytes.length l).length
      k :: ferrySizes e n (l.drop k)

def ferryFault (c : List Choice) : Option OpFault :=
  match c.getLast? with
  | some f => if f.status = 3 then some ⟨f.code, 0, 0, 0⟩ else none
  | none => none

def sentRows (c : List Choice) : List SendRow := (c.filter fun q => q.status == 0).map (·.row)

def Env.sendBody (e : Env) : Body :=
  let x := e.ten (e.field 271 256)
  let man := e.ten (e.field 287 272)
  let cst := e.ten (e.field 319 304)
  let cs := e.choices
  let rows := sentRows cs
  let sizes := ferrySizes e rows.length rows
  let bf := sizes.foldl (fun a n => a + ferryBytes n x.row) 0
  let nL := (rows.map fun r => (r.dst, r.land)).eraseDups.length
  { Body.empty with
    loads := man.loads (man.foot 2 e.h)
      ++ x.loads ((rows.map (·.token)).eraseDups.map fun t => (x.addr + t * x.str 1, x.row))
    wrs := (cs.filter fun c => c.status != 3).map fun c =>
      e.wr cst (cst.addr + c.token * cst.str 1 + c.choice) [BitVec.ofNat 8 c.status]
    counts := [(cFERRYDROP, (cs.filter fun c => c.status == 2).length)]
    cycles := cyclesIf [x, man] (24 + ceilDiv (8 * (man.ext 0 / 2) * man.ext 1) 256 + ceilDiv bf 256
      + 8 * (sizes.length + nL))
    fault := ferryFault cs }

/-- A SEND opens its voyage: what it registers with the port, and the returns it waits for (11 R287). -/
def Env.openVoyage (e : Env) (c : Core) : Core :=
  let v := e.field 323 322
  let n := (sentRows e.choices).length
  let y : Voyage := { isOpen := true, ret := e.field 303 288, man := e.field 287 272, cst := e.field 319 304
                      outstanding := n, since := e.m.now, thread := e.thread, tag := e.h.tag }
  { c with voyages := mset c.voyages v y }

/-- FERRY_SEND in SEND mode. -/
def execFerrySend (core thread : Nat) : State → Host.Outcome State Fault Refusal :=
  onHw fun m => m.startWith core thread (fun e => e.h.opcode == 0x20 && e.field 321 320 == 0) Env.sendBody
    (fun _ => .done)
    (fun e o => { o with send := sentRows e.choices, voy := e.field 323 322, creditWait := e.m.cyc e.core })
    (fun e h => (h.updCore core e.openVoyage).pumpFerries core)

/-! ### FERRY_SEND in RETURN mode -/

def Env.returnRows (e : Env) : List (SendRow × Nat) :=
  let x := e.ten (e.field 271 256)
  let l := (e.m.landState e.ctx e.core (e.field 327 324)).cfg
  ((e.m.core e.core).validSlots l (e.field 331 328)).map fun p =>
    (⟨bits p.2 7 0, bits p.2 9 8, bits p.2 47 32, bits p.2 50 48, bits p.2 75 64,
      e.read x (x.addr + p.1 * x.str 1) x.row⟩, x.addr + p.1 * x.str 1)

/-- BUF is the oldest emitted buffer that is not released. -/
def Env.bufOk (e : Env) : Bool :=
  (e.m.landState e.ctx e.core (e.field 327 324)).emitted.head? == some (e.field 331 328)

def Env.returnBody (e : Env) : Body :=
  let x := e.ten (e.field 271 256)
  if e.bufOk then
    let rows := e.returnRows
    let fs := returnFerries e.core e.ctx (rows.map (·.1))
    let bf := fs.foldl (fun a f => a + ferryBytes f.rows.length f.rowBytes) 0
    { Body.empty with
      loads := x.loads (rows.map fun r => (r.2, x.row))
      cycles := cyclesIf [x] (24 + ceilDiv bf 256 + 8 * fs.length) }
  else { Body.empty with fault := some ⟨0x0883, 0, 0, 0⟩ }

/-- FERRY_SEND in RETURN mode. -/
def execFerrySendReturn (core thread : Nat) : State → Host.Outcome State Fault Refusal :=
  onHw fun m => m.startWith core thread (fun e => e.h.opcode == 0x20 && e.field 321 320 == 1) Env.returnBody
    (fun _ => .done)
    (fun e o =>
      if e.bufOk then
        { o with send := e.returnRows.map (·.1)
                 eff := { o.eff with release := some (e.field 327 324, e.field 331 328) } }
      else o)
    (fun _ h => h.pumpFerries core)

/-! ### FERRY_COMBINE -/

/-- One output row of a combine: accumulator values in column order (11 R297), with what their conversions count. -/
def Env.combineRow (e : Env) (ret man cst : Ten) (acc : Option Ten) (t dout : Nat) : List Cell :=
  let k := man.ext 0 / 2
  let start := match acc with
    | none => List.replicate dout (cellOf f32zero)
    | some a => (e.rowVals a (a.addr + t * a.str 1)).map (cellIn e.h.ieee)
  (List.range k).foldl (fun s c =>
    if e.read cst (cst.addr + t * cst.str 1 + c) 1 == [0#8] then
      let w := BitVec.ofNat 32 (e.word man (man.addr + t * man.str 1) (2 * c + 1))
      let r := (e.rowVals ret (ret.addr + c * ret.str 1 + t * ret.str 2)).map (toF32 e.h.ieee)
      zipCells (fun s r => ffma w r s) s r
    else s) start

def Env.combineBody (e : Env) : Body :=
  let ret := e.ten (e.field 271 256)
  let man := e.ten (e.field 287 272)
  let cst := e.ten (e.field 303 288)
  let acc := e.opt (e.field 319 304)
  let y := e.ten (e.field 335 320)
  let img := (e.m.core e.core).fset.active
  let dout := y.ext 0
  let rs := (List.range (y.ext 1)).map fun t =>
    e.drainCells e.epi y (0, 0, 0) t (y.addr + t * y.str 1) (e.combineRow ret man cst acc t dout)
  { Body.empty with
    loads := man.loads (man.foot 2 e.h) ++ acc.toList.flatMap (fun t => t.loads (t.foot 2 e.h)) ++ e.chainLoads e.epi
    wrs := rs.flatMap (·.1), conv := rs.foldl (fun a r => a.add r.2) Conv.zero
    cycles := cyclesIf ([man, y] ++ acc.toList ++ (e.chainTens e.epi).map (·.2))
      (32 + ceilDiv (y.ext 1 * (man.ext 0 / 2 + 1) * dout) 256 + chainLat img (ceilDiv dout 32) e.epi) }

/-- FERRY_COMBINE: it closes its voyage as it completes. -/
def execFerryCombine (core thread : Nat) : State → Host.Outcome State Fault Refusal :=
  onHw fun m => m.startWith core thread (fun e => e.h.opcode == 0x21) Env.combineBody (fun _ => .done)
    (fun e o => { o with eff := { o.eff with closeVoyage := some (e.field 337 336) } }) (fun _ h => h)

/-! ### Ferries arriving -/

/-- Acknowledgements of rows reach the op of a core that holds a lane. -/
def Hw.acked (m : Hw) (core lane n : Nat) : Hw :=
  m.updCore core fun c => { c with
    ops := c.ops.map fun (o : OpRec) => if o.claims.getLsbD lane then { o with acks := o.acks - n } else o }

/-- One row into the fill buffer; a full buffer is emitted first (11 R285, R292 item 1). -/
def Hw.landRow (m : Hw) (ctx core land src voy : Nat) (r : SendRow) : Hw :=
  let s := m.landState ctx core land
  let m := if s.slot == s.cfg.rows then m.emitBatch ctx core land s else m
  let s := m.landState ctx core land
  m.updCore core fun c =>
    ((c.holdWrite (s.cfg.rowAt s.fill s.slot) r.bytes).holdWrite (s.cfg.tagAt s.fill s.slot) (slotTag src voy r)).setLand
      land
      { s with slot := s.slot + 1, firstAt := if s.slot = 0 then m.cyc core else s.firstAt
               senders := (s.senders.filter fun x => !(x.1 == src && x.2.1 == voy)) ++ [(src, voy, false)] }

/-- A seal or stall notice: every row of the voyage held so far is covered. -/
def Hw.landNotice (m : Hw) (ctx core land src voy : Nat) : Hw :=
  let s := m.landState ctx core land
  m.updCore core fun c => c.setLand land
    { s with senders := s.senders.map fun x => if x.1 == src && x.2.1 == voy then (src, voy, true) else x }

/-- The path and the class of a ferry: the direct link or a third quarter, and C1 or C2 (11 R299, R300, R302). -/
def Hw.ferryPath (m : Hw) (f : Ferry) : Option Nat × Bool :=
  (m.pathOf f.src f.dst f.land, m.isFixed f.ctx)

/-- The oldest ferry of a kind, where nothing of its source, destination, path and class is ahead of it (11 R300). -/
def Hw.nextFerry (m : Hw) (p : Ferry → Bool) : Option Ferry :=
  match m.ferries.find? p with
  | none => none
  | some f =>
    if (m.ferries.find? fun g => g.src == f.src && g.dst == f.dst && m.ferryPath g == m.ferryPath f) == some f then some f else none

/-- FERRY_ARRIVAL: a rows, seal or stall ferry at the front of its path. -/
def execFerryArrival (src dst land : Nat) : State → Host.Outcome State Fault Refusal :=
  onHw fun m =>
    match m.nextFerry fun f => f.src == src && f.dst == dst && f.land == land && f.kind != 3 with
    | none => m
    | some f =>
      let m := { m with ferries := m.ferries.erase f }
      if m.runs dst f.ctx then
        if f.kind = 0 then
          (f.rows.foldl (fun m r => m.landRow f.ctx dst land src f.voy r) m).acked src 7 f.rows.length
        else m.landNotice f.ctx dst land src f.voy
      else m

/-- A return row into its voyage's return buffer, or the fault of a row of another size (11 R295). -/
def Hw.returnRow (m : Hw) (ctx dst voy : Nat) (r : SendRow) : Hw :=
  match mget (m.core dst).voyages voy, m.planOn ctx dst with
  | some v, some p =>
    if v.isOpen then
      let t := Ten.parse (leNat (m.peek ctx (p.2.tenTbl + 32 * v.ret) 32))
      if r.bytes.length = t.row then
        m.updCore dst fun c =>
          { c.holdWrite (t.addr + r.choice * t.str 1 + r.token * t.str 2) r.bytes with
            voyages := mset c.voyages voy { v with outstanding := v.outstanding - 1 } }
      else
        (m.updCore dst fun c => { c with voyages := mset c.voyages voy { v with isOpen := false } }).fault dst v.thread
          (FaultRec.base m 0x0885 dst v.thread v.tag ctx)
    else m
  | _, _ => m

/-- RETURN_ARRIVAL: the next return row on the path. -/
def execReturnArrival (src dst : Nat) : State → Host.Outcome State Fault Refusal :=
  onHw fun m =>
    match m.nextFerry fun f => f.src == src && f.dst == dst && f.kind == 3 with
    | none => m
    | some f =>
      match f.rows with
      | [] => { m with ferries := m.ferries.erase f }
      | r :: rest =>
        let put (g : Ferry) : List Ferry := if rest.isEmpty then [] else if g == f then [{ f with rows := rest }] else [g]
        let m := { m with ferries := if rest.isEmpty then m.ferries.erase f else m.ferries.flatMap put }
        if m.runs dst f.ctx then (m.returnRow f.ctx dst f.voy r).acked src 8 1 else m

/-- The oldest credit packet of a landing for a sender, where no packet of its source, target and path is ahead of it
(11 R300). -/
def Hw.nextCredit (m : Hw) (src dst land : Nat) : Option Credit :=
  match m.creditsInFlight.find? fun k => k.core == src && k.owner == dst && k.land == land with
  | none => none
  | some c =>
    let path := m.pathOf src dst land
    if m.creditAhead dst src c.no path || m.signalAhead dst src c.no path none then none else some c

/-- CREDIT_RETURN: `src` is the landing's core, `dst` the sender. -/
def execCreditReturn (src dst land : Nat) : State → Host.Outcome State Fault Refusal :=
  onHw fun m =>
    match m.nextCredit src dst land, (m.core dst).ctx with
    | some k, some x =>
      let n := m.creditsOf x dst src land
      let m := { m with creditsInFlight := m.creditsInFlight.erase k }
      (m.updCore dst fun c => { c with credits := mset c.credits (creditKey src land) (n + k.n) }).pumpFerries dst
    | some k, none => { m with creditsInFlight := m.creditsInFlight.erase k }
    | _, _ => m

/-- STALL_NOTICE: a SEND has waited 64 cycles for a credit (11 R293). -/
def execStallNotice (core : Nat) : State → Host.Outcome State Fault Refusal :=
  onHw fun m =>
    match (m.core core).ctx, (m.core core).ops.find? fun o => o.claims.getLsbD 7 && !o.send.isEmpty with
    | some x, some o =>
      if (m.core core).loadsIn o && o.creditWait + 64 ≤ m.cyc core then
        let m := m.setOp core { o with sealTo := [] }
        o.sealTo.foldl (fun m t => m.launch ⟨core, t.1, t.2, o.voy, 2, x, 64, []⟩) m
      else m
    | _, _ => m

/-! ### Lanes and links (11 R301 to R303) -/

def linkOk (i : Nat) : Bool := i < 6 || (8 ≤ i && i < 16)

/-- The index of a link in the snapshot area and in events. -/
def Hw.setLink (m : Hw) (i : Nat) (l : Link) : Hw := { m with links := mset m.links i l }

/-- A link's two-bit code in QW_TOPOLOGY. -/
def Hw.topoLink (m : Hw) (i code : Nat) : Hw :=
  let t := m.quay.topo
  m.setTopo (if i < 6 then { t with qq := lset t.qq i code } else { t with hub := lset t.hub (i - 8) code })

/-- FLIT_RETRY: a corrupted flit is sent again; no packet is lost. -/
def execFlitRetry (link : Nat) : State → Host.Outcome State Fault Refusal :=
  onHw fun m => if linkOk link && m.boot == .done && !(m.link link).retired then m.count 3 link 2 1 else m

/-- LANE_REPLACEMENT: a spare takes a lane's place. -/
def execLaneReplacement (link lane : Nat) : State → Host.Outcome State Fault Refusal :=
  onHw fun m =>
    let l := m.link link
    if linkOk link && m.boot == .done && !l.retired && 0 < l.spares then
      let m := (m.setLink link { l with spares := l.spares - 1 }).count 3 link 3 1
      let m := m.event 0x0888 none [(8, link), (8, lane)]
      if l.spares = 1 then (m.event 0x088A none [(8, link), (8, lane)]).topoLink link 2 else m.topoLink link 1
    else m

/-- A unit is lost until the next reset: the module is degraded and its health record not clean. -/
def Hw.unitLost (m : Hw) : Hw := m.dirty.degrade

def Hw.retireLink (m : Hw) (i : Nat) : Hw :=
  let l := m.link i
  if m.boot == .done && !l.retired then
    (((m.setLink i { l with retired := true }).topoLink i 3).event 0x0889 none [(8, i), (8, 0)]).unitLost
  else m

/-- LINK_RETIREMENT of a quarter–quarter link. -/
def execLinkRetirement (link : Nat) : State → Host.Outcome State Fault Refusal :=
  onHw fun m => if link < 6 then m.retireLink link else m

/-- HALF_LINK_RETIREMENT. -/
def execHalfLinkRetirement (quarter half : Nat) : State → Host.Outcome State Fault Refusal :=
  onHw fun m => if quarter < 4 && half < 2 then m.retireLink (8 + 2 * quarter + half) else m

end Sys2Proof.Machine
end

