-- ==== Sys2Proof/Machine/Sync.lean ====
section
/-! DEFINITION. Bollards and waits: SIGNAL, WAIT, TIDE_WAIT, NOP (02 R59 to R66, 16 R414 to R417), the update port
(02 R60, 05 R155, 18 R463), the wait bound (02 R66, 11 R294, R297). -/

namespace Sys2Proof.Machine

/-! ### SIGNAL and NOP -/

/-- A SIGNAL completes no earlier than 4 cycles after it starts; its signal is issued as it completes. -/
def signalBody (_ : Env) : Body := { Body.empty with cycles := 4 }

def Env.signalMode (e : Env) : Nat := e.field 271 270

def Env.withSignal (set : Bool) (e : Env) (o : OpRec) : OpRec :=
  { o with eff := { o.eff with
      signal := some (e.field 263 256, e.field 269 264, set, BitVec.ofNat 32 (e.field 319 288)) } }

def Env.withHost (e : Env) (o : OpRec) : OpRec :=
  { o with eff := { o.eff with hostVal := some (BitVec.ofNat 32 (e.field 319 288)) } }

/-- SIGNAL in ADD mode. -/
def execSignalAdd (core thread : Nat) : State → Host.Outcome State Fault Refusal :=
  onHw fun m => m.startWith core thread (fun e => e.h.opcode == 0x18 && e.signalMode == 0) signalBody (fun _ => .done)
    (Env.withSignal false) (fun _ h => h)

/-- SIGNAL in SET mode. -/
def execSignalSet (core thread : Nat) : State → Host.Outcome State Fault Refusal :=
  onHw fun m => m.startWith core thread (fun e => e.h.opcode == 0x18 && e.signalMode == 1) signalBody (fun _ => .done)
    (Env.withSignal true) (fun _ h => h)

/-- SIGNAL in HOST mode. -/
def execSignalHost (core thread : Nat) : State → Host.Outcome State Fault Refusal :=
  onHw fun m => m.startWith core thread (fun e => e.h.opcode == 0x18 && e.signalMode == 2) signalBody (fun _ => .done)
    Env.withHost (fun _ h => h)

/-- NOP: 4 cycles, with its header effects (02 R53). -/
def execNop (core thread : Nat) : State → Host.Outcome State Fault Refusal :=
  onHw fun m => m.startOp core thread (fun e => e.h.opcode == 0x3F) (fun _ => { Body.empty with cycles := 4 })

/-! ### Swaps in SYNC mode (05 R155, 11 R282) -/

/-- The increment of the older waiting load on bollard `b` has been applied. -/
def Core.bump (c : Core) (b : Nat) : Core :=
  let w (x : Banks) : Bool := x.shadow.isSome && x.sync && !x.bumped && x.bol == b
  if w c.fset && (!w c.route || c.fset.load ≤ c.route.load) then { c with fset := { c.fset with bumped := true } }
  else if w c.route then { c with route := { c.route with bumped := true } }
  else c

/-! ### WAIT -/

def Env.waitCond (e : Env) : Cond :=
  .bollard (e.field 261 256) (e.field 263 262) (BitVec.ofNat 32 (e.field 319 288)) e.m.now

/-- WAIT. Reach and equal mode look at the value from the start on; the port makes takes. -/
def execWait (core thread : Nat) : State → Host.Outcome State Fault Refusal :=
  onHw fun m => m.startWith core thread (fun e => e.h.opcode == 0x19) (fun _ => Body.empty) Env.waitCond
    (fun _ o => o) (fun e h => h.updCore core fun c => c.checkWaits (e.field 261 256))

/-! ### The update port -/

/-- What an ADD means for the kept step records (18 R463). -/
def StepRec.late (r : StepRec) (s : Signal) : StepRec :=
  if s.src < 256 then
    if !s.set && s.bol < 60 && s.e < r.no then
      { r with aLate := mset r.aLate s.bol (mgetD r.aLate s.bol 0#32 + s.val) } else r
  else { r with journal := r.journal ++ [s] }

/-- One update applied at the port, and what waits on each value the bollard takes. -/
def Core.apply (c : Core) (cyc : Nat) (s : Signal) : Core :=
  let old := c.bol s.bol
  let new := if s.set then s.val else old + s.val
  let c := c.setBol s.bol new
  let c := if old == 0#32 && new != 0#32 then { c with rise := mset c.rise s.bol cyc } else c
  let c := { c with steps := c.steps.map fun (r : StepRec) => r.late s }
  let c := if s.src < 256 && s.bol < 60 && c.recs + 1 ≤ s.e then { c with ahead := c.ahead ++ [s] } else c
  let c := if s.src = 257 then c.bump s.bol else c
  c.checkWaits s.bol

/-- The updates in port order: by source core, then the hub's as they arrived (02 R60). -/
def portOrder (l : List Signal) : List Signal := l.mergeSort fun x y => decide (min x.src 256 ≤ min y.src 256)

/-- An update that the port of bollard `b` applies in this cycle. -/
def Hw.reaches (m : Hw) (core b : Nat) (s : Signal) : Bool := s.bol == b && m.arrived core s

/-- Applies or drops one update. -/
def Hw.applySignal (m : Hw) (core : Nat) (s : Signal) : Hw :=
  if m.runs core s.ctx then (m.noteWaits core s.bol).updCore core fun c => c.apply (m.cyc core) s
  else m.countCore core cSTALE 1

/-- The cycle's take by a WAIT, unless it has been made or a thread whose take is served first can start (02 R60). -/
def Hw.portTake (m : Hw) (core b : Nat) : Hw :=
  let c := m.core core
  let first := (c.takeWaits b).foldl (fun a w => match a with
    | none => some w
    | some v => if earlier w v then some w else some v) none
  match first with
  | none => m
  | some w =>
    if c.tookNow (m.cyc core) b || (List.range 4).any fun t => match m.startable core t with
        | some e => e.takes.contains b
        | none => false
    then m
    else
      match c.ops.find? fun o => o.thread == w.2 && (match o.cond with | .bollard bol 2 _ _ => bol == b | _ => false) with
      | none => m
      | some o =>
        let val := match o.cond with | .bollard _ _ v _ => v | _ => 0#32
        (m.noteWaits core b).updCore core fun c =>
          ((({ c with ops := c.ops.map fun (p : OpRec) => if p.no == o.no then { p with cond := .done } else p }).takeBol
            (m.cyc core) b val).waitSatisfied b).checkWaits b

/-- BOLLARD_UPDATE: one cycle of a bollard's port, with the updates that have reached it. -/
def execBollardUpdate (core bol : Nat) : State → Host.Outcome State Fault Refusal :=
  onHw fun m =>
    let here := m.reaches core bol
    let l := portOrder ((m.core core).inbox.filter here)
    let m := m.updCore core fun c => { c with inbox := c.inbox.filter fun s => !here s }
    (l.foldl (fun m s => m.applySignal core s) m).portTake core bol

/-! ### The wait bound (02 R66) -/

def Hw.waitBound (m : Hw) (ctx : Nat) : Nat := match mget m.ctxs ctx with | some x => x.waitMs * 1000000 | none => 0

/-- Bollard `b` of the core is a landing's BOL: waits on it have no bound (11 R294). -/
def Hw.landingBol (m : Hw) (ctx core b : Nat) : Bool :=
  (List.range 16).any fun l => (m.landingOf ctx core l).valid && (m.landingOf ctx core l).bol == b

/-- The fault of the wait an op before its start is in: its pre-wait, or a combine's voyage (02 R66, 11 R297). -/
def Env.waitFault (e : Env) : Option Nat :=
  if !e.predOk then none
  else if e.h.preEn && !e.preOk then (if e.m.landingBol e.ctx e.core e.h.preBol then none else some 0x0180)
  else if e.h.opcode == 0x21 && !e.extraOk then some 0x0880
  else none

/-- WAIT_BOUND_EXPIRY: a WAIT, an op whose pre-wait is unsatisfied, or a combine whose voyage has outstanding returns, has
waited beyond the context's bound. -/
def execWaitBoundExpiry (core thread : Nat) : State → Host.Outcome State Fault Refusal :=
  onHw fun m =>
    let c := m.core core
    match c.ctx with
    | none => m
    | some x =>
      let w := c.ops.find? fun o => o.thread == thread && (match o.cond with
        | .bollard b _ _ since => !m.landingBol x core b && decide (since + m.waitBound x < m.now)
        | _ => false)
      match w with
      | some o => m.fault core thread (FaultRec.base m 0x0180 core thread o.hdr.tag x)
      | none =>
        match m.envOf core thread with
        | some e =>
          (match e.waitFault with
           | some code =>
             if max (c.thread thread).waitSince (if code = 0x0180 then (c.thread thread).metAt else 0) + m.waitBound x
                 < m.now then
               m.fault core thread (FaultRec.base m code core thread e.h.tag x)
             else m
           | none => m)
        | none => m

/-! ### TIDE_WAIT -/

/-- t(n) of the configured tide (16 R414). -/
def TideCfg.at (t : TideCfg) (n : Nat) : Nat := t.tick0 + n * 10 ^ 9 * t.den / t.num

/-- The largest n with t(n) at or before `now`, among 0 to the number of ticks that fit. -/
def TideCfg.tickAt (t : TideCfg) (now : Nat) : Option Nat :=
  if now < t.tick0 || t.num = 0 || t.den = 0 then none
  else
    let g := (now - t.tick0) * t.num / (10 ^ 9 * t.den)
    if t.at (g + 1) ≤ now then some (g + 1) else some g

/-- The target tick and instant of a TIDE_WAIT (16 R417). -/
def Env.tideTarget (e : Env) (t : TideCfg) : Nat × Nat :=
  let next := match t.tickAt e.m.now with
    | none => 0
    | some k => k + 1
  let n := match e.field 257 256 with
    | 0 => next
    | 1 => e.field 383 320
    | _ => match ((e.m.core e.core).thread e.thread).lastTick with
      | none => next
      | some k => k + e.field 383 320
  (n, t.at n + e.field 319 288)

/-- An op in progress that has nothing else to wait for completes. -/
def Hw.retireIf (m : Hw) (core : Nat) (o : OpRec) : Hw :=
  match (m.core core).ctx with
  | some x => if (m.core core).signalOk o then m.retire core x o else
      m.updCore core fun c => { c with ops := c.ops.map fun (p : OpRec) => if p.no == o.no then { p with cond := .done } else p }
  | none => m

/-- The start of a TIDE_WAIT: the last target tick, the late count and, in fixed-timing mode, the overrun (15 R404). -/
def Env.tideStart (t : TideCfg) (e : Env) (m : Hw) : Hw :=
  let g := e.tideTarget t
  let no := (e.m.core e.core).nextOp
  let m := m.updCore e.core fun c => c.setThread e.thread { c.thread e.thread with lastTick := some g.1 }
  let m := match m.fixedPart e.ctx with
    | some p => if t.at g.1 < m.now then
        (m.count 1 0 (7 + p) 1).event 0x0480 (some e.ctx) [(8, p), (24, 0), (64, g.1)]
      else m
    | none => m
  if g.2 < m.now then
    let m := m.countCore e.core cLATETIDE 1
    match (m.core e.core).ops.find? fun o => o.no == no with
    | some o => m.retireIf e.core o
    | none => m
  else m

/-- TIDE_WAIT. -/
def execTideWait (core thread : Nat) : State → Host.Outcome State Fault Refusal :=
  onHw fun m => match m.island.tideCfg with
    | none => m
    | some t => m.startWith core thread (fun e => e.h.opcode == 0x1A) (fun _ => Body.empty)
        (fun e => .tide (e.tideTarget t).2 ((e.m.core e.core).thread e.thread).lastTick) (fun _ o => o) (Env.tideStart t)

/-- TIDE_WAIT_TARGET: the replica has reached the target instant. -/
def execTideWaitTarget (core thread : Nat) : State → Host.Outcome State Fault Refusal :=
  onHw fun m =>
    let c := m.core core
    match c.ops.find? fun o => o.thread == thread && (match o.cond with | .tide g _ => decide (g ≤ m.now) | _ => false) with
    | some o => m.retireIf core o
    | none => m

end Sys2Proof.Machine
end

