-- ==== Sys2Proof/Machine/Sched.lean ====
section
/-! DEFINITION. Scheduling and switching of contexts (15 R386 to R396), runs and submit queues (14 R375), and the
apportionment of energy (15 R398). -/

namespace Sys2Proof.Machine

/-! ### Starting threads -/

/-- A thread of a new run at its entry point, or idle (02 R33). -/
def Thread.fresh (t : Thread) (now entry loop : Nat) : Thread :=
  if entry = 0 then { Thread.idle with mshHead := t.mshHead }
  else
    { Thread.idle with st := .running, entry := entry, loop := if loop = 0 then entry else loop, next := some entry
                       waitSince := now, mshHead := t.mshHead, mshDone := t.mshDone }

/-- Every thread of a core starts a run: step records count from it (18 R461). -/
def Core.startRun (c : Core) (now : Nat) (e : CoreEntry) : Core :=
  { c with
    threads := (List.range 4).map fun t => (c.thread t).fresh now (lget e.entry t 0) (lget e.loop t 0)
    steps := [], recs := 0, ahead := [] }

/-- Runs may start: not on the way into Hold or Anchor nor in it (16 R419). -/
def Hw.mayStart (m : Hw) : Bool := m.quay.ps == .run && m.power.target.isNone

/-- The threads of a plan's run start on its cores. -/
def Hw.startRun (m : Hw) (plan : Nat) : Hw :=
  match mget m.plans plan with
  | none => m
  | some p =>
    match p.run, m.mayStart with
    | none, _ => m
    | _, false => m
    | some r, true =>
      let m := p.cores.foldl (fun (m : Hw) e => m.updCore e.core fun c => c.startRun m.now e)
        { m with plans := mset m.plans plan { p with run := some { r with started := true } } }
      m.updCtx p.ctx fun x => { x with snaps := [] }

/-- Starts every run of a context that has not started yet. -/
def Hw.startRuns (m : Hw) (ctx : Nat) : Hw :=
  ((m.plansOf ctx).filter fun p => match p.2.run with | some r => !r.started | none => false).foldl
    (fun m p => m.startRun p.1) m

/-! ### Context states -/

/-- A run of the context is in progress, or an entry is posted to one of its queues. -/
def Hw.hasWork (m : Hw) (ctx : Nat) : Bool :=
  (m.plansOf ctx).any (fun p => p.2.run.isSome)
    || m.queues.any fun q => q.2.ctx == ctx && (q.2.cur.isSome || q.2.head != q.2.tail)

/-- The smallest virtual time of the shared-pool contexts that are RESIDENT or RUNNABLE. -/
def Hw.minV (m : Hw) : Option VTime :=
  (m.ctxs.filter fun c => c.2.part.isNone && (c.2.st == .resident || c.2.st == .runnable)).foldl
    (fun a c => match a with
      | none => some c.2.v
      | some v => some (if c.2.v.lt v then c.2.v else v)) none

/-- An occasion for a scheduling decision (15 R391). -/
def Hw.mayDecide (m : Hw) : Hw := { m with occasion := true }

/-- A context enters RUNNABLE (15 R389). -/
def Hw.enterRunnable (m : Hw) (ctx : Nat) : Hw :=
  match mget m.ctxs ctx with
  | none => m
  | some x =>
    let v := match m.minV with
      | some w => if x.st == .created || x.st == .enabled then x.v.max w else x.v
      | none => x.v
    { m with ctxs := mset m.ctxs ctx { x with st := .runnable, v := v } }.mayDecide

/-- A context with a run in progress: RESIDENT on its cores, else RUNNABLE. -/
def Hw.gainWork (m : Hw) (ctx : Nat) : Hw :=
  match mget m.ctxs ctx with
  | none => m
  | some x =>
    match x.st with
    | .enabled =>
      if m.onCores ctx then { m with ctxs := mset m.ctxs ctx { x with st := .resident, residentAt := m.now, quantumUp := false } }
      else m.enterRunnable ctx
    | .switching => { m with ctxs := mset m.ctxs ctx { x with back := .runnable } }
    | _ => m

/-- After a run's end or a plan's disable: ENABLED without work, CREATED without plans (15 R386). A resident context that goes
to CREATED with its last plan has become ENABLED on the way (15 R391; DEDUCED, log 31). -/
def Hw.loseWork (m : Hw) (ctx : Nat) : Hw :=
  match mget m.ctxs ctx with
  | none => m
  | some x =>
    let idle : CtxState := if (m.plansOf ctx).isEmpty then .created else .enabled
    if (m.plansOf ctx).isEmpty then
      if x.st == .switching then { m with ctxs := mset m.ctxs ctx { x with back := .created } }
      else
        let m := if x.st == .resident then m.mayDecide else m
        { m with ctxs := mset m.ctxs ctx { x with st := .created, chosen := false } }
    else if m.hasWork ctx then m
    else match x.st with
      | .resident => { m with ctxs := mset m.ctxs ctx { x with st := idle, chosen := false } }.mayDecide
      | .runnable => { m with ctxs := mset m.ctxs ctx { x with st := idle, chosen := false } }
      | .switching => if x.back == .stopped then m else { m with ctxs := mset m.ctxs ctx { x with back := idle } }
      | _ => m

/-! ### Scheduling decisions (15 R390, R391) -/

def Ctx.quantum (x : Ctx) : Nat := max 20000000 (10 * x.lastSwitchIn)

/-- A context that keeps its cores only until a runnable one needs them. -/
def Ctx.passive (x : Ctx) : Bool := x.st == .enabled || x.st == .stopped || x.st == .created

/-- `x` is preemptible by `c`. -/
def Ctx.preemptible (x c : Ctx) (now : Nat) : Bool :=
  x.passive || x.quantumUp || decide (x.residentAt + x.quantum ≤ now)
    || (c.interactive && !x.interactive && decide (x.residentAt + 2000000 ≤ now))

/-- Contexts other than `c` whose state lies on a core of `c`'s set. -/
def Hw.inWay (m : Hw) (c : Nat) : List Nat :=
  (((m.ctxCores c).filterMap fun k => (m.core k).ctx).eraseDups).filter fun y => y != c

/-- Core sets of two contexts intersect. -/
def Hw.meets (m : Hw) (a b : Nat) : Bool := (m.ctxCores a).any fun k => (m.ctxCores b).contains k

/-- An op that counts as not started gives back what its take-mode pre-wait took: it takes again as it starts again. -/
def Core.untake (c : Core) (h : OpHdr) : Core :=
  if h.preEn && h.preTake then c.setBol h.preBol (c.bol h.preBol + h.preVal) else c

/-- An op that has not passed its wait condition counts as not started: its thread resumes at it (15 R394). -/
def Core.unstart (c : Core) : Core :=
  c.ops.foldl (fun (c : Core) (o : OpRec) =>
    match o.cond with
    | .bollard .. =>
      let c := c.untake o.hdr
      { c.setThread o.thread { c.thread o.thread with next := some o.addr, prev := none } with
        ops := c.ops.filter fun p => p.no != o.no }
    | .tide _ prev =>
      let c := c.untake o.hdr
      { c.setThread o.thread { c.thread o.thread with next := some o.addr, prev := none, lastTick := prev } with
        ops := c.ops.filter fun p => p.no != o.no }
    | _ => c) c

/-- A switch-out begins: the context's cores start no further op. -/
def Hw.beginOut (m : Hw) (y : Nat) : Hw :=
  match mget m.ctxs y with
  | none => m
  | some x =>
    let back : CtxState := if x.st == .resident then .runnable else x.st
    let due := x.rollbackDue || !x.recov.isEmpty
    (m.ctxCores y).foldl (fun m k => m.updCore k Core.unstart)
      { m with ctxs := mset m.ctxs y { x with st := .switching, back := back, chosen := false, rollbackDue := due } }

/-- Candidates in ascending virtual time, ties to the lower number. -/
def Hw.candidates (m : Hw) : List Nat :=
  ((m.ctxs.filter fun c => c.2.st == .runnable && c.2.part.isNone && !c.2.chosen).mergeSort fun a b => !b.2.v.lt a.2.v).map
    (·.1)

/-- One candidate of a decision. -/
def Hw.consider (m : Hw) (c : Nat) : Hw :=
  match mget m.ctxs c with
  | none => m
  | some x =>
    let way := m.inWay c
    let free := m.ctxs.all fun d => d.1 == c || !d.2.chosen || !m.meets c d.1
    let ok := way.all fun y => match mget m.ctxs y with
      | some z => z.st != .switching && z.part.isNone && z.preemptible x m.now && (z.passive || x.v.lt z.v)
      | none => false
    if free && ok then
      (way.foldl (fun m y => m.beginOut y) m).updCtx c fun x => { x with chosen := true, displaced := [0, 0, 0, 0] }
    else m

/-- A scheduling decision. -/
def Hw.decide_ (m : Hw) : Hw :=
  if m.quay.st == .ready && m.quay.ps == .run then m.candidates.foldl (fun m c => m.consider c) { m with occasion := false }
  else m

/-- SCHEDULING_DECISION: on one of the four occasions of 15 R391. -/
def execSchedulingDecision : State → Host.Outcome State Fault Refusal := onHw fun m => if m.occasion then m.decide_ else m

/-- QUANTUM_EXPIRY: the context becomes preemptible, and a decision follows. -/
def execQuantumExpiry (ctx : Nat) : State → Host.Outcome State Fault Refusal :=
  onHw fun m =>
    match mget m.ctxs ctx with
    | some x =>
      if x.st == .resident && x.part.isNone && x.residentAt + x.quantum ≤ m.now then
        (m.updCtx ctx fun x => { x with quantumUp := true }).decide_
      else m
    | none => m

/-! ### The slipway (15 R394 to R396) -/

/-- Bytes the slipway moves for a core in one direction (15 R396). -/
def Hw.slipBytes (m : Hw) (ctx core : Nat) (written : BitVec 64) : Nat :=
  65536 * ((List.range 64).filter fun i => written.getLsbD i).length
    + (m.bindings ctx core).foldl (fun a b => a + 64 * (ceilDiv (b.ns * (if b.sx then 8 else 4)) 64 * 64)) 0 + 8192

/-- A core's state as the slipway saves it; `acc` are the images of its bindings (15 R394). -/
def Core.save (c : Core) (acc : Map Word32) : CoreSave :=
  { hold := c.hold, written := c.written, bols := c.bols, threads := c.threads, acc := acc, credits := c.credits
    voyages := c.voyages, lands := c.lands, fset := c.fset, route := c.route, steps := c.steps, recs := c.recs
    ahead := c.ahead }

/-- Increments of swap bollards that no wait has consumed yet (05 R156). -/
def Core.swapIncs (c : Core) : Map Word32 :=
  [c.fset, c.route].foldl (fun a b =>
    if b.shadow.isSome && b.sync && b.bumped && !b.due then mset a b.bol (mgetD a b.bol 0#32 + 1#32) else a) []

/-- Saves nothing but what recovery and the plans need: threads' entry points, step records, the banks and the increments of
their swap bollards that are not consumed yet (15 R386, 05 R156). -/
def Core.saveBare (c : Core) : CoreSave :=
  { c.save [] with hold := [], written := 0#64, bols := c.swapIncs, credits := [], voyages := [], lands := [] }

/-- A bollard restored to a value other than 0 rises from 0 in that cycle (03 R90; log 46). -/
def risen (bols : Map Word32) (cyc : Nat) : Map Nat := (bols.filter fun b => b.2 != 0#32).map fun b => (b.1, cyc)

/-- A restored core: its threads resume, its marshalling heads at slot 0; a bollard restored to a value other than 0 rises
from 0 at that cycle (03 R90, 02 R67; log 46). -/
def CoreSave.restore (s : CoreSave) (ctx now cyc : Nat) : Core :=
  { Core.clearedWith s.fset s.route with
    ctx := some ctx, hold := s.hold, written := s.written, bols := s.bols
    rise := risen s.bols cyc
    threads := s.threads.map fun t => { t with mshHead := 0, staged := [], bad := [], prev := none, waitSince := now, metAt := now, metCyc := none, mshDl := false
                                               mshDone := 0 }
    acc := s.acc, credits := s.credits, voyages := s.voyages, lands := s.lands, steps := s.steps, recs := s.recs
    ahead := s.ahead }

/-- Nothing of the context is on its way from its cores: every issued request has ended, every outgoing signal has been applied
(02 R67). -/
def Hw.quietCtx (m : Hw) (ctx : Nat) : Bool :=
  m.cores.all fun c => (c.2.ctx != some ctx || c.2.reqs.isEmpty) && c.2.inbox.all fun s => s.ctx != ctx || 256 ≤ s.src

/-- Signals that reach a core as it clears are dropped and counted (02 R69). -/
def Hw.dropSignals (m : Hw) (gone : Signal → Bool) : Hw :=
  m.cores.foldl (fun (m : Hw) (k : Nat × Core) =>
    let n := (k.2.inbox.filter gone).length
    if n = 0 then m
    else (m.updCore k.1 fun c => { c with inbox := c.inbox.filter fun s => !gone s }).countCore k.1 cSTALE n) m

/-- The context has drained: no op, no request, no signal and no packet of it is under way (02 R67, 15 R394). -/
def Hw.drained (m : Hw) (ctx : Nat) : Bool :=
  let ks := m.ctxCores ctx
  ks.all (fun k => (m.core k).ops.isEmpty && (m.core k).reqs.isEmpty && (m.core k).inbox.isEmpty)
    && m.cores.all (fun c => c.2.inbox.all fun s => s.ctx != ctx)
    && m.ferries.all (fun f => f.ctx != ctx) && m.creditsInFlight.all fun r => !ks.contains r.core

/-- Adds to element `i` of a list of counts. -/
def addAt (l : List Nat) (i n : Nat) : List Nat := lset l i (lget l i 0 + n)

/-- One core of a switch-out. -/
def Hw.outCore (m : Hw) (ctx : Nat) (bare : Bool) (k : Nat) : Hw :=
  let c := m.core k
  let n := if bare then 0 else m.slipBytes ctx k c.written
  let cost (d : Nat × Ctx) : Nat × Ctx :=
    if d.2.chosen && m.meets d.1 ctx then (d.1, { d.2 with displaced := addAt d.2.displaced (k / 64) n })
    else d
  let m := { m with saves := mset m.saves (saveKey ctx k) (if bare then c.saveBare else c.save (m.bindingImages ctx k c.acc))
                    ctxs := m.ctxs.map cost }
  (m.clearCore k).count 8 ctx (6 + k / 64) n

/-- A held update reaches its bollard before any thread starts (15 R395). -/
def Hw.applyHeld (m : Hw) (ctx : Nat) : Hw :=
  match mget m.ctxs ctx with
  | none => m
  | some x =>
    x.held.foldl (fun (m : Hw) u => m.updCore u.core fun c =>
        c.apply (m.cyc u.core) ⟨0, if u.swap then 257 else 256, ctx, 0, u.bol, u.set, u.val⟩)
      { m with ctxs := mset m.ctxs ctx { x with held := [] } }

/-- A function set, or a route table, has at least one valid entry (05 R151, 11 R280). -/
def fsetAny (img : List Byte) : Bool := (List.range 16).any (fsetValid img)
def routeAny (img : List Byte) : Bool := (List.range 4096).any fun i => bitb (imgNat img (4 * i) 4) 15

/-- Each bank whose image has a valid entry costs its bytes (15 R396). -/
def Banks.bytes (b : Banks) (valid : List Byte → Bool) (n : Nat) : Nat :=
  let one (l : List Byte) : Nat := if valid l then n else 0
  one b.active + (match b.shadow with | some s => one s | none => 0)

def CoreSave.empty : CoreSave := Core.cleared.save []

/-- One core of a switch-in, and the bytes restored. -/
def Hw.inCore (m : Hw) (ctx k : Nat) : Hw × Nat :=
  let s := mgetD m.saves (saveKey ctx k) CoreSave.empty
  let n := m.slipBytes ctx k s.written + s.fset.bytes fsetAny 18688 + s.route.bytes routeAny 16384
  let c := { s.restore ctx m.now (m.cyc k) with inbox := (m.core k).inbox }
  (({ m with saves := mdel m.saves (saveKey ctx k) }.setCore k c).count 8 ctx (2 + k / 64) n, n)

/-- A context's state comes onto its cores; the switch takes 0.2 ms and the slipway's time (15 R394, R396). -/
def Hw.switchIn (m : Hw) (ctx : Nat) : Hw :=
  match mget m.ctxs ctx with
  | none => m
  | some x =>
    let r := (m.ctxCores ctx).foldl (fun (a : Hw × List Nat) k =>
      let p := a.1.inCore ctx k
      (p.1, addAt a.2 (k / 64) p.2)) (m, if x.displaced.length = 4 then x.displaced else [0, 0, 0, 0])
    let t := 200000 + ceilDiv (r.2.foldl max 0) 32
    (r.1.updCtx ctx fun x =>
      { x with chosen := false, lastSwitchIn := t, residentAt := m.now, quantumUp := false, displaced := [0, 0, 0, 0] }).applyHeld
      ctx

/-! ### Runs and submit queues (14 R375) -/

/-- The payload of 0x0012 and 0x0013. -/
def runPayload (plan queue tag run reason : Nat) : List (Nat × Nat) :=
  [(16, plan), (16, queue), (32, tag), (32, run), (16, reason)]

/-- The queue whose entry is current on a plan is done with it. -/
def Hw.entryDone (m : Hw) (plan : Nat) : Hw :=
  { m with queues := m.queues.map fun q => if q.2.cur == some plan then (q.1, { q.2 with cur := none }) else q }

/-- The order of the TAIL write that posted the entry at HEAD. -/
def SubQ.postOf (q : SubQ) : Nat :=
  match q.posts with
  | [] => 0
  | p :: _ => p.2

/-- HEAD advances past one entry; a post whose last entry is taken is forgotten. -/
def SubQ.advance (q : SubQ) : SubQ :=
  let h := q.head + 1
  { q with head := h, waits := none, posts := q.posts.filter fun p => p.1 != h.toNat }

/-- Another queue that found the plan busy is served first. -/
def Hw.otherFirst (m : Hw) (n plan : Nat) (q : SubQ) : Bool :=
  m.queues.any fun r => r.1 != n && r.2.ctx == q.ctx && r.2.waits == some plan && r.2.cur.isNone
    && (decide (r.2.postOf < q.postOf) || (r.2.postOf == q.postOf && decide (r.1 < n)))

/-- What taking an entry does. -/
def Hw.takeEntry (m : Hw) (n : Nat) (q : SubQ) (e : Nat) : Hw :=
  let plan := bits e 15 0
  let tag := bits e 63 32
  let put (m : Hw) (q : SubQ) : Hw := { m with queues := mset m.queues n q }
  let skip (reason : Nat) : Hw :=
    (((put m q.advance).notify 3 n).event 0x0013 (some q.ctx) (runPayload plan n tag 0 reason)).loseWork q.ctx
  if bits e 31 17 != 0 || bits e 511 96 != 0 then skip 0x0003
  else match mget m.plans plan with
    | none => skip 0x0005
    | some p =>
      if p.ctx != q.ctx then skip 0x0005
      else if p.run.isSome || m.otherFirst n plan q then put m { q with waits := some plan }
      else
        let runs := bits e 95 64
        let r : Run := { queue := n, tag := tag, evt := bitb e 16, no := 0
                         left := if runs = 0 then none else some (runs - 1), started := false }
        let m := put { m with plans := mset m.plans plan { p with run := some r } } { q.advance with cur := some plan }
        let m := m.notify 3 n
        let m := m.gainWork q.ctx
        if m.onCores q.ctx && (match mget m.ctxs q.ctx with | some x => x.st == .resident | none => false) then
          m.startRun plan
        else m

/-- SUBMIT_ENTRY_TAKE: `entry` is the 64-byte entry at HEAD as read from host memory. -/
def execSubmitEntryTake (queue : Nat) (entry : List Byte) : State → Host.Outcome State Fault Refusal :=
  onHw fun m =>
    match mget m.queues queue with
    | none => m
    | some q =>
      let stopped := match mget m.ctxs q.ctx with
        | some x => x.st == .stopped || (x.st == .switching && x.back == .stopped) || !x.recov.isEmpty
        | none => true
      if m.quay.st == .ready && m.mayStart && !stopped && q.cur.isNone && q.head != q.tail then
        m.takeEntry queue q (leNat (entry.take 64))
      else m

/-- Every thread of a plan has ended. -/
def Hw.runOver (m : Hw) (p : Plan) : Bool :=
  p.cores.all fun e => (m.core e.core).ctx == some p.ctx && (m.core e.core).threads.all fun t =>
    t.st == .ended || t.st == .idle

/-- A run has ended: the next run of its entry starts, or the entry is done. -/
def Hw.nextRun (m : Hw) (plan : Nat) (p : Plan) (r : Run) : Hw :=
  match r.left with
  | some 0 =>
    (({ m with plans := mset m.plans plan { p with run := none } }.entryDone plan)).loseWork p.ctx
  | l =>
    let r := { r with no := r.no + 1, left := l.map fun n => n - 1, started := false }
    let m := { m with plans := mset m.plans plan { p with run := some r } }
    if m.onCores p.ctx && (match mget m.ctxs p.ctx with | some x => x.st == .resident | none => false) then m.startRun plan
    else m

/-- A plan leaves (14 R372): its threads are idle, its entry is over, and credits on their way from its landings go with these.
Function-set and route banks, and a load that waits for its swap, stay as they are: no rule has a disable touch them (05 R155,
R156; log 51). -/
def Hw.dropPlan (m : Hw) (plan : Nat) : Hw :=
  match mget m.plans plan with
  | none => m
  | some p =>
    let m := p.cores.foldl (fun (m : Hw) e =>
      let idle := List.replicate 4 Thread.idle
      let m := if (m.core e.core).ctx == some p.ctx then
          m.updCore e.core fun c => { c with threads := idle, lands := []
                                             credits := [], voyages := [], steps := [], recs := 0, ahead := [] }
        else m
      match mget m.saves (saveKey p.ctx e.core) with
      | some s =>
        let s := { s with threads := idle, lands := [], credits := []
                          voyages := [], steps := [], recs := 0, ahead := [] }
        { m with saves := mset m.saves (saveKey p.ctx e.core) s }
      | none => m) m
    let m := { m with creditsInFlight := m.creditsInFlight.filter fun k => p.cores.all fun e => e.core != k.core }
    ({ m with plans := mdel m.plans plan }.entryDone plan).loseWork p.ctx

/-- After the end of a run: a plan whose disable waits leaves, and the disables report (14 R372). -/
def Hw.runEnded (m : Hw) (plan : Nat) (p : Plan) (r : Run) : Hw :=
  if p.disabling.isEmpty then m.nextRun plan p r
  else
    p.disabling.foldl (fun (m : Hw) d => m.eventDone (some p.ctx) d.1 d.2 0x0111 0 0 0)
      (m.dropPlan plan)

/-- RUN_END. -/
def execRunEnd (plan : Nat) : State → Host.Outcome State Fault Refusal :=
  onHw fun m =>
    match mget m.plans plan with
    | none => m
    | some p =>
      match p.run with
      | none => m
      | some r =>
        if r.started && m.runOver p then
          let m := if r.evt then
              m.event 0x0012 (some p.ctx) (runPayload plan r.queue r.tag r.no 0)
            else m
          m.runEnded plan p r
        else m

/-! ### Energy (15 R398) -/

/-- Residents of a quarter (4 is the whole module, for the hub): context and its cores there. -/
def Hw.residents (m : Hw) (q : Nat) : List (Nat × Nat) :=
  (m.ctxs.map fun c => (c.1, ((m.ctxCores c.1).filter fun k => (q == 4 || k / 64 == q) && m.runs k c.1).length)).filter
    fun c => c.2 != 0

/-- Splits an amount in proportion to weights, rounding down. -/
def splitBy (n : Nat) (ws : List (Nat × Nat)) : List (Nat × Nat) :=
  let t := ws.foldl (fun a w => a + w.2) 0
  ws.map fun w => (w.1, if t = 0 then 0 else n * w.2 / t)

/-- A context's accounting counters now (15 R397). -/
def Hw.meters (m : Hw) (c : Nat) : List Nat := (List.range 23).map fun i => mgetD m.counters (ckey 8 c i) 0

/-- What an accounting counter of a context counted since the last interval's end. -/
def Hw.metered (m : Hw) (c : Nat) (x : Ctx) (i : Nat) : Nat := mgetD m.counters (ckey 8 c i) 0 - lget x.metered i 0

/-- A context's activity in the interval: on a quarter, the energy of its units' busy cycles and of its bytes on links, which no
counter tells apart by quarter (free, log 10), and in pJ the bytes on the paths to the quarter's tiers at the energies of
06 R160; at the hub, by HUB_ENGINE and host-port bytes, whose weights the spec leaves open (free, log 10). -/
def Hw.activity (m : Hw) (q c : Nat) (x : Ctx) : Nat :=
  let d := m.metered c x
  if q = 4 then Config.hubShare (d 1) (d 18 + d 19)
  else Config.activity c q m.now + 18 * d (2 + q) + 20 * d (6 + q) + 42 * d (10 + q) + 55 * d (14 + q)

/-- Apportions one measured energy; what no context takes goes to the unowned account. -/
def Hw.apportion (m : Hw) (q idle n : Nat) : Hw :=
  let rs := m.residents q
  let st := splitBy (min idle n) rs
  let dy := splitBy (n - min idle n) (m.ctxs.map fun c => (c.1, m.activity q c.1 c.2))
  let got := (st ++ dy).foldl (fun a p => a + p.2) 0
  let m := (st ++ dy).foldl (fun (m : Hw) p => m.count 8 p.1 22 p.2) m
  { m with unowned := m.unowned + (n - got) }

/-- ENERGY_APPORTIONMENT: the energies of the quarters and of the hub in the last 1 ms, in µJ. -/
def execEnergyApportionment (measured : List Nat) (hub : Nat) : State → Host.Outcome State Fault Refusal :=
  onHw fun m =>
    if m.boot == .done then
      let m := ((List.range 4).foldl (fun m q => m.apportion q (lget m.idle q 0) (lget measured q 0)) m).apportion 4 0 hub
      { m with ctxs := m.ctxs.map fun c => (c.1, { c.2 with metered := m.meters c.1 }) }
    else m

end Sys2Proof.Machine
end

