-- ==== Sys2Proof/Machine/Seq.lean ====
section
/-! DEFINITION. Sequences: descriptors and their table (07 R201, R202), SEAL_PAGE and FORK_SEQ (07 R203 to R211). The
changes take effect together as the op completes; a fork's fault conditions are checked then, before anything changes, an
append's as it starts, when it takes the frames of the pages it opens. -/

namespace Sys2Proof.Machine

/-! ### Ranges of mapped pages -/

def Leaf.inside (l : Leaf) (va n : Nat) : Bool := va ≤ l.va && l.va + pageBytes l.size ≤ va + n

def Leaf.touches (l : Leaf) (va n : Nat) : Bool := l.va < va + n && va < l.va + pageBytes l.size

/-- Leaves with a byte in the range. -/
def Ctx.leavesIn (x : Ctx) (va n : Nat) : List Leaf := x.leaves.filter fun l => l.touches va n

/-- A request to the range has been issued and not yet answered (07 R196). -/
def Hw.inFlight (m : Hw) (c va n : Nat) : Bool :=
  m.cores.any fun k => k.2.ctx == some c && k.2.reqs.any fun r => r.issued.isSome && r.va < va + n && va < r.va + r.len

/-- A request to a page of the range through any mapping of it. -/
def Hw.pagesBusy (m : Hw) (c va n : Nat) : Bool :=
  match mget m.ctxs c with
  | none => false
  | some x =>
    let ps := (x.leavesIn va n).map (·.pdi)
    (x.leaves.filter fun l => ps.contains l.pdi).any fun l => m.inFlight c l.va (pageBytes l.size)

/-! ### Descriptors -/

def SeqState.code : SeqState → Nat
  | .free => 0 | .opened => 1 | .frozen => 2

/-- A sequence descriptor as 64 bytes (07 R201). -/
def SeqDesc.bytes (d : SeqDesc) : List Byte :=
  leBytes 64 (packFields [(57, d.base), (2, d.st.code), (1, d.psz), (4, 0), (6, d.log2), (4, d.slotL2), (1, d.newT),
    (2, d.newQ), (19, 0), (32, d.tail.getD 0xFFFFFFFF), (40, d.len), (16, d.parent.getD 0xFFFF), (8, 0), (40, d.forkLen)])

def SeqDesc.page (d : SeqDesc) : Nat := pageBytes d.psz
def SeqDesc.slot (d : SeqDesc) : Nat := 2 ^ (6 + d.slotL2)
def SeqDesc.spp (d : SeqDesc) : Nat := d.page / d.slot
/-- Mapped pages. -/
def SeqDesc.pages (d : SeqDesc) : Nat := match d.tail with | none => 0 | some t => t + 1

/-- A descriptor changes: in the table, which the context sees read-only, too. -/
def Hw.putSeq (m : Hw) (c s : Nat) (d : SeqDesc) : Hw :=
  match mget m.ctxs c with
  | none => m
  | some x => { m with ctxs := mset m.ctxs c { x with seqs := mset x.seqs s d } }.poke c (x.seqVa + 64 * s) d.bytes

def Hw.seq (m : Hw) (c s : Nat) : Option SeqDesc := (mget m.ctxs c).bind fun x => mget x.seqs s

/-- A sequence the host has not defined, or whose table is new: FREE, without geometry (07 R201). -/
def SeqDesc.blank : SeqDesc :=
  { base := 0, st := .free, psz := 0, log2 := 0, slotL2 := 0, newT := 0, newQ := 0, tail := none, len := 0, parent := none
    forkLen := 0 }

/-- An address lies in the range of a sequence. -/
def SeqDesc.holds (d : SeqDesc) (va : Nat) : Bool := d.base ≤ va && va < d.base + 2 ^ d.log2

/-- A sequence is about to change after record `e` of the changing core: as it is now it is kept for a rollback, and `n` more
SEAL_PAGE or FORK_SEQ changes count (18 R464, R467). Before the first record there is nothing to roll back to. -/
def Ctx.noteSeq (x : Ctx) (e s n : Nat) : Ctx :=
  let this (p : SeqSnap) : Bool := p.epoch == e && p.seq == s
  if e = 0 then x
  else if x.snaps.any this then
    { x with snaps := x.snaps.map fun p => if this p then { p with changes := p.changes + n } else p }
  else
    let d := mgetD x.seqs s SeqDesc.blank
    let ls := x.leaves.filter fun l => d.holds l.va
    { x with snaps := x.snaps ++
        [⟨e, s, d, ls, x.pds.filter fun p => ls.any fun l => l.pdi == p.1, n, []⟩] }

def Hw.noteSeq (m : Hw) (c e s n : Nat) : Hw := m.updCtx c fun x => x.noteSeq e s n

def Hw.noteSeqs (m : Hw) (c e n : Nat) (l : List Nat) : Hw := l.foldl (fun m s => m.noteSeq c e s n) m

/-- Page `i` of a sequence: its leaf and descriptor. -/
def Hw.seqPage (m : Hw) (c : Nat) (d : SeqDesc) (i : Nat) : Option (Leaf × PageDesc) :=
  (mget m.ctxs c).bind fun x => x.walk (d.base + i * d.page)

/-- The addresses of a sequence's tokens, in order (07 R202). -/
def Hw.tokens (m : Hw) (c : Nat) (d : SeqDesc) : List Nat :=
  (List.range d.pages).flatMap fun i =>
    match m.seqPage c d i with
    | none => []
    | some (l, p) => (List.range p.vslots).map fun s => l.va + s * d.slot

/-- Slots still free in the tail page; 0 when there is none or it is sealed. -/
def Hw.tailRoom (m : Hw) (c : Nat) (d : SeqDesc) : Nat :=
  match d.tail with
  | none => 0
  | some t => match m.seqPage c d t with
    | some (_, p) => if p.sealed then 0 else d.spp - p.vslots
    | none => 0

/-- Pages that an append of `n` tokens opens. -/
def Hw.newPages (m : Hw) (c : Nat) (d : SeqDesc) (n : Nat) : Nat := ceilDiv (n - m.tailRoom c d) d.spp

/-! ### Locked entries of the quarter TLBs (07 R197, R208) -/

def Hw.lockedOf (m : Hw) (q : Nat) (c : Option Nat) : Nat :=
  (m.quarterTlb.filter fun e => e.1 == q && e.2.locked && (c.isNone || c == some e.2.ctx)).length

/-- Pages in a quarter that appends in progress in fixed-timing mode open, each of which takes a locked entry: those of a
context, or of all (07 R208). -/
def Hw.lockOpening (m : Hw) (q : Nat) (c : Option Nat) : Nat :=
  ((m.cores.filter fun k => match k.2.ctx with
    | some x => (c.isNone || c == some x) && m.isFixed x
    | none => false).flatMap fun k => k.2.ops.flatMap fun o => o.eff.opened.filter fun p => p.homeQ == q).length

/-- `n` more locked entries of a context in a quarter stay within both limits, beside those that appends in progress take. -/
def Hw.lockRoom (m : Hw) (q c n : Nat) : Bool :=
  m.lockedOf q (some c) + m.lockOpening q (some c) + n ≤ 2048 && m.lockedOf q none + m.lockOpening q none + n ≤ 8192

def Hw.lockEntry (m : Hw) (q c : Nat) (l : Leaf) (p : PageDesc) : Hw :=
  if m.quarterTlb.any fun e => e.1 == q && e.2.locked && e.2.ctx == c && e.2.leaf.va == l.va then m
  else
    let mine := (m.quarterTlb.filter fun e => e.1 == q).map (·.2)
    { m with quarterTlb := (m.quarterTlb.filter fun e => e.1 != q)
        ++ (tlbFill quarterTlbCap mine ⟨c, l, p, true⟩).map fun e => (q, e) }

/-! ### Fault conditions -/

def seqFault (code va : Nat) : Option OpFault := some ⟨code, va, 0, 0⟩

/-- The addresses at which an append puts `n` tokens: the free slots of the tail, then the slots of new pages (07 R206). -/
def Hw.appendAddrs (m : Hw) (c : Nat) (d : SeqDesc) (n : Nat) : List Nat :=
  let room := m.tailRoom c d
  let v := match d.tail.bind fun t => m.seqPage c d t with | some (_, p) => p.vslots | none => 0
  (List.range n).map fun i =>
    if i < room then d.base + d.tail.getD 0 * d.page + (v + i) * d.slot
    else d.base + (d.pages + (i - room) / d.spp) * d.page + (i - room) % d.spp * d.slot

/-- The context has indices, table space and frames for its tables, for pages that appends open. -/
def Hw.tablesTake (m : Hw) (c : Nat) (x : Ctx) (os : List Opened) : Bool :=
  let all := m.opening (some c) ++ os
  let near := (os.filter fun o => o.tier == 0 && o.homeQ == x.tableQ).foldl (fun a o => a + pageBytes o.size / 65536) 0
  x.pds.length + all.length < 0x07FFFFFF && x.poolNeed (all.map Opened.leaf) ≤ 65536
    && near + x.tableGrowth (all.map Opened.leaf) (freshPdis all.length x.pds 1) ≤ m.framesFree x.tableQ 0 + m.openingGrowth c

/-- What an append to sequences, `n` tokens each, opens, or the fault it takes before it changes anything (07 R204, R206): a
new page takes a free run of frames in the sequence's home. -/
def Hw.appendPlan (m : Hw) (c n : Nat) : List Nat → List Opened → Option OpFault × List Opened
  | [], acc => (none, acc)
  | s :: t, acc =>
    match m.seq c s, mget m.ctxs c with
    | some d, some x =>
      if d.st == .frozen || d.log2 = 0 then (seqFault 0x02C7 d.base, [])
      else
        let k := m.newPages c d n
        let taken (os : List Opened) : Nat := (os.filter fun o => o.tier == d.newT).foldl (fun a o => a + pageBytes o.size) 0
        let run := d.page / 65536
        if 2 ^ d.log2 < (d.pages + k) * d.page then (seqFault 0x02C6 d.base, [])
        else if !x.within d.newT (taken (m.opening (some c)) + taken acc + k * d.page) then (seqFault 0x02C4 d.base, [])
        else
          let beside := (acc.filter fun o => o.homeQ == d.newQ && o.tier == d.newT).map fun o => (o.frame, pageBytes o.size / 65536)
          match m.allocPages d.newQ d.newT run k 0 beside [] with
          | none => (seqFault 0x02C4 d.base, [])
          | some fs =>
            let new := (List.zip (List.range k) fs).map fun f =>
              ({ seq := s, va := d.base + (d.pages + f.1) * d.page, size := d.psz, homeQ := d.newQ, tier := d.newT
                 frame := f.2 } : Opened)
            let acc := acc ++ new
            if !m.tablesTake c x acc then (seqFault 0x02C4 d.base, [])
            else if m.isFixed c && !m.lockRoom d.newQ c (acc.filter fun o => o.homeQ == d.newQ).length then
              (seqFault 0x02C8 d.base, [])
            else Hw.appendPlan m c n t acc
    | _, _ => (seqFault 0x02C7 0, [])

/-- Geometry and state of one branch (07 R210). -/
def branchOk (p b : SeqDesc) (same : Bool) : Bool :=
  same || (b.st == .free && b.psz == p.psz && b.slotL2 == p.slotL2 && b.log2 == p.log2)

/-! ### Changes -/

def Hw.setPd (m : Hw) (c pdi : Nat) (p : PageDesc) : Hw := m.updCtx c fun x => { x with pds := mset x.pds pdi p }

/-- The tail of a sequence takes `v` more tokens; full, it is sealed. -/
def Hw.fillTail (m : Hw) (c s v : Nat) : Hw :=
  match m.seq c s with
  | none => m
  | some d =>
    match d.tail.bind fun t => m.seqPage c d t with
    | none => m
    | some (l, p) =>
      (m.setPd c l.pdi { p with vslots := p.vslots + v, sealed := p.sealed || p.vslots + v == d.spp }).putSeq c s
        { d with st := .opened, len := d.len + v }

/-- Page TAIL + 1 of a sequence is mapped in the frames taken for it, with REFS 1 and VSLOTS 0 (07 R206). -/
def Hw.openPage (m : Hw) (c : Nat) (o : Opened) : Hw :=
  match m.seq c o.seq, (mget m.ctxs c).bind Ctx.freshPdi with
  | some d, some k =>
    let fixed := m.isFixed c
    let p : PageDesc := { home := o.tier, homeQ := o.homeQ, size := o.size, moored := fixed, nopf := false, ret := false
                          mig := false, sealed := false, refs := 1, vslots := 0, addr := o.frame }
    let l : Leaf := { va := o.va, size := o.size, ro := true, pf := false, seq := true, pdi := k }
    let m := (m.updCtx c fun x => { x with pds := mset x.pds k p, leaves := l :: x.leaves }).growPool c
    let m := if fixed then m.lockEntry o.homeQ c l p else m
    m.putSeq c o.seq { d with st := .opened, tail := some d.pages }
  | _, _ => m

/-- `n` tokens appended to a sequence, their rows stored: the tail's free slots fill, then one opened page after another. -/
def Hw.appendTo (m : Hw) (c s n : Nat) (os : List Opened) : Hw :=
  match m.seq c s with
  | none => m
  | some d =>
    let first := min n (m.tailRoom c d)
    let m := if first = 0 then m else m.fillTail c s first
    ((os.filter fun o => o.seq == s).foldl (fun (a : Hw × Nat) o =>
      let v := min a.2 d.spp
      ((a.1.openPage c o).fillTail c s v, a.2 - v)) (m, n - first)).1

/-- SEAL_PAGE in SEAL mode on one sequence. -/
def Hw.sealSeq (m : Hw) (c s : Nat) : Hw :=
  match m.seq c s with
  | none => m
  | some d =>
    match d.st, d.tail with
    | .opened, some t =>
      (match m.seqPage c d t with
       | some (l, p) => m.setPd c l.pdi { p with sealed := true }
       | none => m)
    | _, _ => m

/-- SEAL_PAGE in RELEASE mode, and SEQ_RELEASE, on one sequence (07 R207). -/
def Hw.releaseSeq (m : Hw) (c s : Nat) : Hw :=
  match m.seq c s with
  | none => m
  | some d =>
    let m := if d.pages = 0 then m else m.unmapRange c d.base (d.pages * d.page)
    m.putSeq c s { d with st := .free, tail := none, len := 0, parent := none, forkLen := 0 }

/-- FORK_SEQ of one layer (07 R210). -/
def Hw.forkLayer (m : Hw) (c par : Nat) (brs : List Nat) : Hw :=
  match m.seq c par with
  | none => m
  | some p =>
    let m := match p.tail with
      | some t => (match m.seqPage c p t with
        | some (l, d) => m.setPd c l.pdi { d with sealed := true }
        | none => m)
      | none => m
    let others := brs.filter fun b => b != par
    let pages := (List.range p.pages).filterMap fun i => (m.seqPage c p i).map fun w => (i, w.1)
    let m := others.foldl (fun m b => match m.seq c b with
      | none => m
      | some d =>
        let new := pages.map fun w => { w.2 with va := d.base + w.1 * d.page }
        let m := m.updCtx c fun x =>
          { x with leaves := new ++ x.leaves
                   pds := new.foldl (fun ps l => match mget ps l.pdi with
                     | some q => mset ps l.pdi { q with refs := q.refs + 1 }
                     | none => ps) x.pds }
        (m.growPool c).putSeq c b
          { d with st := .opened, len := p.len, tail := p.tail, parent := some par, forkLen := p.len }) m
    if brs.contains par then m else m.putSeq c par { p with st := .frozen }

/-- The fault of a fork of one layer, judged as the layers before it leave the sequences. -/
def Hw.forkLayerFault (m : Hw) (c par l : Nat) (brs : List Nat) : Option OpFault :=
  match m.seq c (par + l) with
  | none => seqFault 0x02C7 0
  | some p =>
    if p.st == .free || p.tail.isNone then seqFault 0x02C7 p.base
    else
      match brs.find? fun b => match m.seq c (b + l) with
          | some d => !branchOk p d (b == par)
          | none => true with
      | some b => seqFault 0x02C7 (match m.seq c (b + l) with | some d => d.base | none => 0)
      | none =>
        let k := (brs.filter fun b => b != par).length
        if (List.range p.pages).any fun i => match m.seqPage c p i with
            | some (_, d) => 65535 < d.refs + k
            | none => false
        then seqFault 0x02C5 p.base
        else if (match mget m.ctxs c with
            | none => false
            | some x =>
              let new := (brs.filter fun b => b != par).flatMap fun b => match m.seq c (b + l) with
                | none => []
                | some d => (List.range p.pages).map fun i => (⟨d.base + i * d.page, d.psz, true, false, true, 0⟩ : Leaf)
              let new := new ++ (m.opening (some c)).map Opened.leaf
              65536 < x.poolNeed new || m.framesFree x.tableQ 0 + m.openingGrowth c < x.tableGrowth new [])
          then seqFault 0x02C4 p.base
        else none

def Hw.forkFault (m : Hw) (c par : Nat) (brs : List Nat) : List Nat → Option OpFault
  | [] => none
  | l :: t =>
    match m.forkLayerFault c par l brs with
    | some f => some f
    | none => Hw.forkFault (m.forkLayer c (par + l) (brs.map fun b => b + l)) c par brs t

/-- The fault a FORK_SEQ takes, before it changes anything (07 R204, R210); an append's is found as it starts. -/
def Hw.seqOpFault (m : Hw) (c : Nat) (o : SeqOp) : Option OpFault :=
  match o with
  | .fork par n brs => m.forkFault c par brs (List.range n)
  | _ => none

/-- What a sequence op changes as it completes; `e` is the newest record of its core. -/
def Hw.runSeqOp (m : Hw) (c e : Nat) (o : SeqOp) (os : List Opened) : Hw :=
  match o with
  | .append s layers n => (List.range layers).foldl (fun m l => (m.noteSeq c e (s + l) 1).appendTo c (s + l) n os) m
  | .seal s n => (List.range n).foldl (fun m l => (m.noteSeq c e (s + l) 1).sealSeq c (s + l)) m
  | .release s n => (List.range n).foldl (fun m l => (m.noteSeq c e (s + l) 1).releaseSeq c (s + l)) m
  | .fork par n brs =>
    (List.range n).foldl (fun m l =>
      (m.noteSeqs c e 1 ((par :: brs).eraseDups.map fun s => s + l)).forkLayer c (par + l) (brs.map fun b => b + l)) m

/-! ### The ops -/

def Env.sealMode (e : Env) : Nat := e.field 281 280

/-- Rows of layer `l` of an APPEND as stores: unconverted bytes of the tokens, each into its slot. -/
def Env.appendRows (e : Env) (t : Ten) (l : Nat) : List Wr :=
  match e.m.seq e.ctx (e.field 271 256 + l) with
  | none => []
  | some d => (List.zip (List.range (t.ext 1)) (e.m.appendAddrs e.ctx d (t.ext 1))).map fun p =>
      ⟨0, e.core, p.2, e.read t (t.addr + l * t.str 2 + p.1 * t.str 1) t.row⟩

/-- APPEND stores its rows in the manner of a MOVE; the tokens count as the op completes (07 R206). -/
def Env.appendBody (e : Env) : Body :=
  let t := e.ten (e.field 319 304)
  let s := e.field 271 256
  let n := e.field 279 272 + 1
  let plan := e.m.appendPlan e.ctx (t.ext 1) ((List.range n).map fun l => s + l) []
  { Body.empty with
    loads := t.loads (t.foot 3 e.h)
    wrs := (List.range n).flatMap fun l => e.appendRows t l
    seq := some (.append s n (t.ext 1))
    opened := plan.2
    seqs := e.seqNames
    fault := plan.1 }

/-- The frames that an append takes are zeroed before its rows go there (07 R192, R206). -/
def Env.zeroOpened (e : Env) (m : Hw) : Hw :=
  if (m.core e.core).ops.any fun o => o.no == (e.m.core e.core).nextOp then
    e.appendBody.opened.foldl (fun (m : Hw) p =>
      { m with mem := m.mem.zeroFrames p.homeQ p.tier p.frame (pageBytes p.size / 65536) }) m
  else m

/-- SEAL_PAGE in APPEND mode. -/
def execSealPageAppend (core thread : Nat) : State → Host.Outcome State Fault Refusal :=
  onHw fun m => m.startWith core thread (fun e => e.h.opcode == 0x29 && e.sealMode == 0) Env.appendBody (fun _ => .done)
    (fun _ o => o) Env.zeroOpened

/-- SEAL_PAGE in SEAL mode. -/
def execSealPageSeal (core thread : Nat) : State → Host.Outcome State Fault Refusal :=
  onHw fun m => m.startOp core thread (fun e => e.h.opcode == 0x29 && e.sealMode == 1) fun e =>
    { Body.empty with seq := some (.seal (e.field 271 256) (e.field 279 272 + 1)), seqs := e.seqNames }

/-- SEAL_PAGE in RELEASE mode. -/
def execSealPageRelease (core thread : Nat) : State → Host.Outcome State Fault Refusal :=
  onHw fun m => m.startOp core thread (fun e => e.h.opcode == 0x29 && e.sealMode == 2) fun e =>
    { Body.empty with seq := some (.release (e.field 271 256) (e.field 279 272 + 1)), seqs := e.seqNames }

/-- FORK_SEQ. -/
def execForkSeq (core thread : Nat) : State → Host.Outcome State Fault Refusal :=
  onHw fun m => m.startOp core thread (fun e => e.h.opcode == 0x28) fun e =>
    { Body.empty with
      seq := some (.fork (e.field 271 256) (e.field 279 272 + 1)
        ((List.range (e.field 283 280)).map fun b => e.field (303 + 16 * b) (288 + 16 * b)))
      seqs := e.seqNames }

end Sys2Proof.Machine
end

