-- ==== Sys2Proof/Machine/Recover.lean ====
section
/-! DEFINITION. Core faults and rollback: residue mismatches and hold errors (03 R102, 18 R465), firmware's handling
(18 R464, R466), standbys (15 R400), rollback to an epoch (18 R467, R469), and SWITCH_IN (15 R394), which applies a
rollback that is due. -/

namespace Sys2Proof.Machine

/-! ### Detection -/

/-- A core with a failed value: it stops its threads and releases and signals nothing more. -/
def Hw.breakCore (m : Hw) (core array tag thread : Nat) : Hw :=
  (m.updCore core fun c => { c.stopAll with broken := some (array, m.now, tag, thread) }).dirty

/-- The unit whose residue channel reports: the pontoon path of a MATVEC, the arrays 0 to 7, the SAU of 8 and 9, the window
engine's interpolator of 10 (03 R102, 08 R214, 09 R255). Which array number a mismatch on the pontoon path records the spec does
not say: the command brings it (DESIGN CHOICE, log 32). -/
def residueClaims (a : ResidueAt) : BitVec 10 :=
  unitBits [if a.pontoon then 5 else if a.array < 8 then 0 else if a.array < 10 then 6 else 4]

/-- The op of a thread whose tile or value failed: the one that holds the unit, else the oldest. -/
def Core.failing (c : Core) (thread : Nat) (a : ResidueAt) : Option OpRec :=
  (c.ops.find? fun o => o.thread == thread && o.claims &&& residueClaims a != 0#10)
    <|> c.ops.find? fun o => o.thread == thread

/-- RESIDUE_MISMATCH on an array, for the op a thread runs. -/
def execResidueMismatch (core thread : Nat) (at_ : ResidueAt) : State → Host.Outcome State Fault Refusal :=
  onHw fun m =>
    let c := m.core core
    match c.ctx, c.failing thread at_ with
    | some _, some o =>
      if m.clocked && c.broken.isNone && at_.array ≤ 10 then m.breakCore core at_.array o.hdr.tag thread else m
    | _, _ => m

/-- HOLD_ERROR: a single-bit error in a hold word is corrected and counted; a double-bit error is a core fault. -/
def execHoldError (core : Nat) (err : HoldErr) : State → Host.Outcome State Fault Refusal :=
  onHw fun m =>
    let c := m.core core
    let tag := match err.thread.bind fun t => c.ops.find? fun o => o.thread == t with | some o => o.hdr.tag | none => 0
    if !m.clocked || c.ctx.isNone then m
    else if !err.double then m.countCore core cHOLDCORR 1
    else if c.broken.isNone then m.breakCore core 11 tag (err.thread.getD 0 % 4)
    else m

/-! ### Handling (18 R464, R466) -/

/-- The lowest good physical core of a quarter that fills no position. -/
def Phys.spare (p : Phys) : Option Nat := (List.range 68).find? fun i => p.good.getLsbD i && !p.fills.contains (some i)

def Phys.spares (p : Phys) : Nat := ((List.range 68).filter fun i => p.good.getLsbD i && !p.fills.contains (some i)).length

def Phys.goodLeft (p : Phys) : Nat := ((List.range 68).filter fun i => p.good.getLsbD i).length

def Hw.physQ (m : Hw) (q : Nat) : Phys := lget m.phys q ⟨0#68, []⟩

def Hw.setFill (m : Hw) (k : Nat) (f : Option Nat) : Hw :=
  let p := m.physQ (k / 64)
  { m with phys := lset m.phys (k / 64) { p with fills := lset p.fills (k % 64) f } }

/-- QW_TOPOLOGY's positions and spares of a quarter, as they stand. -/
def Hw.publishCores (m : Hw) (q : Nat) : Hw :=
  let p := m.physQ q
  let n := ((List.range 64).filter fun i => m.coreValid (64 * q + i)).length
  let t := m.quay.topo
  m.setTopo { t with cores := lset t.cores q n, spares := lset t.spares q (min 4 p.spares) }

/-- A physical core leaves GOOD and is out of service (17 R441, R451). -/
def Hw.badPhys (m : Hw) (q i : Nat) : Hw :=
  let p := m.physQ q
  let h := m.island.health
  ({ m with phys := lset m.phys q { p with good := p.good &&& ~~~(1#68 <<< i) }
  }.setHealth { h with good := lset h.good q (lget h.good q 0#68 &&& ~~~(1#68 <<< i)), dirty := true }).degrade

/-- Event 0x0680 of a fault that was, or was not, recovered. -/
def Hw.corePost (m : Hw) (core phys : Nat) (recov : Bool) : Hw :=
  m.eventAs 0x0680 none [(8, core / 64), (8, phys), (8, core), (8, (m.physQ (core / 64)).goodLeft)] recov 0

def coreLoc (core phys array : Nat) : Nat := packFields [(8, core), (8, phys), (8, array)]

/-- SEAL_PAGE and FORK_SEQ changes of a sequence since epoch `e`. -/
def Ctx.changesOf (x : Ctx) (e s : Nat) : Nat :=
  (x.snaps.filter fun p => p.seq == s && e ≤ p.epoch).foldl (fun a p => a + p.changes) 0

/-- Conditions of 18 R464 on the context: epoch `e` exists, no early SET, at most 1,024 changes of each sequence. -/
def Hw.canRollBack (m : Hw) (ctx e : Nat) : Bool :=
  e != 0
  && ((m.plansOf ctx).flatMap fun p => p.2.cores).all (fun k =>
      match (m.core k.core).steps.find? fun r => r.no == e with
      | some r => !r.setBefore
      | none => false)
  && (match mget m.ctxs ctx with
      | some x => x.snaps.all fun s => x.changesOf e s.seq ≤ 1024
      | none => false)

/-- The valid standby of a context's partition in a quarter. -/
def Hw.standbyOf (m : Hw) (ctx q : Nat) : Option (Nat × Nat) :=
  match (mget m.ctxs ctx).bind Ctx.part with
  | none => none
  | some p => match mget m.parts p with
    | none => none
    | some y => (lget y.standby q none).map fun s => (p, s)

/-- The failing position takes the standby's physical core, whose own position goes out of service (15 R400). -/
def Hw.takeStandby (m : Hw) (core part s : Nat) : Hw :=
  let f := m.physOf s
  let m := (m.setFill core f).setFill s none
  let m := { m with outOfService := m.outOfService ||| (1#256 <<< s) }.degrade
  match mget m.parts part with
  | none => m
  | some y =>
    let q := core / 64
    { m with parts := mset m.parts part { y with standby := lset y.standby q none, refill := lset y.refill q (some (s, core)) } }

/-- A recoverable fault: the position is filled, and the rollback is due. -/
def Hw.refillPosition (m : Hw) (ctx core phys array tide : Nat) : Hw :=
  let q := core / 64
  let m := m.badPhys q phys
  let sb := m.standbyOf ctx q
  let m := match sb with
    | some s => m.takeStandby core s.1 s.2
    | none => m.setFill core (m.physQ q).spare
  let m := (m.updCore core fun c => { c with broken := none }).publishCores q
  m.updCtx ctx fun x => { x with recov := x.recov ++ [⟨core, phys, array, tide, sb.map (·.2)⟩]
                                 rollbackDue := x.rollbackDue || x.st == .switching }

/-- An unrecoverable fault stops the context; its position goes out of service until the next reset. -/
def Hw.losePosition (m : Hw) (ctx core phys array tide tag thread : Nat) : Hw :=
  let m := (m.badPhys (core / 64) phys).setFill core none
  let m := { m with outOfService := m.outOfService ||| (1#256 <<< core) }.degrade
  let m := (m.updCore core fun c => { c with broken := none }).publishCores (core / 64)
  let m := m.updCtx ctx fun x =>
    if x.st == .switching then { x with back := .stopped } else { x with st := .stopped, chosen := false }
  let m := m.mayDecide
  let r : FaultRec := { FaultRec.base m 0x0181 core thread tag ctx with array := array, tide := tide }
  ((m.recordFault ctx r).logErrorAt tide 0x0181 (some ctx) false (coreLoc core phys array) 0).corePost core phys false

/-- CORE_FAULT_HANDLING; faults of one quarter are served in the order of their detection. -/
def execCoreFaultHandling (core : Nat) : State → Host.Outcome State Fault Refusal :=
  onHw fun m =>
    let c := m.core core
    match c.ctx, c.broken, m.physOf core with
    | some x, some b, some phys =>
      let first := m.cores.all fun d => d.1 == core || d.1 / 64 != core / 64 ||
        (match d.2.broken with
         | some o => b.2.1 < o.2.1 || (b.2.1 == o.2.1 && core < d.1)
         | none => true)
      if first then
        let q := core / 64
        let m := m.stopThreads x
        let filled := (m.physQ q).spare.isSome || (m.isFixed x && (m.standbyOf x q).isSome)
        let e := m.epochOf x
        if m.canRollBack x e && filled then m.refillPosition x core phys b.1 b.2.1
        else m.losePosition x core phys b.1 b.2.1 b.2.2.1 b.2.2.2
      else m
    | _, _, _ => m

/-! ### Rollback (18 R467) -/

/-- Journaled hub updates on top of a value. -/
def journaled (b : Nat) (v : Word32) (l : List Signal) : Word32 :=
  l.foldl (fun v s => if s.bol == b then (if s.set then s.val else v + s.val) else v) v

/-- Bollards of a record, corrected (18 R467 item 4). -/
def StepRec.bolsNow (r : StepRec) : Map Word32 :=
  (List.range 64).foldl (fun a b =>
    let v := mgetD r.bols b 0#32
    let n := if b < 60 then v - mgetD r.aIn b 0#32 + mgetD r.aLate b 0#32 else journaled b v r.journal
    if n = 0#32 then a else mset a b n) []

/-- A core back at its record, at instant `now` and its cycle `cyc`; `images` are the binding images of the record (10 R276).
What is on its way to its bollards from other contexts is still on its way (02 R69). -/
def Core.rollTo (c : Core) (now cyc e : Nat) (images : Map Word32 → Map Word32) : Core :=
  let base := { Core.clearedWith c.fset c.route with ctx := c.ctx, nextOp := c.nextOp, nextReq := c.nextReq, inbox := c.inbox }
  match c.steps.find? fun r => r.no == e with
  | none => base
  | some r =>
    { base with
      threads := (List.range 4).map fun t =>
        let x := c.thread t
        let nx := lget r.nexts t none
        { Thread.idle with
          st := if nx.isSome then .running else if x.entry = 0 then .idle else .ended
          entry := x.entry, loop := x.loop, next := nx, waitSince := now, lastTick := lget r.ticks t none
          posted := lget r.posted t 0, suppress := lget r.posted t 0 }
      bols := r.bolsNow, rise := risen r.bolsNow cyc, acc := images r.acc, steps := [r], recs := e }

/-- The oldest kept state of each sequence, in order. -/
def oldestSnaps : List SeqSnap → List SeqSnap
  | [] => []
  | s :: t => s :: (oldestSnaps t).filter fun p => p.seq != s.seq

/-- A page's descriptor in the oldest kept state that has it, and the contents it was released with. -/
def oldDesc (l : List SeqSnap) (pdi : Nat) : Option PageDesc := l.findSome? fun s => mget s.pds pdi
def oldImage (l : List SeqSnap) (pdi : Nat) : Memory × List Nat := (l.findSome? fun s => mget s.kept pdi).getD ([], [])

/-- A page of the epoch that has been released since is formed again from its kept contents. -/
def Hw.reformPage (m : Hw) (c : Nat) (s : List SeqSnap) (pdi : Nat) (p : PageDesc) : Hw :=
  match m.allocRun p.homeQ p.home (pageBytes p.size / 65536) p.addr with
  | none => m
  | some f =>
    let k := ramKey p.homeQ p.home (f * 65536)
    let img := oldImage s pdi
    let ram := img.1.foldl (fun a b => wr a (k + b.1) b.2) m.mem.ram
    { m with mem := { m.mem with ram := ram, marks := (img.2.map fun w => k + w) ++ m.mem.marks } }.updCtx c fun x =>
      { x with pds := mset x.pds pdi { p with addr := f } }

/-- The page descriptors after the restored leaves: REFS counts leaves, VSLOTS and SEALED are those of the epoch. -/
def Hw.recount (m : Hw) (c : Nat) (s : List SeqSnap) (back : List Leaf) : Hw :=
  match mget m.ctxs c with
  | none => m
  | some x =>
    x.pds.foldl (fun (m : Hw) e =>
      let n := (x.leaves.filter fun l => l.pdi == e.1).length
      if n = 0 then
        { m with ctxs := (match mget m.ctxs c with
            | some y => mset m.ctxs c { y with pds := mdel y.pds e.1 }
            | none => m.ctxs) }.freePage e.2
      else
        let q := { e.2 with refs := n }
        let q := if back.any fun l => l.pdi == e.1 then
            match oldDesc s e.1 with
            | some o => { q with vslots := o.vslots, sealed := o.sealed }
            | none => q
          else q
        m.updCtx c fun y => { y with pds := mset y.pds e.1 q }) m

/-- Every sequence changed since an epoch is as it was then (18 R467 item 2). -/
def Hw.restoreSeqs (m : Hw) (c : Nat) (s : List SeqSnap) : Hw :=
  if s.isEmpty then m
  else
    let mine (va : Nat) : Bool := s.any fun o => o.desc.holds va || (match m.seq c o.seq with | some d => d.holds va | none => false)
    let back := s.flatMap (·.leaves)
    let m := m.updCtx c fun x => { x with leaves := back ++ x.leaves.filter fun l => !mine l.va }
    let lost := ((back.map (·.pdi)).eraseDups).filter fun i => match mget m.ctxs c with
      | some x => !mhas x.pds i
      | none => false
    let m := lost.foldl (fun (m : Hw) i => match oldDesc s i with
      | some p => m.reformPage c s i p
      | none => m) m
    let m := (m.recount c s back).invalidateCtx c
    s.foldl (fun m o => m.putSeq c o.seq o.desc) (m.growPool c)

/-- The context as of epoch `e` on its cores; every thread restarts. -/
def Hw.rollTo (m : Hw) (c e : Nat) : Hw :=
  let m := (m.ctxCores c).foldl (fun (m : Hw) k =>
    (m.updCore k fun x => x.rollTo m.now (m.cyc k) e (m.bindingImages c k)).countCore k cROLLBACKS 1) m
  let m := { m with ferries := m.ferries.filter fun f => f.ctx != c
                    creditsInFlight := m.creditsInFlight.filter fun r => !(m.ctxCores c).contains r.core }
  let m := match mget m.ctxs c with
    | some x => m.restoreSeqs c (oldestSnaps (x.snaps.filter fun s => e ≤ s.epoch))
    | none => m
  m.updCtx c fun x => { x with rollbackDue := false, snaps := [] }

/-- The error-log record and the events of each core fault whose position was filled (18 R459, R467, 15 R400, 17 R441): the
context was rolled back to epoch `e`, or goes or abandons its runs without a rollback, with RECOV 0 and AUX 0 (DESIGN CHOICE,
log 32). -/
def Hw.coreFaultLog (m : Hw) (c e : Nat) (back : Bool) : Hw :=
  match mget m.ctxs c with
  | none => m
  | some x =>
    (x.recov.foldl (fun (m : Hw) r =>
      let m := m.logErrorAt r.tide 0x0181 (some c) back (coreLoc r.core r.phys r.array) e
      let m := match r.standby with
        | some s => m.event 0x0482 none
            [(8, x.part.getD 0), (2, r.core / 64), (2, 0), (4, 0), (8, r.core), (8, s)]
        | none => m
      m.corePost r.core r.phys back) m).updCtx c fun x => { x with recov := [] }

/-- The records and events that follow a rollback: those of the core faults, and one for another fault that had stopped the
context (18 R459, R469). -/
def Hw.rollbackLog (m : Hw) (c e : Nat) : Hw :=
  let m := m.coreFaultLog c e true
  match (mget m.ctxs c).bind Ctx.stopFault with
  | none => m
  | some f =>
    let m := if f.code = 0x0181 then m
      else m.logErrorAt f.tide f.code (some c) false (packFields (faultPayload f) % 2 ^ 64) e
    m.updCtx c fun x => { x with stopFault := none }

/-- Threads of a core end, on the core or as saved. -/
def endThreads (l : List Thread) : List Thread :=
  l.map fun t => { t with st := if t.entry = 0 then .idle else .ended, next := none }

def Hw.endCore (m : Hw) (c k : Nat) : Hw :=
  if m.runs k c then m.updCore k fun x => { x with threads := endThreads x.threads }
  else match mget m.saves (saveKey c k) with
    | some s => { m with saves := mset m.saves (saveKey c k) { s with threads := endThreads s.threads } }
    | none => m

/-- Where no epoch is complete, the runs in progress are abandoned (18 R469). -/
def Hw.abandonRuns (m : Hw) (c : Nat) : Hw :=
  (m.plansOf c).foldl (fun (m : Hw) p =>
    match p.2.run with
    | none => m
    | some r =>
      if r.started then
        let m := p.2.cores.foldl (fun m e => m.endCore c e.core) m
        let m := m.event 0x0012 (some c) (runPayload p.1 r.queue r.tag r.no 2)
        m.runEnded p.1 p.2 r
      else m) m

/-- Recovery of a STOPPED context ends: RESIDENT or RUNNABLE with work, else ENABLED (18 R469). -/
def Hw.resumeState (m : Hw) (c : Nat) : Hw :=
  let on := m.onCores c
  let st : CtxState := if m.hasWork c then (if on then .resident else .runnable) else .enabled
  (m.updCtx c fun x => { x with st := if x.st == CtxState.stopped then st else x.st
                                stopFault := if x.rollbackDue then x.stopFault else none }).mayDecide

/-- The context goes back to its newest complete epoch; where there is none, its runs are abandoned (18 R467, R469). -/
def Hw.recover (m : Hw) (c : Nat) : Hw :=
  let e := m.epochOf c
  if e != 0 then (m.rollTo c e).rollbackLog c e
  else ((m.abandonRuns c).coreFaultLog c 0 false).updCtx c fun y => { y with rollbackDue := false, stopFault := none }

/-- The plans of a context name positions in service only. -/
def Hw.placed (m : Hw) (c : Nat) : Bool :=
  ((m.plansOf c).flatMap fun p => p.2.cores).all fun e => m.coreValid e.core

/-- No op, request or signal of the context is under way. -/
def Hw.settled (m : Hw) (c : Nat) : Bool :=
  (m.ctxCores c).all (fun k => (m.core k).ops.isEmpty && (m.core k).reqs.isEmpty)
    && m.cores.all (fun d => d.2.inbox.all fun s => s.ctx != c)
    && (m.ctxCores c).all fun k => (m.core k).broken.isNone

/-- ROLLBACK: after a core fault, or once CTX_FAULTS has left the fault log of a STOPPED context empty. -/
def execRollback (ctx : Nat) : State → Host.Outcome State Fault Refusal :=
  onHw fun m =>
    match mget m.ctxs ctx with
    | none => m
    | some x =>
      let due := ((x.st == .resident || x.st == .enabled) && !x.recov.isEmpty) || (x.st == .stopped && x.faults.isEmpty && x.detected.isEmpty)
      if due && m.settled ctx && m.placed ctx && x.detected.isEmpty && !(m.plansOf ctx).isEmpty then
        if m.onCores ctx then ((m.recover ctx).resumeState ctx).startRuns ctx
        else if m.epochOf ctx = 0 then (m.recover ctx).resumeState ctx
        else { m with ctxs := mset m.ctxs ctx { x with rollbackDue := true } }.resumeState ctx
      else m

/-! ### Switching out and in -/

/-- SWITCH_OUT: once the context has drained, the slipway saves it and its cores clear; after a core fault during the switch it
is rolled back first, and that state is saved (15 R394, 18 R467). -/
def execSwitchOut (ctx : Nat) : State → Host.Outcome State Fault Refusal :=
  onHw fun m =>
    match mget m.ctxs ctx with
    | none => m
    | some x =>
      if x.st == .switching && x.detected.isEmpty && m.clocked && m.drained ctx
          && (m.ctxCores ctx).all fun k => (m.core k).broken.isNone then
        let bare := x.back == .stopped
        let m := if x.rollbackDue && !bare then m.recover ctx else m
        (((m.ctxCores ctx).foldl (fun m k => m.outCore ctx bare k) m).updCtx ctx fun x =>
          { x with st := x.back, quantumUp := false }).decide_
      else m

/-- SWITCH_IN: the slipway restores a chosen context, or a rollback that is due takes the restore's place. -/
def execSwitchIn (ctx : Nat) : State → Host.Outcome State Fault Refusal :=
  onHw fun m =>
    match mget m.ctxs ctx with
    | none => m
    | some x =>
      if x.chosen && x.st == .runnable && m.clocked && (m.ctxCores ctx).all (fun k => (m.core k).ctx.isNone) then
        let m := m.switchIn ctx
        let m := if x.rollbackDue then m.recover ctx else m
        ((m.updCtx ctx fun y => { y with st := .resident }).startRuns ctx).decide_
      else m

/-! ### Standbys -/

/-- STANDBY_REFILL: a used standby position gets a reserve spare, or the quarter has no standby (15 R400). -/
def execStandbyRefill (part quarter : Nat) : State → Host.Outcome State Fault Refusal :=
  onHw fun m =>
    match mget m.parts part with
    | none => m
    | some y =>
      match lget y.refill quarter none with
      | none => m
      | some r =>
        let m := { m with parts := mset m.parts part { y with refill := lset y.refill quarter none } }
        let post (m : Hw) (kind : Nat) : Hw :=
          m.event 0x0482 none [(8, part), (2, quarter), (2, kind), (4, 0), (8, r.2), (8, r.1)]
        match (m.physQ quarter).spare with
        | none => post m 2
        | some p =>
          let m := { m.setFill r.1 (some p) with
            outOfService := m.outOfService &&& ~~~(1#256 <<< r.1)
            parts := mset m.parts part { y with refill := lset y.refill quarter none, standby := lset y.standby quarter (some r.1) } }
          post (m.publishCores quarter) 1

end Sys2Proof.Machine
end

