-- ==== Sys2Proof/Machine/Attn.lean ====
section
/-! DEFINITION. Attention and chained products: scores and key blocks (08 R215 to R218), the row format and the row state
(08 R219, R220), normalisation (08 R221), masks and empty rows (08 R223, R224), row statistics (08 R225), ATTN_MAT,
ATTN_STREAM and the backward pass (08 R226 to R231), CHAIN_PRODUCT (08 R232, R233), sequences (08 R234 to R236). -/

namespace Sys2Proof.Machine

/-! ### The row format -/

/-- Rounds once to 24 significant bits without an exponent limit (08 R219). -/
def rn24 : FV → FV
  | .num s m e => if m = 0 then .num s 0 0 else
      let r := rneRat m 1 e 24 (-(2 ^ 27 : Nat))
      .num s r.1 r.2
  | v => v

/-- ceil of a finite FP32 value. -/
def ceilF : FV → Int
  | .num s m e => -(floorInt (!s) m e)
  | _ => 0

/-! ### Keys -/

structure Key where
  /-- key index: along K's dimension 1, or the token index -/
  ix : Nat
  pos : Nat
  k : RowV
  v : List FV
  deriving DecidableEq, Repr

structure AttnIn where
  scale : Word32
  pfmt : Nat
  ieee : Bool
  /-- width classes of the score and value products -/
  w1 : Nat
  w2 : Nat
  dv : Nat
  /-- first key block of the range, and blocks in it -/
  b0 : Nat
  nB : Nat

/-- The score of one key: t, and whether it was clamped (08 R215). -/
def AttnIn.score (a : AttnIn) (q : RowV) (k : Key) : Word32 × Bool :=
  let s := dotFrom a.w1 (fun _ => false) f32zero q k.k
  let t := fmul s a.scale
  let lim : FV := .num false (2 ^ 24) 0
  match f32v t with
  | .nan => (t, false)
  | v => if lim.lt v.abs then (rne32 (if v.sign then lim.neg else lim), true) else (t, false)

/-- One key position of a row: its score, masked or not, and p̂. -/
structure Cell3 where
  key : Key
  t : Word32
  masked : Bool
  p : FV

structure AttnBlk where
  b : Nat
  r : Int
  cells : List Cell3
  s1 : Word32
  g : List FV

/-- A row's outcome (08 R219, R224). -/
inductive RowRes where
  | empty
  | nan
  | row (r : Int) (l : FV) (a : List FV)

structure AttnRow where
  /-- scores of every key that is not padded -/
  cells : List (Key × Word32 × Bool)
  clamp : Bool
  blocks : List AttnBlk
  res : RowRes

/-- A block that is not empty: reference, p̂, their sum and the group sums (08 R217, R218). -/
def AttnIn.block (a : AttnIn) (b : Nat) (cs : List (Key × Word32 × Bool)) : Option AttnBlk :=
  match cs with
  | [] => none
  | c :: t =>
    let m := t.foldl (fun m x => fmax m x.2.1) c.2.1
    if m == maskValue then none
    else
      let r := ceilF (f32v m)
      let cells := cs.map fun x =>
        let arg := rne32 ((f32v x.2.1).sub (FV.ofInt r))
        let p := elemDecode a.pfmt (elemConvert a.pfmt a.ieee (f32v (builtin 0x02 arg))).1
        (⟨x.1, x.2.1, x.2.2, p⟩ : Cell3)
      some { b := b, r := r, cells := cells
             s1 := cells.foldl (fun s c => rne32 ((f32v s).add c.p)) f32zero
             g := (List.range a.dv).map fun n =>
               groupSigma a.w2 (cells.map fun c => c.p.mul (lget c.key.v n FV.zero)) }

/-- The row state by the materialised procedure; the streaming one gives the same bits (08 R219, R220). -/
def rowState (dv : Nat) (bs : List AttnBlk) : RowRes :=
  match bs with
  | [] => .empty
  | b :: t =>
    let r := t.foldl (fun r x => max r x.r) b.r
    let s := bs.foldl (fun (s : FV × List FV) b =>
      let f := FV.pow2 (b.r - r)
      (rn24 (s.1.add ((f32v b.s1).mul f)), (List.zip s.2 b.g).map fun p => rn24 (p.1.add (p.2.mul f))))
      (FV.zero, List.replicate dv FV.zero)
    .row r s.1 s.2

/-- One query row over its keys. -/
def AttnIn.row (a : AttnIn) (q : RowV) (keys : List (Key × Bool)) : AttnRow :=
  let cs := keys.map fun k =>
    if k.2 then (k.1, maskValue, true, false)
    else
      let t := a.score q k.1
      (k.1, t.1, false, t.2)
  let cells := cs.map fun c => (c.1, c.2.1, c.2.2.1)
  let nan := cells.any fun c => (f32v c.2.1).isNan
  let bs := (List.range a.nB).filterMap fun i =>
    a.block (a.b0 + i) (cells.filter fun c => c.1.ix / 32 == a.b0 + i)
  { cells := cells, clamp := cs.any fun c => c.2.2.2, blocks := bs
    res := if nan then .nan else rowState a.dv bs }

/-! ### Normalisation and statistics -/

/-- ρ of a row: the correctly rounded reciprocal of l. -/
def rhoOf (l : FV) : Word32 := fdiv (.num false 1 0) l

/-- y before the epilogue chain: materialised through ρ, or streaming by division (08 R221). -/
def RowRes.out (stream : Bool) (dv : Nat) : RowRes → List Word32
  | .empty => List.replicate dv f32zero
  | .nan => List.replicate dv f32nan
  | .row _ l a =>
    if stream then a.map fun x => fdiv x l
    else a.map fun x => rne32 (x.mul (f32v (rhoOf l)))

/-- A row statistics entry (08 R225). -/
def AttnRow.stat (x : AttnRow) : List Byte :=
  let neg : Word32 := 0xFF800000#32
  let c := if x.clamp then 4 else 0
  let w := match x.res with
    | .empty => [neg, f32zero, neg, BitVec.ofNat 32 (1 + c)]
    | .nan => [f32nan, f32nan, f32nan, BitVec.ofNat 32 (2 + c)]
    | .row r l _ =>
      let rw := rne32 (FV.ofInt r)
      let lw := rne32 l
      [rw, lw, fadd rw (builtin 0x04 lw), BitVec.ofNat 32 c]
  w.flatMap fun v => leBytes 4 v.toNat

/-! ### The body -/

structure AttnBody where
  q : Ten
  k : Option Ten
  v : Option Ten
  o : Ten
  st : Option Ten
  mkT : Option Ten
  sc : Option Ten
  pr : Option Ten
  doT : Option Ten
  dq : Option Ten
  dk : Option Ten
  dvT : Option Ten
  seq : Nat
  bwd : Bool
  seqMode : Bool
  causal : Bool
  mkSh : Bool
  dkvAcc : Bool
  pfmt : Nat
  kFmt : Nat
  vFmt : Nat
  gqa : Nat
  kvhs : Nat
  koff : Nat
  voff : Nat
  scale : Word32
  gscale : Word32
  klo : Nat
  khi : Nat
  qpos : Nat
  win : Nat

def Env.attn (e : Env) : AttnBody :=
  { q := e.ten (e.field 271 256), k := e.opt (e.field 287 272), v := e.opt (e.field 303 288), o := e.ten (e.field 319 304)
    st := e.opt (e.field 335 320), mkT := e.opt (e.field 351 336), sc := e.opt (e.field 367 352)
    pr := e.opt (e.field 383 368), doT := e.opt (e.field 399 384), dq := e.opt (e.field 415 400)
    dk := e.opt (e.field 431 416), dvT := e.opt (e.field 447 432), seq := e.field 463 448
    bwd := e.field 465 464 == 1, seqMode := bitb e.d 466, causal := bitb e.d 467, mkSh := bitb e.d 468
    dkvAcc := bitb e.d 469, pfmt := e.field 475 472, kFmt := e.field 479 476, vFmt := e.field 483 480
    gqa := e.field 495 488, kvhs := e.field 511 496, koff := e.field 527 512, voff := e.field 543 528
    scale := BitVec.ofNat 32 (e.field 575 544), gscale := BitVec.ofNat 32 (e.field 607 576), klo := e.field 647 608
    khi := e.field 687 648, qpos := e.field 727 688, win := e.field 767 728 }

/-- The token range of an instance in sequence mode: first token, end, and the token addresses (08 R235). -/
def Env.seqRange (e : Env) (x : AttnBody) (j : Nat × Nat × Nat) : Option (SeqDesc × Nat × Nat × List Nat) :=
  (e.m.seq e.ctx (x.seq + j.2.1)).map fun d =>
    let hi := if x.khi = 0xFFFFFFFFFF then d.len else min x.khi d.len
    (d, x.klo, hi, e.m.tokens e.ctx d)

/-- The keys of an instance that are not padded. -/
def Env.keys (e : Env) (x : AttnBody) (j : Nat × Nat × Nat) : List Key :=
  if x.seqMode then
    match e.seqRange x j with
    | none => []
    | some (_, lo, hi, ts) =>
      let h := j.1 / max x.gqa 1
      let d := x.q.ext 0
      let dv := x.o.ext 0
      ((List.range (hi - lo)).map fun i => lo + i).filterMap fun t =>
        (ts[t]?).map fun a =>
          let ka := a + x.koff + h * x.kvhs
          let va := a + x.voff + h * x.kvhs
          { ix := t, pos := t
            k := rowDecode x.kFmt d (e.m.peek e.ctx ka (rowBytes x.kFmt d))
            v := (rowDecode x.vFmt dv (e.m.peek e.ctx va (rowBytes x.vFmt dv))).vals }
  else
    match x.k, x.v with
    | some k, some v =>
      (List.range (k.ext 1)).map fun i =>
        { ix := i, pos := x.klo + i, k := e.row k (k.base 2 j + i * k.str 1), v := e.rowVals v (v.base 2 j + i * v.str 1) }
    | _, _ => []

/-- First key block and number of key blocks of an instance's range. -/
def Env.keyBlocks (e : Env) (x : AttnBody) (j : Nat × Nat × Nat) : Nat × Nat :=
  if x.seqMode then
    match e.seqRange x j with
    | none => (0, 0)
    | some (_, lo, hi, _) => if hi ≤ lo then (lo / 32, 0) else (lo / 32, (hi - 1) / 32 + 1 - lo / 32)
  else match x.k with
    | some k => (0, ceilDiv (k.ext 1) 32)
    | none => (0, 0)

/-- Whether a key is masked for query row `i` (08 R223). -/
def Env.attnMasked (e : Env) (x : AttnBody) (j : Nat × Nat × Nat) (i : Nat) (k : Key) : Bool :=
  let qp := x.qpos + i
  let bit := match x.mkT with
    | none => false
    | some t =>
      let c := if x.seqMode then k.ix - x.klo else k.ix
      let a := t.base 2 j + (if x.mkSh then 0 else i * t.str 1) + c / 8
      bitb (lget (e.read t a 1) 0 0#8).toNat (c % 8)
  bit || (x.causal && qp < k.pos) || (x.win != 0 && k.pos + x.win ≤ qp)

def AttnBody.fmts (x : AttnBody) : Nat × Nat :=
  if x.seqMode then (x.kFmt, x.vFmt) else ((x.k.elim 0 Ten.fmt), (x.v.elim 0 Ten.fmt))

def Env.attnIn (e : Env) (x : AttnBody) (j : Nat × Nat × Nat) : AttnIn :=
  let f := x.fmts
  let b := e.keyBlocks x j
  { scale := x.scale, pfmt := x.pfmt, ieee := e.h.ieee, w1 := pairWidth x.q.fmt f.1, w2 := pairWidth x.pfmt f.2
    dv := x.o.ext 0, b0 := b.1, nB := b.2 }

/-- Every query row of an instance. -/
def Env.attnRows (e : Env) (x : AttnBody) (j : Nat × Nat × Nat) : List (Nat × AttnRow) :=
  let a := e.attnIn x j
  let ks := e.keys x j
  (List.range (x.q.ext 1)).map fun i =>
    (i, a.row (e.row x.q (x.q.base 2 j + i * x.q.str 1)) (ks.map fun k => (k, e.attnMasked x j i k)))

/-- The scores of a row as SC holds them: −2^100 at masked and padded positions (08 R228), over the row's extent. Tokens at or
beyond LEN are padded (08 R216), so blocks of the range past LEN are written too. -/
def scoreRow (b0 ext : Nat) (r : AttnRow) : List Word32 :=
  (List.range ext).map fun c =>
    match r.cells.find? fun k => k.1.ix == 32 * b0 + c with
    | some k => k.2.1
    | none => maskValue

/-- The probabilities of a row; +0 at masked and padded positions (08 R228). -/
def probRow (b0 ext : Nat) (r : AttnRow) : List Word32 :=
  let rho := match r.res with
    | .row _ l _ => f32v (rhoOf l)
    | _ => .nan
  let ref := match r.res with | .row r _ _ => r | _ => 0
  (List.range ext).map fun c =>
    let ix := 32 * b0 + c
    match r.res, r.cells.find? fun k => k.1.ix == ix with
    | .nan, some k => if k.2.2 then f32zero else f32nan
    | .row .., some k =>
      if k.2.2 then f32zero
      else
        match r.blocks.find? fun b => b.b == ix / 32 with
        | none => f32zero
        | some b =>
          (match b.cells.find? fun k => k.key.ix == ix with
           | some k => rne32 ((k.p.mul (FV.pow2 (b.r - ref))).mul rho)
           | none => f32zero)
    | _, _ => f32zero

/-- SC as pass 1 leaves it. -/
def Env.attnScores (e : Env) (x : AttnBody) (stream : Bool) (j : Nat × Nat × Nat) : List Wr :=
  let b := e.keyBlocks x j
  match x.sc with
  | some t => if stream then [] else (e.attnRows x j).map fun p =>
      e.wr t (t.base 2 j + p.1 * t.str 1) ((scoreRow b.1 (t.ext 0) p.2).flatMap fun w => leBytes 4 w.toNat)
  | none => []

/-- What a forward instance writes after its scores. -/
def Env.attnFwd (e : Env) (x : AttnBody) (stream : Bool) (j : Nat × Nat × Nat) : List Wr × Conv :=
  let b := e.keyBlocks x j
  gatherConv ((e.attnRows x j).map fun p =>
    let r := p.2
    let at_ (t : Ten) : Nat := t.base 2 j + p.1 * t.str 1
    let d := e.drainRow e.epi x.o j p.1 (at_ x.o) (r.res.out stream (x.o.ext 0))
    let st := match x.st with
      | some t => [e.wr t (at_ t) r.stat]
      | none => []
    let pr : List Wr × Conv := match x.pr with
      | some t => if stream then ([], Conv.zero) else
          let w := e.out t (at_ t) ((probRow b.1 (t.ext 0) r).map f32v)
          ([w.1], w.2)
      | none => ([], Conv.zero)
    (d.1 ++ st ++ pr.1, d.2.add pr.2))
where
  gatherConv (l : List (List Wr × Conv)) : List Wr × Conv :=
    (l.flatMap (·.1), l.foldl (fun a r => a.add r.2) Conv.zero)

/-! ### Loads -/

/-- Key and value rows of the instances in sequence mode. -/
def Env.seqLoads (e : Env) (x : AttnBody) : List (Nat × Nat) :=
  if !x.seqMode then []
  else e.h.instances.flatMap fun j =>
    match e.seqRange x j with
    | none => []
    | some (_, lo, hi, ts) =>
      let h := j.1 / max x.gqa 1
      ((List.range (hi - lo)).filterMap fun i => ts[lo + i]?).flatMap fun a =>
        [(a + x.koff + h * x.kvhs, rowBytes x.kFmt (x.q.ext 0)), (a + x.voff + h * x.kvhs, rowBytes x.vFmt (x.o.ext 0))]

def Env.maskLoads (e : Env) (x : AttnBody) : List (Nat × Nat) :=
  match x.mkT with
  | none => []
  | some t => t.loads (e.h.instances.flatMap fun j =>
      if x.mkSh then [(t.base 2 j, t.row)] else (List.range (t.ext 1)).map fun i => (t.base 2 j + i * t.str 1, t.row))

/-- Loads that are made once for each tile of up to 128 rows (08 R229). -/
def perTile (m : Nat) (l : List (Nat × Nat)) : List (Nat × Nat) := (List.range (ceilDiv m 128)).flatMap fun _ => l

/-- Keys and values: on the SAU once for each tile of query rows. -/
def Env.attnLoads (e : Env) (x : AttnBody) (stream : Bool) : List (Nat × Nat) :=
  let kv := (if x.seqMode then [] else optLoads x.k e.h ++ optLoads x.v e.h) ++ e.seqLoads x
  x.q.loads (x.q.foot 2 e.h) ++ (if stream then perTile (x.q.ext 1) kv else kv) ++ e.maskLoads x ++ e.chainLoads e.epi

/-! ### Faults at the start of an op -/

/-- A declaration entry of the op, by kind (15 R405). -/
def Env.decl (e : Env) (kind : Nat) : Option Nat :=
  match e.plan.fixed, e.plan.cores.find? fun c => c.core == e.core with
  | some f, some c =>
    let ix := (e.addr - lget c.entry e.thread 0) / 128
    (f.decls.find? fun d => d.core == e.core && d.thread == e.thread && d.kind == kind && d.index == ix).map (·.value)
  | _, _ => none

def exceeds (v : Nat) (d : Option Nat) : Bool := match d with | some n => n < v | none => false

/-- Pages scanned before the first token's page (08 R235). -/
def Env.npre (e : Env) (x : AttnBody) (j : Nat × Nat × Nat) : Nat :=
  match e.seqRange x j with
  | none => 0
  | some (d, lo, _, _) =>
    let vs := (List.range d.pages).map fun i => match e.m.seqPage e.ctx d i with | some (_, p) => p.vslots | none => 0
    ((List.range d.pages).takeWhile fun i => (vs.take (i + 1)).foldl (· + ·) 0 ≤ lo).length

/-- The rows of the last head do not fit the slot (08 R235). -/
def AttnBody.slotBad (x : AttnBody) (h : OpHdr) (d : SeqDesc) : Bool :=
  let last := (h.loops.1 - 1) / max x.gqa 1
  d.slot < x.koff + last * x.kvhs + rowBytes x.kFmt (x.q.ext 0)
    || d.slot < x.voff + last * x.kvhs + rowBytes x.vFmt (x.o.ext 0)

/-- 0x0182 for a slot that cannot hold the rows (a FREE sequence never defined has slots of 64 bytes), 0x0481 beyond a declared maximum (15 R406). -/
def Env.attnFault (e : Env) (x : AttnBody) : Option OpFault :=
  let js := e.h.instances
  let bad := x.seqMode && js.any fun j => match e.m.seq e.ctx (x.seq + j.2.1) with
    | some d => x.slotBad e.h d
    | none => true
  let range (j : Nat × Nat × Nat) : Nat :=
    if x.seqMode then (match e.seqRange x j with | some (_, lo, hi, _) => hi - lo | none => 0)
    else x.k.elim 0 fun k => k.ext 1
  if bad then some ⟨0x0182, 0, 0, 0⟩
  else if js.any fun j => exceeds (range j) (e.decl 0) || (x.seqMode && exceeds (e.npre x j) (e.decl 1)) then
    some ⟨0x0481, 0, 0, 0⟩
  else none

/-- The body of an op that ends with a fault at its start: nothing is read or written. -/
def Body.faulting (f : OpFault) : Body := { Body.empty with fault := some f }

/-! ### Timing (08 R237) -/

def wTime (w a b c : Nat) : Nat := ceilDiv (a * b) 8 * max (c * 4 * w) 64

def Env.attnCycles (e : Env) (x : AttnBody) (stream : Bool) : Nat :=
  let img := (e.m.core e.core).fset.active
  let mM := x.q.ext 1
  let d := x.q.ext 0
  let dv := x.o.ext 0
  let n := x.k.elim 0 fun k => ceilDiv (k.ext 1) 32
  let i := e.h.count
  let f := x.fmts
  let w1 := pairWidth x.q.fmt f.1
  let w2 := pairWidth x.pfmt f.2
  let nM := ceilDiv mM 64
  let nD := ceilDiv d 32
  let nV := ceilDiv dv 32
  let ce := chainLat img (ceilDiv dv 32) e.epi
  let sq := ceilDiv (mM * 32 * n) 256
  if stream then
    64 + i * ceilDiv mM 128 * (n * max (max (ceilDiv (d * w1) 4) (ceilDiv (dv * w2) 4)) 32 + 96 + ceilDiv (128 * dv) 256) + ce
  else if x.bwd then
    let nJ := ceilDiv (32 * n) 64
    let nQ := ceilDiv mM 32
    let wd := x.doT.elim 0 Ten.fmt
    2 * w1 + 64 + i * (wTime w1 nM n nD + wTime (pairWidth wd f.2) nM n nV + 2 * sq + wTime (pairWidth x.pfmt wd) nJ nV nQ
      + wTime (pairWidth x.pfmt x.q.fmt) nJ nD nQ + wTime (pairWidth x.pfmt f.1) nM nD n + ceilDiv (mM * d) 256)
  else
    2 * w1 + 48 + i * (wTime w1 nM n nD + sq + wTime w2 nM nV n + ceilDiv (mM * dv) 256
      + (if x.pr.isSome then sq else 0)) + ce

def AttnBody.tens (x : AttnBody) : List Ten :=
  [x.q, x.o] ++ x.k.toList ++ x.v.toList ++ x.st.toList ++ x.mkT.toList ++ x.sc.toList ++ x.pr.toList ++ x.doT.toList
    ++ x.dq.toList ++ x.dk.toList ++ x.dvT.toList

def Env.attnTime (e : Env) (x : AttnBody) (stream : Bool) : Nat :=
  if x.seqMode then 0 else cyclesIf (x.tens ++ (e.chainTens e.epi).map (·.2)) (e.attnCycles x stream)

/-! ### Forward ops -/

def Env.attnFwdBody (stream : Bool) (e : Env) : Body :=
  let x := e.attn
  match e.attnFault x with
  | some f => Body.faulting f
  | none =>
    let rs := e.h.instances.map (e.attnFwd x stream)
    { Body.empty with
      loads := e.attnLoads x stream
      early := e.h.instances.flatMap (e.attnScores x stream)
      back := if stream then [] else optLoads x.sc e.h
      wrs := rs.flatMap (·.1), conv := rs.foldl (fun a r => a.add r.2) Conv.zero
      cycles := e.attnTime x stream }

/-- ATTN_MAT in FWD mode. -/
def execAttnMatFwd (core thread : Nat) : State → Host.Outcome State Fault Refusal :=
  onHw fun m => m.startOp core thread (fun e => e.h.opcode == 0x05 && e.field 465 464 == 0) (Env.attnFwdBody false)

/-- ATTN_STREAM. -/
def execAttnStream (core thread : Nat) : State → Host.Outcome State Fault Refusal :=
  onHw fun m => m.startOp core thread (fun e => e.h.opcode == 0x06) (Env.attnFwdBody true)

/-! ### The backward pass (08 R230) -/

/-- A dot product of two rows; where a format has no width class no rule gives its window (log 17). -/
def openDotOf (fa fb : Nat) (ba bb : List Byte) (a b : RowV) : Word32 :=
  if fmtWidth fa = 0 || fmtWidth fb = 0 then Config.openDot fa fb ba bb
  else dotFrom (pairWidth fa fb) (fun _ => false) f32zero a b

/-- A sum over positions in groups of 32, ascending, from a start value; elements carry their own scales. -/
def sumGroups (w : Nat) (start : Word32) (ps : List (Nat × FV)) (nB : Nat) : Word32 :=
  (List.range nB).foldl (fun acc b =>
    match (ps.filter fun p => p.1 / 32 == b).map (·.2) with
    | [] => acc
    | g => accUpdate w acc g (.num false 1 0)) start

/-- p and ds of one query row, in PFMT: key index, p_q and ds_q, and what their conversions count (04 R487). -/
def Env.bwdRow (e : Env) (x : AttnBody) (j : Nat × Nat × Nat) (i : Nat) (r : AttnRow) : List (Nat × FV × FV) × List Note :=
  match x.doT, x.st, x.v with
  | some dt, some st, some vt =>
    let da := dt.base 2 j + i * dt.str 1
    let oa := x.o.base 2 j + i * x.o.str 1
    let doR := e.row dt da
    let di := openDotOf dt.fmt x.o.fmt (e.read dt da dt.row) (e.read x.o oa x.o.row) doR (e.row x.o oa)
    let sv := (e.rowVals st (st.base 2 j + i * st.str 1)).map rne32
    let ri := f32v (lget sv 0 0#32)
    let rho := f32v (fdiv (.num false 1 0) (f32v (lget sv 1 0#32)))
    let refI := match ri with | .num s m e => rneInt s m e | _ => 0
    let empty := match r.res with | .empty => true | _ => false
    let conv (w : Word32) : FV × Note :=
      let r := elemConvert x.pfmt e.h.ieee (f32v w)
      (elemDecode x.pfmt r.1, r.2)
    let cs := r.cells.map fun c =>
      if empty then (c.1.ix, (FV.zero, Note.none), (FV.zero, Note.none))
      else
        let p : Word32 :=
          if c.2.2 then f32zero
          else match r.blocks.find? fun b => b.b == c.1.ix / 32 with
            | none => f32zero
            | some b => (match b.cells.find? fun k => k.key.ix == c.1.ix with
              | some k => if ri.isNan then f32nan else rne32 ((k.p.mul (FV.pow2 (b.r - refI))).mul rho)
              | none => f32zero)
        let va := vt.base 2 j + c.1.ix * vt.str 1
        let dp := openDotOf dt.fmt vt.fmt (e.read dt da dt.row) (e.read vt va vt.row) doR (e.row vt va)
        let ds := fmul (fmul p (fsub dp di)) x.gscale
        (c.1.ix, conv p, conv ds)
    (cs.map fun c => (c.1, c.2.1.1, c.2.2.1), cs.flatMap fun c => [c.2.1.2, c.2.2.2])
  | _, _, _ => ([], [])

def Env.attnBwd (e : Env) (x : AttnBody) (j : Nat × Nat × Nat) : List Wr × Conv :=
  match x.k, x.v, x.doT, x.dq, x.dk, x.dvT with
  | some kt, some _, some dt, some dqT, some dkT, some dvT =>
    let full := (e.attnRows x j).map fun p => (p.1, e.bwdRow x j p.1 p.2, p.2)
    let rows := full.map fun p => (p.1, p.2.1.1, p.2.2)
    let mM := x.q.ext 1
    let nK := kt.ext 1
    let ent (i ix : Nat) : FV × FV := match rows.find? fun r => r.1 == i with
      | some r => (match r.2.1.find? fun c => c.1 == ix with | some c => c.2 | none => (FV.zero, FV.zero))
      | none => (FV.zero, FV.zero)
    -- an empty row contributes nothing to dK and dV, and its dQ row is +0 (08 R224)
    let live := rows.filter fun r => match r.2.2.res with | .empty => false | _ => true
    let doV := live.map fun r => (r.1, e.rowVals dt (dt.base 2 j + r.1 * dt.str 1))
    let qV := live.map fun r => (r.1, e.rowVals x.q (x.q.base 2 j + r.1 * x.q.str 1))
    -- FP32 targets convert under OVF too (04 R119, R120)
    let col (w : Nat) (t : Ten) (pick : FV × FV → FV) (vals : List (Nat × List FV)) (ix : Nat) : Wr × Conv :=
      let a := t.base 2 j + ix * t.str 1
      let start := if x.dkvAcc then (e.rowVals t a).map rne32 else List.replicate (t.ext 0) f32zero
      let ys := (List.zip (List.range (t.ext 0)) start).map fun n =>
        sumGroups w n.2 (vals.map fun v => (v.1, (pick (ent v.1 ix)).mul (lget v.2 n.1 FV.zero))) (ceilDiv mM 32)
      e.out t a (ys.map f32v)
    let dvs := (List.range nK).map (col (pairWidth x.pfmt dt.fmt) dvT (·.1) doV)
    let dks := (List.range nK).map (col (pairWidth x.pfmt x.q.fmt) dkT (·.2) qV)
    let kV := (List.range nK).map fun ix => (ix, e.rowVals kt (kt.base 2 j + ix * kt.str 1))
    let dqs := (List.range mM).map fun i =>
      let ys := (List.range (dqT.ext 0)).map fun n => if (live.all fun r => r.1 != i) then f32zero else
        sumGroups (pairWidth x.pfmt kt.fmt) f32zero (kV.map fun v => (v.1, (ent i v.1).2.mul (lget v.2 n FV.zero)))
          (ceilDiv nK 32)
      e.out dqT (dqT.base 2 j + i * dqT.str 1) (ys.map f32v)
    let all := dvs ++ dks ++ dqs
    (all.map (·.1), all.foldl (fun a r => a.add r.2) (Conv.ofNotes (full.flatMap (·.2.1.2))))
  | _, _, _, _, _, _ => ([], Conv.zero)

/-- A backward pass. An epilogue chain, which 05 R127 accepts, acts on nothing: 08 R230 gives it no place (DESIGN CHOICE, log 17);
its operands are loaded. -/
def Env.attnBwdBody (e : Env) : Body :=
  let x := e.attn
  match e.attnFault x with
  | some f => Body.faulting f
  | none =>
    let rs := e.h.instances.map (e.attnBwd x)
    { Body.empty with
      loads := e.attnLoads x false ++ x.o.loads (x.o.foot 2 e.h) ++ optLoads x.st e.h ++ optLoads x.doT e.h
        ++ (if x.dkvAcc then optLoads x.dk e.h ++ optLoads x.dvT e.h else [])
      wrs := rs.flatMap (·.1), conv := rs.foldl (fun a r => a.add r.2) Conv.zero
      cycles := e.attnTime x false }

/-- ATTN_MAT in BWD mode. -/
def execAttnMatBwd (core thread : Nat) : State → Host.Outcome State Fault Refusal :=
  onHw fun m => m.startOp core thread (fun e => e.h.opcode == 0x05 && e.field 465 464 == 1) Env.attnBwdBody

/-! ### CHAIN_PRODUCT -/

/-- Y of one instance in ELEM mode: two products with MID_CHAIN between (08 R233). -/
def Env.chainElem (e : Env) (x a b y : Ten) (mid : List Stage) (hf : Nat) (j : Nat × Nat × Nat) : List Wr × Conv :=
  let colsA := e.weightCols a false (a.base 2 j)
  let colsB := e.weightCols b true (b.base 2 j)
  let rs := (List.range (x.ext 1)).map fun i =>
    let r := e.row x (x.base 2 j + i * x.str 1)
    let h := colsA.map fun c => dotFrom (pairWidth x.fmt a.fmt) (fun _ => false) f32zero r c
    let hs := e.runChain mid j i (h.map cellOf)
    let en := rowEncode hf e.h.ieee (hs.map fun c => f32v c.v)
    let hr := rowDecode hf hs.length en.1
    let ys := colsB.map fun c => dotFrom (pairWidth hf b.fmt) (fun _ => false) f32zero hr c
    let d := e.drainRow e.epi y j i (y.base 2 j + i * y.str 1) ys
    (d.1, d.2.add (Conv.ofNotes (cellNotes hs en.2)))
  (rs.flatMap (·.1), rs.foldl (fun a r => a.add r.2) Conv.zero)

/-- The attention body that SOFTMAX mode stands for: tensor mode, no mask (08 R233). -/
def Env.chainSoftmax (e : Env) (x a b y : Ten) (st : Option Ten) (hf : Nat) : AttnBody :=
  { e.attn with
    q := x, k := some a, v := some b, o := y, st := st, mkT := none, sc := none, pr := none, doT := none, dq := none
    dk := none, dvT := none, seq := 0xFFFF, bwd := false, seqMode := false, causal := false, mkSh := false
    dkvAcc := false, pfmt := hf, scale := BitVec.ofNat 32 (e.field 415 384), klo := 0, khi := 0xFFFFFFFFFF, qpos := 0
    win := 0 }

def Env.chainBody (e : Env) : Body :=
  let x := e.ten (e.field 271 256)
  let a := e.ten (e.field 287 272)
  let b := e.ten (e.field 303 288)
  let y := e.ten (e.field 319 304)
  let st := e.opt (e.field 335 320)
  let mid := e.chain (e.field 351 336)
  let soft := e.field 353 352 == 1
  let hf := e.field 357 354
  let img := (e.m.core e.core).fset.active
  if exceeds (a.ext 1) (e.decl 0) then Body.faulting ⟨0x0481, 0, 0, 0⟩
  else
    let s := e.chainSoftmax x a b y st hf
    let rs := e.h.instances.map fun j => if soft then e.attnFwd s true j else e.chainElem x a b y mid hf j
    let n2 := y.ext 0
    let mu := if mid.isEmpty then 0 else atRate 4096 (chainRate img 256 mid)
    let w1 := pairWidth x.fmt a.fmt
    let w2 := pairWidth hf b.fmt
    let cyc := 64 + e.h.count * ceilDiv (x.ext 1) 128 * (ceilDiv (a.ext 1) 32 *
      max (max (max (ceilDiv (x.ext 0 * w1) 4) (ceilDiv (n2 * w2) 4)) 32) mu + 96 + ceilDiv (128 * n2) 256)
      + chainLat img (ceilDiv n2 32) e.epi
    { Body.empty with
      loads := x.loads (x.foot 2 e.h) ++ perTile (x.ext 1) (a.loads (a.foot 2 e.h) ++ b.loads (b.foot 2 e.h)) ++ e.chainLoads mid
        ++ e.chainLoads e.epi
      wrs := rs.flatMap (·.1), conv := rs.foldl (fun a r => a.add r.2) Conv.zero
      cycles := cyclesIf ([x, a, b, y] ++ st.toList ++ (e.chainTens mid ++ e.chainTens e.epi).map (·.2)) cyc }

/-- CHAIN_PRODUCT. -/
def execChainProduct (core thread : Nat) : State → Host.Outcome State Fault Refusal :=
  onHw fun m => m.startOp core thread (fun e => e.h.opcode == 0x07) Env.chainBody

end Sys2Proof.Machine
end

