-- ==== Sys2Proof/Machine/ErrorCode.lean ====
section
/-! DEFINITION. The error code of both memory tiers: RS(36,32) over GF(2^16), its check symbols, syndromes and decoder
(06 R164, R165), and the pattern of a poison mark (06 R177). -/

namespace Sys2Proof.Machine

abbrev Sym := BitVec 16

/-! ### The field GF(2^16) with x^16 + x^12 + x^3 + x + 1 -/

/-- Multiplication by α, a root of the field polynomial. -/
def gfDouble (a : Sym) : Sym := if a.msb then (a <<< 1) ^^^ 0x100B#16 else a <<< 1

/-- Product: Horner's rule over the bits of `b`, most significant first. -/
def gfMul (a b : Sym) : Sym :=
  (List.range 16).foldl (fun r i => gfDouble r ^^^ (if b.getLsbD (15 - i) then a else 0#16)) 0#16

/-- Inverse of a non-zero element: a^(2^16 − 2). -/
def gfInv (a : Sym) : Sym := ((List.range 15).foldl (fun (p : Sym × Sym) _ =>
  let s := gfMul p.1 p.1
  (s, gfMul p.2 s)) (a, 1#16)).2

/-- α^n. -/
def alphaPow (n : Nat) : Sym := (List.range n).foldl (fun r _ => gfDouble r) 1#16

/-! ### Encoding -/

/-- (x − 1)(x − α)(x − α²)(x − α³) without its leading 1: coefficients of x³ to x⁰. -/
def genPoly : List Sym :=
  ((List.range 4).foldl (fun (g : List Sym) i =>
    List.zipWith (· ^^^ ·) (g ++ [0#16]) (0#16 :: g.map (gfMul (alphaPow i)))) [1#16]).drop 1

/-- The four check symbols of 32 data symbols: the remainder of data × x⁴. Symbol 0 is the coefficient of x^35
(DESIGN CHOICE, log 48: R164 does not say at which end the code starts). -/
def checkSyms (data : List Sym) : List Sym :=
  data.foldl (fun (r : List Sym) d =>
    let f := d ^^^ r.headD 0#16
    List.zipWith (· ^^^ ·) (r.drop 1 ++ [0#16]) (genPoly.map (gfMul f))) [0#16, 0#16, 0#16, 0#16]

/-- Data symbol i is the little-endian value of bytes 2i and 2i + 1. -/
def dataSyms (bs : List Byte) : List Sym := (List.range 32).map fun i => BitVec.ofNat 16 (leNat ((bs.drop (2 * i)).take 2))

/-- The 36 symbols of 64 data bytes. -/
def codeword (bs : List Byte) : List Sym := dataSyms bs ++ checkSyms (dataSyms bs)

/-! ### Decoding -/

/-- Syndrome j: the word as a polynomial at α^j. -/
def syndrome (w : List Sym) (j : Nat) : Sym :=
  let a := alphaPow j
  w.foldl (fun r d => gfMul r a ^^^ d) 0#16

/-- The four syndromes of a word, or of an error: the code is linear. -/
def syndromes (w : List Sym) : List Sym := (List.range 4).map (syndrome w)

/-- Syndromes of an error: symbols, and what is added to each. -/
def errSyndromes (es : List (Nat × Sym)) : List Sym :=
  (List.range 4).map fun j =>
    es.foldl (fun r e => if e.1 < 36 then r ^^^ gfMul e.2 (alphaPow (j * (35 - e.1))) else r) 0#16

/-- The 64-bit syndrome as a fault record carries it, syndrome 0 lowest. -/
def packSynd (s : List Sym) : Nat := s.foldr (fun x n => x.toNat + 65536 * n) 0

/-- An error of one symbol with these syndromes. -/
def oneError (s : List Sym) : Option (List (Nat × Sym)) :=
  let s0 := s.headD 0#16
  if s0 = 0#16 then none
  else ((List.range 36).find? fun i => errSyndromes [(i, s0)] == s).map fun i => [(i, s0)]

/-- An error of two symbols with these syndromes: S0 = a + b and S1 = aX + bY for its places X and Y. -/
def twoErrors (s : List Sym) : Option (List (Nat × Sym)) :=
  let s0 := s.headD 0#16
  let s1 := (s.drop 1).headD 0#16
  ((List.range 36).flatMap fun i => (List.range i).map fun j => (i, j)).findSome? fun p =>
    let x := alphaPow (35 - p.1)
    let y := alphaPow (35 - p.2)
    let a := gfMul (s1 ^^^ gfMul s0 y) (gfInv (x ^^^ y))
    let e := [(p.1, a), (p.2, a ^^^ s0)]
    if errSyndromes e == s then some e else none

/-- The error of at most two symbols with these syndromes, if there is one (06 R165). -/
def decodeError (s : List Sym) : Option (List (Nat × Sym)) :=
  if s.all (· == 0#16) then some [] else oneError s <|> twoErrors s

/-- What the decoder reports for a codeword. -/
inductive Decoded where
  | good
  | corrected
  | uncorrectable (synd : Nat)
  deriving DecidableEq, Repr

/-- What is still added to a word's symbols when the decoder has done its work: nothing, but for an uncorrectable error and for
one of three or more symbols that looks like one of two (06 R165). -/
def residual (marked : Bool) (es : List (Nat × Sym)) : List (Nat × Sym) :=
  if marked || es.isEmpty then es
  else match decodeError (errSyndromes es) with
    | some c => es ++ c
    | none => es

/-- What an error of symbols adds to data byte `i` of its word. -/
def errByte (es : List (Nat × Sym)) (i : Nat) : Byte :=
  es.foldl (fun b e => if e.1 = i / 2 then b ^^^ BitVec.ofNat 8 (e.2.toNat / 256 ^ (i % 2)) else b) 0#8

/-- A word that carries no mark, read with an error. An error of three or more symbols that looks like one of two is
miscorrected: it counts as corrected, and its data come back altered. -/
def decodeWord (es : List (Nat × Sym)) : Decoded :=
  let s := errSyndromes es
  match decodeError s with
  | some [] => .good
  | some _ => .corrected
  | none => .uncorrectable (packSynd s)

/-- Added to the four check symbols of a marked word: the free pattern of the hardware where no error of one or two symbols
has its syndrome, else one such pattern (06 R177; log 48). -/
def markPattern : List (Nat × Sym) :=
  let p := (List.range 4).map fun i => (32 + i, Config.markSym i)
  if (decodeError (errSyndromes p)).isNone then p else [(32, 1#16), (33, 1#16), (34, 1#16)]

/-- A marked word's syndrome; a later error adds its own, and the word is uncorrectable whatever their sum. -/
def markedSynd (es : List (Nat × Sym)) : Nat := packSynd (errSyndromes (markPattern ++ es))

/-- The check symbols that a word stores. -/
def storedCheck (bs : List Byte) (marked : Bool) : List Sym :=
  let c := checkSyms (dataSyms bs)
  if marked then List.zipWith (· ^^^ ·) c (markPattern.map (·.2) ++ [0#16]) else c

end Sys2Proof.Machine
end

