-- ==== Sys2Proof/Machine/ReadCode.lean ====
section
/-! DEFINITION. Reads through the error code: what each word of an access reads as, the counters of corrections, and the
fault of a word that is uncorrectable or marked (06 R165 to R167, R176, R177). -/

namespace Sys2Proof.Machine

/-- A codeword of key `k` read with a correction. The event marks the count that reaches the threshold, so a threshold that
SCRUB_CFG lowers to a bank's present count or below posts nothing for it in that period (DESIGN CHOICE, log 54). -/
def Hw.corrected (m : Hw) (k : Nat) : Hw :=
  let m := m.count 7 (m.chanOf k) 0 1
  let p := m.placeOf k
  let period := m.now / (m.mem.scrubHours * 3600 * 10 ^ 9)
  let b := packFields [(6, p.2.2.1), (5, p.2.1), (4, p.1), (3, k / 2 ^ 44)] + 2 ^ 18 * period
  let n := mgetD m.mem.bankCorr b 0 + 1
  let m := { m with mem := { m.mem with bankCorr := mset m.mem.bankCorr b n } }
  if n = m.mem.scrubThresh then m.event 0x0288 none (m.bankPayload k) else m

/-- How one word of an access reads: as the decoder reports it, or with a poison mark alone. -/
inductive WordRead where
  | plain (d : Decoded)
  | marked (synd : Nat)
  deriving DecidableEq, Repr

/-- The errors of a codeword of a granule. -/
def wordErrs (rb : ReadBack) (i : Nat) : List (Nat × BitVec 16) := (rb.words.filter fun w => w.word == i).flatMap (·.errs)

/-- A word at key `k` read with an error: a marked word shows the mark's syndrome, and with a later error is uncorrectable
(06 R177). -/
def MemSys.readWord (s : MemSys) (k : Nat) (es : List (Nat × BitVec 16)) : WordRead :=
  if s.poisoned k 1 then
    (if (errSyndromes es).all (· == 0#16) then .marked (markedSynd []) else .plain (.uncorrectable (markedSynd es)))
  else .plain (decodeWord es)

/-- The words of an access and how each reads. -/
def MemSys.readWords (s : MemSys) (k n : Nat) (rb : ReadBack) : List (Nat × WordRead) :=
  (wordsIn k n (sectorsOf (rdN s.ram (k - k % 2048) 2048))).map fun w => (w.1, s.readWord w.1 (wordErrs rb w.2))

/-- The words that a store reads: those of the units it covers in part (06 R169, R177). -/
def MemSys.mergeWords (s : MemSys) (k n : Nat) (rb : ReadBack) : List (Nat × WordRead) :=
  (s.readWords k n rb).filter fun w => !(k ≤ markOf w.1 && markOf w.1 + markSize k ≤ k + n)

def WordRead.uncorrectable : WordRead → Bool
  | .plain (.uncorrectable _) => true
  | _ => false

/-- The frame of a slow-tier granule as its codewords come out of the decoder, decompressed. -/
def unpackFrame (g : List Byte) (left : Nat → List (Nat × Sym)) : List Byte :=
  let f := frameOf g
  let d := (List.zip (List.range f.length) f).map fun p => p.2 ^^^ errByte (left (p.1 / 64)) (p.1 % 64)
  if d = f then g else if 16 ≤ sectorsOf g then d else fit 2048 (Config.unframe d)

/-- The `n` bytes that a read at `k` within a granule returns: those stored, altered where the decoder left an error. -/
def MemSys.asRead (s : MemSys) (k n : Nat) (rb : ReadBack) : List Byte :=
  if rb.words.isEmpty then rdN s.ram k n
  else
    let g := k - k % 2048
    let left (w : Nat) : List (Nat × Sym) := residual (s.poisoned (g + 64 * w) 1) (wordErrs rb w)
    if keyTier k = 0 then
      (List.zip (List.range n) (rdN s.ram k n)).map fun p => p.2 ^^^ errByte (left ((k % 2048 + p.1) / 64)) ((k + p.1) % 64)
    else ((unpackFrame (rdN s.ram g 2048) left).drop (k - g)).take n

/-- A store within a granule: units it covers whole lose their mark; one it covers in part is read and written back, and is
marked if it was or if it is uncorrectable (06 R169, R177). -/
def MemSys.storeAt (s : MemSys) (k : Nat) (bs : List Byte) (rb : ReadBack) : MemSys :=
  let lost := ((s.mergeWords k bs.length rb).filter fun w => w.2.uncorrectable).map fun w => markOf w.1
  let s := if rb.words.isEmpty then s
    else { s with ram := (marksIn k bs.length).foldl (fun r w => wrN r w (s.asRead w (markSize k) rb)) s.ram }
  lost.foldl (fun s w => s.poison w 1) (s.store k bs)

/-- A word, or in the slow tier the granule it helps to carry, written back as it was read. -/
def MemSys.rewrite (s : MemSys) (k : Nat) (rb : ReadBack) : MemSys :=
  if rb.words.isEmpty then s else { s with ram := wrN s.ram (markOf k) (s.asRead (markOf k) (markSize k) rb) }

/-- What the decoder reports for words that are read: every corrected codeword counts (06 R167). -/
def Hw.tally (m : Hw) (ws : List (Nat × WordRead)) : Hw :=
  ws.foldl (fun (m : Hw) w => match w.2 with
    | .plain .corrected => m.corrected w.1
    | .plain (.uncorrectable _) => (m.count 7 (m.chanOf w.1) 1 1).dirty
    | _ => m) m

/-- The words of a load at a place go through the decoder. -/
def Hw.decoded (m : Hw) (l : Loc) (n : Nat) (rb : ReadBack) : Hw :=
  match l with
  | .ram k => m.tally (m.mem.readWords k n rb)
  | _ => m

/-- The bytes that a load at a place returns. -/
def Hw.readAt (m : Hw) (l : Loc) (n : Nat) (rb : ReadBack) : List Byte :=
  match l with
  | .ram k => m.mem.asRead k n rb
  | l => m.readLoc l n

/-- The fault with which a read of `n` bytes at a place ends, and its syndrome: the first word that is uncorrectable or
marked (06 R176); a poisoned completion from host memory reads as a marked word (log 16). -/
def Hw.readFault (m : Hw) (l : Loc) (n : Nat) (rb : ReadBack) : Option (Nat × Nat) :=
  match l with
  | .ram k => (m.mem.readWords k n rb).findSome? fun w => match w.2 with
      | .plain (.uncorrectable s) => some (0x0280, s)
      | .marked s => some (0x0282, s)
      | _ => none
  | .host _ => if rb.words.isEmpty then none else some (0x0282, 0)
  | .quay _ => none

/-- A store within a granule lands at its place; the words it covers in part go through the decoder. -/
def Hw.landAt (m : Hw) (l : Loc) (bs : List Byte) (rb : ReadBack) : Hw :=
  match l with
  | .ram k =>
    let m := m.tally (m.mem.mergeWords k bs.length rb)
    { m with mem := m.mem.storeAt k bs rb }
  | l => m.putLoc l bs

/-- What a store of `n` bytes that ends late leaves: marks, or undefined bytes of host memory (06 R177). -/
def Hw.lateStore (m : Hw) (l : Loc) (n : Nat) : Hw :=
  match l with
  | .ram k => { m with mem := m.mem.poison k n }
  | .host a =>
    { m with mem := { m.mem with
        host := hostWrN m.mem.host a ((List.range n).map fun i => Config.lateHostByte m.mem.free (a + i))
        free := m.mem.free + 1 } }
  | .quay _ => m

/-- A request of source `src` that ended late may still be answered (06 R175). -/
def Hw.lateNote (m : Hw) (src no : Nat) (l : Loc) : Hw :=
  { m with late := m.late ++ [(src, no, match l with | .ram k => some (m.chanOf k) | _ => none)] }

/-- A page that only an append writes, through whichever mapping it is reached: one of a sequence range, and the sequence
table's own (07 R187, R201, R203). -/
def Hw.seqPdi (m : Hw) (ctx pdi : Nat) : Bool :=
  match mget m.ctxs ctx with
  | some x => x.leaves.any fun l => l.pdi == pdi && x.guarded l
  | none => false

/-! ### Requests of the hub's own engines -/

/-- The hub makes requests that end as listed. -/
def Hw.withEnds (m : Hw) (ends : List ReadEnd) (f : Hw → Hw) : Hw :=
  let m := f { m with mem := { m.mem with ends := ends } }
  { m with mem := { m.mem with ends := [] } }

/-- How the hub's next request ends; one that the command says nothing of is answered without an error. -/
def Hw.takeEnd (m : Hw) : ReadEnd × Hw :=
  match m.mem.ends with
  | [] => (.answered ⟨[]⟩, m)
  | e :: r => (e, { m with mem := { m.mem with ends := r } })

/-- A request of the hub ended late; its number is a fresh one. -/
def Hw.hubLate (m : Hw) (l : Loc) : Hw :=
  let n := m.mem.free
  { m with mem := { m.mem with free := n + 1 } }.lateNote 256 n l

/-- Whether a late end came about between two states. -/
def Hw.newLate (a b : Hw) : Bool := decide (a.late.length < b.late.length)

/-- One store of the hub, within a granule: nothing is stored through a read-only mapping, nor to a sequence page (07 R203);
what is made of a poisoned source is marked. -/
def Hw.hubStore (m : Hw) (c va : Nat) (bs : List Byte) (bad : Bool) : Hw :=
  match m.locOf c va with
  | some (l, p, some loc) =>
    if l.ro || m.seqPdi c l.pdi then m
    else
      let (e, m) := (m.hostFill p (va - l.va)).takeEnd
      let old := m.mem.ram
      let m := match e with
        | .answered rb => m.landAt loc bs rb
        | .late => (m.lateStore loc bs.length).hubLate loc
      let m := match loc with
        | .ram k => if bad then { m with mem := m.mem.poison k bs.length } else m
        | _ => m
      m.account c 256 loc bs.length true old
  | _ => m

/-- A store of the hub, granule by granule. -/
def Hw.hubWrite (m : Hw) (c va : Nat) (bs : List Byte) (bad : Bool) : Hw :=
  ((pieces va bs.length).foldl (fun (a : Hw × List Byte) p => (a.1.hubStore c p.1 (a.2.take p.2) bad, a.2.drop p.2))
    (m, bs)).1

/-- What a load of the hub returns for part of a granule, and whether each 64-byte word of it ended poisoned (06 R176). -/
structure HubData where
  bytes : List Byte
  words : List Bool
  deriving DecidableEq, Repr

/-- A load of it ended poisoned. -/
def HubData.bad (d : HubData) : Bool := d.words.any id

/-- The 64-byte words of [va, va + n). -/
def wordSpans (va n : Nat) : List (Nat × Nat) :=
  if n = 0 then []
  else (List.range ((va + n - 1) / 64 + 1 - va / 64)).map fun i =>
    let a := max va ((va / 64 + i) * 64)
    (a, min (va + n) ((va / 64 + i + 1) * 64) - a)

/-- One load of the hub, within a granule. A late one returns nothing: its bytes are free. -/
def Hw.hubLoad (m : Hw) (c va n : Nat) : HubData × Hw :=
  match m.locOf c va with
  | some (l, p, some loc) =>
    let (e, m) := (m.hostFill p (va - l.va)).takeEnd
    match e with
    | .answered rb =>
      (⟨m.readAt loc n rb, (wordSpans va n).map fun w => match m.locOf c w.1 with
          | some (_, _, some loc) => (m.readFault loc w.2 rb).isSome
          | _ => false⟩,
       (m.decoded loc n rb).account c 256 loc n false m.mem.ram)
    | .late =>
      (⟨(List.range n).map fun i => Config.lateHostByte m.mem.free i, (wordSpans va n).map fun _ => true⟩, m.hubLate loc)
  | _ => (⟨zeros n, (wordSpans va n).map fun _ => false⟩, m)

/-- A load of the hub, granule by granule. -/
def Hw.hubRead (m : Hw) (c va n : Nat) : HubData × Hw :=
  (pieces va n).foldl (fun a p =>
    let (d, m) := a.2.hubLoad c p.1 p.2
    (⟨a.1.bytes ++ d.bytes, a.1.words ++ d.words⟩, m)) (⟨[], []⟩, m)

end Sys2Proof.Machine
end

