-- ==== Sys2Proof/Machine/Migrate.lean ====
section
/-! DEFINITION. Migration of pages (06 R170 to R173, R180): the queue and the page slots of each destination quarter's
engine, the move of one granule, a late step, and the end. -/

namespace Sys2Proof.Machine

def Hw.engine (m : Hw) (q : Nat) : MigEngine := lget m.engines q ⟨[], []⟩

def Hw.setEngine (m : Hw) (q : Nat) (e : MigEngine) : Hw := { m with engines := lset m.engines q e }

def Hw.updPd (m : Hw) (c pdi : Nat) (f : PageDesc → PageDesc) : Hw :=
  m.updCtx c fun x => match mget x.pds pdi with
    | none => x
    | some p => { x with pds := mset x.pds pdi (f p) }

/-- Bytes of a context on their way into a tier, queued or moving. -/
def Hw.inbound (m : Hw) (c tier : Nat) : Nat :=
  match mget m.ctxs c with
  | none => 0
  | some x =>
    let sz (pdi : Nat) : Nat := match mget x.pds pdi with
      | some p => if p.home == tier then 0 else pageBytes p.size
      | none => 0
    m.engines.foldl (fun a e =>
      a + (e.queue.filter fun r => r.ctx == c && r.home % 2 == tier).foldl (fun a r => a + sz r.pdi) 0
        + (e.slots.filter fun g => g.2.ctx == c && g.2.toHome % 2 == tier).foldl (fun a g => a + sz g.2.pdi) 0) 0

/-- A page of `n` more bytes in a tier stays within the context's limit, moves under way counted (15 R388). -/
def Hw.limitOk (m : Hw) (c tier n : Nat) : Bool :=
  match mget m.ctxs c with
  | none => false
  | some x => x.within tier (m.inbound c tier + n)

/-- Takes the front request of an engine's queue into a free page slot when the destination has frames for it. -/
def Hw.fillSlot (m : Hw) (q : Nat) : Hw :=
  let e := m.engine q
  match e.queue, chooseKey e.slots 0 16 with
  | r :: rest, some k =>
    (match (mget m.ctxs r.ctx).bind fun x => mget x.pds r.pdi with
     | none => m.setEngine q { e with queue := rest }
     | some p =>
       let n := pageBytes p.size / 65536
       match m.allocRun q (r.home % 2) n 0 with
       | none => m
       | some f =>
         m.setEngine q
           { slots := mset e.slots k
               { ctx := r.ctx, pdi := r.pdi, fromHome := 2 * p.homeQ + p.home, fromFrame := p.addr, toHome := r.home
                 toFrame := f, granules := 32 * n, done := 0, lates := 0, since := m.now, back := false, deferred := r.deferred }
             queue := rest })
  | _, _ => m

def Hw.fillSlotsN : Nat → Hw → Nat → Hw
  | 0, m, _ => m
  | n + 1, m, q => Hw.fillSlotsN n (m.fillSlot q) q

/-- Queues a request at the destination's engine and sets MIG; none when the queue is full. -/
def Hw.requestMove (m : Hw) (c pdi home : Nat) (deferred : Option Nat) : Option Hw :=
  let q := home / 2
  let e := m.engine q
  if 1024 ≤ e.queue.length then none
  else
    let m := m.setEngine q { e with queue := e.queue ++ [⟨c, pdi, home, deferred⟩] }
    some ((m.updPd c pdi fun p => { p with mig := true }).fillSlot q)

/-! ### PREFETCH requests that wait for queue space (07 R200) -/

/-- A page that PREFETCH skips when it asks for a move (07 R200, 15 R388). -/
def Hw.moveSkip (m : Hw) (c pdi home : Nat) : Bool :=
  match (mget m.ctxs c).bind fun x => mget x.pds pdi with
  | none => true
  | some p => p.moored || p.nopf || p.ret || p.mig || 2 ≤ p.home || 2 * p.homeQ + p.home == home
      || (p.home != home % 2 && !m.limitOk c (home % 2) (pageBytes p.size))

/-- Queues the pages of a list while there is space; answers the pages queued and those still waiting. -/
def Hw.queuePages (core : Nat) : List Nat → Hw → Nat → Nat → List Nat → Hw × List Nat × List Nat
  | [], m, _, _, acc => (m, acc, [])
  | p :: t, m, c, home, acc =>
    if m.moveSkip c p home then Hw.queuePages core t (m.countCore core cPFSKIP 1) c home acc
    else match m.requestMove c p home none with
      | some m => Hw.queuePages core t m c home (acc ++ [p])
      | none => (m, acc, p :: t)

/-- Waiting PREFETCH requests of one op go on. -/
def Hw.pumpOp (m : Hw) (core : Nat) (o : OpRec) : Hw :=
  match o.cond, (m.core core).ctx with
  | .pages left waiting home, some c =>
    let r := Hw.queuePages core waiting m c home []
    r.1.updCore core fun k => { k with ops := k.ops.map fun p =>
      if p.no == o.no then { p with cond := .pages (left ++ r.2.1) r.2.2 home } else p }
  | _, _ => m

/-- A MIGRATE asks for its pages while there is space: a page that cannot move is skipped (14 R376). -/
def Hw.askPages : List Nat → Hw → Deferred → Hw
  | [], m, d => m.putDeferred { d with todo := [] }
  | p :: t, m, d =>
    let c := d.ctx.getD 0
    let skip := match (mget m.ctxs c).bind fun x => mget x.pds p with
      | none => true
      | some g => g.moored || g.ret || g.mig || 2 ≤ g.home || 2 * g.homeQ + g.home == d.obj
    if skip then Hw.askPages t m { d with skipped := d.skipped + 1 }
    else match m.requestMove c p d.obj (some d.id) with
      | some m => Hw.askPages t m { d with left := d.left + 1 }
      | none => m.putDeferred { d with todo := p :: t }

/-- Waiting MIGRATE commands go on. -/
def Hw.pumpMigrates (m : Hw) : Hw :=
  (m.espor.deferred.filter fun d => d.cmd == 0x0204 && !d.todo.isEmpty).foldl (fun (m : Hw) d => Hw.askPages d.todo m d) m

/-- Every waiting PREFETCH and MIGRATE of the module goes on, cores in ascending order. -/
def Hw.pump (m : Hw) : Hw :=
  let m := m.pumpMigrates
  (m.cores.flatMap fun k => k.2.ops.map fun o => (k.1, o)).foldl (fun m p => m.pumpOp p.1 p.2) m

/-! ### Retirement of a frame under a page (06 R179) -/

/-- The page over a frame that waits for retirement has RET set, and is asked to move within its tier and quarter. -/
def Hw.askRetire (m : Hw) (d : Deferred) : Hw :=
  let q := d.obj / 2 ^ 33
  let t := d.obj / 2 ^ 32 % 2
  let f := d.obj % 2 ^ 32
  let covers (p : PageDesc) : Bool :=
    p.home == t && p.homeQ == q && p.addr ≤ f && decide (f < p.addr + pageBytes p.size / 65536)
  (m.ctxs.flatMap fun c => (c.2.pds.filter fun p => covers p.2).map fun p => (c.1, p.1, p.2.mig)).foldl
    (fun (m : Hw) w =>
      let m := m.updPd w.1 w.2.1 fun p => { p with ret := true }
      if w.2.2 then m else (m.requestMove w.1 w.2.1 (2 * q + t) none).getD m) m

def Hw.askRetires (m : Hw) : Hw := (m.espor.deferred.filter fun d => d.cmd == 0x0205).foldl Hw.askRetire m

/-! ### The move -/

/-- Granule `i` of a page at a home, as a key. -/
def granKey (home frame i : Nat) : Nat := home * 2 ^ 44 + frame * 65536 + i * 2048

/-- Copies one granule with its poison marks, those of words that the read found uncorrectable among them; a slow-tier
granule has one mark for all of it (06 R171, R177). -/
def MemSys.copyGranule (s : MemSys) (a b : Nat) (rb : ReadBack) : MemSys :=
  let bs := s.asRead a 2048 rb
  let lost := ((s.readWords a 2048 rb).filter fun w => w.2.uncorrectable).map fun w => markOf w.1
  let bad := (marksIn a 2048).filter fun w => s.marks.contains w || lost.contains w
  let s := s.store b bs
  bad.foldl (fun s w => s.poison (b + (w - a)) (markSize a)) s

/-- Requests that waited at the lock of granule `i` of a page: their bound runs from its release (06 R170). -/
def Hw.unlock (m : Hw) (c pdi i : Nat) : Hw :=
  let hit (r : Req) : Bool := r.issued.isSome && (match m.locOf c r.va with
    | some (l, _, _) => l.pdi == pdi && (r.va - l.va) / 2048 == i
    | none => false)
  { m with cores := m.cores.map fun k =>
      if k.2.ctx == some c then
        (k.1, { k.2 with reqs := k.2.reqs.map fun r => if hit r then { r with issued := some m.now } else r })
      else k }

/-- One granule of a migration goes from one home to the other: read, written, switched; between quarters its 2,048 bytes
cross their link (01 R20, 06 R161). -/
def Hw.moveOne (m : Hw) (g : Mig) (i : Nat) (fwd : Bool) (rb : ReadBack) : Hw :=
  let a := if fwd then granKey g.fromHome g.fromFrame i else granKey g.toHome g.toFrame i
  let b := if fwd then granKey g.toHome g.toFrame i else granKey g.fromHome g.fromFrame i
  let m := (m.decoded (.ram a) 2048 rb).unlock g.ctx g.pdi i
  { m with mem := m.mem.copyGranule a b rb }.traffic (some g.ctx) (keyQ a) (keyQ b) 2048 (pathKey 256 256 (a / 2048))

/-- The bound of the engine's read, and of its write (06 R171). -/
def stepBound : Nat := 20000

/-- The next granule in ascending order moves, or after a third late end the last one moves back (DESIGN CHOICE, log 41: the
spec gives the way back no order). Both steps lie within their bounds, or the granule ends late. -/
def Hw.granuleMove (m : Hw) (q k : Nat) (rb : ReadBack) : Hw :=
  let m := m.fillSlot q
  let e := m.engine q
  match mget e.slots k with
  | none => m
  | some g =>
    if g.since + 2 * stepBound < m.now then m
    else if g.back then
      if g.done = 0 then m
      else
        let i := g.done - 1
        (m.moveOne g i false rb).setEngine q { e with slots := mset e.slots k { g with done := i, since := m.now } }
    else if g.done < g.granules then
      (m.moveOne g g.done true rb).setEngine q
        { e with slots := mset e.slots k { g with done := g.done + 1, lates := 0, since := m.now } }
    else m

/-- MIGRATION_GRANULE_MOVE. -/
def execMigrationGranuleMove (quarter : Nat) (run : GranuleRun) : State → Host.Outcome State Fault Refusal :=
  onHw fun m => if m.boot == .done then m.granuleMove quarter run.slot run.rb else m

/-- A read or write of the engine ends late: the granule stays, its lock is released and taken again; a third late end turns
the migration back, and its way back has no limit on retries. -/
def Hw.granuleLate (m : Hw) (q k : Nat) : Hw :=
  let e := m.engine q
  match mget e.slots k with
  | none => m
  | some g =>
    match g.lockedGranule with
    | none => m
    | some i =>
      if m.now < g.since + stepBound then m
      else
        let n := if g.back then g.lates else g.lates + 1
        (m.unlock g.ctx g.pdi i).setEngine q
          { e with slots := mset e.slots k { g with lates := n, since := m.now, back := g.back || 3 ≤ n } }

/-- MIGRATION_STEP_LATE. -/
def execMigrationStepLate (quarter slot : Nat) : State → Host.Outcome State Fault Refusal :=
  onHw fun m => m.granuleLate quarter slot

/-- Every granule has switched, or every one is back: the entry, the TLBs, the frames and the event. -/
def Hw.migEnd (m : Hw) (q k : Nat) : Hw :=
  let e := m.engine q
  match mget e.slots k with
  | none => m
  | some g =>
    let ok := !g.back && g.done == g.granules
    if ok || (g.back && g.done == 0) then
      let va := match mget m.ctxs g.ctx with
        | some x => (x.leaves.find? fun l => l.pdi == g.pdi).elim 0 Leaf.va
        | none => 0
      let m := m.setEngine q { e with slots := mdel e.slots k }
      let m := m.updPd g.ctx g.pdi fun p =>
        if ok then { p with mig := false, ret := false, homeQ := g.toHome / 2, home := g.toHome % 2, addr := g.toFrame }
        else { p with mig := false }
      let m := m.invalidatePdi g.ctx g.pdi
      let old := if ok then (g.fromHome, g.fromFrame) else (g.toHome, g.toFrame)
      let m := { m with mem := m.mem.zeroFrames (old.1 / 2) (old.1 % 2) old.2 (g.granules / 32) }
      let m := m.event 0x028A (some g.ctx) [(64, va), (8, b2n !ok), (2, g.toHome / 2), (2, g.toHome % 2)]
      let m := if ok then m else m.count 1 0 6 1
      let m := m.pageArrived g.ctx g.pdi
      let m := match g.deferred with
        | some n => m.pageDone n ok
        | none => m
      (m.settleRetires.askRetires.fillSlot q).pump
    else m

/-- MIGRATION_END. -/
def execMigrationEnd (quarter slot : Nat) : State → Host.Outcome State Fault Refusal :=
  onHw fun m => m.migEnd quarter slot

end Sys2Proof.Machine
end

