-- ==== Sys2Proof/Machine/Rows.lean ====
section
/-! DEFINITION. Row ops: ELEMWISE and NORM_APPLY (05 R143 to R147), MOVE and GATHER (06 R182 to R184), PREFETCH
(07 R198 to R200, R488). -/

namespace Sys2Proof.Machine

/-- Rows of a rank-2 operand in instance `j`: index and address. -/
def Ten.rowsAt (t : Ten) (j : Nat × Nat × Nat) : List (Nat × Nat) :=
  (List.range (t.ext 1)).map fun r => (r, t.base 2 j + r * t.str 1)

/-- The drained rows of every instance. -/
def gatherRows (l : List (List Wr × Conv)) : List Wr × Conv :=
  (l.flatMap (·.1), l.foldl (fun a r => a.add r.2) Conv.zero)

/-! ### ELEMWISE -/

/-- In row mode each row of X is read twice (05 R144). -/
def Env.elemwiseBody (e : Env) : Body :=
  let x := e.ten (e.field 271 256)
  let y := e.ten (e.field 287 272)
  let row := bitb e.d 288
  let img := (e.m.core e.core).fset.active
  let r := gatherRows (e.h.instances.flatMap fun j => (x.rowsAt j).map fun p =>
    e.drainCells e.epi y j p.1 (y.base 2 j + p.1 * y.str 1) ((e.rowVals x p.2).map (cellIn e.h.ieee)))
  let nB := ceilDiv (x.ext 0) 32
  let ec := atRate (x.ext 0 * x.ext 1) (chainRate img 256 e.epi)
  let cyc := 24 + e.h.count * (if row then ec + max ec (ceilDiv (x.ext 1 * nB) 8) else ec) + chainLat img nB e.epi
  { Body.empty with
    loads := x.loads ((x.foot 2 e.h).flatMap fun p => if row then [p, p] else [p]) ++ e.chainLoads e.epi
    wrs := r.1, conv := r.2
    cycles := cyclesIf ([x, y] ++ (e.chainTens e.epi).map (·.2)) cyc }

/-- ELEMWISE. -/
def execElemwise (core thread : Nat) : State → Host.Outcome State Fault Refusal :=
  onHw fun m => m.startOp core thread (fun e => e.h.opcode == 0x0A) Env.elemwiseBody

/-! ### NORM_APPLY -/

/-- A position of its mask stays masked to the end of the epilogue chain, so a STAT there does not count it (05 R133, R139,
R142; log 47). -/
def Env.normApplyBody (e : Env) : Body :=
  let x := e.ten (e.field 271 256)
  let st := e.ten (e.field 287 272)
  let g := e.field 303 288
  let b := e.field 319 304
  let y := e.ten (e.field 335 320)
  let mode := e.field 337 336
  let eps := BitVec.ofNat 32 (e.field 383 352)
  let mk := e.opt (e.field 399 384)
  let img := (e.m.core e.core).fset.active
  let n := x.ext 0
  let r := gatherRows (e.h.instances.flatMap fun j => (x.rowsAt j).map fun p =>
    let xs := (e.rowVals x p.2).map (cellIn e.h.ieee)
    let xs := match mk with
      | none => xs
      | some t => (List.zip xs (e.maskBits t 0 j p.1 n)).map fun c => { c.1 with masked := c.2 }
    let f := finishOf mode eps (e.statRow st (st.base 2 j + p.1 * st.str 1))
    let ys := finishRow f xs (e.column g f32one j n) (e.column b f32zero j n)
    e.drainCells e.epi y j p.1 (y.base 2 j + p.1 * y.str 1) ys)
  let nB := ceilDiv n 32
  let ec := atRate (n * x.ext 1) (chainRate img 256 e.epi)
  let opt1 (i : Nat) : List Ten := (e.opt i).toList
  { Body.empty with
    loads := x.loads (x.foot 2 e.h) ++ st.loads (st.foot 2 e.h)
      ++ (opt1 g ++ opt1 b).flatMap (fun t => t.loads (t.foot 1 e.h))
      ++ (match mk with
          | none => []
          | some t => t.loads (e.h.instances.flatMap fun j => (t.rowsAt j).map fun p => (p.2, ceilDiv n 8)))
      ++ e.chainLoads e.epi
    wrs := r.1, conv := r.2
    cycles := cyclesIf ([x, st, y] ++ opt1 g ++ opt1 b ++ mk.toList ++ (e.chainTens e.epi).map (·.2))
      (32 + e.h.count * max ec (ceilDiv (x.ext 1 * nB) 8) + chainLat img nB e.epi) }

/-- NORM_APPLY. -/
def execNormApply (core thread : Nat) : State → Host.Outcome State Fault Refusal :=
  onHw fun m => m.startOp core thread (fun e => e.h.opcode == 0x0B) Env.normApplyBody

/-! ### MOVE and GATHER -/

/-- One row converted from a format into another. -/
def Env.convRow (e : Env) (s d : Ten) (a b : Nat) : Wr × Conv := e.out d b (e.rowVals s a)

/-- A read of another core's hold needs no memory request; its bytes cross the fabric (02 R32). -/
def Env.moveBody (e : Env) : Body :=
  let s := e.ten (e.field 271 256)
  let d := e.ten (e.field 287 272)
  let rs := e.h.instances.flatMap fun j =>
    (List.zip (s.rows 3 (s.base 3 j)) (d.rows 3 (d.base 3 j))).map fun p => e.convRow s d p.1 p.2
  let n := s.ext 1 * s.ext 2
  { Body.empty with
    loads := s.loads (s.foot 3 e.h)
    remote := if s.space = 2 then [(s.remote, e.h.count * n * s.row)] else []
    wrs := rs.map (·.1), conv := rs.foldl (fun a r => a.add r.2) Conv.zero
    cycles := cyclesIf [s, d] (24 + e.h.count * ceilDiv (n * max s.row d.row) 1024) }

/-- MOVE. -/
def execMove (core thread : Nat) : State → Host.Outcome State Fault Refusal :=
  onHw fun m => m.startOp core thread (fun e => e.h.opcode == 0x10) Env.moveBody

/-- One row of a GATHER: the row it reads, or none when the index lies outside the table. -/
structure GatherRow where
  j : Nat × Nat × Nat
  pos : Nat
  ixAddr : Nat
  ix : Int
  src : Option Nat
  dst : Nat

def Env.gatherList (e : Env) (t ix d : Ten) : List GatherRow :=
  e.h.instances.flatMap fun j => (List.range (ix.ext 0)).map fun p =>
    let a := ix.base 1 j
    let v := e.int32 ix a p
    { j := j, pos := p, ixAddr := a + 4 * p, ix := v
      src := if 0 ≤ v && v < (t.ext 1 : Int) then some (t.base 2 j + v.toNat * t.str 1) else none
      dst := d.base 2 j + p * d.str 1 }

def Env.gatherBody (e : Env) : Body :=
  let t := e.ten (e.field 271 256)
  let ix := e.ten (e.field 287 272)
  let d := e.ten (e.field 303 288)
  let oob := bitb e.d 304
  let gs := e.gatherList t ix d
  let bad := gs.find? fun g => g.src.isNone
  let rs := gs.map fun g => match g.src with
    | some a => e.convRow t d a g.dst
    | none => e.out d g.dst (List.replicate (d.ext 0) FV.zero)
  { Body.empty with
    loads := ix.loads (ix.foot 1 e.h) ++ t.loads (gs.filterMap fun g => g.src.map fun a => (a, t.row))
    wrs := rs.map (·.1), conv := rs.foldl (fun a r => a.add r.2) Conv.zero
    counts := [(cOOB, (gs.filter fun g => g.src.isNone).length)]
    cycles := cyclesIf [t, ix, d] (24 + e.h.count * ceilDiv (ix.ext 0 * max t.row d.row) 1024)
    fault := if oob then none
      else bad.map fun g => ⟨0x0284, if ix.space = 0 then g.ixAddr else 0, g.pos, wrapInt 64 g.ix⟩ }

/-- GATHER. -/
def execGather (core thread : Nat) : State → Host.Outcome State Fault Refusal :=
  onHw fun m => m.startOp core thread (fun e => e.h.opcode == 0x11) Env.gatherBody

/-! ### PREFETCH -/

/-- 64 KiB units of virtual address that a list of rows touches, ascending. -/
def unitsOf (l : List (Nat × Nat)) : List Nat :=
  ((l.flatMap fun p => (List.range ((p.1 + p.2 - 1) / 65536 + 1 - p.1 / 65536)).map fun i => p.1 / 65536 + i).eraseDups).mergeSort
    (fun a b => decide (a ≤ b))

/-- The pages of the region in ascending order, and the units without translation. -/
def Env.region (e : Env) : List (Leaf × PageDesc) × Nat :=
  let t := e.ten (e.field 271 256)
  let us := unitsOf (t.allRows.map fun a => (a, t.row))
  match mget e.m.ctxs e.ctx with
  | none => ([], us.length)
  | some x =>
    let ws := us.map fun u => x.walk (u * 65536)
    ((ws.filterMap id).eraseDups, (ws.filter Option.isNone).length)

/-- A translation that PREFETCH needs: the core TLB, else the quarter TLB, else a walk (07 R195). -/
def Hw.translate (m : Hw) (core ctx : Nat) (l : Leaf) (p : PageDesc) : Hw :=
  let c := m.core core
  match tlbHit c.tlb ctx l.va with
  | some _ => m
  | none =>
    let q := core / 64
    let e : TlbEntry := ⟨ctx, l, p, false⟩
    let m := m.countCore core cTLBMISS 1
    let m := if m.quarterTlb.any (fun t => t.1 == q && t.2.ctx == ctx && t.2.leaf.va == l.va) then m
      else
        let m := (m.countCore core cWALKS 1).walkTraffic core ctx l.va
        let mine := (m.quarterTlb.filter fun t => t.1 == q).map (·.2)
        { m with quarterTlb := (m.quarterTlb.filter fun t => t.1 != q) ++ (tlbFill quarterTlbCap mine e).map fun x => (q, x) }
    m.updCore core fun c => { c with tlb := tlbFill coreTlbCap c.tlb e }

/-- PREFETCH_ACTION: TRANSLATE fills TLBs; TO_FAST and TO_SLOW ask for moves. -/
def Env.prefetchRun (e : Env) (m : Hw) : Hw :=
  let r := e.region
  let no := (e.m.core e.core).nextOp
  let action := e.field 273 272
  let dq := e.field 276 274
  let q := if dq = 4 then e.core / 64 else dq
  let home := 2 * q + (if action = 1 then 0 else 1)
  let m := m.countCore e.core cPFSKIP r.2
  if action = 0 then
    r.1.foldl (fun m p =>
      if p.2.nopf || p.2.ret || p.2.mig then m.countCore e.core cPFSKIP 1 else m.translate e.core e.ctx p.1 p.2) m
  else
    let m := r.1.foldl (fun m p => m.translate e.core e.ctx p.1 p.2) m
    let pdis := (r.1.map fun p => p.1.pdi).eraseDups
    let s := Hw.queuePages e.core pdis m e.ctx home []
    if bitb e.d 277 then
      s.1.updCore e.core fun c => { c with ops := c.ops.map fun o =>
        if o.no == no then { o with cond := .pages s.2.1 s.2.2 home } else o }
    else
      let drop := s.2.2.filter fun p => !s.1.moveSkip e.ctx p home
      (s.1.countCore e.core cPFDROP drop.length).countCore e.core cPFSKIP (s.2.2.length - drop.length)

def Env.prefetchBody (e : Env) : Body :=
  let r := e.region
  { Body.empty with cycles := 24 + 4 * (r.1.length + r.2) }

/-- PREFETCH. -/
def execPrefetch (core thread : Nat) : State → Host.Outcome State Fault Refusal :=
  onHw fun m => m.startWith core thread (fun e => e.h.opcode == 0x12) Env.prefetchBody (fun _ => .done)
    (fun _ o => o) Env.prefetchRun

end Sys2Proof.Machine
end

