-- ==== Sys2Proof/Machine/Window.lean ====
section
/-! DEFINITION. The window engine: CONV with its reduction order and speculation (09 R239 to R247, R250), argmax (09 R248,
R249), CROPRESIZE (09 R251 to R256). -/

namespace Sys2Proof.Machine

/-! ### The CONV body (09 R245) -/

structure ConvBody where
  x : Ten
  w : Option Ten
  c : Option Ten
  acc : Option Ten
  zf : Option Ten
  zo : Option Ten
  ruTbl : Option Ten
  ruPrev : Option Ten
  am : Option Ten
  amx : Bool
  rfmt : Nat
  kw : Nat
  kh : Nat
  kt : Nat
  sx : Nat
  sy : Nat
  st : Nat
  dx : Nat
  dy : Nat
  dt : Nat
  pl : Nat
  pr : Nat
  pt : Nat
  pb : Nat
  tpf : Nat
  tpb : Nat

def Env.conv (e : Env) : ConvBody :=
  { x := e.ten (e.field 271 256), w := e.opt (e.field 287 272), c := e.opt (e.field 303 288), acc := e.opt (e.field 319 304)
    zf := e.opt (e.field 335 320), zo := e.opt (e.field 351 336), ruTbl := e.opt (e.field 367 352)
    ruPrev := e.opt (e.field 383 368), am := e.opt (e.field 399 384), amx := bitb e.d 401, rfmt := e.field 405 402
    kw := e.field 412 408 + 1, kh := e.field 420 416 + 1, kt := e.field 426 424 + 1, sx := e.field 435 432 + 1
    sy := e.field 439 436 + 1, st := e.field 443 440 + 1, dx := e.field 447 444 + 1, dy := e.field 451 448 + 1
    dt := e.field 455 452 + 1, pl := e.field 459 456, pr := e.field 463 460, pt := e.field 467 464, pb := e.field 471 468
    tpf := e.field 475 472, tpb := e.field 479 476 }

/-- An output extent (09 R241). -/
def convOut (n a b d k s : Nat) : Nat := if n + a + b < d * (k - 1) + 1 then 0 else (n + a + b - d * (k - 1) - 1) / s + 1

def ConvBody.ow (x : ConvBody) : Nat := convOut (x.x.ext 1) x.pl x.pr x.dx x.kw x.sx
def ConvBody.oh (x : ConvBody) : Nat := convOut (x.x.ext 2) x.pt x.pb x.dy x.kh x.sy
def ConvBody.ot (x : ConvBody) : Nat := convOut (x.x.ext 3) x.tpf x.tpb x.dt x.kt x.st

/-- Taps in the order of the reduction: kt, tile (a, b), ky, kx (09 R243). -/
def ConvBody.taps (x : ConvBody) : List (Nat × Nat × Nat) :=
  (List.range x.kt).flatMap fun t => (List.range (ceilDiv x.kh 7)).flatMap fun a =>
    (List.range (ceilDiv x.kw 7)).flatMap fun b =>
      (List.range (min 7 (x.kh - 7 * a))).flatMap fun y => (List.range (min 7 (x.kw - 7 * b))).map fun c =>
        (t, 7 * a + y, 7 * b + c)

/-- The input position (x, y, frame) a tap reads for an output position, or none in padding. -/
def ConvBody.input (b : ConvBody) (ox oy f : Nat) (tap : Nat × Nat × Nat) : Option (Nat × Nat × Nat) :=
  let ix : Int := ((ox * b.sx + tap.2.2 * b.dx : Nat) : Int) - (b.pl : Int)
  let iy : Int := ((oy * b.sy + tap.2.1 * b.dy : Nat) : Int) - (b.pt : Int)
  let it : Int := ((f * b.st + tap.1 * b.dt : Nat) : Int) - (b.tpf : Int)
  if 0 ≤ ix && ix < (b.x.ext 1 : Int) && 0 ≤ iy && iy < (b.x.ext 2 : Int) && 0 ≤ it && it < (b.x.ext 3 : Int) then
    some (ix.toNat, iy.toNat, it.toNat)
  else none

/-- Address of an input position: frames by dimension 3, level 1 by dimension 4 (09 R242). -/
def mapAddr (t : Ten) (j : Nat × Nat × Nat) (p : Nat × Nat × Nat) : Nat :=
  t.addr + j.2.1 * t.str 4 + p.2.2 * t.str 3 + p.2.1 * t.str 2 + p.1 * t.str 1

/-! ### Strips and M-blocks (09 R240) -/

def stripWidth (ow kw sx dx rb : Nat) : Nat :=
  let k := min kw 7
  (([64, 32, 16, 8, 4, 2, 1].find? fun w => w ≤ ow && ((w - 1) * sx + (k - 1) * dx + 1) * rb ≤ 32768)).getD 1

def strips (ow ws : Nat) : List (Nat × Nat) :=
  (List.range (ow / ws)).map (fun i => (i * ws, ws)) ++ (if ow % ws = 0 then [] else [(ow / ws * ws, ow % ws)])

/-- M-blocks of an instance: positions (x, y) in order, in runs of 64. -/
def mBlocks (ow oh ws : Nat) : List (List (Nat × Nat)) :=
  (strips ow ws).flatMap fun s =>
    let ps := (List.range oh).flatMap fun y => (List.range s.2).map fun x => (s.1 + x, y)
    chunks 64 (ps.length + 1) ps

def ConvBody.blocks (b : ConvBody) : List (List (Nat × Nat)) :=
  mBlocks b.ow b.oh (stripWidth b.ow b.kw b.sx b.dx b.x.row)

/-! ### Values -/

/-- Zero flag of channel group `g` at an input position (09 R247). -/
def Env.convFlag (e : Env) (z : Ten) (j : Nat × Nat × Nat) (p : Nat × Nat × Nat) (g : Nat) : Bool :=
  bitb (lget (e.read z (mapAddr z j (p.1 / 32, p.2.1, p.2.2) + g / 8) 1) 0 0#8).toNat (g % 8)

/-- One group of one tap onto an accumulator. A padded position has no product. -/
def convGroup (w : Nat) (zero : Bool) (acc : Word32) (a b : RowV) (g : Nat) : Word32 :=
  if zero then accUpdate w acc (((b.elems.drop (32 * g)).take 32).map fun y => FV.zero.mul y) (scaleAt b g)
  else accUpdate w acc (groupProducts a.elems b.elems g) ((scaleAt a g).mul (scaleAt b g))

/-- The window of an output position: the taps that read an input, with its position and row. -/
def Env.convIns (e : Env) (b : ConvBody) (j : Nat × Nat × Nat) (ox oy : Nat) :
    List ((Nat × Nat × Nat) × (Nat × Nat × Nat) × RowV) :=
  b.taps.filterMap fun t => (b.input ox oy j.1 t).map fun p => (t, p, e.row b.x (mapAddr b.x j p))

/-- The weights of one tap of output channel `n`; +0 beyond the last channel (02 R58). -/
def Env.convTap (e : Env) (b : ConvBody) (wt : Ten) (j : Nat × Nat × Nat) (n : Nat) (t : Nat × Nat × Nat) : RowV :=
  if n < wt.ext 1 then
    e.row wt (wt.base 3 j + n * wt.str 1 + ((t.1 * b.kh + t.2.1) * b.kw + t.2.2) * wt.str 2)
  else ⟨List.replicate (b.x.ext 0) FV.zero, []⟩

/-- A window onto the accumulator of channel `n`, tap by tap and group by group (09 R243). -/
def Env.convCol (e : Env) (b : ConvBody) (wt : Ten) (j : Nat × Nat × Nat) (n : Nat)
    (ins : List ((Nat × Nat × Nat) × (Nat × Nat × Nat) × RowV)) (start : Word32) : Word32 :=
  ins.foldl (fun acc i =>
    let wr := e.convTap b wt j n i.1
    (List.range (ceilDiv (b.x.ext 0) 32)).foldl (fun acc g =>
      let zero := match b.zf with
        | some z => e.spxOn && e.convFlag z j i.2.1 g
        | none => false
      convGroup (pairWidth b.x.fmt wt.fmt) zero acc i.2.2 wr g) acc) start

/-- Starting values of an output position. -/
def Env.convStart (e : Env) (b : ConvBody) (wt : Ten) (j : Nat × Nat × Nat) (ox oy : Nat) : List Word32 :=
  match b.acc with
  | none => List.replicate (wt.ext 1) f32zero
  | some t => (e.rowVals t (e.rowAddr t j (oy * e.ow + ox))).map rne32

/-- The accumulators of one output position, over output channels. -/
def Env.convPos (e : Env) (b : ConvBody) (wt : Ten) (j : Nat × Nat × Nat) (ox oy : Nat) : List Word32 :=
  let ins := e.convIns b j ox oy
  (List.zip (List.range (wt.ext 1)) (e.convStart b wt j ox oy)).map fun n => e.convCol b wt j n.1 ins n.2

/-- The weights of output channel `n` along K: each tap's channels fill whole groups (09 R243). -/
def Env.convWeights (e : Env) (b : ConvBody) (wt : Ten) (j : Nat × Nat × Nat) (n : Nat) : RowV :=
  let rows := b.taps.map (e.convTap b wt j n)
  ⟨rows.flatMap fun r => r.elems ++ List.replicate (32 * ceilDiv r.elems.length 32 - r.elems.length) FV.zero,
   rows.flatMap (·.scales)⟩

/-! ### Argmax (09 R248) -/

/-- Strictly greater in the order of argmax. -/
def argGt (a b : FV) : Bool := if b.isNan then false else if a.isNan then true else b.lt a

/-- The index of the greatest value, the lowest among equals. -/
def argmax (xs : List FV) : Nat :=
  match xs with
  | [] => 0
  | x :: t => ((List.zip (List.range t.length) t).foldl (fun (m : Nat × FV) p =>
      if argGt p.2 m.2 then (p.1 + 1, p.2) else m) (0, x)).1

def Env.amWrite (e : Env) (t : Ten) (j : Nat × Nat × Nat) (x y i : Nat) : Wr :=
  let n := fmtBits t.fmt / 8
  e.wr t (t.base 2 j + y * t.str 1 + x * n) (leBytes n i)

/-! ### One instance -/

/-- Positions of the input that an M-block's windows read, once each: frame, row, column ascending. -/
def ConvBody.reads (b : ConvBody) (f : Nat) (ps : List (Nat × Nat)) : List (Nat × Nat × Nat) :=
  ((ps.flatMap fun p => b.taps.filterMap fun t => b.input p.1 p.2 f t).eraseDups).mergeSort fun u v =>
    decide (u.2.2 < v.2.2) || (u.2.2 == v.2.2 && (decide (u.2.1 < v.2.1) || (u.2.1 == v.2.1 && decide (u.1 ≤ v.1))))

/-- Reuse decision of an M-block: hash, hash matched, hit confirmed (03 R98, R99, 09 R247). -/
def Env.convReuse (e : Env) (b : ConvBody) (tbl prev : Ten) (j : Nat × Nat × Nat) (mb : Nat) (ps : List (Nat × Nat)) :
    BitVec 64 × Bool × Bool :=
  let rs := b.reads j.1 ps
  let bytes := rs.flatMap fun p => e.read b.x (mapAddr b.x j p) b.x.row
  let h := crc64 bytes
  let ent := leNat (e.read tbl (tbl.base 2 j + mb * tbl.str 1) 8)
  let matched := bitb ent 63 && ent % 2 ^ 63 == h.toNat % 2 ^ 63
  let old := rs.flatMap fun p => e.read prev (mapAddr prev j p) prev.row
  (h, matched, matched && bytes == old)

/-- What one instance writes, and its speculation counts. -/
structure ConvPart where
  wrs : List Wr
  conv : Conv
  hits : Nat
  /-- M-blocks whose hash matched, which are compared -/
  matched : List (List (Nat × Nat))
  misses : Nat
  /-- M-blocks with a pass: number and positions -/
  live : List (Nat × List (Nat × Nat))

/-- The drained row of one position: its writes, its values as a consumer reads them, its conversions. -/
def Env.winRow (e : Env) (b : ConvBody) (j : Nat × Nat × Nat) (x y : Nat) (acc : List Word32) :
    List Wr × List FV × Conv :=
  let row := y * e.ow + x
  match b.c with
  | some c =>
    let d := e.drainRow e.epi c j row (e.rowAddr c j row) acc
    let vals := match d.1 with
      | w :: _ => (rowDecode c.fmt (c.ext 0) w.bytes).vals
      | [] => []
    (d.1, vals, d.2)
  | none =>
    let ys := e.runChain e.epi j row (acc.map cellOf)
    let r := rowEncode b.rfmt e.h.ieee (ys.map fun c => f32v c.v)
    ([], (rowDecode b.rfmt ys.length r.1).vals, Conv.ofNotes (cellNotes ys r.2))

/-- Zero flags of C (09 R247): each entry covers 32 positions of a row; positions not computed keep their stored values. -/
def Env.convZo (e : Env) (b : ConvBody) (z : Ten) (j : Nat × Nat × Nat) (vals : List ((Nat × Nat) × List FV)) : List Wr :=
  match b.c with
  | none => []
  | some c =>
    let nN := ceilDiv (c.ext 0) 32
    let ents := (vals.map fun v => (v.1.1 / 32, v.1.2)).eraseDups
    ents.map fun t =>
      let xs := (List.range (min 32 (e.ow - 32 * t.1))).map fun i => 32 * t.1 + i
      let rows := xs.map fun x => match vals.find? fun v => v.1 == (x, t.2) with
        | some v => v.2
        | none => e.rowVals c (e.rowAddr c j (t.2 * e.ow + x))
      e.wr z (z.base 3 j + t.2 * z.str 2 + t.1 * z.str 1) (zoRow nN rows)

/-- Blocks of the input of one instance, for the predictor: 32 positions of a row by 32 channels, frame by frame. -/
def ConvBody.blockIx (b : ConvBody) (p : Nat × Nat × Nat) (g : Nat) : Nat :=
  ((p.2.2 * b.x.ext 2 + p.2.1) * ceilDiv (b.x.ext 1) 32 + p.1 / 32) * ceilDiv (b.x.ext 0) 32 + g

def ConvBody.nBlocks (b : ConvBody) : Nat := b.x.ext 3 * b.x.ext 2 * ceilDiv (b.x.ext 1) 32 * ceilDiv (b.x.ext 0) 32

def Env.convFlags (e : Env) (b : ConvBody) (z : Ten) (j : Nat × Nat × Nat) : List Bool :=
  (List.range (b.x.ext 3)).flatMap fun t => (List.range (b.x.ext 2)).flatMap fun y =>
    (List.range (ceilDiv (b.x.ext 1) 32)).flatMap fun x => (List.range (ceilDiv (b.x.ext 0) 32)).map fun g =>
      e.convFlag z j (32 * x, y, t) g

def Env.convPart (e : Env) (b : ConvBody) (wt : Ten) (pred : List Bool) (ix : Nat) (j : Nat × Nat × Nat) : ConvPart :=
  let bs := b.blocks
  let todo := (List.zip (List.range bs.length) bs).map fun m =>
    (m.1, m.2, match b.ruTbl, b.ruPrev with
      | some t, some p => if e.truOn then some (e.convReuse b t p j m.1 m.2) else none
      | _, _ => none)
  let live := todo.filter fun m => match m.2.2 with | some d => !d.2.2 | none => true
  let rs := live.flatMap fun m => m.2.1.map fun p => (p, e.winRow b j p.1 p.2 (e.convPos b wt j p.1 p.2))
  let am := match b.am with
    | some t => if b.amx then rs.map fun r => e.amWrite t j r.1.1 r.1.2 (argmax r.2.2.1) else []
    | none => []
  let zo := match b.zo with
    | some z => e.convZo b z j (rs.map fun r => (r.1, r.2.2.1))
    | none => []
  let tbl := live.flatMap fun m => match m.2.2, b.ruTbl with
    | some d, some t => [e.wr t (t.base 2 j + m.1 * t.str 1) (leBytes 8 (d.1.toNat % 2 ^ 63 + 2 ^ 63))]
    | _, _ => []
  let nC := ceilDiv (b.x.ext 0) 32
  let misses := match b.zf with
    | some z =>
      if e.spxOn then
        (bs.filter fun ps => (b.reads j.1 ps).any fun p => (List.range nC).any fun g =>
          lget pred (ix * b.nBlocks + b.blockIx p g) false && !e.convFlag z j p g).length
      else 0
    | none => 0
  { wrs := rs.flatMap (·.2.1) ++ am ++ zo ++ tbl
    conv := rs.foldl (fun a r => a.add r.2.2.2) Conv.zero
    hits := todo.length - live.length
    matched := (todo.filter fun m => match m.2.2 with | some d => d.2.1 | none => false).map (·.2.1)
    misses := misses
    live := live.map fun m => (m.1, m.2.1) }

/-- What the passes of one instance leave in the arrays, as in the W32 shape (09 R244): tiles are numbered M-block by M-block,
and a row past the end of a short M-block takes zero group sums (log 46). -/
def Env.convRegs (e : Env) (b : ConvBody) (wt : Ten) (nMB : Nat) (s : Regs) (ix : Nat) (j : Nat × Nat × Nat)
    (live : List (Nat × List (Nat × Nat))) : Regs :=
  let nN := ceilDiv (wt.ext 1) 32
  let cols := (List.range (32 * nN)).map (e.convWeights b wt j)
  live.foldl (fun s m => (List.range nN).foldl (fun s t =>
    s.tile 0 ((ix * nMB + m.1) * nN + t) cols (b.taps.length * ceilDiv (b.x.ext 0) 32) (32 * t) fun i c =>
      let n := 32 * t + c
      match m.2[i]? with
      | some p => e.convCol b wt j n (e.convIns b j p.1 p.2) (lget (e.convStart b wt j p.1 p.2) n f32zero)
      | none => dotFrom (pairWidth b.x.fmt wt.fmt) (fun _ => true) f32zero ⟨[], []⟩ (lget cols n ⟨[], []⟩)) s) s

/-! ### Timing (09 R250) -/

def ConvBody.lineBytes (b : ConvBody) : Nat :=
  let ws := stripWidth b.ow b.kw b.sx b.dx b.x.row
  let per (s : Nat × Nat) : Nat := (List.range (ceilDiv b.kw 7)).foldl (fun a t =>
    a + ((s.2 - 1) * b.sx + (min 7 (b.kw - 7 * t) - 1) * b.dx + 1) * b.x.row) 0
  b.oh * b.kt * b.kh * ((strips b.ow ws).foldl (fun a s => a + per s) 0)

def ConvBody.nMB (b : ConvBody) : Nat :=
  (strips b.ow (stripWidth b.ow b.kw b.sx b.dx b.x.row)).foldl (fun a s => a + ceilDiv (b.oh * s.2) 64) 0

def Env.convCycles (e : Env) (b : ConvBody) (wt : Ten) : Nat :=
  let img := (e.m.core e.core).fset.active
  let w := pairWidth b.x.fmt wt.fmt
  let nK := b.kt * b.kh * b.kw * ceilDiv (b.x.ext 0) 32
  let i := e.h.count
  2 * w + 32 + max (ceilDiv (i * b.nMB * ceilDiv (wt.ext 1) 32) 8 * max (nK * 4 * w) 64) (ceilDiv (i * b.lineBytes) 2048)
    + 24 + chainLat img (ceilDiv (wt.ext 1) 32) e.epi

/-! ### Loads -/

/-- Input loads, by whether their outcome counts (03 R94, 09 R247): every position read; with zero flags every group that is not
flagged, and of those flagged the ones predicted non-zero, whose outcome the feeder discards. -/
def Env.convLoads (e : Env) (b : ConvBody) (pred : List Bool) : List (Nat × Nat) × List (Nat × Nat) :=
  let nC := ceilDiv (b.x.ext 0) 32
  let ps (j : Nat × Nat × Nat) : List (Nat × Nat × Nat) :=
    b.reads j.1 ((List.range b.oh).flatMap fun y => (List.range b.ow).map fun x => (x, y))
  match b.zf, e.spxOn with
  | some z, true =>
    let blocks (want : Bool) : List (Nat × Nat) :=
      (List.zip (List.range e.h.count) e.h.instances).flatMap fun ij => (ps ij.2).flatMap fun p =>
        ((List.range nC).filter fun g =>
          let fl := e.convFlag z ij.2 p g
          fl == !want && !(fl && lget pred (ij.1 * b.nBlocks + b.blockIx p g) false)).flatMap fun g =>
            b.x.group (mapAddr b.x ij.2 p) g
    (z.loads (e.h.instances.flatMap fun j => ((ps j).map fun p => (mapAddr z j (p.1 / 32, p.2.1, p.2.2), z.row)).eraseDups)
       ++ b.x.loads (blocks true), b.x.loads (blocks false))
  | _, _ => (b.x.loads (e.h.instances.flatMap fun j => (ps j).map fun p => (mapAddr b.x j p, b.x.row)), [])

/-! ### CONV -/

def Env.convBody (e0 : Env) : Body :=
  let b := e0.conv
  let e := { e0 with ow := b.ow }
  match b.w with
  | none => Body.empty
  | some wt =>
    let is := e.h.instances
    let pred := e.predicted
    let ps := (List.zip (List.range is.length) is).map fun p => e.convPart b wt pred p.1 p.2
    let flags := match b.zf with
      | some z => if e.spxOn then some ((is.flatMap fun j => e.convFlags b z j).take 4096) else none
      | none => none
    let opt3 (t : Option Ten) : List (Nat × Nat) := match t with | some t => t.loads (t.foot 3 e.h) | none => []
    let ops := [b.x, wt] ++ b.c.toList ++ b.acc.toList ++ b.zo.toList ++ b.am.toList ++ (e.chainTens e.epi).map (·.2)
    let al := e.convLoads b pred
    -- the count is exact where SPX and TRU have no effect (03 R82, 09 R250)
    let effect := (flags.getD []).any id || ps.any fun p => 0 < p.misses || !p.matched.isEmpty
    let compared := (List.zip is ps).flatMap fun q => match b.ruPrev with
      | some t => t.loads ((q.2.matched.flatMap (b.reads q.1.1)).map fun p => (mapAddr t q.1 p, t.row))
      | none => []
    let regs := (List.zip (List.range ps.length) (List.zip is ps)).foldl (fun s p =>
      e.convRegs b wt b.blocks.length s p.1 p.2.1 p.2.2.live) (⟨(e.m.core e.core).weights, []⟩ : Regs)
    { Body.empty with
      loads := al.1 ++ wt.loads (wt.foot 3 e.h) ++ opt3 b.acc ++ e.chainLoads e.epi
        ++ (if e.truOn then optLoads b.ruTbl e.h ++ compared else [])
      quiet := al.2
      wrs := ps.flatMap (·.wrs)
      accs := regs.accs
      latches := regs.accs
      weights := regs.weights
      counts := [(cSPX, ps.foldl (fun a p => a + p.misses) 0), (cTRU, ps.foldl (fun a p => a + p.hits) 0)]
      conv := ps.foldl (fun a p => a.add p.conv) Conv.zero
      cycles := if effect then 0 else cyclesIf ops (e.convCycles b wt)
      predict := flags.map fun f => (e.addr, f) }

/-- CONV in MODE 0. -/
def execConv (core thread : Nat) : State → Host.Outcome State Fault Refusal :=
  onHw fun m => m.startOp core thread (fun e => e.h.opcode == 0x03 && !bitb e.d 400) Env.convBody

/-- Argmax over X's channels: instance j0 is frame j0. -/
def Env.argmaxBody (e : Env) : Body :=
  let b := e.conv
  let x := b.x
  let ps (j : Nat × Nat × Nat) : List (Nat × Nat × Nat) :=
    (List.range (x.ext 2)).flatMap fun y => (List.range (x.ext 1)).map fun i => (i, y, j.1)
  match b.am with
  | none => Body.empty
  | some t =>
    { Body.empty with
      loads := x.loads (e.h.instances.flatMap fun j => (ps j).map fun p => (mapAddr x j p, x.row))
      wrs := e.h.instances.flatMap fun j => (ps j).map fun p =>
        e.amWrite t j p.1 p.2.1 (argmax (e.rowVals x (mapAddr x j p)))
      cycles := cyclesIf [x, t] (24 + max (ceilDiv (e.h.count * x.ext 0 * x.ext 1 * x.ext 2) 256)
        (ceilDiv (e.h.count * x.ext 1 * x.ext 2 * x.row) 2048)) }

/-- CONV in MODE 1. -/
def execConvArgmax (core thread : Nat) : State → Host.Outcome State Fault Refusal :=
  onHw fun m => m.startOp core thread (fun e => e.h.opcode == 0x03 && bitb e.d 400) Env.argmaxBody

/-! ### CROPRESIZE -/

structure CropBody where
  x : Ten
  box : Ten
  y : Ten
  cnt : Option Ten
  bst : Option Ten
  nearest : Bool
  repl : Bool
  pl : Nat
  pr : Nat
  pt : Nat
  pb : Nat
  extv : Word32
  padv : Word32
  span : Nat

def Env.crop (e : Env) : CropBody :=
  { x := e.ten (e.field 271 256), box := e.ten (e.field 287 272), y := e.ten (e.field 303 288)
    cnt := e.opt (e.field 319 304), bst := e.opt (e.field 335 320), nearest := e.field 337 336 == 1, repl := bitb e.d 338
    pl := e.field 343 340, pr := e.field 347 344, pt := e.field 351 348, pb := e.field 355 352
    extv := BitVec.ofNat 32 (e.field 415 384), padv := BitVec.ofNat 32 (e.field 447 416), span := e.field 463 448 }

/-- A sample position: p0 + (u + 0.5) × (p1 − p0) / n − 0.5, formed exactly and rounded once (09 R252). -/
def samplePos (p0 p1 : FV) (u n : Nat) : Word32 :=
  let num := ((p0.mul (FV.ofInt (2 * n))).add ((p1.sub p0).mul (FV.ofInt (2 * u + 1)))).sub (FV.ofInt n)
  match num with
  | .num s m e => if m = 0 then rne32 FV.zero else rne32Quot s m (2 * n) e
  | v => rne32 v

def floorV : FV → Int
  | .num s m e => floorInt s m e
  | _ => 0

def lerp (a b : Word32) (f : FV) : Word32 :=
  rne32 (((f32v a).mul ((FV.ofInt 1).sub f)).add ((f32v b).mul f))

def clampIx (i : Int) (n : Nat) : Nat := if i < 0 then 0 else min i.toNat (n - 1)

def insideIx (i : Int) (n : Nat) : Bool := 0 ≤ i && i < (n : Int)

/-- Pixel (i, j) of channel row: FP32 values of every channel (09 R253). -/
def Env.pixel (e : Env) (b : CropBody) (i j : Int) : List (Word32 × Note) :=
  let w := b.x.ext 1
  let h := b.x.ext 2
  if b.repl || (insideIx i w && insideIx j h) then
    (e.rowVals b.x (b.x.addr + clampIx j h * b.x.str 2 + clampIx i w * b.x.str 1)).map (toF32 e.h.ieee)
  else List.replicate (b.x.ext 0) (b.extv, .none)

/-- Sample indices an interior position reads. -/
def CropBody.taps (b : CropBody) (sx sy : Word32) : List (Int × Int) :=
  let half : FV := .num false 1 (-1)
  if b.nearest then [(floorV ((f32v sx).add half), floorV ((f32v sy).add half))]
  else
    let i := floorV (f32v sx)
    let j := floorV (f32v sy)
    [(i, j), (i + 1, j), (i, j + 1), (i + 1, j + 1)]

/-- The values of an interior position; an element counts what the conversion of any of its taps did, once (04 R487). -/
def Env.sample (e : Env) (b : CropBody) (sx sy : Word32) : List Cell :=
  match (b.taps sx sy).map fun p => e.pixel b p.1 p.2 with
  | [v] => v.map fun p => ⟨p.1, false, p.2, []⟩
  | [p00, p10, p01, p11] =>
    let fx := (f32v sx).sub (FV.ofInt (floorV (f32v sx)))
    let fy := (f32v sy).sub (FV.ofInt (floorV (f32v sy)))
    (List.range (b.x.ext 0)).map fun c =>
      let g (l : List (Word32 × Note)) : Word32 × Note := lget l c (f32zero, .none)
      ⟨lerp (lerp (g p00).1 (g p10).1 fx) (lerp (g p01).1 (g p11).1 fx) fy, false,
       (((g p00).2.or (g p10).2).or (g p01).2).or (g p11).2, []⟩
  | _ => []

/-- The four coordinates of a box. -/
def Env.boxOf (e : Env) (b : CropBody) (k : Nat) : List FV := e.rowVals b.box (b.box.addr + k * b.box.str 1)

/-- 0 valid, 1 skipped, 2 invalid (09 R254). -/
def Env.boxKind (e : Env) (b : CropBody) (n k : Nat) : Nat :=
  if n ≤ k then 1
  else
    let v := e.boxOf b k
    let big : FV := .num false (2 ^ 22) 0
    let far (a c : FV) : Bool := (FV.ofInt b.span).lt (a.sub c).abs
    let bad := v.any fun x => x.isNan || x.isInf || big.le x.abs
    if bad || far (lget v 2 FV.zero) (lget v 0 FV.zero) || far (lget v 3 FV.zero) (lget v 1 FV.zero) then 2 else 0

/-- One output tile: its writes, status, conversions and the positions it loads. -/
def Env.cropTile (e : Env) (b : CropBody) (n k : Nat) : List Wr × Nat × Conv × List (Nat × Nat) :=
  let ow := b.y.ext 1
  let oh := b.y.ext 2
  let iw := ow - b.pl - b.pr
  let ih := oh - b.pt - b.pb
  let kind := e.boxKind b n k
  let v := e.boxOf b k
  let g (i : Nat) : FV := lget v i FV.zero
  let inner (ox oy : Nat) : Option (Word32 × Word32) :=
    if kind = 0 && b.pl ≤ ox && ox < b.pl + iw && b.pt ≤ oy && oy < b.pt + ih then
      some (samplePos (g 0) (g 2) (ox - b.pl) iw, samplePos (g 1) (g 3) (oy - b.pt) ih)
    else none
  let et := { e with ow := ow, tile := k }
  let ps := (List.range oh).flatMap fun oy => (List.range ow).map fun ox => (ox, oy, inner ox oy)
  let outs := ps.map fun p =>
    let row := p.2.1 * ow + p.1
    let a := et.rowAddr b.y (0, 0, 0) row
    match p.2.2 with
    | some s => et.drainCells e.epi b.y (0, 0, 0) row a (e.sample b s.1 s.2)
    | none =>
      let r := e.out b.y a (List.replicate (b.y.ext 0) (f32v b.padv))
      ([r.1], r.2)
  let taps := (ps.filterMap (·.2.2)).flatMap fun s => b.taps s.1 s.2
  let outside := taps.any fun t => !(insideIx t.1 (b.x.ext 1) && insideIx t.2 (b.x.ext 2))
  let st := if kind != 0 then kind else if outside then 3 else 0
  let rd := (taps.filter fun t => b.repl || (insideIx t.1 (b.x.ext 1) && insideIx t.2 (b.x.ext 2))).map fun t =>
    (b.x.addr + clampIx t.2 (b.x.ext 2) * b.x.str 2 + clampIx t.1 (b.x.ext 1) * b.x.str 1, b.x.row)
  let bw := match b.bst with
    | some t => [e.wr t (t.addr + 4 * k) (leBytes 4 st)]
    | none => []
  (outs.flatMap (·.1) ++ bw, kind, outs.foldl (fun a r => a.add r.2) Conv.zero, rd.eraseDups)

/-- Loads of the chain: a per-element operand is shaped as Y and is read in the tiles `ks` whose box is sampled (09 R255). -/
def Env.cropChain (e : Env) (ks : List Nat) : List (Nat × Nat) :=
  (e.chainTens e.epi).flatMap fun p =>
    p.2.loads (if p.1 = 3 then ks.flatMap fun k => (p.2.rows 3 (p.2.addr + k * p.2.str 3)).map fun a => (a, p.2.row)
      else p.2.foot p.1 e.h)

def Env.cropBody (e : Env) : Body :=
  let b := e.crop
  let nb := b.box.ext 1
  let n := match b.cnt with
    | none => nb
    | some t => min (e.int32 t t.addr 0).toNat nb
  let ts := (List.range nb).map fun k => e.cropTile b n k
  { Body.empty with
    loads := b.box.loads (b.box.foot 2 e.h) ++ (match b.cnt with | some t => t.loads (t.foot 1 e.h) | none => [])
      ++ b.x.loads ((ts.flatMap (·.2.2.2)).eraseDups)
      ++ ({ e with ow := b.y.ext 1 }).cropChain ((List.range nb).filter fun k => e.boxKind b n k == 0)
    wrs := ts.flatMap (·.1)
    counts := [(cWESKIP, (ts.filter fun t => t.2.1 == 1).length), (cWEINV, (ts.filter fun t => t.2.1 == 2).length)]
    conv := ts.foldl (fun a t => a.add t.2.2.1) Conv.zero }

/-- CROPRESIZE. -/
def execCropresize (core thread : Nat) : State → Host.Outcome State Fault Refusal :=
  onHw fun m => m.startOp core thread (fun e => e.h.opcode == 0x04) Env.cropBody

end Sys2Proof.Machine
end

