-- ==== Sys2Proof/Machine/OpBody.lean ====
section
/-! DEFINITION. The body of an op by its descriptor, and ops whose loads return what no one could know as they started: a
device-window page gives what the quay window holds when the load reaches the hub (07 R194), and a miscorrected word gives
altered data (06 R165). Such an op's values are formed once its loads are consumed. -/

namespace Sys2Proof.Machine

/-- The body of an op whose values follow from its operands. Ops that also choose work as they start, by what lies in a landing
or a routing image, are not among them: MATMUL with MARSHAL 1, SEND, RETURN and COMBINE keep what they read then (log 15). -/
def Env.bodyOf (e : Env) : Option Body :=
  match e.h.opcode with
  | 0x01 => if bitb e.d 404 then none else some e.matmulBody
  | 0x02 => some e.matvecBody
  | 0x03 => some (if bitb e.d 400 then e.argmaxBody else e.convBody)
  | 0x04 => some e.cropBody
  | 0x05 => some (if e.field 465 464 = 0 then e.attnFwdBody false else e.attnBwdBody)
  | 0x06 => some (e.attnFwdBody true)
  | 0x07 => some e.chainBody
  | 0x08 => some e.recurBody
  | 0x09 => some (if e.field 280 279 = 0 then e.exportBody else if e.field 280 279 = 1 then e.importBody else e.zeroBody)
  | 0x0A => some e.elemwiseBody
  | 0x0B => some e.normApplyBody
  | 0x10 => some e.moveBody
  | 0x11 => some e.gatherBody
  | 0x29 => if e.sealMode = 0 then some e.appendBody else none
  | _ => none

/-- A load's place, for a request that merged with it. -/
def Loc.shift (l : Loc) (a b : Nat) : Loc :=
  match l with
  | .ram k => .ram (k + b - a)
  | .host k => .host (k + b - a)
  | .quay o => .quay (o + b - a)

/-- A load returns something else than what stood at its place when its op started: a device-window page may have changed, and
the decoder may have left an error (06 R165, 07 R194). -/
def Loc.fresh (l : Loc) (rb : ReadBack) : Bool :=
  match l with
  | .quay _ => true
  | .ram _ => !rb.words.isEmpty
  | .host _ => false

/-- What such a load returns is noted with every op it serves. -/
def Hw.noteRead (m : Hw) (core : Nat) (l : Loc) (r : Req) (rb : ReadBack) (rs : List Req) : Hw :=
  if l.fresh rb then
    let bs (q : Req) : List Byte := m.readAt (l.shift r.va q.va) q.len rb
    m.updCore core fun c => { c with ops := c.ops.map fun p =>
      { p with seen := p.seen ++ (rs.filter fun q => q.op == p.no).map fun q => (q.va, bs q) } }
  else m

/-- The module as an op that started earlier finds it: the banks and the sequences are those of its start (05 R155, 08 R235,
R236). -/
def Hw.asFound (m : Hw) (core ctx : Nat) (f : AtStart) : Hw :=
  (m.updCore core fun c => { c with fset := { c.fset with active := f.fset }, route := { c.route with active := f.route } }).updCtx
    ctx fun x => { x with seqs := f.seqs }

/-- An op whose loads are consumed, some of them noted, forms its values from what they returned. -/
def Hw.reform (m : Hw) (core no : Nat) : Hw :=
  let c := m.core core
  match c.ops.find? fun o => o.no == no, c.ctx with
  | some o, some x =>
    if o.seen.isEmpty || c.reqs.any (fun r => r.op == no && !r.store) || o.todo.head?.any (fun r => !r.store) then m
    else match m.planOn x core with
      | none => m
      | some p =>
        let e : Env := { m := m.asFound core x o.found, core := core, ctx := x, thread := o.thread, plan := p.2, d := leNat (m.peek x o.addr 128)
                         h := o.hdr, addr := o.addr, ow := 0, tile := 0, seen := o.seen }
        match e.bodyOf with
        | none => m
        | some b =>
          let b := if b.seq.isSome then { b with opened := o.eff.opened, fault := o.eff.fault } else b
          let reqs := (mkReqs no o.thread o.hdr.tag b).dropWhile fun r => !r.store
          m.updCore core fun c => { c with ops := c.ops.map fun q =>
            if q.no == no then { q with eff := OpEffect.ofBody b, todo := reqs, seen := [] } else q }
  | _, _ => m

end Sys2Proof.Machine
end

