-- ==== Sys2Proof/Machine/Requests.lean ====
section
/-! DEFINITION. The request path: the reorder window (02 R40 to R43), responses and poison (06 R175 to R177), late ends, patrol scrub, and firmware's stop of a faulting context (06 R176). -/

namespace Sys2Proof.Machine

/-! ### The reorder window -/

/-- Home and device, channel, bank, row of a place; host memory has no bank. -/
def Hw.bankKey (m : Hw) (l : Option Loc) : Option (Nat × Nat × Nat × Nat) :=
  match l with
  | some (.ram k) =>
    let p := m.placeOf k
    some (16 * (k / 2 ^ 44) + p.1, p.2.1, p.2.2.1, p.2.2.2)
  | _ => none

def sameBank (a b : Option (Nat × Nat × Nat × Nat)) : Bool :=
  match a, b with
  | some x, some y => x.1 == y.1 && x.2.1 == y.2.1 && x.2.2.1 == y.2.2.1
  | _, _ => false

/-- Where a request goes: the frame its append takes, or the home its page has now. -/
def Hw.reqLoc (m : Hw) (ctx : Nat) (r : Req) : Option Loc :=
  match r.place with
  | some k => some (.ram k)
  | none => match m.locOf ctx r.va with
    | some (_, _, l) => l
    | none => none

/-- An older request to the same granule, one of the two a store, is not over (02 R42). -/
def Core.ordered (c : Core) (r : Req) : Bool :=
  c.reqs.all fun q => r.id ≤ q.id || q.va / 2048 != r.va / 2048 || !(q.store || r.store)

/-- Older requests to the same granule, one of the two a store, have issued (02 R42). -/
def Core.inOrder (c : Core) (r : Req) : Bool :=
  c.reqs.all fun q => r.id ≤ q.id || q.va / 2048 != r.va / 2048 || !(q.store || r.store) || q.issued.isSome || q.into.isSome

/-- A request can issue: translated in the core TLB, in order, its bank below the cap. -/
def Hw.issuable (m : Hw) (core ctx : Nat) (r : Req) : Bool :=
  let c := m.core core
  let b := m.bankKey (m.reqLoc ctx r)
  (r.place.isSome || (tlbHit c.tlb ctx r.va).isSome) && c.inOrder r
    && decide ((c.reqs.filter fun q => q.issued.isSome && sameBank (m.bankKey (m.reqLoc ctx q)) b).length < 8)

/-- The window has not issued a request in this cycle. Time runs in nanoseconds, so the cycle before stands open as well
(02 R41; DESIGN CHOICE, log 33). -/
def Core.issueFree (c : Core) (cyc : Nat) : Bool := c.issueNext ≤ cyc

/-- The request the window issues now. -/
def Hw.nextIssue (m : Hw) (core ctx : Nat) : Option Req :=
  let c := m.core core
  let can := c.window.filter (m.issuable core ctx)
  match can.find? fun r => 15 ≤ r.passed with
  | some r => some r
  | none =>
    match can.find? fun r => c.lastBank.isSome && m.bankKey (m.reqLoc ctx r) == c.lastBank with
    | some r => some r
    | none => can.head?

/-- The fault with which a request ends as it issues, if any (07 R189, R193, R203, 06 R174): an append alone stores to sequence
pages. -/
def Hw.issueFault (m : Hw) (core ctx : Nat) (r : Req) : Option Nat :=
  match r.place with
  | some k => if m.isFixed ctx && !(keyTier k == 0 && keyQ k == core / 64) then some 0x0283 else none
  | none => match m.locOf ctx r.va with
  | none => some 0x02C0
  | some (l, p, loc) =>
    if r.store && !r.append && (l.ro || m.seqPdi ctx l.pdi) then some 0x02C1
    else if m.isFixed ctx && !(p.moored && p.home == 0 && p.homeQ == core / 64) then some 0x0283
    else if loc.isNone then some (if p.home = 2 then 0x02C3 else 0x02C0)
    else none

def Hw.reqFault (m : Hw) (code core ctx : Nat) (r : Req) : FaultRec :=
  { FaultRec.base m code core r.thread r.tag ctx with va := r.va, store := r.store }

/-- A request leaves; its merged loads leave with it. -/
def Core.dropReq (c : Core) (id : Nat) : Core :=
  { c with reqs := c.reqs.filter fun r => r.id != id && r.into != some id }

/-- The requests one access serves: itself and what merged with it. -/
def Core.served (c : Core) (r : Req) : List Req := r :: c.reqs.filter fun q => q.into == some r.id

/-- Every op a list of requests belongs to, once, that is still in progress. -/
def Core.owners (c : Core) (rs : List Req) : List Nat :=
  ((rs.map (·.op)).eraseDups).filter fun n => c.ops.any fun o => o.no == n

/-- A served request ends with a fault: the op's thread stops when the op is still in progress. -/
def Hw.endWith (m : Hw) (core ctx : Nat) (r : Req) (f : FaultRec) : Hw :=
  if !r.quiet && (m.core core).ctx == some ctx && (m.core core).ops.any fun o => o.no == r.op then m.fault core r.thread f
  else m

def Hw.issueOne (m : Hw) (core ctx : Nat) (r : Req) : Hw :=
  match m.issueFault core ctx r with
  | some code =>
    let rs := (m.core core).served r
    let rec_ (q : Req) : FaultRec :=
      let f := m.reqFault code core ctx q
      if code = 0x0283 then (match m.reqLoc ctx q with | some l => f.place m l | none => f) else f
    let m := m.updCore core fun c => c.dropReq r.id
    (rs.foldl (fun m q => m.endWith core ctx q (rec_ q)) m).updCore core Core.fill
  | none =>
    let m := match m.locOf ctx r.va with
      | some (l, p, some (.host _)) => m.hostFill p (r.va - l.va)
      | _ => m
    m.updCore core fun c =>
      let old := c.window.map (·.id)
      { c with
        issueNext := max c.issueNext (m.cyc core - 1) + 1
        lastBank := m.bankKey (m.reqLoc ctx r)
        reqs := c.reqs.map fun q =>
          if q.id == r.id then { q with issued := some m.now }
          else if q.id < r.id && old.contains q.id then { q with passed := q.passed + 1 }
          else q }

/-- REQUEST_ISSUE. -/
def execRequestIssue (core : Nat) : State → Host.Outcome State Fault Refusal :=
  onHw fun m =>
    match (m.core core).ctx with
    | none => m
    | some x => if !m.clocked || !(m.core core).issueFree (m.cyc core) then m else match m.nextIssue core x with
      | none => m
      | some r => m.issueOne core x r

/-! ### Responses -/

/-- The bound of 50 µs (06 R175). -/
def lateBound : Nat := 50000

/-- One request served by a load's response: a word that is uncorrectable or marked ends it. -/
def Hw.loadEnds (m : Hw) (core ctx : Nat) (rb : ReadBack) (r : Req) : Hw :=
  match m.reqLoc ctx r with
  | none => m
  | some l => match m.readFault l r.len rb with
    | some f => m.endWith core ctx r { (m.reqFault f.1 core ctx r).place m l with synd := f.2 }
    | none => m

/-- A response within the bound. -/
def Hw.respond (m : Hw) (core ctx : Nat) (r : Req) (rb : ReadBack) : Hw :=
  match m.reqLoc ctx r with
  | none => m
  | some l =>
    let rs := (m.core core).served r
    let own := (m.core core).owners rs
    let old := m.mem.ram
    let m := if r.store then m.landAt l r.data rb else m.decoded l r.len rb
    let m := m.account ctx core l r.len r.store old
    let m := if r.store then m else m.noteRead core l r rb rs
    let m := m.updCore core fun c => c.dropReq r.id
    let m := if r.store then m else rs.foldl (fun m q => m.loadEnds core ctx rb q) m
    let m := own.foldl (fun m n => m.reform core n) m
    let m := own.foldl (fun m n => m.settle core n) (m.pumpFerries core)
    m.updCore core Core.fill

/-- The granule of a request is the one a migration has locked: the request waits at the controller (06 R170). -/
def Hw.locked (m : Hw) (ctx : Nat) (r : Req) : Bool :=
  match m.locOf ctx r.va with
  | some (l, _, _) =>
    (match m.migOf ctx l.pdi with
     | some g => g.lockedGranule == some ((r.va - l.va) / 2048)
     | none => false)
  | none => false

/-- REQUEST_COMPLETE. -/
def execRequestComplete (core req : Nat) (rb : ReadBack) : State → Host.Outcome State Fault Refusal :=
  onHw fun m =>
    let c := m.core core
    match c.ctx, c.reqs.find? fun r => r.id == req with
    | some x, some r =>
      (match r.issued with
       | some t => if m.now ≤ t + lateBound && c.ordered r && !m.locked x r then m.respond core x r rb else m
       | none => m)
    | _, _ => m

/-! ### Late ends -/

/-- LATE_RESPONSE_BOUND. -/
def execLateResponseBound (core req : Nat) : State → Host.Outcome State Fault Refusal :=
  onHw fun m =>
    let c := m.core core
    match c.ctx, c.reqs.find? fun r => r.id == req with
    | some x, some r =>
      (match r.issued, m.reqLoc x r with
       | some t, some l =>
         if t + lateBound ≤ m.now && !m.locked x r then
           let rs := c.served r
           let m := if r.store then m.lateStore l r.len else m
           let m := (m.updCore core fun c => c.dropReq r.id).lateNote core req l
           let m := rs.foldl (fun m q => m.endWith core x q ((m.reqFault 0x0281 core x q).place m l)) m
           m.updCore core Core.fill
         else m
       | _, _ => m)
    | _, _ => m

/-- LATE_ARRIVAL. -/
def execLateArrival (core req : Nat) : State → Host.Outcome State Fault Refusal :=
  onHw fun m =>
    match m.late.find? fun e => e.1 == core && e.2.1 == req with
    | none => m
    | some e =>
      let m := { m with late := m.late.erase e }
      match e.2.2 with
      | some ch => m.count 7 ch 2 1
      | none => m

/-! ### Faulting contexts -/

/-- CONTEXT_FAULT_STOP: firmware stops every thread, writes the records and posts the events. -/
def execContextFaultStop (ctx : Nat) : State → Host.Outcome State Fault Refusal :=
  onHw fun m =>
    match mget m.ctxs ctx with
    | none => m
    | some x =>
      if x.detected.isEmpty then m
      else
        let m := (m.stopThreads ctx).mayDecide.updCtx ctx fun y =>
          if y.st == .switching then { y with detected := [], back := .stopped }
          else { y with detected := [], st := .stopped, chosen := false }
        x.detected.foldl (fun m r => m.recordFault ctx r) m

/-! ### Patrol scrub (06 R167) -/

/-- The scrub period under way: the words read in an earlier one are forgotten. Periods begin at multiples of their length in tide
time (DESIGN CHOICE, log 54). -/
def Hw.scrubStart (m : Hw) : Hw :=
  let p := m.now / (m.mem.scrubHours * 3600 * 10 ^ 9)
  if p = m.mem.scrubPeriod then m else { m with mem := { m.mem with scrubbed := [], scrubPeriod := p } }

/-- The scrub reads a codeword: once in a period, and never in a retired frame (06 R167, R179). -/
def Hw.scrubs (m : Hw) (quarter tier word : Nat) : Bool :=
  decide (word * 64 < m.frameCap quarter tier * 65536) && !m.mem.scrubbed.contains (ramKey quarter tier (word * 64))
    && m.flash.retired.all fun r => r != (quarter, tier, word / 1024)

/-- PATROL_SCRUB: one codeword of a quarter's tier; a corrected word is written back as it was read. -/
def execPatrolScrub (quarter tier word : Nat) (rb : ReadBack) : State → Host.Outcome State Fault Refusal :=
  onHw fun m =>
    let m := m.scrubStart
    if m.boot == .done && quarter < 4 && tier < 2 && m.scrubs quarter tier word then
      let k := ramKey quarter tier (word * 64)
      let m := { m with mem := { m.mem with scrubbed := k :: m.mem.scrubbed } }
      match m.mem.readWord k (wordErrs rb (word % 32)) with
      | .plain .corrected => { m.corrected k with mem := (m.corrected k).mem.rewrite k rb }
      | .plain (.uncorrectable s) =>
        let m := (m.count 7 (m.chanOf k) 1 1).dirty
        { m with mem := m.mem.poison k 64 }.eventAux 0x0289 none (m.bankPayload k) s
      | _ => m
    else m

end Sys2Proof.Machine
end

