-- ==== Sys2Proof/Machine/Tensorizer.lean ====
section
/-! DEFINITION. Tensorizers (12 R327, R328): one output tensor from decoded frames or one live slot. -/

namespace Sys2Proof.Machine

/-- Three channel values of a pixel before colour conversion. -/
def pxOf (p : Picture) (x y : Nat) : List Word32 :=
  (List.range 3).map fun c =>
    let pl := lget p.planes c []
    f32ofNat (if pl.length = p.w * p.h then lget pl (y * p.w + x) 0 else Config.chroma p.w p.h x y pl)

/-- One output of a colour matrix: products exact, each sum rounded once. -/
def cscRow (csc range out : Nat) (v : List Word32) : Word32 :=
  let k (i : Nat) : FV := f32v (Config.csc csc range out i)
  let s := rne32 (((k 0).mul (f32v (lget v 0 f32zero))).add ((k 1).mul (f32v (lget v 1 f32zero))))
  let s := rne32 (((k 2).mul (f32v (lget v 2 f32zero))).add (f32v s))
  rne32 ((k 3).add (f32v s))

/-- A pixel after crop and colour conversion; with CROP_W 0 the source is the whole frame. -/
def TzCfg.pixel (t : TzCfg) (p : Picture) (x y : Nat) : List Word32 :=
  let v := if t.cropW = 0 then pxOf p x y else pxOf p (t.cropX + x) (t.cropY + y)
  if t.csc = 0 then v else (List.range 3).map fun c => cscRow t.csc t.range c v

def TzCfg.cw (t : TzCfg) (p : Picture) : Nat := if t.cropW = 0 then p.w else t.cropW
def TzCfg.ch (t : TzCfg) (p : Picture) : Nat := if t.cropW = 0 then p.h else t.cropH

/-- One output pixel, resized (09 R252, R253 with BND 1, or an area mean). -/
def TzCfg.resized (t : TzCfg) (p : Picture) (u v : Nat) : List Word32 :=
  let cw := t.cw p
  let ch := t.ch p
  if t.resize = 0 then
    let sx := samplePos (FV.ofInt 0) (FV.ofInt cw) u t.ow
    let sy := samplePos (FV.ofInt 0) (FV.ofInt ch) v t.oh
    let i := floorV (f32v sx)
    let j := floorV (f32v sy)
    let fx := (f32v sx).sub (FV.ofInt i)
    let fy := (f32v sy).sub (FV.ofInt j)
    let at_ (a b : Int) : List Word32 := t.pixel p (clampIx a cw) (clampIx b ch)
    let p00 := at_ i j; let p10 := at_ (i + 1) j; let p01 := at_ i (j + 1); let p11 := at_ (i + 1) (j + 1)
    (List.range 3).map fun c =>
      let g (l : List Word32) : Word32 := lget l c f32zero
      lerp (lerp (g p00) (g p10) fx) (lerp (g p01) (g p11) fx) fy
  else if cw % t.ow = 0 && ch % t.oh = 0 then
    let bw := cw / t.ow
    let bh := ch / t.oh
    let ps := (List.range bh).flatMap fun b => (List.range bw).map fun a => t.pixel p (u * bw + a) (v * bh + b)
    (List.range 3).map fun c =>
      let s := ps.foldl (fun a q => fadd a (lget q c f32zero)) f32zero
      fdiv (f32v s) (FV.ofInt (bw * bh))
  else
    (List.range 3).map fun c =>
      Config.areaMean t.ow t.oh u v
        ((List.range ch).flatMap fun y => (List.range cw).map fun x => lget (t.pixel p x y) c f32zero)

/-- One output pixel's bytes: normalised and converted in SAT mode. -/
def TzCfg.cell (t : TzCfg) (p : Picture) (u v : Nat) : List Byte :=
  let xs := t.resized p u v
  (rowEncode t.fmt false ((List.range 3).map fun c =>
    let x := f32v (lget xs c f32zero)
    f32v (rne32 ((x.sub (f32v (lget t.mean c f32zero))).mul (f32v (lget t.scale c f32zero)))))).1

/-- Bytes of one output frame and of the tensor. -/
def TzCfg.frameBytes (t : TzCfg) : Nat := t.oh * t.ow * rowBytes t.fmt 3
def TzCfg.bytes (t : TzCfg) : Nat := t.tf * t.frameBytes

/-- The source frame of each output frame. -/
def TzCfg.source (t : TzCfg) (fs : List Picture) (k : Nat) : Option Picture := fs[t.fs * k]?

/-- The tensor: frames beyond the decoded count are +0. -/
def TzCfg.tensor (t : TzCfg) (fs : List Picture) : List Byte :=
  (List.range t.tf).flatMap fun k => match t.source fs k with
    | none => zeros t.frameBytes
    | some p => (List.range t.oh).flatMap fun v => (List.range t.ow).flatMap fun u => t.cell p u v

/-- Mask bits: 1 where the output frame is valid (12 R329). -/
def TzCfg.mask (t : TzCfg) (fs : List Picture) : List Byte :=
  leBytes (ceilDiv t.tf 8) ((List.range t.tf).foldl (fun a k => a + b2n (t.source fs k).isSome * 2 ^ k) 0)

/-- Input pixels the tensorizer reads, at 2 per ns. -/
def TzCfg.ns (t : TzCfg) (fs : List Picture) : Nat :=
  ((List.range t.tf).foldl (fun a k => match t.source fs k with | some p => a + p.w * p.h | none => a) 0) / 2

end Sys2Proof.Machine
end

