-- ==== Sys2Proof/Machine/Ingest.lean ====
section
/-! DEFINITION. Ethernet ports, the flow table with its sender locks and quarantines, and live streams
(12 R307 to R320). -/

namespace Sys2Proof.Machine

/-- The module's units work: bring-up is done and no stop has taken the power (16 R421, 17 R436). -/
def Hw.live (m : Hw) : Bool := m.boot == .done && m.quay.st != .stopped

/-- The hub takes input: not in Anchor nor on the way out of it (16 R418), nor once a stop has begun (16 R429). -/
def Hw.hubOn (m : Hw) : Bool := m.live && m.quay.st != .stopping && (m.quay.ps == .run || m.quay.ps == .hold)

/-! ### Hub access to context memory -/

/-- An INT64 of context memory. -/
def Hw.int64 (m : Hw) (c va : Nat) : Int := signed 64 (leNat (m.peek c va 8))

/-- The hub reads an INT64, or finds it unreadable. -/
def Hw.hubInt64 (m : Hw) (c va : Nat) : Option Int × Hw :=
  let (d, m) := m.hubRead c va 8
  (if d.bad then none else some (signed 64 (leNat d.bytes)), m)

def pad64 (n : Nat) : Nat := ceilDiv n 64 * 64

/-! ### Status words (12 R329) -/

structure StatusWord where
  void : Bool
  partl : Bool
  hostdec : Bool
  trunc : Bool
  fill : Bool
  poison : Bool
  encOvf : Bool
  guideMiss : Bool
  reason : Nat
  framesOk : Nat
  seq : Nat
  tag : Nat
  srcW : Nat
  srcH : Nat
  lost : Nat
  firstLost : Nat
  deriving DecidableEq, Repr

def StatusWord.bytes (s : StatusWord) : List Byte :=
  leBytes 32 (packFields
    [(1, b2n s.void), (1, b2n s.partl), (1, b2n s.hostdec), (1, b2n s.trunc), (1, b2n s.fill), (1, b2n s.poison),
     (1, b2n s.encOvf), (1, b2n s.guideMiss), (8, 0), (16, s.reason), (32, s.framesOk), (64, s.seq), (32, s.tag),
     (16, s.srcW), (16, s.srcH), (16, s.lost), (16, s.firstLost), (32, 0)])

/-! ### Ports -/

def Hw.port (m : Hw) (p : Nat) : Port := lget m.ports p ⟨false, none, none⟩

def Hw.setPort (m : Hw) (p : Nat) (x : Port) : Hw := { m with ports := lset m.ports p x }

/-- A stranger: dropped and counted (12 R311). -/
def Hw.stranger (m : Hw) (p : Nat) : Hw := m.count 2 p 3 1

/-- A good frame of `n` bytes. -/
def Hw.rxFrame (m : Hw) (p n : Nat) : Hw := (m.count 2 p 0 1).count 2 p 1 n

/-! ### Matching and locks (12 R310, R313, R314) -/

def Flow.hits (f : Flow) (port : Nat) (p : Packet) : Bool :=
  f.ports.getLsbD port && f.v6 == p.v6 && f.dstIp == p.dstIp && f.dstUdp == p.dstUdp && f.pt == p.pt
    && (match p.vlan with | none => !f.vlanm | some v => f.vlanm && f.vlan == v)
    && (!f.srcm || (f.srcIp == p.srcIp && f.srcUdp == p.srcUdp)) && (!f.ssrcm || f.ssrc == p.ssrc)

inductive Verdict where
  | pass | stranger | collision
  deriving DecidableEq, Repr

/-- What the sender lock says of a matching packet. -/
def Flow.judge (f : Flow) (p : Packet) : Verdict :=
  match f.lock with
  | none => .pass
  | some (ip, udp, ssrc) =>
    if ssrc = p.ssrc then (if ip = p.srcIp && udp = p.srcUdp then .pass else .collision) else .stranger

/-- The quarantine that holds a packet's sender at an entry. -/
def Hw.quarOf (m : Hw) (e : Nat) (p : Packet) : Option (Nat × Quar) :=
  m.quars.find? fun q => q.2.entry == e && q.2.srcIp == p.srcIp && q.2.srcUdp == p.srcUdp

/-- A sender collides with the lock of entry `e`. -/
def Hw.collide (m : Hw) (port e : Nat) (f : Flow) (p : Packet) : Hw :=
  let m := m.count 2 port 4 1
  match chooseKey m.quars 256 256 with
  | some slot =>
    let l := f.lock.getD (0, 0, 0)
    let q : Quar := { entry := e, port := port, v6 := p.v6, srcIp := p.srcIp, srcUdp := p.srcUdp, ssrc := p.ssrc
                      dropped := 1 }
    { m with quars := mset m.quars slot q }.event 0x0380 (some f.ctx)
      [(16, e), (16, l.2.1), (16, p.srcUdp), (8, slot), (8, b2n f.v6), (32, l.1), (32, p.srcIp)]
  | none => { m with flows := mset m.flows e { f with pinned := true } }

/-! ### Frames of a live stream (12 R316 to R319) -/

/-- Width and height of the three planes. -/
def Stream.plane (s : Stream) (i : Nat) : Nat × Nat :=
  if i = 0 || s.samp = 2 then (s.w, s.h)
  else if s.samp = 0 then (s.w / 2, s.h) else (s.w / 2, s.h / 2)

def Stream.planeSize (s : Stream) (i : Nat) : Nat := (s.plane i).1 * (s.plane i).2

def Stream.bitmapBytes (s : Stream) : Nat := pad64 (ceilDiv s.h 8)

def Stream.sampleBytes (s : Stream) : Nat := 2 * (s.planeSize 0 + s.planeSize 1 + s.planeSize 2)

def Stream.slotBytes (s : Stream) : Nat := 64 + s.bitmapBytes + s.sampleBytes

def Stream.slotVa (s : Stream) (f : Nat) : Nat := s.ringVa + f % s.nslot * s.slotBytes

/-- First byte of a plane of a slot. -/
def Stream.planeVa (s : Stream) (f i : Nat) : Nat :=
  s.slotVa f + 64 + s.bitmapBytes + 2 * ((List.range i).foldl (fun a k => a + s.planeSize k) 0)

/-- The slot of frame `f` is free by a release word; by one that cannot be read it is not (DESIGN CHOICE, log 54). -/
def Stream.slotFree (s : Stream) (f : Nat) (rel : Option Int) : Bool :=
  match rel with
  | some r => decide ((f : Int) - s.nslot ≤ r)
  | none => false

/-- Samples of one row from column `off`, cut at the row's end. -/
def Hw.writeRow (m : Hw) (s : Stream) (f i row off : Nat) (xs : List Nat) : Hw :=
  let (w, h) := s.plane i
  if row < h && off < w then
    m.hubWrite s.ctx (s.planeVa f i + 2 * (row * w + off)) ((xs.take (w - off)).flatMap (leBytes 2)) false
  else m

/-- One run of a row that is whole. -/
def Hw.writeSeg (m : Hw) (s : Stream) (f : Nat) (g : Seg) : Hw :=
  let cx := if s.samp = 2 then g.off else g.off / 2
  let cy := if s.samp = 1 then g.row / 2 else g.row
  ((m.writeRow s f 0 g.row g.off g.p0).writeRow s f 1 cy cx g.p1).writeRow s f 2 cy cx g.p2

/-- The pixels of a row received so far, as bits; the run waits until its row is whole. -/
def FrameAsm.take (f : FrameAsm) (g : Seg) : FrameAsm :=
  { f with got := mset f.got g.row (mgetD f.got g.row 0 ||| (2 ^ g.p0.length - 1) <<< g.off), held := f.held ++ [g] }

def FrameAsm.rowWhole (f : FrameAsm) (w r : Nat) : Bool := mgetD f.got r 0 % 2 ^ w == 2 ^ w - 1

def FrameAsm.lost (f : FrameAsm) (w h : Nat) : List Nat := (List.range h).filter fun r => !f.rowWhole w r

/-- Rows that have become whole are written; a lost row leaves its samples as they were (12 R318). -/
def Hw.writeWhole (m : Hw) (s : Stream) (f : FrameAsm) : Hw × FrameAsm :=
  let n := (f.held.filter fun g => f.rowWhole s.w g.row).foldl (fun m g => m.writeSeg s f.no g) m
  (n, { f with held := f.held.filter fun g => !f.rowWhole s.w g.row, poison := f.poison || m.newLate n })

/-- Samples of 16 bits from sample `off` on. -/
def samples16 (bs : List Byte) (off n : Nat) : List Nat := (List.range n).map fun k => leNat ((bs.drop (2 * (off + k))).take 2)

/-- The picture that the samples of a slot make. -/
def Stream.picture (s : Stream) (bs : List Byte) : Picture :=
  { w := s.w, h := s.h
    planes := (List.range 3).map fun i =>
      samples16 bs ((List.range i).foldl (fun a k => a + s.planeSize k) 0) (s.planeSize i) }

/-- The per-frame tensor of a stream, written before the close signal, and whether a request for it ended poisoned. -/
def Hw.slotTensor (m : Hw) (s : Stream) (f : Nat) : Hw × Bool :=
  match s.tz with
  | none => (m, false)
  | some t =>
    let r := m.hubRead s.ctx (s.planeVa f 0) s.sampleBytes
    let p := s.picture r.1.bytes
    let n := (r.2.hubWrite s.ctx (s.tzVa + f % s.nslot * t.bytes) (t.tensor [p]) r.1.bad).count 8 s.ctx 1 (t.ns [p])
    (n, r.1.bad || m.newLate n)

/-- A 32-bit number joins those seen; what lies 2^31 or more behind it is forgotten, since the numbers wrap (log 44). -/
def recent (n : Nat) (l : List Nat) : List Nat := n :: l.filter fun k => (n + 2 ^ 32 - k % 2 ^ 32) % 2 ^ 32 < 2 ^ 31

def Hw.setStream (m : Hw) (n : Nat) (s : Stream) : Hw := { m with streams := mset m.streams n s }

/-- A frame closes: tensor, bitmap, header, then the signal (12 R317). -/
def Hw.closeFrame (m : Hw) (n : Nat) (s : Stream) (f : FrameAsm) : Hw :=
  let s := { s with frames := s.frames.filter (fun x => x.no != f.no), closed := recent f.ts s.closed }
  let m := m.setStream n s
  if f.dropped then m
  else
    let lost := f.lost s.w s.h
    let (m, bad) := m.slotTensor s f.no
    let bm := (List.range s.h).foldl (fun a r => a + b2n (f.rowWhole s.w r) * 2 ^ r) 0
    let tick := match m.island.tideCfg.bind fun t => t.tickAt m.now with
      | some k => k
      | none => 2 ^ 64 - 1
    let st : StatusWord :=
      { void := false, partl := !lost.isEmpty, hostdec := false, trunc := false, fill := false, poison := bad || f.poison
        encOvf := false, guideMiss := false, reason := 0, framesOk := 0, seq := f.no, tag := 0, srcW := 0, srcH := 0
        lost := lost.length, firstLost := lost.headD 0 }
    let hdr := leBytes 8 f.no ++ leBytes 8 f.ts ++ leBytes 8 f.firstAt ++ leBytes 8 tick ++ st.bytes
    let m := m.hubWrite s.ctx (s.slotVa f.no) (hdr ++ leBytes s.bitmapBytes bm) false
    let m := s.cores.foldl (fun m k => m.hubUpdate s.ctx k s.bol false 1#32) m
    ((m.count 4 n 0 1).count 4 n 1 (b2n !lost.isEmpty)).count 4 n 2 lost.length

/-- The frame a packet belongs to; a first packet opens it and takes the next FRAME_SEQ. -/
def Hw.frameFor (m : Hw) (n : Nat) (s : Stream) (ts : Nat) : Hw × Stream × FrameAsm :=
  match s.frames.find? fun f => f.ts == ts with
  | some f => (m, s, f)
  | none =>
    let (rel, m) := m.hubInt64 s.ctx s.relVa
    let ok := s.slotFree s.frameSeq rel
    let f : FrameAsm := { no := s.frameSeq, ts := ts, firstAt := m.now
                          tick := m.island.tideCfg.bind fun t => t.tickAt m.now, got := [], held := [], poison := false
                          dropped := !ok }
    let s := { s with frameSeq := s.frameSeq + 1, frames := s.frames ++ [f] }
    if ok then (m, s, f)
    else ((m.count 4 n 3 1).event 0x0382 (some s.ctx) [(16, n), (16, 0), (64, f.no)], s, f)

/-- An accepted packet of a stream (12 R317, R318). -/
def Hw.streamPacket (m : Hw) (port n : Nat) (s : Stream) (p : Packet) : Hw :=
  if s.seen.contains p.seq then m.count 2 port 5 1
  else
    let s := { s with seen := recent p.seq s.seen }
    if s.closed.contains p.ts then (m.setStream n s).count 2 port 6 1
    else
      let (m, s, f) := m.frameFor n s p.ts
      let f := p.segs.foldl FrameAsm.take f
      let (m, f) := if f.dropped then (m, { f with held := [] }) else m.writeWhole s f
      let s := { s with frames := s.frames.map fun x => if x.no == f.no then f else x }
      let m := m.setStream n s
      if (f.lost s.w s.h).isEmpty then m.closeFrame n s f else m

/-- A packet that passes its entry's lock (12 R312, R313). -/
def Hw.flowPacket (m : Hw) (port e : Nat) (f : Flow) (p : Packet) : Hw :=
  match mget m.streams f.stream with
  | none => m.count 2 port 13 1
  | some s =>
    if s.ctx != f.ctx || !s.entries.contains e then m.count 2 port 13 1
    else
      let f := if f.srcm && f.ssrcm then f
        else { f with lock := some (p.srcIp, p.srcUdp, p.ssrc), lockAt := m.now }
      ({ m with flows := mset m.flows e f }.count 2 port 2 1).streamPacket port f.stream s p

/-- An RTP packet that arrived whole (12 R310 to R314). -/
def Hw.rtp (m : Hw) (port : Nat) (p : Packet) : Hw :=
  match m.flows.find? fun f => f.2.hits port p with
  | none => m.stranger port
  | some (e, f) =>
    match m.quarOf e p with
    | some (slot, q) => { m with quars := mset m.quars slot { q with dropped := q.dropped + 1 } }.count 2 port 4 1
    | none =>
      match f.judge p with
      | .pass => m.flowPacket port e f p
      | .stranger => m.stranger port
      | .collision => m.collide port e f p

/-- The lengths of a frame that a port receives (12 R307). -/
def frameLen (n : Nat) : Bool := 64 ≤ n && n ≤ 9216

/-- A received frame takes effect (12 R307 to R319; in Anchor every such frame is a stranger, 16 R421). One of another length is
none that a port receives: it is dropped and counted as a stranger (DESIGN CHOICE, log 52). -/
def Hw.receive (m : Hw) (port : Nat) (frame : EthFrame) : Hw :=
  if !m.island.on || !(m.port port).up then m
  else match frame with
    | .badFcs => m.count 2 port 8 1
    | .other n => (m.rxFrame port n).stranger port
    | .rtp n p ends =>
      if m.hubOn && frameLen n then (m.rxFrame port n).withEnds ends fun m => m.rtp port p
      else (m.rxFrame port n).stranger port

/-- Frames of lower ports among the commands that wait: nothing but an empty queue lets time pass, so these have the same
timestamp as a frame that is taken now (12 R308). -/
def sooner (port : Nat) (l : List Instr) : List (Nat × EthFrame) :=
  (l.filterMap fun i => match i with
    | .ethernetFrameReceive p f => if p < port then some (p, f) else none
    | _ => none).mergeSort fun a b => decide (a.1 ≤ b.1)

/-- A frame takes effect ahead of its command. -/
def Hw.receiveEarly (m : Hw) (f : Nat × EthFrame) : Hw := { (m.receive f.1 f.2) with early := m.early ++ [f] }

/-- ETHERNET_FRAME_RECEIVE. Frames of one timestamp are taken by ascending port: those of lower ports that wait behind this
command come before it, and do nothing when their own command comes (12 R308). -/
def execEthernetFrameReceive (port : Nat) (frame : EthFrame) (s : State) : Host.Outcome State Fault Refusal :=
  onHw (fun m =>
    if m.early.contains (port, frame) then { m with early := m.early.erase (port, frame) }
    else
      let done := m.early
      let ahead := (sooner port s.pending).foldl (fun l f => if l.2.contains f then (l.1, l.2.erase f) else (l.1 ++ [f], l.2))
        (([] : List (Nat × EthFrame)), done)
      (ahead.1.foldl Hw.receiveEarly m).receive port frame) s

/-- FRAME_DL: the oldest frame past its deadline closes (12 R317). -/
def execFrameDl (run : HubRun) : State → Host.Outcome State Fault Refusal :=
  onHw fun m => m.withEnds run.ends fun m =>
    match mget m.streams run.no, m.island.tideCfg with
    | some s, some t =>
      match s.frames.find? fun f =>
          decide (t.at (match f.tick with | none => 0 | some k => k + 1) + s.frameDl ≤ m.now) with
      | none => m
      | some f => if m.hubOn then m.closeFrame run.no s f else m
    | _, _ => m

/-- LOCK_IDLE in ns of an entry: its stream's, or the default of 1 s (12 R313, R315). -/
def Hw.lockIdleNs (m : Hw) (f : Flow) : Nat :=
  match mget m.streams f.stream with
  | some s => if s.ctx == f.ctx then s.lockIdle * 10 ^ 6 else 10 ^ 9
  | none => 10 ^ 9

/-- SENDER_LOCK_RELEASE (12 R313; a pinned entry keeps its lock, R314). -/
def execSenderLockRelease (entry : Nat) : State → Host.Outcome State Fault Refusal :=
  onHw fun m =>
    match mget m.flows entry with
    | none => m
    | some f =>
      if m.hubOn && f.lock.isSome && !f.pinned && f.lockAt + m.lockIdleNs f ≤ m.now then
        ({ m with flows := mset m.flows entry { f with lock := none } }.event 0x0381 (some f.ctx)
          [(16, entry)]).count 4 f.stream 4 1
      else m

/-! ### Control protocols -/

/-- The port answers a control message addressed to it (12 R307). -/
def PortCfg.answers (c : PortCfg) : CtlMsg → Bool
  | .arp t => c.v4 && t == c.ip4
  | .neighbour t => c.v6 && t == c.ip6
  | .echo4 t _ => c.v4 && t == c.ip4
  | .echo6 t _ => c.v6 && t == c.ip6
  | .groupQuery v6 _ => if v6 then c.v6 else c.v4
  | .groupReport .. => false
  | .rtcp => false
  | .unsupported => false

/-- The tag of a message is that of the port's configuration. -/
def PortCfg.tagOk (c : PortCfg) (vlan : Option Nat) : Bool := vlan == if c.tagged then some c.vlan else none

def ctlInAnchor : CtlMsg → Bool
  | .arp _ => true
  | .neighbour _ => true
  | .echo4 .. => false
  | .echo6 .. => false
  | .groupQuery .. => false
  | .groupReport .. => false
  | .rtcp => false
  | .unsupported => false

/-- A multicast destination. -/
def multicast (v6 : Bool) (ip : Nat) : Bool := if v6 then ip / 2 ^ 120 == 0xFF else ip / 2 ^ 28 == 0xE

/-- Multicast destinations of the flow table on a port. -/
def Hw.groupsOn (m : Hw) (port : Nat) (v6 : Bool) : List Nat :=
  (((m.flows.map (·.2)).filter fun f => f.ports.getLsbD port && f.v6 == v6 && multicast v6 f.dstIp).map (·.dstIp)).eraseDups

/-- What the port sends in answer to a message: the reply to it, or a report of the groups asked for. -/
def Hw.ctlReply (m : Hw) (port : Nat) (msg : CtlMsg) : Option CtlMsg :=
  match msg with
  | .groupQuery v6 g =>
    let gs := (m.groupsOn port v6).filter fun k => g == 0 || k == g
    if gs.isEmpty then none else some (.groupReport v6 gs)
  | msg => some msg

/-- The groups of a port changed: an unsolicited report of the present ones (12 R307; log 52). -/
def Hw.reportGroups (m : Hw) (v6 : Bool) (ports : BitVec 4) : Hw :=
  (List.range 4).foldl (fun (m : Hw) p =>
    let x := m.port p
    match x.cfg with
    | some c => if ports.getLsbD p && x.up && (if v6 then c.v6 else c.v4) then
        m.setPort p { x with tx := some (.groupReport v6 (m.groupsOn p v6)) } else m
    | none => m) m

/-- CONTROL_PROTOCOL_MESSAGE, with its VLAN tag: the message's length is open, so RX_BYTES grows by a free value (log 4). -/
def execControlProtocolMessage (port : Nat) (frame : CtlFrame) : State → Host.Outcome State Fault Refusal :=
  onHw fun m =>
    let x := m.port port
    if !m.island.on || !x.up then m
    else
      let n := (Config.freeWord m.mem.free).toNat
      let m := { m with mem := { m.mem with free := m.mem.free + 1 } }.rxFrame port n
      match frame.msg with
      | .rtcp => if m.hubOn then m.count 2 port 7 1 else m.stranger port
      | msg =>
        match x.cfg with
        | some c =>
          if c.tagOk frame.vlan && c.answers msg && (m.hubOn || ctlInAnchor msg) then
            m.setPort port { x with tx := m.ctlReply port msg <|> x.tx }
          else m.stranger port
        | none => m.stranger port

/-- A change of a port's link (12 R338), with the codewords that its RS-FEC corrected and could not correct (18 R458). -/
def Hw.portLink (m : Hw) (port : Nat) (link : LinkReport) : Hw :=
  let m := (m.count 2 port 9 link.corr).count 2 port 10 link.uncorr
  let x := m.port port
  if x.up == link.up then m
  else ((m.setPort port { x with up := link.up }).count 2 port 12 (b2n !link.up)).event 0x0392 none
    [(8, port), (8, b2n link.up)]

/-- PORT_LINK_STATE_CHANGE; on a configured port in Anchor it is a wake (16 R420), the row ANCHOR_WAKE. -/
def execPortLinkStateChange (port : Nat) (link : LinkReport) : State → Host.Outcome State Fault Refusal :=
  onHw fun m =>
    if m.island.on && !(m.quay.ps == .anchor && (m.port port).cfg.isSome) then m.portLink port link else m

end Sys2Proof.Machine
end

