-- ==== Sys2Proof/Machine/Tide.lean ====
section
/-! DEFINITION. Tide synchronisation and ticks (16 R410 to R414). -/

namespace Sys2Proof.Machine

def Hw.updIsland (m : Hw) (f : Island → Island) : Hw := { m with island := f m.island }

/-- A change of the synchronisation state posts event 0x0580 (16 R411). -/
def Hw.setSync (m : Hw) (s : Sync) : Hw :=
  if m.island.sync == s then m
  else
    (m.updIsland fun i => { i with sync := s, goodSyncs := 0, stepped := i.stepped && s != .acquiring }).event 0x0580 none
      [(8, m.island.sync.code), (8, s.code), (16, 0), (64, wrapInt 64 m.island.offset)]

/-- Some fixed-timing plan is enabled. -/
def Hw.fixedPlan (m : Hw) : Bool := m.plans.any fun p => p.2.fixed.isSome && m.isFixed p.2.ctx

/-- The current tick is the largest n with t(n) at or before tide time (16 R414). -/
def Hw.beginTicks (m : Hw) : Hw :=
  match m.island.tideCfg with
  | none => m
  | some t =>
    let k := t.tickAt m.now
    if k = m.island.tick then m else m.updIsland fun i => { i with tick := k }

/-- The correcting rate in ACQUIRING: 100 ppm toward the time transmitter (16 R412; log 22). -/
def slewRate (offset : Int) : Int := if 1000 < offset then -100000 else if offset < -1000 then 100000 else 0

/-- One forward step, when tide is behind by more than 1 ms and no fixed-timing plan is enabled (16 R412). -/
def Hw.stepTide (m : Hw) : Hw :=
  let o := m.island.offset
  if o < -1000000 && !m.island.stepped && !m.fixedPlan then
    let m := m.updIsland fun i => { i with tide := i.tide + o.natAbs, offset := 0, stepped := true }
    m.beginTicks.event 0x0581 none [(64, o.natAbs)]
  else m

/-- A Sync message of the selected time transmitter, with the offset it gives (16 R411, R412). -/
def Hw.ptpSync (m : Hw) (offset : Int) : Hw :=
  let m := m.updIsland fun i => { i with offset := offset }
  match m.island.sync with
  | .acquiring =>
    let m := m.stepTide
    let o := m.island.offset
    let m := m.updIsland fun i =>
      { i with rate := slewRate o, goodSyncs := if offset.natAbs ≤ 1000 then i.goodSyncs + 1 else 0 }
    if 16 ≤ m.island.goodSyncs then m.setSync .locked else m
  | .locked => if 10000 < offset.natAbs then m.setSync .acquiring else m
  | .free => m
  | .holdover => m

/-- An Announce message that the best time transmitter algorithm judged (16 R411, R413). -/
def Hw.ptpAnnounce (m : Hw) (port gm : Nat) (selected : Bool) : Hw :=
  if !selected then m
  else
    let new := m.island.gm != some (gm, port)
    let m := m.updIsland fun i => { i with announceAt := m.now, gm := some (gm, port) }
    let m := if new then m.event 0x0582 none [(8, port), (24, 0), (64, gm)] else m
    match m.island.sync with
    | .free => m.setSync .acquiring
    | .holdover => m.setSync .acquiring
    | .acquiring => m
    | .locked => if new then m.setSync .acquiring else m

/-- PTP_MESSAGE: on a port TIDE_CFG does not name it is a stranger. Its length is open (log 4). -/
def execPtpMessage (port : Nat) (msg : PtpMsg) : State → Host.Outcome State Fault Refusal :=
  onHw fun m =>
    if !m.island.on || !(m.port port).up then m
    else
      let n := (Config.freeWord m.mem.free).toNat
      let m := { m with mem := { m.mem with free := m.mem.free + 1 } }.rxFrame port n
      match m.island.tideCfg with
      | none => m.stranger port
      | some t =>
        if !t.ports.testBit port then m.stranger port
        else
          let m := m.count 2 port 11 1
          match msg with
          | .announce gm selected => m.ptpAnnounce port gm selected
          | .sync gm offset => if m.island.gm == some (gm, port) then m.ptpSync offset else m
          | .other => m

/-- ANNOUNCE_TIMEOUT: the profile's timeout has passed without a valid Announce; the last disciplined rate is held, and a
correction under way in ACQUIRING ends (16 R411, R412; log 22). -/
def execAnnounceTimeout : State → Host.Outcome State Fault Refusal :=
  onHw fun m =>
    if m.island.on && (m.island.sync == .locked || m.island.sync == .acquiring) then
      (m.setSync .holdover).updIsland fun i => { i with rate := if m.island.sync == .locked then i.rate else 0 }
    else m

/-- TIDE_TICK (16 R414). -/
def execTideTick : State → Host.Outcome State Fault Refusal :=
  onHw fun m => if m.island.on then m.beginTicks else m

end Sys2Proof.Machine
end

