-- ==== Sys2Proof/Machine/Telemetry.lean ====
section
/-! DEFINITION. Snapshots of the counters (18 R455 to R457) and the firmware's beat (13 R354, R355). -/

namespace Sys2Proof.Machine

/-- The armed snapshot tick, once its instant has come. -/
def Hw.snapDue (m : Hw) : Option (Nat × Nat) :=
  match m.snap.armTick, m.island.tideCfg with
  | some n, some t => if t.at n ≤ m.now then some (n, t.at n) else none
  | _, _ => none

/-- The next tick of the arming. -/
def Snap.rearm (s : Snap) (n : Nat) : Snap := { s with armTick := if s.period = 0 then none else some (n + s.period) }

/-- SNAPSHOT_TICK: every counter is copied and the publication begins, or the tick is skipped. One that begins while the hub is
off takes no copy (13 R362; log 38). -/
def execSnapshotTick : State → Host.Outcome State Fault Refusal :=
  onHw fun m =>
    match m.snapDue with
    | none => m
    | some (n, at_) =>
      if !m.hubOn then { m with snap := m.snap.rearm n }
      else if m.snap.publishing then
        { m with snap := { m.snap with skipped := min (m.snap.skipped + 1) 0xFFFFFFFF }.rearm n }
      else
        let s := m.snap
        { m with snap := { s with shadow := m.counters, shadowTick := n, shadowTide := at_, publishing := true
                                  epoch := s.epoch + 1, epochB := s.epoch + 1 }.rearm n }

/-- SNAPSHOT_PUBLICATION: the blocks, then EPOCH_E. -/
def execSnapshotPublication : State → Host.Outcome State Fault Refusal :=
  onHw fun m =>
    let s := m.snap
    if s.publishing && m.hubOn then
      { m with snap := { s with publishing := false, area := s.shadow, areaTick := s.shadowTick
                                areaTide := s.shadowTide, areaPeriod := s.period, areaArmed := s.armTick.isSome
                                areaSkipped := s.skipped, epochE := s.epoch } }
    else m

/-- The harbourmaster runs: from step 2 of a bring-up on, not in Anchor, after a stop or without an authentic image. -/
def Hw.fwRuns (m : Hw) : Bool := (m.hubOn || m.quay.st == .selfTest) && m.quay.reason != 0x0910#16

/-- FW_BEAT. -/
def execFwBeat : State → Host.Outcome State Fault Refusal :=
  onHw fun m =>
    if m.fwRuns then
      { m with quay := { m.quay with fwBeat := m.quay.fwBeat + 1, fwBeatAt := m.now, fwAlive := true } }
    else m

/-- FW_DEAD (13 R355): firmware loses the commands it has in hand, whose pairs stay BUSY (14 R368). -/
def execFwDead : State → Host.Outcome State Fault Refusal :=
  onHw fun m =>
    if m.quay.fwAlive && m.quay.fwBeatAt + 10 ^ 9 ≤ m.now then
      { m with quay := { m.quay with fwAlive := false }, espor := { m.espor with order := [] } }.cause 4
    else m

end Sys2Proof.Machine
end

