-- ==== Sys2Proof/Machine/Teardown.lean ====
section
/-! DEFINITION. What resets and stops destroy: contexts and everything created for them (13 R343, 14 R372, 16 R429). -/

namespace Sys2Proof.Machine

/-- The frames of a context's pages, of its table pool and of its descriptors go back, zeroed. -/
def Hw.freeFrames (m : Hw) (x : Ctx) : Hw :=
  let m := x.pds.foldl (fun m p => m.freePage p.2) m
  let m := (x.pool ++ x.descFrames.map (·.2)).foldl (fun (m : Hw) f => { m with mem := m.mem.zeroFrames x.tableQ 0 f 1 }) m
  x.areas.foldl (fun (m : Hw) a => { m with mem := m.mem.zeroFrames a.1 0 a.2.1 a.2.2 }) m

/-- Every context, plan, queue, job, stream, flow entry, ring and window, and what is in flight for them. -/
def Hw.destroyAll (m : Hw) : Hw :=
  let m := m.ctxs.foldl (fun m c => (m.coreFaultLog c.1 0 false).freeFrames c.2) m
  { m with
    ctxs := [], plans := [], queues := [], postNo := 0, cores := [], saves := [], loads := [], quarterTlb := [], late := []
    hostTlb := [], ferries := [], creditsInFlight := [], engines := List.replicate 4 ⟨[], []⟩, flows := [], quars := []
    streams := [], jobs := [], moduleRing := none
    host := { m.host with windows := [], binds := [] }
    espor := { m.espor with deferred := [] }
    power := { m.power with target := none } }

/-- A host write in flight as a reset begins may complete or be dropped (13 R343): which of them do is free. -/
def Hw.cutHostWrite (m : Hw) (a : Nat) (r : Req) : Hw :=
  let n := if (Config.freeWord m.mem.free).getLsbD 0 then m.putLoc (.host a) r.data else m
  { n with mem := { n.mem with free := m.mem.free + 1 } }

/-- A request in flight completes before its core clears (02 R67); one that merged leaves with the one it merged with. -/
def Hw.finishReq (m : Hw) (k c : Nat) (r : Req) : Hw :=
  match (m.core k).reqs.find? fun q => q.id == r.id && q.issued.isSome, m.reqLoc c r with
  | some _, some (.host a) => if r.store then (m.cutHostWrite a r).updCore k fun d => d.dropReq r.id else m.respond k c r ⟨[]⟩
  | some _, some _ => m.respond k c r ⟨[]⟩
  | _, _ => m

/-- What the cores of every context have under way: their threads stop, requests in flight complete, signals on their way are
applied, and hub updates that reach a clearing core are dropped and counted (02 R67, R69). -/
def Hw.clearAll (m : Hw) : Hw :=
  let m := m.ctxs.foldl (fun m c => m.stopThreads c.1) m
  let m := m.cores.foldl (fun (m : Hw) (k : Nat × Core) => match k.2.ctx with
    | some c => (m.core k.1).reqs.foldl (fun m r => m.finishReq k.1 c r) m
    | none => m) m
  let m := m.cores.foldl (fun (m : Hw) (k : Nat × Core) =>
    ((m.core k.1).inbox.filter fun s => s.src < 256).foldl (fun m s => m.applySignal k.1 s) m) m
  m.dropSignals fun s => 256 ≤ s.src

/-- Configuration space after a Function Level Reset: PCI Express keeps the payload size, the Data Link Feature and what is sticky
(13 R343; PRESUMED, log 56). -/
def PcieCfg.afterFlr (c : PcieCfg) : PcieCfg := { PcieCfg.reset with mps := c.mps, dlf := c.dlf, aer := c.aer }

/-- Configuration space after a hot reset or a link-down: what is sticky stays. -/
def PcieCfg.afterHot (c : PcieCfg) : PcieCfg := { PcieCfg.reset with aer := c.aer }

/-- The function is reset (13 R343): its objects, pairs, configuration space, BARs, MSI-X state and snapshot arming. -/
def Hw.resetFunction (m : Hw) (cfg : PcieCfg → PcieCfg) : Hw :=
  let m := m.clearAll.destroyAll
  { m with
    espor := ⟨[], [], [], 0⟩
    host := { m.host with cfg := cfg m.host.cfg, bar2 := 34, windows := [], vecs := [], binds := [] }
    snap := { m.snap with armTick := none }
    quay := { m.quay with held := [] } }

/-- Every BUSY pair completes with a status. -/
def Hw.answerBusy (m : Hw) (status : Nat) : Hw :=
  m.espor.pairs.foldl (fun m p => if p.2.st == .busy then m.answer p.1 false status 0 [] else m) m

/-- The address space of both tiers loses its contents (16 R430). -/
def MemSys.lost (s : MemSys) : MemSys := { s with ram := [], marks := [], bankCorr := [] }

/-- FUNCTION_LEVEL_RESET (13 R343). -/
def execFunctionLevelReset : State → Host.Outcome State Fault Refusal :=
  onHw fun m => if m.boot == .done && m.host.up then m.resetFunction PcieCfg.afterFlr else m

/-- HOT_RESET (13 R343). -/
def execHotReset : State → Host.Outcome State Fault Refusal :=
  onHw fun m => if m.boot == .done && m.host.up then m.resetFunction PcieCfg.afterHot else m

/-- LINK_DOWN, or an assertion of PERST# (13 R343, 19 R473); QW_LINK keeps what the last training set. -/
def execLinkDown : State → Host.Outcome State Fault Refusal :=
  onHw fun m =>
    if m.host.up then
      let m := m.resetFunction PcieCfg.afterHot
      { m with host := { m.host with up := false } }
    else m

/-- PCIE_LINK_TRAINING: QW_LINK and LINK_LOW follow, and a training after the first counts (13 R339, R354). FLIT mode is
used at 64 GT/s; at other speeds the spec does not say, so the bit is free (log 4). -/
def execPcieLinkTraining (speed width : Nat) : State → Host.Outcome State Fault Refusal :=
  onHw fun m =>
    let ok := 1 ≤ speed && speed ≤ 6 && [1, 2, 4, 8, 16].contains width
    if m.boot == .off || !ok then m
    else
      let q := m.quay
      let q' := { q with speed := speed, width := width, flit := speed == 6 || (Config.freeWord m.mem.free).getLsbD 0
                         retrains := if q.speed = 0 then 0 else sat16 q.retrains
                         linkLow := speed < 6 || width < 16 }
      let m := { m with host := { m.host with up := true }, quay := q'
                        mem := { m.mem with free := m.mem.free + 1 } }
      if q' = q then m else m.cause 5

end Sys2Proof.Machine
end

