-- ==== Sys2Proof/Machine/Power.lean ====
section
/-! DEFINITION. Clocks, the capstan, supply throttles, orderly stops, conversion losses and thermal limits
(16 R422 to R434). -/

namespace Sys2Proof.Machine

def Hw.updPower (m : Hw) (f : Power → Power) : Hw := { m with power := f m.power }

/-- F_MIN in MHz (16 R424). -/
def fMin : Nat := 400

/-! ### Clock limits (16 R424) -/

def Power.thermalOf (p : Power) (q : Nat) : Nat := if p.inlet then fMin else lget p.thermal q fMin

/-- The lowest of a cluster's limits. -/
def Hw.clockLimit (m : Hw) (i : Nat) : Nat :=
  let p := m.power
  let l := min (min m.fuses.clk p.clkLimit) (min (lget p.capClk i fMin) (p.thermalOf (i / 8)))
  if (p.brown || p.bus48) && !p.restoring then min l fMin else l

def Hw.powered (m : Hw) (i : Nat) : Bool := m.power.quartersUp.getLsbD (i / 8)

/-- A cluster that is below its limit. -/
def Hw.below (m : Hw) (i : Nat) : Bool := m.powered i && lget m.power.clocks i 0 < m.clockLimit i

/-- THROTTLE of QW_STATUS: a supply or thermal throttle is in effect. -/
def Hw.showThrottle (m : Hw) : Hw :=
  m.setThrottle (m.power.brown || m.power.bus48 || m.power.hot != 0#4 || m.power.inlet)

/-- Event 0x0483 of a partition (15 R403, R409): cause 0 supply, 1 thermal. -/
def Hw.guarantee (m : Hw) (cause : Nat) (suspended : Bool) (part : Nat) : Hw :=
  m.event 0x0483 none [(8, part), (8, b2n suspended), (8, cause)]

def Hw.fixedParts (m : Hw) : List Nat := (m.parts.filter fun p => p.2.fixed).map (·.1)

/-- 0x0483 for every fixed-timing partition. -/
def Hw.guaranteeAll (m : Hw) (suspended : Bool) : Hw :=
  m.fixedParts.foldl (fun m p => m.guarantee 0 suspended p) m

/-- A partition has a plan whose declared clock is above `f` of some of its clusters. -/
def Hw.partBelow (m : Hw) (part : Nat) (f : Nat → Nat) : Bool :=
  match mget m.parts part with
  | none => false
  | some p =>
    m.plans.any fun l =>
      match l.2.fixed with
      | none => false
      | some d => m.fixedPart l.2.ctx == some part &&
          (List.range 32).any fun i => p.clusters.getLsbD i && decide (f i < d.frtMhz)

/-- Partitions that a thermal limit takes below F_RT (16 R432). -/
def Hw.thermalGuarantee (m : Hw) : Hw :=
  m.fixedParts.foldl (fun m p =>
    if !m.power.hotParts.contains p && m.partBelow p (fun i => m.power.thermalOf (i / 8)) then
      (m.updPower fun w => { w with hotParts := p :: w.hotParts }).guarantee 1 true p
    else m) m

/-- Partitions whose clocks are at F_RT again. -/
def Hw.thermalRestored (m : Hw) : Hw :=
  m.power.hotParts.foldl (fun m p =>
    if m.partBelow p (fun i => min (lget m.power.clocks i 0) (m.power.thermalOf (i / 8))) then m
    else (m.updPower fun w => { w with hotParts := w.hotParts.filter fun x => x != p }).guarantee 1 false p) m

/-- The restore after a supply throttle is over: every cluster has reached its limit (16 R428). -/
def Hw.finishRestore (m : Hw) : Hw :=
  let p := m.power
  if p.restoring && (List.range 32).all fun i => !m.below i then
    let m := m.updPower fun w => { w with brown := false, bus48 := false, restoring := false, riseAt := none
                                          rise48At := none }
    let m := if p.brown then
        let m := (m.updPower fun w => { w with dips := w.dips + 1 }).count 1 0 0 1
        m.event 0x0586 none [(16, p.vmin), (16, 0), (32, p.dipUs), (32, p.dips + 1)]
      else m
    let m := if p.bus48 then m.event 0x058A none [(16, m.quay.v400), (16, m.quay.v48), (8, 0)] else m
    (m.guaranteeAll false).showThrottle
  else m

/-- Clocks follow their limits: down at once, up through the capstan. -/
def Hw.retune (m : Hw) : Hw :=
  let m := m.updPower fun w =>
    { w with clocks := (List.range 32).map fun i => min (lget w.clocks i 0) (m.clockLimit i) }
  let asked := m.power.queue.any fun r => r.kind == 2
  let m := if (List.range 32).any m.below && !asked && m.power.queue.length < 32 then
      m.updPower fun w => { w with queue := w.queue ++ [⟨2, w.stepQ, m.now, false⟩] }
    else m
  m.thermalRestored.finishRestore

/-! ### The capstan (16 R422, R423) -/

/-- The capstan admits nothing during a supply warning or while the 48 V bus is below its clear level. -/
def Hw.capstanShut (m : Hw) : Bool := m.quay.warn || m.power.bus48Warn

/-- The current of a request in mA, as characterised: never more than the 100 A that a millisecond admits (log 11). -/
def reqCurrent (kind : Nat) : Nat := Config.capCurrent kind % 100001

/-- Limits of 100 A per ms, of 2 ms between quarters and of three steps in 10 µs. -/
def Hw.capstanAdmits (m : Hw) (r : CapReq) : Bool :=
  let p := m.power
  let ms := p.recent.filter fun a => m.now < a.1 + 10 ^ 6
  let amps := ms.foldl (fun a x => a + x.2.2) 0
  let steps := (p.recent.filter fun a => a.2.1 == 2 && m.now < a.1 + 10000).length
  decide (amps + reqCurrent r.kind ≤ 100000)
    && (r.kind != 0 || (match p.lastQuarterUp with | none => true | some t => decide (t + 2 * 10 ^ 6 ≤ m.now)))
    && (r.kind != 2 || decide (steps < 3))

/-- The quarter whose turn it is: passing over those with no cluster below its limit. -/
def Hw.stepTurn (m : Hw) : Option Nat :=
  ((List.range 4).map fun k => (m.power.stepQ + k) % 4).find? fun q =>
    (List.range 8).any fun i => m.below (8 * q + i)

/-- One step of 25 MHz of every cluster of a quarter that is below its limit. -/
def Hw.clockStep (m : Hw) : Hw :=
  match m.stepTurn with
  | none => m
  | some q =>
    m.updPower fun w =>
      { w with stepQ := (q + 1) % 4
               clocks := (List.range 32).map fun i =>
                 let c := lget w.clocks i 0
                 if i / 8 = q && m.below i then min (c + 25) (m.clockLimit i) else c }

/-- A request takes effect. -/
def Hw.capstanServe (m : Hw) (r : CapReq) : Hw :=
  match r.kind with
  | 0 => m.updPower fun w =>
      { w with quartersUp := w.quartersUp ||| (1#4 <<< r.q), lastQuarterUp := some m.now
               clocks := (List.range 32).map fun i => if i / 8 = r.q then fMin else lget w.clocks i 0 }
  | 1 => m.updPower fun w => { w with hubUp := true }
  | _ => m.clockStep

/-- CAPSTAN_ADMISSION: the oldest request is admitted if the limits allow it. -/
def execCapstanAdmission : State → Host.Outcome State Fault Refusal :=
  onHw fun m =>
    match m.power.queue with
    | [] => m
    | r :: rest =>
      if !m.island.on || m.quay.st == .stopped || m.capstanShut || !m.capstanAdmits r then m
      else
        let m := m.updPower fun w =>
          { w with queue := rest
                   recent := (m.now, r.kind, reqCurrent r.kind)
                     :: w.recent.filter fun a => m.now < a.1 + 10 ^ 7 }
        (m.capstanServe r).retune

/-- WAKE_BOUND_EXPIRY: a request that has waited longer than WAKE_BOUND posts 0x0583 once. -/
def execWakeBoundExpiry : State → Host.Outcome State Fault Refusal :=
  onHw fun m =>
    match m.power.queue.find? fun r => !r.warned && decide (r.at_ + m.power.wakeBound * 1000 < m.now) with
    | none => m
    | some r =>
      let mark (l : List CapReq) : List CapReq := l.map fun x => if x = r then { x with warned := true } else x
      ((m.updPower fun w => { w with queue := mark w.queue }).event 0x0583 none
        [(8, r.kind), (8, if r.kind = 1 then 4 else r.q), (16, 0), (32, (m.now - r.at_) / 1000)]).count 1 0 3 1

/-! ### The power cap (16 R425) -/

/-- Clusters of the shared pool that are powered. -/
def Hw.poolClusters (m : Hw) : List Nat :=
  (List.range 32).filter fun i => m.powered i && !(m.parts.any fun p => p.2.clusters.getLsbD i)

/-- The input power that must not be exceeded, in W. -/
def Power.limitW (p : Power) : Nat := match p.convCap with | none => p.pwrLimit | some c => min p.pwrLimit c

/-- Lowers the highest clocked shared-pool clusters one step each. -/
def Hw.capLower (m : Hw) : Hw :=
  let pool := m.poolClusters
  let top := pool.foldl (fun a i => max a (lget m.power.clocks i 0)) 0
  (m.updPower fun w =>
    { w with capClk := (List.range 32).map fun i =>
        if pool.contains i && lget w.clocks i 0 == top then max fMin (top - 25) else lget w.capClk i fMin }).retune

def Hw.capRaise (m : Hw) : Hw :=
  let pool := m.poolClusters
  (m.updPower fun w =>
    { w with overSince := none, noted := false
             capClk := (List.range 32).map fun i =>
               let c := lget w.capClk i fMin
               if pool.contains i then min m.fuses.clk (c + 25) else c }).retune

/-- POWER_CAP_EVALUATION: `watts` is the input power averaged over the last millisecond. -/
def execPowerCapEvaluation (watts : Nat) : State → Host.Outcome State Fault Refusal :=
  onHw fun m =>
    if !m.hubOn then m
    else
      let m := { m with quay := { m.quay with pIn := watts } }
      let limit := m.power.limitW
      if limit < watts then
        let m := m.updPower fun w => { w with overSince := w.overSince <|> some m.now }
        if m.power.noted then m else m.capLower
      else if 100 * watts < 95 * limit then m.capRaise
      else m.updPower fun w => { w with overSince := none, noted := false }

/-- POWER_LIMIT_NOT_MET: 10 ms over the limit with the shared pool at F_MIN. -/
def execPowerLimitNotMet : State → Host.Outcome State Fault Refusal :=
  onHw fun m =>
    match m.power.overSince with
    | none => m
    | some t =>
      if m.hubOn && !m.power.noted && t + 10 ^ 7 ≤ m.now && m.poolClusters.all fun i => lget m.power.clocks i 0 ≤ fMin then
        (m.updPower fun w => { w with noted := true }).event 0x0584 none [(16, m.quay.pIn), (16, m.power.limitW)]
      else m

/-! ### Supply throttles (16 R426, R428) -/

/-- QW_SUPPLY.WARN changes: QW_CAUSE.SUPPLY. -/
def Hw.setWarn (m : Hw) (b : Bool) : Hw :=
  if m.quay.warn = b then m else { m with quay := { m.quay with warn := b } }.cause 1

/-- A reading of the input; one outside 360 V to 420 V ends the time that it has stayed there (16 R430). -/
def Hw.setV400 (m : Hw) (v : Nat) : Hw :=
  { m with quay := { m.quay with v400 := v }
           power := { m.power with steadyFrom := if 36000 ≤ v && v ≤ 42000 then m.power.steadyFrom else m.now } }
def Hw.setV48 (m : Hw) (v : Nat) : Hw := { m with quay := { m.quay with v48 := v } }

/-- A brown-warning crossing: voltages in the units of QW_SUPPLY. -/
def Hw.brownCross (m : Hw) (v400 v48 : Nat) : Hw :=
  let first := !m.power.brown
  let m := (m.setV400 v400).setV48 v48
  let m := m.updPower fun w =>
    { w with brown := true, restoring := false, riseAt := none
             dipUs := if first then 0 else w.dipUs, vmin := if first then v400 else min w.vmin v400 }
  let m := ((m.retune.setWarn true).showThrottle).cause 0
  (m.event 0x0585 none [(16, v400), (16, v48)]).guaranteeAll true

/-- BROWN_WARNING: a crossing of 340 V, or, while the warning stands, a further reading below it (log 26). -/
def execBrownWarning (v400 v48 : Nat) : State → Host.Outcome State Fault Refusal :=
  onHw fun m =>
    if !m.island.on || 34000 ≤ v400 then m
    else if m.quay.warn then
      ((m.setV400 v400).setV48 v48).updPower fun w => { w with vmin := min w.vmin v400 }
    else m.brownCross v400 v48

/-- BROWN_WARNING_CLEAR: a rise above 350 V ends the warning, and the recovery timer starts; `below` is the time in µs that the
input has spent below 340 V since the crossing. Before the restore a later rise, after a fall below 350 V that crossed no
warning, starts the timer anew (log 26). -/
def execBrownWarningClear (v400 below : Nat) : State → Host.Outcome State Fault Refusal :=
  onHw fun m =>
    if m.island.on && 35000 < v400 && m.power.brown && !m.power.restoring then
      ((m.setV400 v400).updPower fun w =>
        { w with riseAt := some m.now, dipUs := w.dipUs + if m.quay.warn then below else 0 }).setWarn false
    else m

/-- A throttle whose recovery timer has run for 1 ms, or that is not in effect. -/
def timerDone (now : Nat) (on : Bool) (t : Option Nat) : Bool :=
  !on || (match t with | none => false | some a => decide (a + 10 ^ 6 ≤ now))

/-- RECOVERY_TIMER: 1 ms after the rise the capstan restores the clocks. -/
def execRecoveryTimer : State → Host.Outcome State Fault Refusal :=
  onHw fun m =>
    let p := m.power
    if m.island.on && (p.brown || p.bus48) && !p.restoring && !m.capstanShut && timerDone m.now p.brown p.riseAt
        && timerDone m.now p.bus48 p.rise48At then
      (m.updPower fun w => { w with restoring := true }).retune
    else m

/-- BUS48_THROTTLE. -/
def execBus48Throttle (v400 v48 : Nat) : State → Host.Outcome State Fault Refusal :=
  onHw fun m =>
    if !m.island.on || m.power.bus48Warn || 44000 ≤ v48 then m
    else
      let first := !m.power.bus48
      let m := (m.setV400 v400).setV48 v48
      let m := m.updPower fun w => { w with bus48 := true, bus48Warn := true, restoring := false, rise48At := none }
      let m := (m.retune.showThrottle).count 1 0 1 (b2n first)
      (m.event 0x058A none [(16, v400), (16, v48), (8, 1)]).guaranteeAll true

/-- BUS48_CLEAR: recovery starts. -/
def execBus48Clear (v400 v48 : Nat) : State → Host.Outcome State Fault Refusal :=
  onHw fun m =>
    if m.island.on && m.power.bus48 && !m.power.restoring && 46000 < v48 then
      ((m.setV400 v400).setV48 v48).updPower fun w => { w with bus48Warn := false, rise48At := some m.now }
    else m

/-- INPUT_OVERVOLTAGE_WARNING. -/
def execInputOvervoltageWarning (v400 : Nat) : State → Host.Outcome State Fault Refusal :=
  onHw fun m =>
    if m.island.on && !m.power.overWarn && 42500 < v400 then
      ((m.setV400 v400).updPower fun w => { w with overWarn := true }).event 0x0588 none [(16, v400)]
    else m

/-- INPUT_OVERVOLTAGE_CLEAR. -/
def execInputOvervoltageClear (v400 : Nat) : State → Host.Outcome State Fault Refusal :=
  onHw fun m =>
    if m.island.on && m.power.overWarn && v400 < 42000 then
      (m.setV400 v400).updPower fun w => { w with overWarn := false }
    else m

/-! ### Orderly stops (16 R429, R430) -/

/-- There is something to stop: the island runs, and no stop has begun. -/
def Hw.stoppable (m : Hw) : Bool := m.island.on && m.quay.st != .stopped && m.quay.st != .stopping

/-- A stop begins, also during a bring-up, which ends: cores and media intake stop, 0x0587 is posted and BUSY pairs complete with
0x0009. -/
def Hw.orderlyStop (m : Hw) (reason : Nat) : Hw :=
  if !m.stoppable then m
  else
    let m := { m with boot := .done, coming := none }
    let m := { m with cores := m.cores.map fun (c : Nat × Core) => (c.1, c.2.stopAll) }
    let m := m.setStatus .stopping (BitVec.ofNat 16 reason)
    let p := [(16, reason), (16, m.quay.v400)]
    let m := (m.event 0x0587 none p).logError reason none false (packFields p) 0
    m.answerBusy 0x0009

/-- INPUT_UNDERVOLTAGE_STOP. -/
def execInputUndervoltageStop (v400 : Nat) : State → Host.Outcome State Fault Refusal :=
  onHw fun m => if v400 < 30000 && m.island.on then (m.setV400 v400).orderlyStop 0x0510 else m

/-- INPUT_OVERVOLTAGE_STOP: above 440 V for 10 µs. -/
def execInputOvervoltageStop (v400 : Nat) : State → Host.Outcome State Fault Refusal :=
  onHw fun m => if 44000 < v400 && m.island.on then (m.setV400 v400).orderlyStop 0x0511 else m

/-- BUS48_STOP. -/
def execBus48Stop (v48 : Nat) : State → Host.Outcome State Fault Refusal :=
  onHw fun m => if v48 < 40000 && m.island.on then (m.setV48 v48).orderlyStop 0x0512 else m

/-- RAIL12_STOP. -/
def execRail12Stop (v12 : Nat) : State → Host.Outcome State Fault Refusal :=
  onHw fun m =>
    if v12 < 108 && m.island.on then { m with quay := { m.quay with v12 := v12 } }.orderlyStop 0x0513 else m

/-- ORDERLY_STOP_COMPLETE: power is removed and no memory content survives. -/
def execOrderlyStopComplete : State → Host.Outcome State Fault Refusal :=
  onHw fun m =>
    if m.live && m.quay.st == .stopping then
      let m := m.destroyAll
      let m := { m with mem := m.mem.lost }.updPower fun w =>
        { w with quartersUp := 0#4, hubUp := false, queue := [], clocks := List.replicate 32 0, steadyFrom := m.now }
      m.setStatus .stopped m.quay.reason
    else m

/-- INPUT_POWER_LOSS: every unit off; only the configuration flash and the fuses remain (16 R426, R430). Error-log records
are numbered from manufacture (18 R459). -/
def execInputPowerLoss : State → Host.Outcome State Fault Refusal :=
  onHw fun m =>
    let z := Hw.reset
    { z with boot := .off, flash := m.flash, fuses := m.fuses
             island := { z.island with on := false, errNext := m.island.errNext }
             mem := { z.mem with host := m.mem.host, free := m.mem.free } }

/-! ### Conversion units (16 R431) -/

/-- CONVERSION_UNIT_LOSS: group 0 is the 48 V stage, 1 + q quarter q, whose number of phases the spec does not give (log 4). -/
def execConversionUnitLoss (group unit : Nat) : State → Host.Outcome State Fault Refusal :=
  onHw fun m =>
    if !m.island.on then m
    else
      let n := lget m.power.lost group 0 + 1
      let left := if group = 0 then 6 - n else (Config.freeWord m.mem.free).toNat % 256
      let cap := if group = 0 && n = 2 then 4100 else Config.convPower group left
      let m := { m with mem := { m.mem with free := m.mem.free + 1 } }
      let m := m.updPower fun w =>
        { w with lost := lset w.lost group n
                 convCap := if n < 2 then w.convCap
                   else some (match w.convCap with | none => cap | some c => min c cap) }
      m.dirty.event 0x0589 none [(8, group), (8, unit), (8, left)]

/-! ### Thermal limits (16 R432) -/

/-- A change of thermal throttle: THROT, QW_CAUSE.THERMAL and event 0x058B. -/
def Hw.thermalChange (m : Hw) (site : Nat) (begun : Bool) (temp limit : Nat) : Hw :=
  let m := { m with quay := { m.quay with throt := m.power.hot != 0#4 || m.power.inlet } }.cause 2
  let m := (m.count 1 0 2 (b2n begun)).event 0x058B none [(8, site), (8, b2n begun), (16, temp), (16, limit)]
  m.showThrottle.thermalGuarantee

def Hw.setTq (m : Hw) (q temp : Nat) : Hw := { m with quay := { m.quay with tq := lset m.quay.tq q temp } }

/-- A quarter's thermal limit falls by 100 MHz, down to F_MIN. -/
def Hw.thermalFall (m : Hw) (q : Nat) : Hw :=
  (m.updPower fun w =>
    { w with thermal := lset w.thermal q (max fMin (lget w.thermal q fMin - 100))
             lastThermal := lset w.lastThermal q m.now }).retune

/-- QUARTER_THERMAL_THROTTLE: temperatures are codes of QW_THERMAL; 105 °C is 250. -/
def execQuarterThermalThrottle (quarter temp : Nat) : State → Host.Outcome State Fault Refusal :=
  onHw fun m =>
    if m.island.on && 250 ≤ temp && m.power.quartersUp.getLsbD quarter && !m.power.hot.getLsbD quarter then
      let m := (m.setTq quarter temp).updPower fun w => { w with hot := w.hot ||| (1#4 <<< quarter) }
      let m := m.thermalFall quarter
      m.thermalChange quarter true temp (lget m.power.thermal quarter fMin)
    else m

/-- THERMAL_LIMIT_STEP: each 100 µs at or above 105 °C. -/
def execThermalLimitStep (quarter temp : Nat) : State → Host.Outcome State Fault Refusal :=
  onHw fun m =>
    if m.island.on && m.power.hot.getLsbD quarter && lget m.power.lastThermal quarter 0 + 10 ^ 5 ≤ m.now then
      let m := m.setTq quarter temp
      if 250 ≤ temp then (m.thermalFall quarter).thermalGuarantee else m
    else m

/-- THERMAL_RECOVERY: 10 ms at or below 100 °C, code 240; the limit rises through the capstan. -/
def execThermalRecovery (quarter temp : Nat) : State → Host.Outcome State Fault Refusal :=
  onHw fun m =>
    if m.island.on && m.power.hot.getLsbD quarter && temp ≤ 240 then
      let m := (m.setTq quarter temp).updPower fun w =>
        { w with hot := w.hot &&& ~~~(1#4 <<< quarter), thermal := lset w.thermal quarter m.fuses.clk }
      (m.thermalChange quarter false temp m.fuses.clk).retune
    else m

/-- COOLANT_INLET_LIMIT: above 45 °C, code 130. -/
def execCoolantInletLimit (temp : Nat) : State → Host.Outcome State Fault Refusal :=
  onHw fun m =>
    if m.island.on && !m.power.inlet && 130 < temp then
      let m := { m with quay := { m.quay with tcool := temp } }.updPower fun w => { w with inlet := true }
      m.retune.thermalChange 5 true temp fMin
    else m

/-- COOLANT_INLET_CLEAR: at 43 °C, code 126. -/
def execCoolantInletClear (temp : Nat) : State → Host.Outcome State Fault Refusal :=
  onHw fun m =>
    if m.island.on && m.power.inlet && temp ≤ 126 then
      let m := { m with quay := { m.quay with tcool := temp } }.updPower fun w => { w with inlet := false }
      (m.thermalChange 5 false temp m.fuses.clk).retune
    else m

/-- CRITICAL_TEMPERATURE: site 0 to 3 a quarter at 115 °C, site 4 the hub at 110 °C, for 1 ms. -/
def execCriticalTemperature (site temp : Nat) : State → Host.Outcome State Fault Refusal :=
  onHw fun m =>
    if m.island.on && (if site < 4 then 270 else 260) ≤ temp then
      let m := if site < 4 then m.setTq site temp else { m with quay := { m.quay with thub := temp } }
      let m := if m.quay.crit then m else { m with quay := { m.quay with crit := true } }.cause 2
      m.orderlyStop 0x0514
    else m

/-! ### The status pins (19 R474) -/

/-- ALERT#: a throttle, a critical temperature, or a state of Not-Ready, stopping or stopped. -/
def Hw.alertPin (m : Hw) : Bool :=
  m.quay.throttle || m.quay.crit || m.quay.st == .notReady || m.quay.st == .stopping || m.quay.st == .stopped

def Hw.stbyOk (m : Hw) : Bool := m.island.on

/-- PRSNT#, tied to ground on the module (19 R472). -/
def prsntPin : Bool := false

end Sys2Proof.Machine
end

