-- ==== Sys2Proof/Machine/PowerState.lean ====
section
/-! DEFINITION. Power states: Run, Hold, Anchor and Waking (16 R418 to R420). -/

namespace Sys2Proof.Machine

/-- QW_STATUS.PSTATE changes: QW_CAUSE.STATE_CHG and event 0x058C. -/
def Hw.setPs (m : Hw) (p : PState) : Hw :=
  if m.quay.ps == p then m
  else ({ m with quay := { m.quay with ps := p } }.cause 0).event 0x058C none [(8, m.quay.ps.code), (8, p.code)]

/-- The module returns to Run: runs that waited start (16 R419). -/
def Hw.toRun (m : Hw) : Hw :=
  let m := m.setPs .run
  let m := (m.ctxs.filter fun c => c.2.st == .resident).foldl (fun m c => m.startRuns c.1) m
  m.decide_

/-- In Hold, a TAIL write, a bollard doorbell or PSTATE with target Run returns the module to Run. -/
def Hw.unhold (m : Hw) : Hw := if m.quay.ps == .hold then m.toRun else m

/-- A run in progress that still has to complete before Hold or Anchor. -/
def Hw.runsLeft (m : Hw) : Bool :=
  m.plans.any fun p => match p.2.run with
    | some r => r.started && (match mget m.ctxs p.2.ctx with | some x => x.st != .stopped | none => false)
    | none => false

/-- The slipway saves every context whose state is on cores. -/
def Hw.outAll (m : Hw) : Hw :=
  m.mayDecide.ctxs.foldl (fun (m : Hw) (c : Nat × Ctx) =>
    let m := if c.2.st != .stopped && !c.2.recov.isEmpty then m.recover c.1 else m
    let x := c.2
    let m := ((m.ctxCores c.1).filter fun k => m.runs k c.1).foldl
      (fun m k => m.outCore c.1 (x.st == .stopped) k) m
    m.updCtx c.1 fun x => { x with st := if x.st == .resident then .runnable else x.st, chosen := false
                                   quantumUp := false }) m

/-- The report of PSTATE: event 0x0010. -/
def Hw.pstateDone (m : Hw) (pair seq : Nat) : Hw :=
  m.eventDone none pair seq 0x0501 0 0 0

/-- HOLD_ENTRY_COMPLETE: the runs in progress are complete; Hold or Anchor is reached. -/
def execHoldEntryComplete : State → Host.Outcome State Fault Refusal :=
  onHw fun m =>
    match m.power.target with
    | none => m
    | some (t, pair, seq) =>
      if m.runsLeft || !m.hubOn || m.quay.ps == t then m
      else
        let go := m.updPower fun w => { w with target := none }
        match t with
        | .hold => (go.pstateDone pair seq).setPs .hold
        | .anchor =>
          if (m.ctxs.any fun c => c.2.st == .switching) || !(m.ctxs.all fun c => m.drained c.1) then m
          else
            let m := ((go.outAll.pstateDone pair seq).setPs .anchor).keepPtrs
            m.updPower fun w =>
              { w with quartersUp := 0#4, hubUp := false, queue := [], clocks := List.replicate 32 0 }
        | .run => m
        | .waking => m

/-- ANCHOR_WAKE: the capstan is asked for the hub and the four quarters. -/
def execAnchorWake (src : WakeSource) : State → Host.Outcome State Fault Refusal :=
  onHw fun m =>
    if !m.live || m.quay.ps != .anchor then m
    else
      let wake (m : Hw) : Hw :=
        (m.setPs .waking).updPower fun w =>
          { w with queue := ⟨1, 0, m.now, false⟩ :: (List.range 4).map fun q => ⟨0, q, m.now, false⟩ }
      match src with
      | .heldWrite => if m.quay.held.isEmpty then m else wake m
      | .portLink p l =>
        if p < 4 && (m.port p).cfg.isSome && (m.port p).up != l.up then (wake m).portLink p l else m

end Sys2Proof.Machine
end

