-- ==== Sys2Proof/Machine/Bringup.lean ====
section
/-! DEFINITION. Parts of a bring-up: firmware authentication, the fast path's conditions, core mapping, the topology check and the
health record (17 R439 to R451). -/

namespace Sys2Proof.Machine

/-! ### Images (17 R442, R443) -/

def field (l : List Byte) (off n : Nat) : List Byte := (l.drop off).take n

def num (l : List Byte) (off n : Nat) : Nat := leNat (field l off n)

/-- The header's shape: 0x0901 where it is malformed. -/
def imageShape (l : List Byte) : Bool :=
  512 ≤ l.length && l.length ≤ 1048576 && num l 0 2 == 1 && num l 2 1 ≤ 3 && num l 3 1 == 0 && num l 4 4 ≤ 64
    && num l 16 1 ≤ 7 && num l 17 7 == 0 && num l 24 4 == l.length - 512 && num l 28 4 == 0
    && (field l 273 239).all fun b => b == 0

/-- The bit of PARTS that stands for the module's part. -/
def Fuses.partBit (f : Fuses) : Nat := if f.part = 0x948#12 then 0 else if f.part = 0x936#12 then 1 else 2

/-- The first condition of R443 that an image breaks, as its class 0x09 code. -/
def imageFault (f : Fuses) (l : List Byte) : Option Nat :=
  let key := num l 2 1
  if !imageShape l then some 0x0901
  else if Config.sha384 (field l 80 97) != lget f.keys key 0#384 || f.revoked.getLsbD key then some 0x0903
  else if !Config.ecdsaVerify (field l 80 97) (field l 177 96) (l.take 80) then some 0x0902
  else if leBytes 48 (Config.sha384 (l.drop 512)).toNat != field l 32 48 then some 0x0905
  else if !(num l 16 1).testBit f.partBit then some 0x0906
  else if num l 4 4 < f.minSvn then some 0x0904
  else none

def Slot.fault (f : Fuses) : Slot → Option Nat
  | .empty => some 0x0901
  | .factory _ _ => none
  | .image l => imageFault f l

def Slot.ver : Slot → BitVec 32
  | .empty => 0#32
  | .factory v _ => v
  | .image l => BitVec.ofNat 32 (num l 8 4)

def Slot.build : Slot → BitVec 32
  | .empty => 0#32
  | .factory _ b => b
  | .image l => BitVec.ofNat 32 (num l 12 4)

def Slot.svn : Slot → Nat
  | .empty => 0
  | .factory _ _ => 0
  | .image l => num l 4 4

def Flash.slot (f : Flash) (b : Bool) : Slot := if b then f.slotB else f.slotA

/-- The slot the ROM boots, with FALLBACK and BOOT_REASON; `hung` is a trial image that did not come up (17 R444). -/
def Hw.bootSlot (m : Hw) (hung : Bool) : Option (Bool × Bool × Nat) :=
  let f := m.flash
  let ok (b : Bool) : Bool := ((f.slot b).fault m.fuses).isNone
  match f.trial with
  | some b =>
    match (f.slot b).fault m.fuses, hung with
    | none, false => some (b, false, 0)
    | none, true => if ok (!b) then some (!b, true, 0x0907) else none
    | some r, _ => if ok (!b) then some (!b, true, r) else none
  | none => if ok f.activeB then some (f.activeB, false, 0) else if ok (!f.activeB) then some (!f.activeB, false, 0) else none

/-! ### The expected-topology record (17 R446, R449) -/

def QuarterWord.num (w : QuarterWord) : Nat :=
  packFields [(7, w.cores), (1, b2n w.present), (4, w.stackBits.toNat), (4, 0), (16, w.pkgs.toNat), (2, w.hubh.toNat), (30, 0)]

/-- Bytes 0 to 247 of the record. -/
def TopoRec.body (r : TopoRec) : List Byte :=
  leBytes 2 r.tver.toNat ++ leBytes 2 r.part.toNat ++ leBytes 4 r.cfgGen.toNat
    ++ r.quarters.flatMap (fun w => leBytes 8 w.num) ++ leBytes 1 r.qqlink.toNat ++ zeros 23
    ++ r.chanRet.flatMap (fun c => leBytes 16 c.toNat) ++ zeros 120

/-- Every write increments CFG_GEN. -/
def TopoRec.written (r : TopoRec) : TopoRec :=
  let r := { r with cfgGen := r.cfgGen + 1 }
  { r with crc := crc64 r.body }

def TopoRec.quarter (r : TopoRec) (q : Nat) : QuarterWord := lget r.quarters q ⟨0, false, 0#4, 0#16, 0#2⟩

/-- One retirement in the record. -/
def TopoRec.retire (r : TopoRec) (u : PendingUnit) : TopoRec :=
  let w := r.quarter u.quarter
  match u.kind with
  | 0 => { r with chanRet := lset r.chanRet u.quarter (lget r.chanRet u.quarter 0#128 ||| (1#128 <<< (32 * u.dev + u.chan))) }
  | 1 => { r with quarters := lset r.quarters u.quarter { w with stackBits := w.stackBits &&& ~~~(1#4 <<< u.dev) } }
  | _ => { r with quarters := lset r.quarters u.quarter { w with pkgs := w.pkgs &&& ~~~(1#16 <<< u.dev) } }

/-- Step 2: pending retirements enter the record. -/
def Flash.applyPending (f : Flash) : Flash :=
  match f.topo with
  | none => f
  | some r => if f.pending.isEmpty then f
    else { f with topo := some (f.pending.foldl TopoRec.retire r).written, pending := [] }

/-! ### The fast path (17 R440) -/

/-- The status of the first fast-path condition that fails, or 0. -/
def Hw.fastStatus (m : Hw) (build : BitVec 32) : Nat :=
  let h := m.island.health
  let gen := match m.flash.topo with | some r => r.cfgGen | none => 0#32
  if !h.valid || h.hver != 1#16 || h.crc != crc64 h.body then 0x0620
  else if h.dirty then 0x0621
  else if h.cfgGen != gen then 0x0622
  else if h.fwBuild != build then 0x0623
  else if 63 ≤ h.warms then 0x0624
  else 0

/-! ### What was found (17 R445, R447) -/

def countBits {n : Nat} (b : BitVec n) : Nat := ((List.range n).filter fun i => b.getLsbD i).length

/-- QQLINK or HUBLINK code of a link with a number of working lanes. -/
def linkCode (lanes data spare : Nat) : Nat :=
  if lanes < data then 3 else if data + spare ≤ lanes then 0 else if lanes = data then 2 else 1

/-- Spares left on a link, or retired; a link the record retires stays retired. -/
def foundLink (lanes data spare : Nat) (inService : Bool) : Link :=
  if inService && data ≤ lanes then ⟨min spare (lanes - data), false⟩ else ⟨0, true⟩

/-- Links of the record: every one where the record is missing. -/
def recQq (r : Option TopoRec) (i : Nat) : Bool := match r with | some r => r.qqlink.getLsbD i | none => true
def recHub (r : Option TopoRec) (q h : Nat) : Bool := match r with | some r => (r.quarter q).hubh.getLsbD h | none => true

def linksOf (r : Option TopoRec) (f : Found) : Map Link :=
  (List.range 6).map (fun i => (i, foundLink (lget f.qqLanes i 0) 64 4 (recQq r i)))
    ++ (List.range 8).map fun i => (8 + i, foundLink (lget f.hubLanes i 0) 16 1 (recHub r (i / 2) (i % 2)))

/-- Trained stacks and packages of a quarter that the record does not retire. -/
def stacksOf (r : Option TopoRec) (f : Found) (q : Nat) : BitVec 4 :=
  let t := f.stackBits.extractLsb' (4 * q) 4
  match r with | some r => t &&& (r.quarter q).stackBits | none => t

def pkgsOf (r : Option TopoRec) (f : Found) (q : Nat) : BitVec 16 :=
  let t := lget f.pkgs q 0#16
  match r with | some r => t &&& (r.quarter q).pkgs | none => t

/-- The mapping of R445: ascending good cores fill the first CORES_q positions. -/
def Phys.map (good : BitVec 68) (cores : Nat) : Phys :=
  let gs := (List.range 68).filter fun p => good.getLsbD p
  ⟨good, (List.range 64).map fun i => if i < cores then gs[i]? else none⟩

def coresOf (r : Option TopoRec) (good : BitVec 68) (q : Nat) : Nat :=
  match r with | some r => (r.quarter q).cores | none => min 64 (countBits good)

def linkShow (l : Link) (spare : Nat) : Nat :=
  if l.retired then 3 else if l.spares = 0 then 2 else if l.spares < spare then 1 else 0

/-- QW_TOPOLOGY as discovered. -/
def Hw.discovered (m : Hw) (r : Option TopoRec) (f : Found) : Topology :=
  { cores := m.phys.map fun p => (p.fills.filter Option.isSome).length
    spares := m.phys.map fun p => min 4 p.spares
    stackBits := (List.range 4).map (stacksOf r f)
    present := (List.range 4).map fun q => f.quarters.getLsbD q
    qq := (List.range 6).map fun i => linkShow (m.link i) 4
    hub := (List.range 8).map fun i => linkShow (m.link (8 + i)) 1
    pkgs := (List.range 4).map fun q => countBits (pkgsOf r f q)
    gen := m.quay.topo.gen }

/-- The agreement check: the status of the first failure, or 0 (17 R447). -/
def agreement (fuses : Fuses) (r : Option TopoRec) (f : Found) (good : List (BitVec 68)) (hubOk : Bool) : Nat :=
  match r with
  | none => 0x0610
  | some r =>
    let qs := List.range 4
    if r.tver != 1#16 || r.crc != crc64 r.body then 0x0610
    else if r.part.toNat != fuses.part.toNat then 0x0611
    else if !qs.all fun q => f.quarters.getLsbD q then 0x0612
    else if !qs.all fun q =>
        let w := r.quarter q
        (f.stackBits.extractLsb' (4 * q) 4 &&& w.stackBits == w.stackBits) &&
          (List.range 128).all fun c => !w.stackBits.getLsbD (c / 32) || (lget r.chanRet q 0#128).getLsbD c ||
            !(lget f.badChans q 0#128).getLsbD c then 0x0613
    else if !qs.all fun q => lget f.pkgs q 0#16 &&& (r.quarter q).pkgs == (r.quarter q).pkgs then 0x0614
    else if !((List.range 6).all fun i => !r.qqlink.getLsbD i || decide (64 ≤ lget f.qqLanes i 0)) ||
        !((List.range 8).all fun i => !recHub (some r) (i / 2) (i % 2) || decide (16 ≤ lget f.hubLanes i 0)) then 0x0615
    else if !qs.all fun q => decide ((r.quarter q).cores ≤ countBits (lget good q 0#68)) then 0x0616
    else if !hubOk then 0x0617
    else 0

/-! ### Degraded operation (17 R451) -/

def Hw.anyRetired (m : Hw) : Bool :=
  let t := m.quay.topo
  !m.flash.retired.isEmpty || m.phys.any (fun p => countBits p.good < 68) || t.cores.any (fun n => n < 64) || t.stackBits.any (fun s => s != 0xF#4)
    || t.pkgs.any (fun n => n < 16) || t.qq.any (fun c => c == 3) || t.hub.any (fun c => c == 3)
    || (match m.flash.topo with | some r => r.chanRet.any fun c => c != 0#128 | none => false)

def Hw.showDegraded (m : Hw) : Hw := { m with quay := { m.quay with degraded := m.anyRetired } }

/-! ### Step 9 -/

/-- Core mapping, QW_TOPOLOGY, the agreement check, the health record and the state. -/
def Hw.stepNine (m : Hw) (f : Found) (good : List (BitVec 68)) (hubOk : Bool) (h : Health) : Hw :=
  let r := m.flash.topo
  let m := { m with
    phys := (List.range 4).map fun q => Phys.map (lget good q 0#68) (coresOf r (lget good q 0#68) q)
    links := linksOf r f, outOfService := 0#256 }
  let m := m.setTopo (m.discovered r f)
  let code := agreement m.fuses r f good hubOk
  let gen := match r with | some r => r.cfgGen | none => 0#32
  let m := m.setHealth { h with valid := true, cfgGen := gen, good := good }
  let m := m.showDegraded
  if code = 0 then
    -- a trial image that reaches Ready becomes active (17 R444)
    let m := match m.flash.trial with
      | some b => if m.flash.booted then
          { m with flash := { m.flash with activeB := b, trial := none, booted := false }
                   fuses := { m.fuses with minSvn := max m.fuses.minSvn (m.flash.slot b).svn } }
        else m
      | none => m
    m.setStatus .ready 0#16
  else m.setStatus .notReady (BitVec.ofNat 16 code)

end Sys2Proof.Machine
end

