-- ==== Sys2Proof/Machine/HostSpace.lean ====
section
/-! DEFINITION. Configuration space and BAR4 of the host function (13 R339, R340, R343, R344, R347). The spec gives what is there; the
header is PCI Express's, and the places of the capabilities in it are the model's (log 56). -/

namespace Sys2Proof.Machine

/-! ### BAR2 and the MSI-X table -/

/-- BAR2 takes a size from 16 GiB to 8 TiB; a resize unmaps every window (13 R344, R345). -/
def Hw.resizeBar2 (m : Hw) (log2 : Nat) : Hw :=
  if m.host.up && 34 ≤ log2 && log2 ≤ 43 then { m with host := { m.host with bar2 := log2, windows := [] } } else m

/-- The mask bit of a vector: a message that it held is sent as it clears (13 R347). -/
def Hw.setMask (m : Hw) (vec : Nat) (masked : Bool) : Hw :=
  { m with host :=
      ({ m.host with vecs := mset m.host.vecs vec { m.host.vec vec with masked := masked } }).release m.now vec }

/-- Eight bytes of BAR4: the table of 16-byte entries from 0, the pending bits at 0x8000 (13 R344). -/
def bar4Word (m : Hw) (off : Nat) : Nat :=
  if off < 1024 then
    let x := m.host.vec (off / 16)
    if off % 16 = 0 then x.addr else x.data + b2n x.masked * 2 ^ 32
  else if off = 0x8000 then (List.range 64).foldl (fun a v => a + b2n (m.host.vec v).pend * 2 ^ v) 0
  else 0

/-- One double word of a table entry. -/
def Hw.tableDword (m : Hw) (off v : Nat) : Hw :=
  let n := off / 16
  let x := m.host.vec n
  let put (y : Vec) : Hw := { m with host := { m.host with vecs := mset m.host.vecs n y } }
  match off % 16 with
  | 0 => put { x with addr := x.addr - x.addr % 2 ^ 32 + v }
  | 4 => put { x with addr := x.addr % 2 ^ 32 + v * 2 ^ 32 }
  | 8 => put { x with data := v }
  | _ => m.setMask n (bitb v 0)

/-- A write of 4 or 8 bytes to BAR4; the pending bits are read-only. -/
def Hw.bar4Write (m : Hw) (off : Nat) (bytes : List Byte) : Hw :=
  let n := bytes.length
  if off < 1024 && (n == 4 || n == 8) && off % n == 0 then
    (List.range (n / 4)).foldl (fun m i => m.tableDword (off + 4 * i) (leNat ((bytes.drop (4 * i)).take 4))) m
  else m

/-! ### Configuration space -/

def PcieCfg.bar (c : PcieCfg) (i : Nat) : Nat := lget c.bars i 0

def PcieCfg.aerReg (c : PcieCfg) (i : Nat) : Nat := lget c.aer i 0

/-- A double word of configuration space: the Type 0 header with the identifiers of R340, then the capabilities of R339. The
device identifier has the variant's digits and 0 below them. -/
def configDword (m : Hw) (off : Nat) : Nat :=
  let c := m.host.cfg
  let lo (x : Nat) : Nat := x % 2 ^ 32
  let hi (x : Nat) : Nat := x / 2 ^ 32
  match off with
  | 0x00 => packFields [(16, Config.vendorId.toNat), (16, m.fuses.part.toNat * 16)]
  | 0x04 => packFields [(1, 0), (1, b2n c.memEn), (1, b2n c.busMaster), (17, 0), (1, 1)]
  | 0x08 => packFields [(4, m.fuses.stepL), (4, m.fuses.stepD), (24, 0x120000)]
  | 0x10 => lo (c.bar 0) + 4
  | 0x14 => hi (c.bar 0)
  | 0x18 => lo (c.bar 1) + 12
  | 0x1C => hi (c.bar 1)
  | 0x20 => lo (c.bar 2) + 4
  | 0x24 => hi (c.bar 2)
  | 0x34 => 0x40
  | 0x40 => packFields [(8, 0x01), (8, 0x50), (3, 3)]
  | 0x44 => if c.d3 then 3 else 0
  | 0x50 => packFields [(8, 0x10), (8, 0x90), (4, 2)]
  | 0x54 => packFields [(3, 2), (25, 0), (1, 1)]
  | 0x58 => packFields [(4, 0), (1, b2n c.relaxed), (3, c.mps), (4, 0), (3, c.mrrs)]
  | 0x74 => packFields [(4, 0xF), (1, 1)]
  | 0x78 => c.cto
  | 0x90 => packFields [(8, 0x11), (8, 0), (11, 63), (3, 0), (1, b2n c.funcMask), (1, b2n c.msixEn)]
  | 0x94 => 4
  | 0x98 => 0x8000 + 4
  | 0x100 => packFields [(16, 0x0001), (4, 2), (12, 0x140)]
  | 0x104 => c.aerReg 0
  | 0x108 => c.aerReg 1
  | 0x10C => c.aerReg 2
  | 0x110 => c.aerReg 3
  | 0x114 => c.aerReg 4
  | 0x118 => packFields [(5, 0), (1, 1), (1, b2n c.ecrcGen), (1, 1), (1, b2n c.ecrcChk)]
  | 0x140 => packFields [(16, 0x0003), (4, 1), (12, 0x150)]
  | 0x144 => lo Config.serial.toNat
  | 0x148 => hi Config.serial.toNat
  | 0x150 => packFields [(16, 0x0015), (4, 1), (12, 0x160)]
  | 0x154 => packFields [(18, 0), (10, 0x3FF)]
  | 0x158 => packFields [(3, 2), (2, 0), (3, 1), (6, m.host.bar2 - 20)]
  | 0x160 => packFields [(16, 0x0025), (4, 1), (12, 0)]
  | 0x164 => b2n c.dlf * 2 ^ 31
  | _ => 0

/-- A base address keeps no bit below the BAR's size. -/
def alignTo (x n : Nat) : Nat := x - x % n

/-- Sizes of BAR0, BAR2 and BAR4 (13 R344). -/
def Hw.barSize (m : Hw) (i : Nat) : Nat := if i = 0 then 2 ^ 22 else if i = 1 then 2 ^ m.host.bar2 else 2 ^ 16

/-- One double word of configuration space takes `v`; `w` holds the bits that the host wrote as 1. -/
def Hw.setConfig (m : Hw) (off v w : Nat) : Hw :=
  let c := m.host.cfg
  let put (c : PcieCfg) : Hw := { m with host := ({ m.host with cfg := c }).releaseAll m.now }
  let bar (i : Nat) (x : Nat) : Hw := put { c with bars := lset c.bars i (alignTo x (m.barSize i)) }
  let clear (i : Nat) : Hw := put { c with aer := lset c.aer i (c.aerReg i - (c.aerReg i &&& w)) }
  let aer (i : Nat) : Hw := put { c with aer := lset c.aer i v }
  match off with
  | 0x04 => put { c with memEn := bitb v 1, busMaster := bitb v 2 }
  | 0x10 => bar 0 (alignTo (c.bar 0) (2 ^ 32) + v)
  | 0x14 => bar 0 (c.bar 0 % 2 ^ 32 + v * 2 ^ 32)
  | 0x18 => bar 1 (alignTo (c.bar 1) (2 ^ 32) + v)
  | 0x1C => bar 1 (c.bar 1 % 2 ^ 32 + v * 2 ^ 32)
  | 0x20 => bar 2 (alignTo (c.bar 2) (2 ^ 32) + v)
  | 0x24 => bar 2 (c.bar 2 % 2 ^ 32 + v * 2 ^ 32)
  | 0x44 => if bits v 1 0 = 0 then put { c with d3 := false } else if bits v 1 0 = 3 then put { c with d3 := true } else m
  | 0x58 =>
    let m := put { c with relaxed := bitb v 4, mps := min (bits v 7 5) 2, mrrs := min (bits v 14 12) 5 }
    if bitb v 15 then m.resetFunction PcieCfg.afterFlr else m
  | 0x78 => put { c with cto := bits v 3 0 }
  | 0x90 => put { c with funcMask := bitb v 30, msixEn := bitb v 31 }
  | 0x104 => clear 0
  | 0x108 => aer 1
  | 0x10C => aer 2
  | 0x110 => clear 3
  | 0x114 => aer 4
  | 0x118 => put { c with ecrcGen := bitb v 6, ecrcChk := bitb v 8 }
  | 0x158 => m.resizeBar2 (20 + bits v 13 8)
  | 0x164 => put { c with dlf := bitb v 31 }
  | _ => m

/-- A configuration write of 1, 2 or 4 bytes, naturally aligned, while the link is up. -/
def Hw.configWrite (m : Hw) (off : Nat) (bytes : List Byte) : Hw :=
  let n := bytes.length
  if m.boot == .done && m.host.up && (n == 1 || n == 2 || n == 4) && off % n == 0 then
    let a := alignTo off 4
    let w := leNat bytes * 256 ^ (off % 4)
    let old := configDword m a
    m.setConfig a (old - (old &&& ((256 ^ n - 1) * 256 ^ (off % 4))) + w) w
  else m

end Sys2Proof.Machine
end

