-- ==== Sys2Proof/Machine/Media.lean ====
section
/-! DEFINITION. Upload jobs: intake, the compressed-input guard, decoders, the prepared-batch queue, starvation handling and
encoders (12 R321 to R337). -/

namespace Sys2Proof.Machine

def Hw.setJob (m : Hw) (n : Nat) (j : Job) : Hw := { m with jobs := mset m.jobs n j }

def Job.setSample (j : Job) (seq : Nat) (s : Sample) : Job := { j with samples := mset j.samples seq s }

/-! ### The queue's layout (12 R329) -/

def Job.maskBytes (j : Job) : Nat := ceilDiv j.tz.tf 8

def Job.slotBytes (j : Job) : Nat :=
  64 + j.batch * 32 + pad64 (j.batch * j.maskBytes) + j.batch * j.tz.bytes

def Job.slotVa (j : Job) (b : Nat) : Nat := j.qVa + 64 + b % j.nqb * j.slotBytes

def Job.statusVa (j : Job) (seq : Nat) : Nat := j.slotVa (seq / j.batch) + 64 + 32 * (seq % j.batch)

def Job.maskVa (j : Job) (seq : Nat) : Nat :=
  j.slotVa (seq / j.batch) + 64 + 32 * j.batch + seq % j.batch * j.maskBytes

def Job.tensorVa (j : Job) (seq : Nat) : Nat :=
  j.slotVa (seq / j.batch) + 64 + 32 * j.batch + pad64 (j.batch * j.maskBytes) + seq % j.batch * j.tz.bytes

/-- Batch slot b mod NQB is free for batch b, by the release word as last read (12 R331). -/
def Job.slotFree (j : Job) (b : Nat) : Bool := decide ((b : Int) - j.nqb ≤ j.released)

def Sample.status (s : Sample) (seq : Nat) : StatusWord :=
  { void := s.void, partl := false, hostdec := s.codec == 5, trunc := s.trunc, fill := s.fill, poison := s.poison
    encOvf := s.encOvf, guideMiss := s.guideMiss, reason := s.reason, framesOk := s.pics.length, seq := seq
    tag := s.tag, srcW := s.srcW, srcH := s.srcH, lost := 0, firstLost := 0 }

/-- The encoder has no more to do with a sample. -/
def Job.encDone (j : Job) (s : Sample) : Bool :=
  s.void || s.noenc || j.enc.isNone || s.encStop || s.pics.length ≤ s.encNext

/-! ### Writing samples and completing batches (12 R330) -/

/-- Position of a sample: tensor, mask and status, and the job's counts; a store of theirs that ends late sets POISON (12 R329). -/
def Hw.writeSample (m : Hw) (n : Nat) (j : Job) (seq : Nat) (s : Sample) : Hw :=
  let t := if s.void then zeros j.tz.bytes else j.tz.tensor s.pics
  let k := if s.void then zeros j.maskBytes else j.tz.mask s.pics
  let o := (m.hubWrite j.ctx (j.tensorVa seq) t false).hubWrite j.ctx (j.maskVa seq) k false
  let s := { s with poison := s.poison || m.newLate o }
  let m := o.hubWrite j.ctx (j.statusVa seq) (s.status seq).bytes false
  let s := { s with poison := s.poison || o.newLate m }
  let b := seq / j.batch
  let j := j.setSample seq { s with st := .written }
  let j := if mhas j.firstAt b then j else { j with firstAt := mset j.firstAt b m.now }
  let m := if s.void then m else m.count 8 j.ctx 1 (j.tz.ns s.pics)
  ((((m.setJob n j).count 5 n 0 1).count 5 n 1 (b2n s.void)).count 5 n 2 (b2n (s.reason == 0x0346))).count 5 n 5
    (b2n (s.codec == 5))

/-- Samples of complete batches that no encoder needs any more leave the job. -/
def Job.prune (j : Job) : Job :=
  { j with samples := j.samples.filter fun s => decide (j.batches ≤ s.1 / j.batch) || !j.encDone s.2
           firstAt := j.firstAt.filter fun f => decide (j.batches ≤ f.1) }

/-- Complete batches get their header in ascending order, and their consumers are signalled. -/
def Hw.completeBatches : Nat → Hw → Nat → Hw
  | 0, m, _ => m
  | k + 1, m, n =>
    match mget m.jobs n with
    | none => m
    | some j =>
      let b := j.batches
      let full := (List.range j.batch).all fun i =>
        match mget j.samples (b * j.batch + i) with | some s => s.st == .written | none => false
      if j.batch != 0 && full then
        let m := m.hubWrite j.ctx (j.slotVa b) (fit 64 (leBytes 8 b ++ leBytes 8 m.now)) false
        let m := j.cons.foldl (fun m c => m.hubUpdate j.ctx c j.qbol false 1#32) m
        Hw.completeBatches k (m.setJob n { j with batches := b + 1 }.prune) n
      else m

/-- The void samples whose batch slot is free are written (12 R330). -/
def Hw.writeVoids (m : Hw) (n : Nat) : Hw :=
  match mget m.jobs n with
  | none => m
  | some j =>
    (j.samples.filter fun s => s.2.void && s.2.st != .written && j.slotFree (s.1 / j.batch)).foldl
      (fun m s => match mget m.jobs n with
        | some j => m.writeSample n j s.1 s.2
        | none => m) m

/-- Complete batches that the consumers have not finished with. -/
def Job.waiting (j : Job) : Nat := (j.batches : Int) - (j.released + 1) |>.toNat

/-- The low-water alarm of MODE 0 (12 R333). -/
def Hw.lowWater (m : Hw) (n : Nat) : Hw :=
  match mget m.jobs n with
  | none => m
  | some j =>
    if j.division then m
    else if j.lowWater ≤ j.waiting then m.setJob n { j with alarmArmed := true }
    else if j.alarmArmed then
      ((m.setJob n { j with alarmArmed := false }).event 0x0391 (some j.ctx)
        [(16, n), (16, j.waiting), (64, j.lastSeq)]).count 5 n 3 1
    else m

/-- A disabled job whose samples are all finished reports and leaves (12 R331). -/
def Hw.finishJob (m : Hw) (n : Nat) : Hw :=
  match mget m.jobs n with
  | none => m
  | some j =>
    if j.disabling.isEmpty then m
    else
      if j.samples.all (fun s => s.2.st == .written && j.encDone s.2) && j.nextSeq % j.batch == 0
          && j.nextSeq / j.batch == j.batches then
        j.disabling.foldl (fun (m : Hw) d => m.eventDone none d.1 d.2 0x0307 0 0 0)
          ({ m with jobs := mdel m.jobs n }.unbind 2 n)
      else m

/-- What follows every change of a job's samples. -/
def Hw.jobPump (m : Hw) (n : Nat) : Hw :=
  let m := m.writeVoids n
  let k := match mget m.jobs n with | some j => j.samples.length | none => 0
  ((Hw.completeBatches k m n).lowWater n).finishJob n

/-! ### Early close (12 R322, R330) -/

def Sample.none : Sample :=
  { inVa := 0, inLen := 0, codec := 15, flush := false, noenc := true, frames := 0, rawW := 0, rawH := 0, rawFmt := 0
    outVa := 0, outMax := 0, tag := 0, st := .taken, reason := 0, void := false, fill := false, trunc := false
    poison := false, srcW := 0, srcH := 0, pics := [], encNext := 0, encLen := 0, encStop := false, encOvf := false
    guideMiss := false, readyAt := 0, guideUp := false, qoffs := [] }

/-- A sample becomes void: the frames already decoded are released. -/
def Sample.toVoid (s : Sample) (reason : Nat) : Sample :=
  { s with st := .decoded, void := true, reason := reason, pics := [], srcW := 0, srcH := 0, trunc := false }

def Sample.filler : Sample := { Sample.none.toVoid 0x0346 with fill := true }

/-- The open batch takes no further entry: its unassigned positions are fills. -/
def Job.closeBatch (j : Job) : Job :=
  if j.batch = 0 || j.nextSeq % j.batch = 0 then j
  else
    let stop := (j.nextSeq / j.batch + 1) * j.batch
    let fills := (List.range (stop - j.nextSeq)).map fun i => j.nextSeq + i
    { fills.foldl (fun j q => j.setSample q Sample.filler) j with nextSeq := stop }

/-! ### Intake (12 R322) -/

def Sample.parse (e : Nat) : Sample :=
  { Sample.none with
    inVa := bits e 56 0, inLen := bits e 95 64, codec := bits e 99 96, flush := bitb e 100, noenc := bitb e 101
    frames := bits e 159 128, rawW := bits e 175 160, rawH := bits e 191 176, rawFmt := bits e 193 192
    outVa := bits e 312 256, outMax := bits e 351 320, tag := bits e 383 352 }

def entryMalformed (e : Nat) : Bool :=
  bits e 63 57 != 0 || bits e 127 102 != 0 || bits e 255 194 != 0 || bits e 319 313 != 0 || bits e 511 384 != 0
    || 6 ≤ bits e 99 96 || bits e 159 128 == 0
    || (if bits e 99 96 = 5 then bits e 175 160 == 0 || bits e 191 176 == 0 || 2 ≤ bits e 193 192
        else bits e 193 160 != 0)

/-- INTAKE_ENTRY_FETCH, while the batch it falls into has a free slot: a full queue stops intake (12 R331). `run` holds the entry at HEAD as read from host memory. -/
def execIntakeEntryFetch (job : Nat) (run : IntakeRun) : State → Host.Outcome State Fault Refusal :=
  onHw fun m => m.withEnds run.ends fun m =>
    match mget m.jobs job with
    | none => m
    | some j =>
      if !m.hubOn || m.quay.st != .ready || !j.disabling.isEmpty || j.head == j.tail || !j.slotFree (j.nextSeq / j.batch) then m
      else
        let e := leNat (run.entry.take 64)
        let s := Sample.parse e
        let s := if entryMalformed e then { s with codec := 15 }.toVoid 0x0345 else s
        let j := { j.setSample j.nextSeq s with head := j.head + 1, nextSeq := j.nextSeq + 1, lastSeq := j.nextSeq }
        let j := if s.flush then j.closeBatch else j
        ((m.setJob job j).notify 2 job).jobPump job

/-! ### Decoders (12 R323 to R326) -/

/-- The guard's reason for a header, or the format's (12 R323, R325). -/
def Job.guard (j : Job) (s : Sample) (h : Header) : Option Nat :=
  let beta2 := (match h.chroma with | 0 => 3 | 1 => 4 | 2 => 6 | _ => 2) * (if h.deep then 2 else 1)
  if j.maxW < h.w || j.maxH < h.h || j.maxF < s.frames then some 0x0340
  else if 2 * (j.budget * s.inLen) < h.w * h.h * s.frames * beta2 then some 0x0341
  else
    let ok : Bool := match s.codec with
      | 0 => (h.chroma == 0 || 3 ≤ h.chroma) && h.w ≤ 8192 && h.h ≤ 4352
      | 1 => h.chroma == 0 && h.w ≤ 8192 && h.h ≤ 4320
      | 2 => h.chroma == 0 && !h.deep && h.w ≤ 8192 && h.h ≤ 4320
      | 3 => h.chroma == 0 && h.w ≤ 8192 && h.h ≤ 4352
      | _ => !h.deep && h.w ≤ 16384 && h.h ≤ 16384
    if ok then none else some 0x0343

/-- Bytes of a host-decoded frame: planes Y, Cb and Cr, one byte or one 16-bit container a sample. -/
def Sample.rawBytes (s : Sample) : Nat :=
  (s.rawW * s.rawH + 2 * ((s.rawW + 1) / 2 * ((s.rawH + 1) / 2))) * (s.rawFmt + 1)

/-- A plane of a host-decoded frame. -/
def rawPlane (bs : List Byte) (bytes off n : Nat) : List Nat :=
  (List.range n).map fun i => leNat ((bs.drop ((off + i) * bytes)).take bytes)

/-- Frame `k` of a host-decoded sample, from the sample's bytes. -/
def Sample.rawFrame (s : Sample) (all : List Byte) (k : Nat) : Picture :=
  let bs := (all.drop (k * s.rawBytes)).take s.rawBytes
  let y := s.rawW * s.rawH
  let q := (s.rawW + 1) / 2 * ((s.rawH + 1) / 2)
  { w := s.rawW, h := s.rawH
    planes := [rawPlane bs (s.rawFmt + 1) 0 y, rawPlane bs (s.rawFmt + 1) y q, rawPlane bs (s.rawFmt + 1) (y + q) q] }

/-- A host-decoded sample goes straight to the tensorizer, under item 1 of the guard. -/
def Hw.hostDecoded (m : Hw) (j : Job) (s : Sample) : Hw × Sample :=
  if j.maxW < s.rawW || j.maxH < s.rawH || j.maxF < s.frames then (m, s.toVoid 0x0340)
  else
    let n := min s.frames (s.inLen / s.rawBytes)
    if !m.mapped j.ctx s.inVa (n * s.rawBytes) then (m, s.toVoid 0x0344)
    else
      let (d, m) := m.hubRead j.ctx s.inVa (n * s.rawBytes)
      (m, if d.bad then { s.toVoid 0x0344 with poison := true }
        else { s with st := .decoded, pics := (List.range n).map (s.rawFrame d.bytes), srcW := s.rawW, srcH := s.rawH
                      readyAt := m.now })

/-- The upload's bytes cannot be read (06 R176). -/
def Hw.unreadableVoid (m : Hw) (j : Job) (s : Sample) : Sample :=
  { s.toVoid 0x0344 with poison := m.mapped j.ctx s.inVa s.inLen }

/-- Samples that an engine has taken up to start, in sequence order. -/
def Job.startable (j : Job) (seq : Nat) : Bool :=
  let busy := (j.samples.filter fun s => s.2.st == .decoding).length
  let before := (j.samples.filter fun s => decide (s.1 < seq) && s.2.st == .taken && s.2.codec != 5).length
  decide (busy + before < j.ndec)

/-- DECODE_START: a host-decoded sample needs no decoder. -/
def execDecodeStart (job seq : Nat) (run : DecodeRun) : State → Host.Outcome State Fault Refusal :=
  onHw fun m => m.withEnds run.ends fun m =>
    match mget m.jobs job with
    | none => m
    | some j =>
      match mget j.samples seq with
      | none => m
      | some s =>
        if !m.hubOn || s.st != .taken || !j.slotFree (seq / j.batch) then m
        else if s.codec = 5 then
          let (m, t) := m.hostDecoded j s
          (m.setJob job (j.setSample seq t)).jobPump job
        else if !j.startable seq then m
        else
          let s := match run.hdr with
            | .header h => match j.guard s h with
              | some r => s.toVoid r
              | none => { s with st := .decoding }
            | .undecodable => s.toVoid 0x0342
            | .unsupported => s.toVoid 0x0343
            | .unreadable => m.unreadableVoid j s
          (m.setJob job (j.setSample seq s)).jobPump job

/-- DECODE_COMPLETE: how the decode ended, with the frames it gives. -/
def execDecodeComplete (job seq : Nat) (done : DecodeDone) : State → Host.Outcome State Fault Refusal :=
  onHw fun m => m.withEnds done.ends fun m =>
    match mget m.jobs job with
    | none => m
    | some j =>
      match mget j.samples seq with
      | none => m
      | some s =>
        if !m.hubOn || s.st != .decoding then m
        else
          let (d, read) := m.hubRead j.ctx s.inVa s.inLen
          let put (m : Hw) (s : Sample) : Hw := (m.setJob job (j.setSample seq s)).jobPump job
          match done.how with
          | .larger h =>
            match j.guard s h with
            | some r => put m (s.toVoid r)
            | none => m
          | .undecodable => put read (s.toVoid 0x0342)
          | .unsupported => put read (s.toVoid 0x0343)
          | .unreadable => put read (m.unreadableVoid j s)
          | .frames fs =>
            if !m.mapped j.ctx s.inVa s.inLen then put m (s.toVoid 0x0344)
            else if d.bad then put read { s.toVoid 0x0344 with poison := true }
            else
              let px := fs.foldl (fun a p => a + p.w * p.h) 0
              let ps := fs.take s.frames
              let s := { s with st := .decoded, pics := ps, trunc := decide (s.frames < fs.length), readyAt := m.now
                                srcW := match fs with | p :: _ => p.w | [] => 0
                                srcH := match fs with | p :: _ => p.h | [] => 0 }
              put (read.count 8 j.ctx 1 (px * 100 / 199)) s

/-- TENSORIZER_WRITE (12 R327 to R330). -/
def execTensorizerWrite (job : Nat) (run : TensorRun) : State → Host.Outcome State Fault Refusal :=
  onHw fun m => m.withEnds run.ends fun m =>
    match mget m.jobs job with
    | none => m
    | some j =>
      match mget j.samples run.seq with
      | none => m
      | some s =>
        if m.hubOn && s.st == .decoded && !s.void && j.slotFree (run.seq / j.batch) then
          (m.writeSample job j run.seq s).jobPump job
        else m

/-- BATCH_DL: the open batch closes BATCH_DL after its first sample was written. -/
def execBatchDl (run : HubRun) : State → Host.Outcome State Fault Refusal :=
  onHw fun m => m.withEnds run.ends fun m =>
    match mget m.jobs run.no with
    | none => m
    | some j =>
      match mget j.firstAt (j.nextSeq / j.batch) with
      | none => m
      | some t =>
        if m.hubOn && j.batchDl != 0 && t + j.batchDl * 1000 ≤ m.now then (m.setJob run.no j.closeBatch).jobPump run.no else m

/-- RELEASE_WORD_POLL (12 R331): an unreadable word leaves the last value read. -/
def execReleaseWordPoll (run : HubRun) : State → Host.Outcome State Fault Refusal :=
  onHw fun m => m.withEnds run.ends fun m =>
    match mget m.jobs run.no with
    | none => m
    | some j =>
      if !m.hubOn then m
      else
        let (v, n) := m.hubInt64 j.ctx j.qVa
        let r := if m.mapped j.ctx j.qVa 8 then v.getD j.released else j.released
        (n.setJob run.no { j with released := r }).jobPump run.no

/-! ### Load division (12 R334) -/

/-- The proportion p for `busy` ns of 100 ms of the job's engines. -/
def Job.proportion (j : Job) (busy : Nat) : Nat :=
  ceilDiv (256 * (100 * busy - j.divTarget * j.ndec * 10 ^ 8)) (100 * busy)

/-- DECODER_OCCUPANCY_SAMPLE: `busyNs` of engine time used by the job's decodes in the last 10 ms. -/
def execDecoderOccupancySample (job busyNs : Nat) : State → Host.Outcome State Fault Refusal :=
  onHw fun m =>
    match mget m.jobs job with
    | none => m
    | some j =>
      if !m.hubOn || !j.division then m
      else
        let occ := (busyNs :: j.occ).take 10
        let busy := occ.foldl (· + ·) 0
        let cap := j.ndec * 10 ^ 8
        let j := { j with occ := occ }
        let post (j : Job) (p : Nat) : Hw :=
          ((m.setJob job { j with lastP := p }).event 0x0390 (some j.ctx)
            [(16, job), (16, p), (64, j.nextSeq)]).count 5 job 4 1
        if j.divHi * cap < 100 * busy then
          let j := { j with lowSince := none }
          let p := j.proportion busy
          if j.lastP = 0 || j.lastP + 16 ≤ p || p + 16 ≤ j.lastP then post j p else m.setJob job j
        else if 100 * busy < j.divLo * cap then
          match j.lowSince with
          | none => m.setJob job { j with lowSince := some m.now }
          | some t => if t + 10 ^ 9 ≤ m.now && j.lastP != 0 then post j 0 else m.setJob job j
        else m.setJob job { j with lowSince := none }

/-! ### Encoders (12 R335 to R337) -/

/-- Bytes of a guidance record. -/
def Job.guideBytes (j : Job) : Nat := pad64 (64 + ceilDiv j.maxW 32 * ceilDiv j.maxH 32)

def Job.guideVaOf (j : Job) (e : EncCfg) (seq frame : Nat) : Nat :=
  e.guideVa + (seq % e.guideNs * e.guideNf + frame) * j.guideBytes

/-- The record of a frame has arrived: its SEQ and frame index are the frame's. -/
def Hw.guided (m : Hw) (j : Job) (e : EncCfg) (seq frame : Nat) : Bool :=
  let va := j.guideVaOf e seq frame
  frame < e.guideNf && m.mapped j.ctx va j.guideBytes && !m.marked j.ctx va j.guideBytes
    && leNat (m.peek j.ctx va 8) == seq && leNat (m.peek j.ctx (va + 8) 4) == frame

/-- The delta of the last box, in index order, that covers a block. -/
def boxDelta (rec : List Byte) (n bx by_ : Nat) : Int :=
  (List.range n).foldl (fun d i =>
    let at_ (k : Nat) : Nat := (lget rec (16 + 6 * i + k) 0).toNat
    if at_ 0 ≤ bx && bx ≤ at_ 0 + at_ 2 && at_ 1 ≤ by_ && by_ ≤ at_ 1 + at_ 3 then signed 8 (at_ 4) else d) 0

/-- Quantiser offsets of a frame of `bw` × `bh` blocks. -/
def quantOffsets (gain : Nat) (rec : List Byte) (bw bh : Nat) : List Int :=
  let n := min 8 (lget rec 12 0).toNat
  (List.range bh).flatMap fun y => (List.range bw).map fun x =>
    let s : Int := (lget rec (64 + y * bw + x) 0).toNat
    let q := -((s - 128) * gain / 128) + boxDelta rec n x y
    max (-24) (min 24 q)

/-- GUIDE_MISS of a sample: event 0x0389 once. -/
def Hw.guideMiss (m : Hw) (n : Nat) (j : Job) (seq : Nat) (s : Sample) : Hw × Sample :=
  if s.guideMiss then (m, s)
  else (m.event 0x0389 (some j.ctx) [(16, n), (16, 0), (64, seq)], { s with guideMiss := true })

/-- The status word of a written sample follows its encoder's flags while its batch slot still holds the batch. -/
def Hw.restatus (m : Hw) (j : Job) (seq : Nat) (s : Sample) : Hw :=
  if s.st == .written && decide (j.released < ((seq / j.batch : Nat) : Int)) then
    m.hubWrite j.ctx (j.statusVa seq) (s.status seq).bytes false
  else m

/-- Puts a sample back, with its status word and what follows. -/
def Hw.putSample (m : Hw) (n : Nat) (j : Job) (seq : Nat) (old s : Sample) : Hw :=
  let m := if s.status seq = old.status seq then m else m.restatus j seq s
  (m.setJob n (j.setSample seq s).prune).finishJob n

/-- A sample's next frame to encode. -/
def Job.encoding (j : Job) (s : Sample) (frame : Nat) : Bool :=
  (s.st == .decoded || s.st == .written) && !j.encDone s && s.encNext == frame

/-- The numbers of an encoder configuration. -/
def EncCfg.numbers (e : EncCfg) : List Nat := [e.codec, e.rc, e.qp, e.gain, e.gop, e.rate, e.peak]

/-- A record that the encoder reads is poison-marked: the sample's status says so (12 R329). -/
def Hw.guideMarked (m : Hw) (j : Job) (e : EncCfg) (seq frame : Nat) : Bool :=
  frame < e.guideNf && m.marked j.ctx (j.guideVaOf e seq frame) j.guideBytes

/-- ENCODE_FRAME: it waits for the frame's record up to GUIDE_DL. A record whose load ends poisoned gives no guidance
(DESIGN CHOICE, log 54). -/
def execEncodeFrame (job seq frame : Nat) (ends : List ReadEnd) : State → Host.Outcome State Fault Refusal :=
  onHw fun m => m.withEnds ends fun m =>
    match mget m.jobs job with
    | none => m
    | some j =>
      match mget j.samples seq, j.enc with
      | some s, some e =>
        let g := !s.guideUp && m.guided j e seq frame
        if !m.hubOn || !j.encoding s frame || (!g && !s.guideUp && frame < e.guideNf) then m
        else
          let va := j.guideVaOf e seq frame
          let bw := ceilDiv s.srcW 32
          let bh := ceilDiv s.srcH 32
          let marked := !g && m.guideMarked j e seq frame
          let (d, m) := if g then m.hubRead j.ctx va j.guideBytes else (⟨[], []⟩, m)
          let g := g && !d.bad
          let qs := s.qoffs ++ [if g then quantOffsets e.gain d.bytes bw bh else []]
          let bits := Config.encode e.numbers s.pics qs
          let m := if g then m else m.count 5 job 6 1
          let m := m.count 8 j.ctx 1 (s.srcW * s.srcH * 100 / 199)
          let (m, t) := if g then (m, s) else m.guideMiss job j seq s
          let t := { t with poison := t.poison || d.bad || marked }
          if s.outMax < s.encLen + bits.length then
            let m := (m.event 0x0388 (some j.ctx) [(16, job), (16, 0), (64, seq)]).count 5 job 7 1
            m.putSample job j seq s { t with encStop := true, encOvf := true, qoffs := qs }
          else
            let o := m.hubWrite j.ctx (s.outVa + s.encLen) bits false
            let t := { t with poison := t.poison || m.newLate o }
            o.putSample job j seq s { t with encNext := frame + 1, encLen := s.encLen + bits.length, qoffs := qs
                                             readyAt := m.now, guideUp := false }
      | _, _ => m

/-- GUIDE_DL: the record has not arrived in time; the frame goes without guidance (12 R337). -/
def execGuideDl (job seq frame : Nat) : State → Host.Outcome State Fault Refusal :=
  onHw fun m =>
    match mget m.jobs job with
    | none => m
    | some j =>
      match mget j.samples seq, j.enc with
      | some s, some e =>
        if m.hubOn && j.encoding s frame && e.guideDl != 0 && !s.guideUp && frame < e.guideNf
            && s.readyAt + e.guideDl * 1000 ≤ m.now && !m.guided j e seq frame then
          let (m, t) := m.guideMiss job j seq s
          m.putSample job j seq s { t with guideUp := true }
        else m
      | _, _ => m

end Sys2Proof.Machine
end

