-- ==== Sys2Proof/Machine/HostPort.lean ====
section
/-! DEFINITION. The host link: BAR2 accesses, quay window accesses, queue pointers, doorbells, MSI-X and the writes held in
Anchor (13 R341 to R362, 14 R365). -/

namespace Sys2Proof.Machine

/-! ### BAR2 (13 R342, R345, R346) -/

/-- Context and virtual address an aperture offset reaches. -/
def Hw.aperture (m : Hw) (off : Nat) : Option (Nat × Nat) :=
  (mget m.host.windows (off / 2 ^ 30)).map fun w => (w.ctx, w.base + off % 2 ^ 30)

/-- An access that the module serves: its pieces are mapped, and none lies in a device window. -/
def Hw.bar2Ok (m : Hw) (c va n : Nat) : Bool :=
  (pieces va n).all fun p => match m.locOf c p.1 with
    | some (_, _, some (.ram _)) => true
    | some (_, _, some (.host _)) => true
    | _ => false

/-- Where the access goes, if it can be served: both ends lie in mapped windows of one context range. -/
def Hw.bar2Target (m : Hw) (off n : Nat) : Option (Nat × Nat) :=
  match m.aperture off, m.aperture (off + n - 1) with
  | some (c, va), some (d, vb) => if m.hubOn && c == d && vb == va + n - 1 && m.bar2Ok c va n then some (c, va) else none
  | _, _ => none

def allOnes (n : Nat) : List Byte := List.replicate n 0xFF#8

/-- The completion of a host read: its bytes, and per 64-byte word whether it carries EP; empty where none does. -/
def Hw.readDone (m : Hw) (bs : List Byte) (ep : List Bool) : Hw := { m with host := { m.host with rdata := bs, rep := ep } }

/-- BAR2_READ: each 64-byte word that is poison-marked or uncorrectable, or whose read ends late, comes back with EP set. A
read asks for at most 4 KiB (PRESUMED, log 55: PCIe's largest read request). -/
def execBar2Read (offset : Nat) (read : HostRead) (s : State) : Host.Outcome State Fault Refusal :=
  if 2 ^ s.m.host.bar2 < offset + read.len then .fault .noSuchAddress
  else
    onHw (fun m =>
      let n := read.len
      if !m.hostOn || n = 0 || 4096 < n then m
      else match m.bar2Target offset n with
        | none => (m.readDone (allOnes n) []).hosterr .bar2miss
        | some (c, va) => m.withEnds read.ends fun m =>
          let (d, m) := m.hubRead c va n
          (m.count 8 c 18 n).readDone d.bytes (if d.bad then d.words else [])) s

/-- Some byte of a range is mapped read-only, or belongs to a sequence (07 R203). -/
def Hw.someRO (m : Hw) (c va n : Nat) : Bool :=
  (pieces va n).any fun p => match m.locOf c p.1 with | some (l, _, _) => l.ro || m.seqPdi c l.pdi | none => false

/-- BAR2_WRITE: a poisoned write leaves every word it touches marked. -/
def execBar2Write (offset : Nat) (bytes : List Byte) (store : HostStore) (s : State) : Host.Outcome State Fault Refusal :=
  if 2 ^ s.m.host.bar2 < offset + bytes.length then .fault .noSuchAddress
  else
    onHw (fun m =>
      let n := bytes.length
      if !m.hostOn || n = 0 || 4096 < n then m
      else match m.bar2Target offset n with
        | none => m.hosterr .bar2miss
        | some (c, va) =>
          if m.someRO c va n then m.hosterr .roDrop
          else m.withEnds store.ends fun m => (m.count 8 c 19 n).hubWrite c va bytes store.poisoned) s

/-- BAR2_RESIZE: 16 GiB to 8 TiB; a resize unmaps every window (13 R344, R345). -/
def execBar2Resize (log2 : Nat) : State → Host.Outcome State Fault Refusal := onHw fun m => m.resizeBar2 log2

/-! ### MSI-X (13 R347, R348) -/

/-- MSIX_VECTOR_UNMASK: a write to the table entry. -/
def execMsixVectorUnmask (vec : Nat) : State → Host.Outcome State Fault Refusal :=
  onHw fun m => if m.hostOn then m.setMask vec false else m

/-- MSIX_HOLDOFF_EXPIRY. -/
def execMsixHoldoffExpiry (vec : Nat) : State → Host.Outcome State Fault Refusal :=
  onHw fun m => if m.host.up then { m with host := m.host.release m.now vec } else m

/-! ### Access shapes (13 R350) -/

def inBlocks (off : Nat) : Bool := (0x10000 ≤ off && off < 0x18000) || (0x100000 ≤ off && off < 0x200000)
def inDoorbells (off : Nat) : Bool := 0x200000 ≤ off && off < 0x210000

/-- An access that R350 and R359 accept. -/
def quayShape (off len : Nat) (write : Bool) : Bool :=
  if inBlocks off then 1 ≤ len && len ≤ 64 && off % 64 + len ≤ 64
  else (len == 8 || (len == 4 && !(write && inDoorbells off))) && off % len == 0

/-! ### QW_HOSTERR (13 R356) -/

/-- A read of QW_HOSTERR returns and resets the counts it covers: all four, or, with 4 bytes, BADACC and BAR2_MISS in the lower
half or RO_DROP and PTR_ERR in the upper one (13 R350, 00 R9). -/
def Hw.readHosterr (m : Hw) (half : Option Bool) : Hw :=
  let v := qwHosterr m.quay
  let lo (q : Quay) : Quay := { q with badacc := 0, bar2miss := 0 }
  let hi (q : Quay) : Quay := { q with roDrop := 0, ptrErr := 0 }
  match half with
  | none => { m.readDone (leBytes 8 v) [] with quay := hi (lo m.quay) }
  | some false => { m.readDone (leBytes 4 v) [] with quay := lo m.quay }
  | some true => { m.readDone (leBytes 4 (v / 2 ^ 32)) [] with quay := hi m.quay }

/-- QW_HOSTERR_READ: the read of the whole register. -/
def execQwHosterrRead : State → Host.Outcome State Fault Refusal :=
  onHw fun m => if m.hostOn then m.readHosterr none else m

/-- The half of QW_HOSTERR that a read of 4 bytes addresses. -/
def hosterrHalf (off len : Nat) (write : Bool) : Option Bool :=
  if write || len != 4 then none
  else if off = 0x1048 then some false
  else if off = 0x104C then some true
  else none

/-! ### Refused accesses (13 R350) -/

/-- QUAY_REFUSED_ACCESS: an access to BAR0 by its offset and length. One that R350 accepts is not refused, so nothing is
counted; a 4-byte read of QW_HOSTERR, the one accepted access with an effect that no row names, has that effect here. -/
def execQuayRefusedAccess (offset len : Nat) (write : Bool) (s : State) : Host.Outcome State Fault Refusal :=
  if 0x400000 ≤ offset then .fault .noSuchAddress
  else
    onHw (fun m =>
      if !m.hostOn then m
      else if quayShape offset len write then
        (match hosterrHalf offset len write with
         | some h => m.readHosterr (some h)
         | none => m)
      else
        let m := if write then m else m.readDone (allOnes len) []
        m.hosterr .badacc) s

/-! ### Causes (13 R356) -/

/-- QW_CAUSE is write 1 to clear. -/
def Hw.clearCause (m : Hw) (v : BitVec 64) : Hw :=
  { m with quay := { m.quay with cause := m.quay.cause &&& ~~~(v &&& 0x7F#64) } }

/-- QW_CAUSE_EN: an enable written 1 while its cause is 1 sends vector 0. -/
def Hw.setCauseEn (m : Hw) (v : BitVec 64) : Hw :=
  let e := v &&& 0x7F#64
  let m := { m with quay := { m.quay with causeEn := e } }
  if e &&& m.quay.cause != 0#64 then { m with host := m.host.raise m.now 0 } else m

/-- QW_CAUSE_WRITE. -/
def execQwCauseWrite (value : BitVec 64) : State → Host.Outcome State Fault Refusal :=
  onHw fun m => if m.hostOn then m.clearCause value else m

/-- QW_CAUSE_EN_WRITE. -/
def execQwCauseEnWrite (value : BitVec 64) : State → Host.Outcome State Fault Refusal :=
  onHw fun m => if m.hostOn then m.setCauseEn value else m

/-! ### Queue pointers (13 R357) -/

/-- A TAIL value that is accepted. -/
def tailOk (v own other : BitVec 32) (n : Nat) : Bool :=
  (v - other).toNat ≤ n && (v - own).toNat ≤ (v - other).toNat

/-- A HEAD value that is accepted. -/
def headOk (v own other : BitVec 32) (n : Nat) : Bool :=
  (other - v).toNat ≤ n && (v - own).toNat ≤ (other - own).toNat

def Hw.intakeTail (m : Hw) (ring : Nat) (v : BitVec 32) : Hw :=
  match mget m.jobs ring with
  | none => m.hosterr .badacc
  | some j =>
    if tailOk v j.tail j.head j.nent then m.setJob ring { j with tail := v }
    else (m.setJob ring { j with err := true }).hosterr .ptrErr

def Hw.submitTail (m : Hw) (queue : Nat) (v : BitVec 32) : Hw :=
  match mget m.queues queue with
  | none => m.hosterr .badacc
  | some q =>
    if tailOk v q.tail q.head q.nent then
      let posts := if v = q.tail then q.posts else q.posts ++ [(v.toNat, m.postNo)]
      { m with queues := mset m.queues queue { q with tail := v, posts := posts }, postNo := m.postNo + 1 }.unhold
    else { m with queues := mset m.queues queue { q with err := true } }.hosterr .ptrErr

/-- Event 0x0011 goes into a ring that dropped records and has space again (14 R381). -/
def Hw.dropped (m : Hw) (c : Nat) (x : Ctx) (r : Ring) : Hw :=
  if r.dropped = 0 || r.full then { m with ctxs := mset m.ctxs c { x with ring := some r } }
  else
    let p := { r with dropped := 0 }.put m.mem.host 0x0011 (if m.moduleRing == some c then none else some c) m.now
      (r.dropped % 2 ^ 32)
    { m with ctxs := mset m.ctxs c { x with ring := some p.1 }, mem := { m.mem with host := p.2 }
             host := m.host.notify m.now 0 c }

def Hw.eventHead (m : Hw) (c : Nat) (v : BitVec 32) : Hw :=
  match mget m.ctxs c with
  | none => m.hosterr .badacc
  | some x =>
    match x.ring with
    | none => m.hosterr .badacc
    | some r =>
      if headOk v r.head r.tail r.nent then m.dropped c x { r with head := v }
      else { m with ctxs := mset m.ctxs c { x with ring := some { r with err := true } } }.hosterr .ptrErr

/-- ERR is write 1 to clear. -/
def Hw.clearErr (m : Hw) (off : Nat) : Hw :=
  if off < 0x1000 then
    match mget m.jobs (off / 16) with
    | none => m.hosterr .badacc
    | some j => m.setJob (off / 16) { j with err := false }
  else if off < 0x9000 then
    let c := (off - 0x1000) / 32
    match mget m.ctxs c with
    | none => m.hosterr .badacc
    | some x => match x.ring with
      | none => m.hosterr .badacc
      | some r => { m with ctxs := mset m.ctxs c { x with ring := some { r with err := false } } }
  else
    let q := (off - 0x9000) / 16
    match mget m.queues q with
    | none => m.hosterr .badacc
    | some x => { m with queues := mset m.queues q { x with err := false } }

/-- Whether the ring of a pointer block exists. -/
def Hw.ringAt (m : Hw) (off : Nat) : Bool :=
  if off < 0x1000 then mhas m.jobs (off / 16)
  else if off < 0x9000 then
    match mget m.ctxs ((off - 0x1000) / 32) with | some x => x.ring.isSome | none => false
  else mhas m.queues ((off - 0x9000) / 16)

/-! ### Doorbells (13 R359, R360, 14 R365) -/

/-- A bollard doorbell: bits [1:0] BOL, [2] MODE, [25:16] CTX, [63:32] VALUE. -/
def bellReserved (v : Nat) : Bool := bits v 15 3 != 0 || bits v 31 26 != 0

def Hw.bollardBell (m : Hw) (core : Nat) (value : BitVec 64) : Hw :=
  let v := value.toNat
  if bellReserved v then m.hosterr .badacc
  else if !m.coreValid core then m
  else m.unhold.signal 256 (bits v 25 16) 0 core (60 + bits v 1 0) (bitb v 2) (BitVec.ofNat 32 (bits v 63 32))

/-- The commands of the catalogue (14 R372, R376, R377, R379). -/
def catalogue : List Nat :=
  [0x0101, 0x0102, 0x0103, 0x0104, 0x0110, 0x0111, 0x0112, 0x0113, 0x0114, 0x0115, 0x0201, 0x0202, 0x0203, 0x0204, 0x0205,
   0x0206, 0x0207, 0x0208, 0x0210, 0x0211, 0x0212] ++
  [0x0301, 0x0302, 0x0303, 0x0304, 0x0305, 0x0306, 0x0307, 0x0308, 0x0401, 0x0402, 0x0501, 0x0502, 0x0503, 0x0504] ++
  [0x0601, 0x0602, 0x0603, 0x0604, 0x0605, 0x0A01, 0x0A02, 0x0A03, 0x0B01, 0x0B02, 0x0001, 0x0002]

/-- Firmware answers a command that is not in the catalogue. -/
def Hw.unknownCmd (m : Hw) (pair : Nat) : Hw :=
  if m.quay.fwAlive && !catalogue.contains (m.espor.pair pair).cmd then m.answer pair false 0x0001 0 [] else m

/-- The hub accepts a mailbox doorbell: the pair turns BUSY, and its response is undefined until DONE (14 R364). -/
def Hw.mailBell (m : Hw) (pair : Nat) (value : BitVec 64) : Hw :=
  let p := m.espor.pair pair
  let v := value.toNat
  if bits v 17 16 == 1 && bits v 63 18 == 0 && bits v 15 0 == p.seq && p.st != .busy && m.quay.reason != 0x0910#16 then
    { m with espor := { m.espor with pairs := mset m.espor.pairs pair { p with st := .busy, resp := [] }
                                     order := if m.quay.fwAlive then m.espor.order ++ [pair] else m.espor.order } }.unknownCmd pair
  else m.hosterr .badacc

/-! ### Writes held in Anchor (13 R362) -/

/-- A write that Anchor holds: at most 64, in order of arrival. -/
def Hw.hold (m : Hw) (w : HeldWrite) : Hw :=
  if m.quay.held.length < 64 then { m with quay := { m.quay with held := m.quay.held ++ [w] } } else m.hosterr .badacc

def Hw.applyWrite (m : Hw) : HeldWrite → Hw
  | .bollard core v => m.bollardBell core v
  | .mailbox pair v => m.mailBell pair v
  | .submitTail q v => m.submitTail q v
  | .intakeTail r v => m.intakeTail r v

/-- A doorbell or TAIL write from the host: ignored in a reset or a stop, held in Anchor, else applied. -/
def Hw.hostWrite (m : Hw) (w : HeldWrite) : Hw :=
  if !m.hostOn || m.inReset then m
  else if m.quay.asleep then m.hold w
  else m.applyWrite w

/-- INTAKE_TAIL_WRITE. -/
def execIntakeTailWrite (ring : Nat) (value : BitVec 32) : State → Host.Outcome State Fault Refusal :=
  onHw fun m => m.hostWrite (.intakeTail ring value)

/-- SUBMIT_TAIL_WRITE. -/
def execSubmitTailWrite (queue : Nat) (value : BitVec 32) : State → Host.Outcome State Fault Refusal :=
  onHw fun m => m.hostWrite (.submitTail queue value)

/-- EVENT_HEAD_WRITE: in Anchor the pointers keep the values they held on entry. -/
def execEventHeadWrite (ctx : Nat) (value : BitVec 32) : State → Host.Outcome State Fault Refusal :=
  onHw fun m =>
    if !m.hostOn || m.inReset || m.quay.asleep then m else m.eventHead ctx value

/-- BOLLARD_DOORBELL_ADD: a value whose MODE is ADD. -/
def execBollardDoorbellAdd (core : Nat) (value : BitVec 64) : State → Host.Outcome State Fault Refusal :=
  onHw fun m => if value.getLsbD 2 then m else m.hostWrite (.bollard core value)

/-- BOLLARD_DOORBELL_SET: a value whose MODE is SET. -/
def execBollardDoorbellSet (core : Nat) (value : BitVec 64) : State → Host.Outcome State Fault Refusal :=
  onHw fun m => if value.getLsbD 2 then m.hostWrite (.bollard core value) else m

/-- MAILBOX_DOORBELL. -/
def execMailboxDoorbell (pair : Nat) (value : BitVec 64) : State → Host.Outcome State Fault Refusal :=
  onHw fun m => m.hostWrite (.mailbox pair value)

/-! ### Register writes (13 R350, R351, R356, R357, R363) -/

/-- A write into a mailbox pair: the request area takes it unless the pair is BUSY; the response area is read-only. -/
def Hw.pairWrite (m : Hw) (off : Nat) (bs : List Byte) : Hw :=
  let n := off / 512
  let o := off % 512
  let p := m.espor.pair n
  if 256 ≤ o then m
  else if p.st == .busy then m.hosterr .badacc
  else { m with espor := { m.espor with pairs := mset m.espor.pairs n { p with req := wrN p.req o bs } } }

/-- A TAIL that the host writes: the ring it names must exist when the write is applied, not when it is held (13 R362). -/
def tailAt (off : Nat) (v : BitVec 32) : Option HeldWrite :=
  if off < 0x1000 then (if off % 16 = 0 then some (.intakeTail (off / 16) v) else none)
  else if off < 0x9000 then none
  else if (off - 0x9000) % 16 = 0 then some (.submitTail ((off - 0x9000) / 16) v)
  else none

/-- A write of 4 or 8 bytes into the pointer blocks. -/
def Hw.pointerWrite (m : Hw) (off : Nat) (v : Nat) (wide : Bool) : Hw :=
  let frozen := m.quay.asleep
  let low := BitVec.ofNat 32 v
  -- ERR stands at bit 32 of the word that holds HEAD
  let err := if wide then bitb v 32 else off % 8 == 4 && bitb v 0
  let isErr := err && (if off < 0x1000 then off % 16 ≥ 8 else if off < 0x9000 then off % 32 ≥ 8 && off % 32 < 16
    else off % 16 ≥ 8)
  if 0x400 ≤ off && off < 0x1000 then m
  else if 0xA000 ≤ off then m
  else match tailAt off low with
    | some w => m.hostWrite w
    | none =>
      if !m.ringAt off then m.hosterr .badacc
      else
        let m := if isErr && !frozen then m.clearErr off else m
        if 0x1000 ≤ off && off < 0x9000 && (off - 0x1000) % 32 = 8 && !frozen then m.eventHead ((off - 0x1000) / 32) low
        else m

/-- A write into the doorbell region; QW_RESET has rows of its own, which carry out a valid reset. -/
def Hw.bellWrite (m : Hw) (off : Nat) (v : BitVec 64) : Hw :=
  if off < 0x800 then m.hostWrite (.bollard (off / 8) v)
  else if 0x2000 ≤ off && off < 0x2200 then m.hostWrite (.mailbox ((off - 0x2000) / 8) v)
  else if off = 0xF000 && (resetWord v 1 || resetWord v 2) then m
  else m.hosterr .badacc

/-- REGISTER_WRITE: a host write to any offset of BAR0 follows the access codes of the fields there; read-only and unlisted
offsets take none. BAR4 and configuration space, for which no row stands, follow BAR0 in the offset (DESIGN CHOICE, log 56). -/
def execRegisterWrite (offset : Nat) (bytes : List Byte) (s : State) : Host.Outcome State Fault Refusal :=
  if 0x411000 ≤ offset then .fault .noSuchAddress
  else if 0x410000 ≤ offset then onHw (fun m => m.configWrite (offset - 0x410000) bytes) s
  else if 0x400000 ≤ offset then onHw (fun m => if m.hostOn then m.bar4Write (offset - 0x400000) bytes else m) s
  else
    onHw (fun m =>
      let n := bytes.length
      let v := leNat bytes
      if !m.hostOn then m
      else if !quayShape offset n true then m.hosterr .badacc
      else if offset / 8 = 0x1038 / 8 then m.clearCause (BitVec.ofNat 64 (v * 256 ^ (offset % 8)))
      else if offset / 8 = 0x1040 / 8 then
        (if offset % 8 = 0 then m.setCauseEn (BitVec.ofNat 64 v) else m)
      else if m.inReset then m
      else if 0x10000 ≤ offset && offset < 0x18000 then m.pairWrite (offset - 0x10000) bytes
      else if 0x20000 ≤ offset && offset < 0x30000 then m.pointerWrite (offset - 0x20000) v (n == 8)
      else if inDoorbells offset then m.bellWrite (offset - 0x200000) (BitVec.ofNat 64 v)
      else m) s

/-! ### The end of a wake (16 R420) -/

/-- WAKE_COMPLETE: partitions' contexts come back first, then Run, then the held writes in order. -/
def execWakeComplete : State → Host.Outcome State Fault Refusal :=
  onHw fun m =>
    if m.live && m.quay.ps == .waking && m.power.quartersUp == 0xF#4 && m.power.hubUp then
      let back := m.ctxs.filter fun c => c.2.part.isSome && c.2.lastSwitchIn != 0 && !m.onCores c.1
      let m := back.foldl (fun (m : Hw) (c : Nat × Ctx) =>
        (m.switchIn c.1).updCtx c.1 fun x => { x with st := if x.st == .runnable then .resident else x.st }) m
      let held := m.quay.held
      let m := { m with quay := { m.quay with held := [] } }.toRun
      held.foldl Hw.applyWrite m
    else m

end Sys2Proof.Machine
end

