-- ==== Sys2Proof/Machine/EsporBase.lean ====
section
/-! DEFINITION. How firmware serves an Espor command (14 R364 to R370, R384): which accepted pair it may serve, the checks
of class 0x00, and the answer. -/

namespace Sys2Proof.Machine

/-- A parameter field: byte offset, bytes, and whether it is a VA. -/
structure PField where
  off : Nat
  n : Nat
  va : Bool
  deriving DecidableEq, Repr

def pf (off n : Nat) : PField := ⟨off, n, false⟩
def pva (off : Nat) : PField := ⟨off, 8, true⟩

/-- A row of the command catalogue (14 R369, R372, R376, R377, R379): code, whether it concerns one context, parameter
fields, least and greatest extension block, and whether it is served in every module state. -/
structure CmdSpec where
  code : Nat
  ctxv : Bool
  fields : List PField
  xmin : Nat
  xmax : Nat
  any : Bool
  /-- the code of a reserved parameter field: 0x0003, or that of the chapter that gives the object one (log 50) -/
  resv : Nat
  deriving DecidableEq, Repr

/-- A module-wide command without extension block, served when Ready. -/
def modCmd (code : Nat) (fields : List PField) : CmdSpec := ⟨code, false, fields, 0, 0, false, 0x0003⟩
def ctxCmd (code : Nat) (fields : List PField) : CmdSpec := ⟨code, true, fields, 0, 0, false, 0x0003⟩
def anyCmd (code : Nat) (fields : List PField) : CmdSpec := ⟨code, false, fields, 0, 0, true, 0x0003⟩

/-- What a command's own checks and effect answer. -/
inductive Reply where
  | refuse (code detail : Nat)
  | done (m : Hw) (out : List Byte)
  | defer (m : Hw)

/-- DETAIL of a parameter (OBJ 0) and of a stream or job field (OBJ 10): its byte offset. -/
def atParam (off : Nat) : Nat := off <<< 16
def atField (off : Nat) : Nat := 10 <<< 12 ||| off <<< 16

/-- DETAIL of an indexed object: landing entry, sequence, flow entry and their like. -/
def atIndex (obj index : Nat) : Nat := obj <<< 12 ||| (index % 2 ^ 32) <<< 32

/-- A check: it fails, the code and the DETAIL. -/
abbrev Check := Bool × Nat × Nat

/-- The first check that fails refuses; else the effect. -/
def judge (l : List Check) (ok : Unit → Reply) : Reply :=
  match l.find? fun c => c.1 with
  | some c => .refuse c.2.1 c.2.2
  | none => ok ()

/-! ### The checks of class 0x00 -/

def CmdSpec.len (s : CmdSpec) : Nat := s.fields.foldl (fun a f => max a (f.off + f.n)) 0

/-- A parameter byte that no field covers. -/
def CmdSpec.free (s : CmdSpec) (i : Nat) : Bool := s.fields.all fun f => i < f.off || f.off + f.n ≤ i

/-- A reserved field of the header, or a parameter byte that no field covers, is not zero; a VA has bits [63:57] set. -/
def Pair.reserved (p : Pair) (s : CmdSpec) : Option (Nat × Nat) :=
  let b (i : Nat) : Nat := (rd p.req i).toNat
  if b 3 != 0 || b 7 / 8 != 0 || (List.range 12).any fun i => b (20 + i) != 0 then some (0x0003, 0)
  else
    match (List.range p.len).find? fun i => s.free i && b (32 + i) != 0 with
    | some i => some (s.resv, atParam i)
    | none => (s.fields.find? fun f => f.va && 2 ^ 57 ≤ p.arg f.off 8).map fun f => (s.resv, atParam f.off)

/-- The checks of the header and the parameters, in the order of their codes. -/
def Hw.headCheck (m : Hw) (p : Pair) (s : CmdSpec) : Option (Nat × Nat) :=
  if p.len < s.len || 224 < p.len || p.xlen < s.xmin || s.xmax < p.xlen then some (0x0002, 0)
  else match p.reserved s with
    | some d => some d
    | none =>
      if p.ctxv && !s.ctxv then some (0x0003, 0)
      else if s.ctxv && !(p.ctxv && mhas m.ctxs p.ctxNo) then some (0x0004, 0)
      else if m.quay.st != .ready && !s.any then some (0x0009, 0)
      else if s.xmin != 0 && (p.xaddr = 0 || p.xaddr % 64 != 0) then some (0x0008, 0)
      else none

/-! ### Serving -/

/-- The harbourmaster serves commands: it runs and its beat has not stopped. -/
def Hw.serving (m : Hw) : Bool :=
  m.live && (m.quay.ps == .run || m.quay.ps == .hold) && m.quay.reason != 0x0910#16 && m.quay.fwAlive

/-- An earlier command that this one must see complete (14 R366). -/
def Espor.before (e : Espor) (n : Nat) : Bool :=
  let p := e.pair n
  (e.order.takeWhile fun k => k != n).any fun k =>
    let q := e.pair k
    !p.ctxv || !q.ctxv || p.ctxNo == q.ctxNo

/-- Firmware may serve pair `n` with the command: one that it has in its order. A pair that was BUSY as its beat stopped, or
turned BUSY after that, is not, and stays BUSY until a reset (14 R368). -/
def Hw.maybeServed (m : Hw) (n code : Nat) : Bool :=
  m.serving && n < 64 && (m.espor.pair n).st == .busy && (m.espor.pair n).cmd == code && m.espor.order.contains n
    && !m.espor.before n

/-- Serves pair `n`: a refusal changes nothing but the answer. -/
def Hw.serve (m : Hw) (n : Nat) (s : CmdSpec) (f : Pair → Reply) : Hw :=
  if m.maybeServed n s.code then
    let p := m.espor.pair n
    match m.headCheck p s with
    | some c => m.answer n false c.1 c.2 []
    | none =>
      match f p with
      | .refuse c d => m.answer n false c d []
      | .done m out => m.answer n false 0 0 out
      | .defer m => m.answer n true 0 0 []
  else m

/-- Serves a command with an extension block: a read of it that fails ends the command with 0x0008. -/
def Hw.serveBlock (m : Hw) (n : Nat) (s : CmdSpec) (block : Option (List Byte)) (f : Pair → List Byte → Reply) : Hw :=
  m.serve n s fun p =>
    match block with
    | none => .refuse 0x0008 0
    | some b => f p (fit p.xlen b)

/-- The module as a command's reads of the request's structures find it: the word at `bad`, in module or host memory, is
unreadable, because it is uncorrectable or because the read of it ended late or with EP (14 R370, 13 R342). -/
def Hw.foundBad (m : Hw) (bad : Option Nat) : Hw := { m with mem := { m.mem with badVa := bad } }

/-- The reply to a command whose reads find a word unreadable: 0x0008 if a check meets that word, else the reply itself. -/
def Hw.replyOver (m : Hw) (bad : Option Nat) (f : Hw → Pair → Reply) (p : Pair) : Reply :=
  match f (m.foundBad bad) p with
  | .refuse 0x0008 d => .refuse 0x0008 d
  | _ => f m p

/-- The context a request names. -/
def Pair.ctx (p : Pair) : Option Nat := if p.ctxv then some p.ctxNo else none

/-- A command's work goes on after DONE: its deferred record. -/
def Hw.deferWork (m : Hw) (n : Nat) (p : Pair) (obj : Nat) : Hw × Deferred :=
  let d : Deferred := ⟨m.espor.nextId, n, p.seq, p.cmd, p.ctx, obj, 0, 0, 0, []⟩
  ({ m with espor := { m.espor with deferred := m.espor.deferred ++ [d], nextId := m.espor.nextId + 1 } }, d)

/-- Parameter bytes. -/
def Pair.argBytes (p : Pair) (off n : Nat) : List Byte := rdN p.req (32 + off) n

/-- A bitmap field of 32 bytes. -/
def Pair.argCores (p : Pair) (off : Nat) : BitVec 256 := BitVec.ofNat 256 (p.arg off 32)

def powerOf2 (n lo hi : Nat) : Bool := lo ≤ n && n ≤ hi && n == 2 ^ n.log2

/-- DETAIL of a CORES bit: the core and the field. -/
def atCore (off core : Nat) : Nat := core ||| off <<< 16

/-- The first core of a bitmap outside a set. -/
def firstOutside (b set : BitVec 256) : Option Nat := (coreList b).find? fun k => !set.getLsbD k

def Hw.isBound (m : Hw) (kind index : Nat) : Bool := (m.host.vecOf kind index).isSome

end Sys2Proof.Machine
end

