-- ==== Sys2Proof/Machine/EsporCtx.lean ====
section
/-! DEFINITION. Espor commands on contexts, submit queues, event rings, vectors and snapshots, and ECHO and INFO (14 R366,
R372, R375, R379 to R381, 15 R386 to R388, 18 R455). -/

namespace Sys2Proof.Machine

/-! ### Contexts -/

/-- The quarter whose fast tier takes a new context's tables and fault log: firmware's choice, else the first with room. -/
def Hw.tableQuarter (m : Hw) (hint : Nat) : Option Nat :=
  (hint % 4 :: List.range 4).find? fun q => decide (3 ≤ m.framesFree q 0)

/-- A context's areas (14 R372): its fault log of 4,096 bytes in its table quarter, and for each of its cores a recovery and
save area in the fast tier of the core's quarter (15 R394, 18 R461), whose size the spec leaves open (free, log 53). None where
there is no room. -/
def Hw.takeAreas (m : Hw) (c : Nat) : List (Nat × Nat) → Option Hw
  | [] => some m
  | (q, n) :: t =>
    match mget m.ctxs c, m.allocRun q 0 n 0 with
    | some x, some f => Hw.takeAreas { m with ctxs := mset m.ctxs c { x with areas := x.areas ++ [(q, f, n)] } } c t
    | _, _ => none

/-- Cores of a context that lie in no partition, and those of a set that do. -/
def Hw.partitioned (m : Hw) : BitVec 256 :=
  BitVec.ofNat 256 ((List.range 256).foldl (fun a k =>
    if m.parts.any fun p => p.2.clusters.getLsbD (k / 8) then a + 2 ^ k else a) 0)

/-- The cores of a partition that its context may use. -/
def Part.usable (p : Part) : BitVec 256 :=
  BitVec.ofNat 256 ((List.range 256).foldl (fun a k =>
    if p.clusters.getLsbD (k / 8) && !p.standby.contains (some k) && p.refill.all (fun r => match r with
        | some w => w.1 != k
        | none => true) then a + 2 ^ k else a) 0)

def Ctx.new (inter : Bool) (part : Option Nat) (shares waitMs fast slow : Nat) (cores : BitVec 256) (q : Nat) : Ctx :=
  { interactive := inter, part := part, shares := shares, waitMs := waitMs, limFast := fast, limSlow := slow, cores := cores
    tableQ := q, pool := [], nodes := [], descFrames := [], areas := [], st := .created, v := ⟨0, 1⟩, residentAt := 0, quantumUp := false, lastSwitchIn := 0
    leaves := [], pds := [], seqVa := 0, seqN := 0, seqs := [], faults := [], faultNext := 0, faultLost := 0
    detected := [], ring := none, held := [], rollbackDue := false, snaps := [], back := .created, chosen := false
    displaced := [0, 0, 0, 0], recov := [], stopFault := none, metered := [] }

/-- Why a new context's core set is refused (14 R384, 15 R408). -/
def Hw.coresFault (m : Hw) (part : Option Nat) (b : BitVec 256) : Option (Nat × Nat) :=
  match (coreList b).find? fun k => !m.coreValid k with
  | some k => some (0x000C, atCore 24 k)
  | none =>
    match part with
    | none =>
      ((coreList b).find? fun k => m.partitioned.getLsbD k).map fun k => (0x0403, atCore 24 k)
    | some n =>
      match mget m.parts n with
      | none => some (0x0005, atParam 1)
      | some p =>
        if m.ctxs.any fun c => c.2.part == some n then some (0x0405, atParam 1)
        else (firstOutside b p.usable).map fun k => (0x0405, atCore 24 k)

/-- Catalogue row of CTX_CREATE. -/
def ctxCreateCmd : CmdSpec := modCmd 0x0101 [pf 0 1, pf 1 1, pf 2 2, pf 4 4, pf 8 8, pf 16 8, pf 24 32]

/-- CTX_CREATE: firmware's choice of the number and of the table quarter are operands. -/
def Hw.ctxCreateReply (m : Hw) (num : Nat) (tableQ : Nat) (p : Pair) : Reply :=
  let cls := p.arg 0 1
  let part := p.arg 1 1
  let wait := p.arg 4 4
  let cores := p.argCores 24
  let pt := if part = 0xFF then none else some part
  judge [(1 < cls, 0x0003, atParam 0), (7 < part && part != 0xFF, 0x000A, atParam 1),
      (p.arg 2 2 == 0, 0x000A, atParam 2), (60000 < wait, 0x000A, atParam 4),
      (part < 8 && !mhas m.parts part, 0x0005, atParam 1)] fun _ =>
    match chooseKey m.ctxs num 1024, m.tableQuarter tableQ with
    | some c, some q =>
      (match m.coresFault pt cores with
       | some e => .refuse e.1 e.2
       | none =>
         let x := Ctx.new (cls == 1) pt (p.arg 2 2) (if wait = 0 then 10000 else wait) (p.arg 8 8) (p.arg 16 8) cores q
         let m := { m with ctxs := mset m.ctxs c x, counters := countClear m.counters 8 c }.growPool c
         match m.takeAreas c ((q, 1) :: (coreList cores).map fun k => (k / 64, Config.areaFrames)) with
         | some m => .done m (leBytes 2 c ++ leBytes 1 q)
         | none => .refuse 0x0007 0)
    | _, _ => .refuse 0x0007 0

/-- CTX_CREATE, served for a pair. -/
def execCtxCreate (pair num tableQ : Nat) : State → Host.Outcome State Fault Refusal :=
  onHw fun m => m.serve pair ctxCreateCmd (m.ctxCreateReply num tableQ)

/-- A run ends at once (14 R372, MODE 1): every thread of the plan stops, and the plan is disabled. -/
def Hw.endPlanNow (m : Hw) (plan : Nat) : Hw :=
  match mget m.plans plan with
  | none => m
  | some p =>
    let m := p.cores.foldl (fun (m : Hw) e =>
      if (m.core e.core).ctx == some p.ctx then m.updCore e.core Core.stopAll else m) m
    let m := match p.run with
      | some r => if r.evt then m.event 0x0012 (some p.ctx) (runPayload plan r.queue r.tag r.no 1) else m
      | none => m
    let m := m.dropPlan plan
    p.disabling.foldl (fun (m : Hw) d => m.eventDone (some p.ctx) d.1 d.2 0x0111 0 0 0) m

/-- A job goes with its context: a disable that waits for it reports. -/
def Hw.dropJob (m : Hw) (n : Nat) : Hw :=
  match mget m.jobs n with
  | none => m
  | some j =>
    j.disabling.foldl (fun (m : Hw) d => m.eventDone none d.1 d.2 0x0307 0 0 0)
      ({ m with jobs := mdel m.jobs n }.unbind 2 n)

/-- Migrations of a context end: the frames they were filling are zeroed. -/
def Hw.dropMigs (m : Hw) (c : Nat) : Hw :=
  let gone := m.engines.flatMap fun e => (e.slots.filter fun g => g.2.ctx == c).map (·.2)
  let m := gone.foldl (fun (m : Hw) g =>
    { m with mem := m.mem.zeroFrames (g.toHome / 2) (g.toHome % 2) g.toFrame (g.granules / 32) }) m
  { m with engines := m.engines.map fun e =>
      ⟨e.slots.filter fun g => g.2.ctx != c, e.queue.filter fun r => r.ctx != c⟩ }

/-- Everything created for a context, and what is under way for it (14 R372, 15 R386). -/
def Hw.dropCtx (m : Hw) (c : Nat) (x : Ctx) : Hw :=
  let ks := m.ctxCores c
  let m := m.coreFaultLog c 0 false
  let m := (m.plansOf c).foldl (fun m p => m.endPlanNow p.1) m
  let m := (m.jobs.filter fun j => j.2.ctx == c).foldl (fun m j => m.dropJob j.1) m
  let m := (m.queues.filter fun q => q.2.ctx == c).foldl
    (fun (m : Hw) (q : Nat × SubQ) => { m with queues := mdel m.queues q.1 }.unbind 3 q.1) m
  let m := (m.unbind 0 c).dropMigs c
  let m := m.cores.foldl (fun (m : Hw) (k : Nat × Core) =>
    if k.2.ctx == some c then m.setCore k.1 { Core.cleared with inbox := (m.core k.1).inbox } else m) m
  let m := (m.dropSignals fun s => s.ctx == c).freeFrames x |>.invalidateCtx c
  { m with
    ctxs := mdel m.ctxs c
    streams := m.streams.filter fun s => s.2.ctx != c
    loads := m.loads.filter fun l => l.ctx != c
    saves := m.saves.filter fun s => s.1 / 256 != c
    ferries := m.ferries.filter fun f => f.ctx != c
    creditsInFlight := m.creditsInFlight.filter fun r => !ks.contains r.core
    host := { m.host with windows := m.host.windows.filter fun w => w.2.ctx != c }
    espor := { m.espor with deferred := m.espor.deferred.filter fun d => d.ctx != some c }
    moduleRing := if m.moduleRing == some c then none else m.moduleRing }

/-- Deferred work and queued moves go on after frames or queue space came free. -/
def Hw.refill (m : Hw) : Hw :=
  let m := m.settleRetires.askRetires
  ((List.range 4).foldl (fun (m : Hw) q => Hw.fillSlotsN 16 m q) m).pump

/-- Catalogue row of CTX_DESTROY. -/
def ctxDestroyCmd : CmdSpec := ctxCmd 0x0102 []

/-- CTX_DESTROY: everything of the context goes. -/
def Hw.ctxDestroyReply (m : Hw) (p : Pair) : Reply :=
  match mget m.ctxs p.ctxNo with
  | none => .refuse 0x0004 0
  | some x => .done ((m.dropCtx p.ctxNo x).refill.decide_) []

/-- A core of the context failed and is not handled yet. -/
def Hw.coreBroken (m : Hw) (c : Nat) : Bool := (m.ctxCores c).any fun k => (m.core k).broken.isSome

/-- CTX_DESTROY, served for a pair; a core of the context that failed is handled first (18 R466). Its threads stop at once;
its cores clear, and the command completes, once their requests have ended and their signals have been applied (02 R67). -/
def execCtxDestroy (pair : Nat) : State → Host.Outcome State Fault Refusal :=
  onHw fun m =>
    let p := m.espor.pair pair
    if m.coreBroken p.ctxNo then m
    else if m.maybeServed pair 0x0102 && (m.headCheck p ctxDestroyCmd).isNone && !m.quietCtx p.ctxNo then m.stopThreads p.ctxNo
    else m.serve pair ctxDestroyCmd m.ctxDestroyReply

/-- Catalogue row of CTX_SET. -/
def ctxSetCmd : CmdSpec := ctxCmd 0x0103 [pf 0 2, pf 4 4, pf 8 8, pf 16 8]

/-- CTX_SET: a field of 0 stays unchanged. -/
def Hw.ctxSetReply (m : Hw) (p : Pair) : Reply :=
  match mget m.ctxs p.ctxNo with
  | none => .refuse 0x0004 0
  | some x =>
    let or (v old : Nat) : Nat := if v = 0 then old else v
    let below (off tier : Nat) : Bool := p.arg off 8 != 0 && p.arg off 8 < x.tierBytes tier
    judge [(60000 < p.arg 4 4, 0x000A, atParam 4), (below 8 0, 0x0409, atParam 8), (below 16 1, 0x0409, atParam 16)]
      fun _ =>
        let y := { x with shares := or (p.arg 0 2) x.shares, waitMs := or (p.arg 4 4) x.waitMs
                          limFast := or (p.arg 8 8) x.limFast, limSlow := or (p.arg 16 8) x.limSlow }
        .done { m with ctxs := mset m.ctxs p.ctxNo y } []

/-- CTX_SET, served for a pair. -/
def execCtxSet (pair : Nat) : State → Host.Outcome State Fault Refusal :=
  onHw fun m => m.serve pair ctxSetCmd m.ctxSetReply

/-- A fault record of 64 bytes (06 R178). -/
def FaultRec.bytes (r : FaultRec) : List Byte :=
  fit 64 (leBytes 42 (packFields
    [(16, r.code), (8, r.core), (2, r.thread), (1, b2n r.store), (1, b2n r.fetch), (4, 0), (32, r.opTag), (57, r.va), (7, 0),
     (2, r.homeQ), (2, r.homeT), (4, r.dev), (5, r.chan), (6, r.bank), (4, r.array), (9, 0), (32, r.row), (64, r.synd),
     (64, r.tide), (10, r.ctx)]))

/-- Catalogue row of CTX_FAULTS. -/
def ctxFaultsCmd : CmdSpec := ctxCmd 0x0104 [pf 0 4]

/-- CTX_FAULTS: up to three records from FIRST upwards; every record below FIRST is freed. -/
def Hw.ctxFaultsReply (m : Hw) (p : Pair) : Reply :=
  match mget m.ctxs p.ctxNo with
  | none => .refuse 0x0004 0
  | some x =>
    let f := p.arg 0 4
    let keep := x.faults.filter fun r => decide (f ≤ r.num)
    let out := keep.take 3
    let next := match out.getLast? with | some r => r.num + 1 | none => f
    .done { m with ctxs := mset m.ctxs p.ctxNo { x with faults := keep } }
      (leBytes 4 next ++ leBytes 4 x.faultLost ++ leBytes 8 out.length ++ out.flatMap FaultRec.bytes)

/-- CTX_FAULTS, served for a pair. -/
def execCtxFaults (pair : Nat) : State → Host.Outcome State Fault Refusal :=
  onHw fun m => m.serve pair ctxFaultsCmd m.ctxFaultsReply

/-! ### Submit queues -/

/-- Catalogue row of SUBQ_CREATE. -/
def subqCreateCmd : CmdSpec := ctxCmd 0x0114 [pf 0 8, pf 8 4]

/-- SUBQ_CREATE: firmware's choice of the number is an operand. -/
def Hw.subqCreateReply (m : Hw) (bad : Bool) (queue : Nat) (p : Pair) : Reply :=
  judge [(p.arg 0 8 % 64 != 0 || bad, 0x0008, atParam 0), (!powerOf2 (p.arg 8 4) 16 65536, 0x000A, atParam 8)] fun _ =>
    match chooseKey m.queues queue 256 with
    | none => .refuse 0x0007 0
    | some q =>
      let x : SubQ := { ctx := p.ctxNo, ba := p.arg 0 8, nent := p.arg 8 4, head := 0#32, tail := 0#32, err := false
                        cur := none, posts := [], waits := none }
      .done { m with queues := mset m.queues q x } (leBytes 2 q)

/-- SUBQ_CREATE, served for a pair. -/
def execSubqCreate (run : RingRun) (queue : Nat) : State → Host.Outcome State Fault Refusal :=
  onHw fun m => m.serve run.pair subqCreateCmd (m.subqCreateReply run.bad queue)

/-- Catalogue row of SUBQ_DESTROY. -/
def subqDestroyCmd : CmdSpec := ctxCmd 0x0115 [pf 0 2]

/-- SUBQ_DESTROY. -/
def Hw.subqDestroyReply (m : Hw) (p : Pair) : Reply :=
  let q := p.arg 0 2
  match mget m.queues q with
  | none => .refuse 0x0005 (atParam 0)
  | some x =>
    judge [(x.ctx != p.ctxNo, 0x0005, atParam 0), (x.cur.isSome || m.isBound 3 q, 0x0006, atParam 0)] fun _ =>
      .done ({ m with queues := mdel m.queues q }.loseWork p.ctxNo) []

/-- SUBQ_DESTROY, served for a pair. -/
def execSubqDestroy (pair : Nat) : State → Host.Outcome State Fault Refusal :=
  onHw fun m => m.serve pair subqDestroyCmd m.subqDestroyReply

/-! ### Event rings and vectors -/

/-- Catalogue row of EVRING_CREATE. -/
def evringCreateCmd : CmdSpec := ctxCmd 0x0A01 [pf 0 8, pf 8 4, pf 12 1]

/-- EVRING_CREATE. -/
def Hw.evringCreateReply (m : Hw) (bad : Bool) (p : Pair) : Reply :=
  let md := p.arg 12 1
  match mget m.ctxs p.ctxNo with
  | none => .refuse 0x0004 0
  | some x =>
    judge [(1 < md, 0x0003, atParam 12), (p.arg 0 8 % 64 != 0 || bad, 0x0008, atParam 0),
        (!powerOf2 (p.arg 8 4) 64 1048576, 0x000A, atParam 8), (x.ring.isSome, 0x000B, 0),
        (md == 1 && m.moduleRing.isSome, 0x000B, atParam 12)] fun _ =>
      let r : Ring := ⟨p.arg 0 8, p.arg 8 4, 0#32, 0#32, false, 0, 0⟩
      .done { m with ctxs := mset m.ctxs p.ctxNo { x with ring := some r }
                     moduleRing := if md = 1 then some p.ctxNo else m.moduleRing } []

/-- EVRING_CREATE, served for a pair. -/
def execEvringCreate (run : RingRun) : State → Host.Outcome State Fault Refusal :=
  onHw fun m => m.serve run.pair evringCreateCmd (m.evringCreateReply run.bad)

/-- Catalogue row of EVRING_DESTROY. -/
def evringDestroyCmd : CmdSpec := ctxCmd 0x0A02 []

/-- EVRING_DESTROY. -/
def Hw.evringDestroyReply (m : Hw) (p : Pair) : Reply :=
  match mget m.ctxs p.ctxNo with
  | none => .refuse 0x0004 0
  | some x =>
    judge [(x.ring.isNone, 0x0005, 0), (m.isBound 0 p.ctxNo, 0x0006, 0)] fun _ =>
      .done { m with ctxs := mset m.ctxs p.ctxNo { x with ring := none }
                     moduleRing := if m.moduleRing == some p.ctxNo then none else m.moduleRing } []

/-- EVRING_DESTROY, served for a pair. -/
def execEvringDestroy (pair : Nat) : State → Host.Outcome State Fault Refusal :=
  onHw fun m => m.serve pair evringDestroyCmd m.evringDestroyReply

/-- A source that INTR_BIND may name exists. -/
def Hw.sourceExists (m : Hw) (kind index : Nat) : Bool :=
  match kind with
  | 0 => match mget m.ctxs index with | some x => x.ring.isSome | none => false
  | 1 => index < 64
  | 2 => mhas m.jobs index
  | _ => mhas m.queues index

/-- A source moves to a vector; a cause that its old vector still holds is sent on the new one (14 R379). -/
def HostLink.move (h : HostLink) (now vec kind index holdoff : Nat) : HostLink :=
  let held := h.vecs.any fun v => v.1 != vec && v.2.srcs.contains (kind, index)
  let vecs := h.vecs.map fun v =>
    if v.1 != vec && v.2.srcs.contains (kind, index) then
      let left := v.2.srcs.filter fun s => s != (kind, index)
      (v.1, { v.2 with srcs := left, pend := !left.isEmpty })
    else v
  let stay := h.binds.filter fun (b : Binding) => !(b.kind == kind && b.index == index)
  let h := { h with vecs := vecs, binds := stay ++ [(⟨vec, kind, index⟩ : Binding)] }
  let h := { h with vecs := mset h.vecs vec { h.vec vec with holdoff := holdoff } }
  if held then h.raiseFor now vec [(kind, index)] else h

/-- Catalogue row of INTR_BIND. -/
def intrBindCmd : CmdSpec := modCmd 0x0A03 [pf 0 1, pf 1 1, pf 2 2, pf 4 2, pf 6 1]

/-- INTR_BIND. -/
def Hw.intrBindReply (m : Hw) (p : Pair) : Reply :=
  let v := p.arg 0 1
  let kind := p.arg 1 1
  let ix := p.arg 2 2
  let un := p.arg 6 1
  let others := (m.host.binds.filter fun b => b.vec == v && !(b.kind == kind && b.index == ix)).length
  judge [(3 < kind, 0x0003, atParam 1), (1 < un, 0x0003, atParam 6), (un == 0 && (v == 0 || 63 < v), 0x000A, atParam 0),
      (1000 < p.arg 4 2, 0x000A, atParam 4), (!m.sourceExists kind ix, 0x0005, atParam 2),
      (un == 0 && 64 ≤ others, 0x0007, atParam 0)] fun _ =>
    if un = 1 then .done (m.unbind kind ix) []
    else .done { m with host := m.host.move m.now v kind ix (p.arg 4 2) } []

/-- INTR_BIND, served for a pair. -/
def execIntrBind (pair : Nat) : State → Host.Outcome State Fault Refusal :=
  onHw fun m => m.serve pair intrBindCmd m.intrBindReply

/-! ### Snapshots -/

/-- PERIOD ticks are shorter than 1 ms. -/
def TideCfg.tooFast (t : TideCfg) (period : Nat) : Bool := period != 0 && period * (10 ^ 9 * t.den / t.num) < 10 ^ 6

/-- Catalogue row of SNAP_ARM. -/
def snapArmCmd : CmdSpec := modCmd 0x0B01 [pf 0 8, pf 8 4]

/-- SNAP_ARM. -/
def Hw.snapArmReply (m : Hw) (p : Pair) : Reply :=
  match m.island.tideCfg with
  | none => .refuse 0x000A (atParam 0)
  | some t =>
    judge [(t.at (p.arg 0 8) ≤ m.now, 0x000A, atParam 0), (t.tooFast (p.arg 8 4), 0x000A, atParam 8)] fun _ =>
      .done { m with snap := { m.snap with armTick := some (p.arg 0 8), period := p.arg 8 4 } }
        (leBytes 4 (m.snap.epoch + 1))

/-- SNAP_ARM, served for a pair. -/
def execSnapArm (pair : Nat) : State → Host.Outcome State Fault Refusal :=
  onHw fun m => m.serve pair snapArmCmd m.snapArmReply

/-- Catalogue row of SNAP_CANCEL. -/
def snapCancelCmd : CmdSpec := modCmd 0x0B02 []

/-- SNAP_CANCEL. -/
def Hw.snapCancelReply (m : Hw) (_ : Pair) : Reply :=
  .done { m with snap := { m.snap with armTick := none } } []

/-- SNAP_CANCEL, served for a pair. -/
def execSnapCancel (pair : Nat) : State → Host.Outcome State Fault Refusal :=
  onHw fun m => m.serve pair snapCancelCmd m.snapCancelReply

/-! ### ECHO and INFO -/

/-- Catalogue row of ECHO for a request of `n` parameter bytes. -/
def echoCmd (n : Nat) : CmdSpec := anyCmd 0x0001 [pf 0 n]

/-- ECHO, served for a pair: any LEN bytes come back. -/
def execEcho (pair : Nat) : State → Host.Outcome State Fault Refusal :=
  onHw fun m =>
    let n := min (m.espor.pair pair).len 224
    m.serve pair (echoCmd n) fun p => .done m (p.argBytes 0 n)

/-- Bytes of a home after retirement. -/
def Hw.usableBytes (m : Hw) (q tier : Nat) : Nat :=
  (m.frameCap q tier - (m.flash.retired.filter fun r => r.1 == q && r.2.1 == tier).length) * 65536

/-- Catalogue row of INFO. -/
def infoCmd : CmdSpec := anyCmd 0x0002 []

/-- INFO. -/
def Hw.infoReply (m : Hw) (_ : Pair) : Reply :=
  let gen := match m.flash.topo with | some t => t.cfgGen.toNat | none => 0
  let four (f : Nat → Nat) : List Byte := (List.range 4).flatMap fun q => leBytes 8 (f q)
  .done m (leBytes 4 m.fwVer.toNat ++ leBytes 4 m.fwBuild.toNat ++ leBytes 8 gen
    ++ four (fun q => m.usableBytes q 0) ++ four (fun q => m.usableBytes q 1)
    ++ four (fun q => m.framesFree q 0 * 65536) ++ four (fun q => m.framesFree q 1 * 65536))

/-- INFO, served for a pair. -/
def execInfo (pair : Nat) : State → Host.Outcome State Fault Refusal :=
  onHw fun m => m.serve pair infoCmd m.infoReply

end Sys2Proof.Machine
end

