-- ==== Sys2Proof/Machine/EsporMem.lean ====
section
/-! DEFINITION. Espor commands on memory, translation and sequences (14 R376, 06 R173, R179 to R181, 07 R188 to R194, R201 to
R207, R212, 13 R345). -/

namespace Sys2Proof.Machine

/-! ### Ranges of mapped pages -/

/-- The range is empty or splits a page. -/
def Ctx.splits (x : Ctx) (va n : Nat) : Bool := n == 0 || (x.leavesIn va n).any fun l => !l.inside va n

/-- Bytes of the range that pages map. -/
def Ctx.covers (x : Ctx) (va n : Nat) : Bool :=
  (x.leavesIn va n).foldl (fun a l => a + (min (l.va + pageBytes l.size) (va + n) - max l.va va)) 0 == n

/-- What every range of mapped pages is checked for. -/
def Ctx.rangeChecks (x : Ctx) (va n : Nat) : List Check :=
  [(x.splits va n, 0x0241, atParam 8), (!x.covers va n, 0x024D, atParam 0)]

/-- Ranges that hold the descriptor streams and the tables of the context's enabled plans (02 R34). -/
def Hw.planText (m : Hw) (c : Nat) : List (Nat × Nat) :=
  (m.plansOf c).flatMap fun p =>
    (p.2.tenTbl, 32 * p.2.nten) :: (p.2.chainTbl, 128 * p.2.nchain)
      :: p.2.cores.flatMap fun e => (e.entry.filter fun a => a != 0).flatMap fun a =>
        (m.streamFrom c 65536 a).map fun d => (d.1, 128)

/-- The page of a leaf holds plan text of its context, through this leaf or another one of the same page (01 R19, 14 R376). -/
def Hw.holdsText (m : Hw) (c : Nat) (l : Leaf) : Bool :=
  match mget m.ctxs c with
  | none => false
  | some x => (x.leaves.filter fun k => k.pdi == l.pdi).any fun k => (m.planText c).any fun r => r.2 != 0 && k.touches r.1 r.2

/-! ### MAP -/

/-- A range that a defined sequence owns (07 R203). -/
def Ctx.meetsSeq (x : Ctx) (va n : Nat) : Bool :=
  x.seqs.any fun s => s.2.base < va + n && va < s.2.base + 2 ^ s.2.log2

/-- The range cannot be mapped where it lies: a page of it, or a sequence, is there already. -/
def Ctx.taken (x : Ctx) (va n : Nat) : Bool := !(x.leavesIn va n).isEmpty || x.meetsSeq va n

def outOfSpace (va n : Nat) : Bool := va < 0x10000 || 2 ^ 57 < va + n

/-- The hub window offset of a device-window page is valid (07 R194). -/
def windowOk (a : Nat) : Bool := a % 0x10000 == 0 && a < 0x400000 && a != 0x10000 && a != 0x200000

/-- Leaves of `k` pages from `va`, with their page descriptor indices. -/
def newLeaves (va size : Nat) (ro pf : Bool) (ps : List Nat) : List Leaf :=
  (List.zip (List.range ps.length) ps).map fun p => ⟨va + p.1 * pageBytes size, size, ro, pf, false, p.2⟩

/-- Adds leaves and descriptors, and the pool frames they need. -/
def Hw.addPages (m : Hw) (c : Nat) (x : Ctx) (ls : List Leaf) (pds : Map PageDesc) : Hw :=
  { m with ctxs := mset m.ctxs c { x with leaves := x.leaves ++ ls, pds := pds } }.growPool c

structure MapReq where
  va : Nat
  bytes : Nat
  psz : Nat
  home : Nat
  homeQ : Nat
  ro : Bool
  pf : Bool
  nopf : Bool
  moored : Bool
  addr : Nat
  src : Nat
  deriving DecidableEq, Repr

def MapReq.parse (p : Pair) : MapReq :=
  let f := p.arg 19 1
  ⟨p.arg 0 8, p.arg 8 8, p.arg 16 1, p.arg 17 1, p.arg 18 1, bitb f 0, bitb f 1, bitb f 2, bitb f 3, p.arg 24 8, p.arg 32 8⟩

def MapReq.page (r : MapReq) : Nat := pageBytes r.psz
def MapReq.count (r : MapReq) : Nat := r.bytes / r.page

/-- ADDR of page `i`. -/
def MapReq.addrOf (r : MapReq) (i : Nat) : Nat := if r.home = 2 then r.addr + i * 8 * (r.page / 4096) else r.addr + i * r.page

/-- Shape checks of a mapping request, in the order of the codes. -/
def MapReq.checks (r : MapReq) (x : Ctx) : List Check :=
  let own := r.src == 0
  [(2 < r.psz, 0x0240, atParam 16), (own && 3 < r.home, 0x0240, atParam 17), (own && 3 < r.homeQ, 0x000A, atParam 18),
   (r.va % r.page != 0 || r.src % r.page != 0, 0x0241, atParam 0), (r.bytes == 0 || r.bytes % r.page != 0, 0x0241, atParam 8),
   (x.taken r.va r.bytes, 0x0241, atParam 0), (outOfSpace r.va r.bytes, 0x0242, atParam 0),
   (own && r.home == 2 && (r.addr % 8 != 0 || r.moored), 0x0248, atParam 24),
   (own && r.home == 3 && (r.psz != 0 || !r.ro || !(List.range r.count).all fun i => windowOk (r.addrOf i)), 0x024C, atParam 24)]

/-- MAP of pages already mapped at SRC_VA. -/
def Hw.mapShared (m : Hw) (c : Nat) (x : Ctx) (r : MapReq) : Reply :=
  let src := (List.range r.count).filterMap fun i => x.leaves.find? fun l => l.va == r.src + i * r.page && l.size == r.psz
  let ps := src.map (·.pdi)
  let ls := newLeaves r.va r.psz r.ro r.pf ps
  let refs (k : Nat) : Nat := match mget x.pds k with
    | some p => p.refs + (ps.filter fun q => q == k).length
    | none => 0
  judge [(src.length != r.count, 0x024D, atParam 32), (ps.any fun k => 65535 < refs k, 0x024E, atParam 32),
      (!r.ro && ps.any fun k => match mget x.pds k with | some p => p.home == 3 | none => false, 0x024C, atParam 19),
      (65536 < x.poolNeed ls, 0x0247, atParam 8), (m.framesFree x.tableQ 0 < x.tableGrowth ls [], 0x0007, atParam 8)] fun _ =>
    let pds := ps.eraseDups.foldl (fun (d : Map PageDesc) k => match mget d k with
      | some p => mset d k { p with refs := refs k }
      | none => d) x.pds
    .done (m.addPages c x ls pds) (leBytes 4 (ps.headD 0) ++ leBytes 4 r.count)

/-- MAP of new pages. -/
def Hw.mapNew (m : Hw) (c : Nat) (x : Ctx) (r : MapReq) (hint : Nat) : Reply :=
  let n := r.page / 65536
  let ram := r.home ≤ 1
  let ps := freshPdis r.count x.pds 1
  let ls := newLeaves r.va r.psz r.ro r.pf ps
  let near := if r.home = 0 && x.tableQ = r.homeQ then r.count * n else 0
  judge [(ps.any fun k => 0x08000000 ≤ k, 0x0247, atParam 8), (65536 < x.poolNeed ls, 0x0247, atParam 8),
      (ram && r.moored && moorLimit r.home < m.mooredBytes r.homeQ r.home + r.bytes, 0x0206, atParam 19),
      (ram && !m.limitOk c r.home r.bytes, 0x0409, atParam 8),
      (ram && m.framesFree r.homeQ r.home < r.count * n, 0x0007, atParam 8),
      (m.framesFree x.tableQ 0 < near + x.tableGrowth ls ps, 0x0007, atParam 8)] fun _ =>
    let desc (i addr : Nat) : PageDesc :=
      { home := r.home, homeQ := if ram then r.homeQ else 0, size := r.psz, moored := r.moored
        nopf := r.nopf || r.home == 3, ret := false, mig := false, sealed := false, refs := 1, vslots := 0
        addr := if ram then addr else r.addrOf i }
    match if ram then m.allocPages r.homeQ r.home n r.count hint [] [] else some (List.replicate r.count 0) with
    | none => .refuse 0x0007 (atParam 8)
    | some fs =>
      let pds := (List.zip (List.range r.count) (List.zip ps fs)).foldl
        (fun (d : Map PageDesc) w => mset d w.2.1 (desc w.1 w.2.2)) x.pds
      let m := if ram then fs.foldl (fun (m : Hw) f => { m with mem := m.mem.zeroFrames r.homeQ r.home f n }) m else m
      .done (m.addPages c x ls pds) (leBytes 4 (ps.headD 0) ++ leBytes 4 r.count)

/-- Catalogue row of MAP. -/
def mapCmd : CmdSpec :=
  { ctxCmd 0x0201 [pva 0, pf 8 8, pf 16 1, pf 17 1, pf 18 1, pf 19 1, pf 24 8, pva 32] with resv := 0x0240 }

/-- MAP; firmware's choice of the first frame is an operand. -/
def Hw.mapReply (m : Hw) (frame : Nat) (p : Pair) : Reply :=
  let r := MapReq.parse p
  match mget m.ctxs p.ctxNo with
  | none => .refuse 0x0004 0
  | some x =>
    judge ((15 < p.arg 19 1, 0x0240, atParam 19) :: r.checks x) fun _ =>
      if r.src != 0 then m.mapShared p.ctxNo x r else m.mapNew p.ctxNo x r frame

/-- MAP, served for a pair. -/
def execMap (pair frame : Nat) : State → Host.Outcome State Fault Refusal :=
  onHw fun m => m.serve pair mapCmd (m.mapReply frame)

/-! ### UNMAP and MAP_ATTR -/

/-- Catalogue row of UNMAP. -/
def unmapCmd : CmdSpec := { ctxCmd 0x0202 [pva 0, pf 8 8] with resv := 0x0240 }

/-- UNMAP: the range's leaves and references go. -/
def Hw.unmapReply (m : Hw) (p : Pair) : Reply :=
  let va := p.arg 0 8
  let n := p.arg 8 8
  match mget m.ctxs p.ctxNo with
  | none => .refuse 0x0004 0
  | some x =>
    judge (x.rangeChecks va n ++ [((x.leavesIn va n).any fun l => m.holdsText p.ctxNo l, 0x000B, atParam 0)]) fun _ =>
      .done (m.unmapRange p.ctxNo va n).refill []

/-- UNMAP, served for a pair; it is reported done once every request to its pages is (07 R196). -/
def execUnmap (pair : Nat) : State → Host.Outcome State Fault Refusal :=
  onHw fun m =>
    let p := m.espor.pair pair
    if m.pagesBusy p.ctxNo (p.arg 0 8) (p.arg 8 8) then m else m.serve pair unmapCmd m.unmapReply

/-- Bit `i` after SET and CLEAR. -/
def attr (set clear i : Nat) (old : Bool) : Bool := (old || bitb set i) && !bitb clear i

/-- Catalogue row of MAP_ATTR. -/
def mapAttrCmd : CmdSpec := { ctxCmd 0x0203 [pva 0, pf 8 8, pf 16 1, pf 17 1] with resv := 0x0240 }

/-- Page descriptors of a range. -/
def Ctx.pdsIn (x : Ctx) (va n : Nat) : List (Nat × PageDesc) :=
  x.pds.filter fun d => (x.leavesIn va n).any fun l => l.pdi == d.1

/-- MAP_ATTR would moor a page that migrates. -/
def Hw.moorWaits (m : Hw) (p : Pair) : Bool :=
  match mget m.ctxs p.ctxNo with
  | some x => bitb (p.arg 16 1) 3 && (x.pdsIn (p.arg 0 8) (p.arg 8 8)).any fun d => d.2.mig
  | none => false

/-- MAP_ATTR: SET and CLEAR on the pages of the range; a page of a sequence range or of the sequence table stays read-only (07 R201, R203; log 50). -/
def Hw.mapAttrReply (m : Hw) (p : Pair) : Reply :=
  let va := p.arg 0 8
  let n := p.arg 8 8
  let set := p.arg 16 1
  let clr := p.arg 17 1
  match mget m.ctxs p.ctxNo with
  | none => .refuse 0x0004 0
  | some x =>
    let ds := x.pdsIn va n
    let add (q t : Nat) : Nat := (ds.filter fun d => !d.2.moored && d.2.home == t && d.2.homeQ == q).foldl
      (fun a d => a + pageBytes d.2.size) 0
    let full := bitb set 3 && (List.range 4).any fun q => (List.range 2).any fun t =>
      add q t != 0 && moorLimit t < m.mooredBytes q t + add q t
    judge (([(15 < set, 0x0240, atParam 16), (15 < clr, 0x0240, atParam 17), (set &&& clr != 0, 0x000A, atParam 16)]
          : List Check) ++ x.rangeChecks va n ++
        [(bitb clr 0 && (x.leavesIn va n).any fun l => m.holdsText p.ctxNo l, 0x000B, atParam 17),
         (full, 0x0206, atParam 16), (bitb set 3 && ds.any fun d => d.2.home == 2, 0x0248, atParam 16),
         (bitb clr 0 && ds.any fun d => d.2.home == 3, 0x024C, atParam 17)]) fun _ =>
      let leaves := x.leaves.map fun l =>
        if l.inside va n then { l with ro := attr set clr 0 l.ro || x.guarded l, pf := attr set clr 1 l.pf } else l
      let pds := x.pds.map fun d =>
        if ds.any fun e => e.1 == d.1 then
          (d.1, { d.2 with nopf := attr set clr 2 d.2.nopf || d.2.home == 3, moored := attr set clr 3 d.2.moored })
        else d
      let m := { m with ctxs := mset m.ctxs p.ctxNo { x with leaves := leaves, pds := pds } }
      .done (ds.foldl (fun (m : Hw) d => m.invalidatePdi p.ctxNo d.1) m) []

/-- MAP_ATTR, served for a pair; a page that migrates arrives before it is moored (06 R173). -/
def execMapAttr (pair : Nat) : State → Host.Outcome State Fault Refusal :=
  onHw fun m => if m.moorWaits (m.espor.pair pair) then m else m.serve pair mapAttrCmd m.mapAttrReply

/-! ### MIGRATE and retirement -/

/-- Catalogue row of MIGRATE. -/
def migrateCmd : CmdSpec := ctxCmd 0x0204 [pva 0, pf 8 8, pf 16 1, pf 17 1]

/-- MIGRATE: the pages of the range go to a home; those that cannot move are skipped. -/
def Hw.migrateReply (m : Hw) (pair : Nat) (p : Pair) : Reply :=
  let va := p.arg 0 8
  let n := p.arg 8 8
  let home := 2 * p.arg 17 1 + p.arg 16 1
  match mget m.ctxs p.ctxNo with
  | none => .refuse 0x0004 0
  | some x =>
    let ps := ((x.leavesIn va n).map (·.pdi)).eraseDups
    let ds := x.pds.filter fun d => ps.contains d.1
    let add := (ds.filter fun d => d.2.home == 1 - p.arg 16 1 && !d.2.mig).foldl (fun a d => a + pageBytes d.2.size) 0
    judge [(1 < p.arg 16 1, 0x000A, atParam 16), (3 < p.arg 17 1, 0x000A, atParam 17),
        (x.splits va n, 0x0241, atParam 8), (!x.covers va n, 0x024D, atParam 0),
        (ds.any fun d => d.2.moored, 0x0205, atParam 0), (add != 0 && !m.limitOk p.ctxNo (p.arg 16 1) add, 0x0409, atParam 8)]
      fun _ =>
        let r := m.deferWork pair p home
        .defer (Hw.askPages ps r.1 r.2)

/-- MIGRATE, served for a pair. -/
def execMigrate (pair : Nat) : State → Host.Outcome State Fault Refusal :=
  onHw fun m => m.serve pair migrateCmd (m.migrateReply pair)

/-- Catalogue row of RETIRE_FRAME. -/
def retireFrameCmd : CmdSpec := modCmd 0x0205 [pf 0 1, pf 1 1, pf 4 4]

/-- RETIRE_FRAME. -/
def Hw.retireFrameReply (m : Hw) (pair : Nat) (p : Pair) : Reply :=
  let q := p.arg 0 1
  let t := p.arg 1 1
  let f := p.arg 4 4
  let key := frameKey q t f
  let waiting := m.espor.deferred.filter fun d => d.cmd == 0x0205
  let used := (m.flash.retired.filter fun r => r.1 == q && r.2.1 == t).length
    + (waiting.filter fun d => d.obj / 2 ^ 32 == key / 2 ^ 32).length
  let held := m.ctxs.any fun c => m.isFixed c.1 && !(m.plansOf c.1).isEmpty && c.2.pds.any fun d =>
    d.2.moored && d.2.home == t && d.2.homeQ == q && d.2.addr ≤ f && f < d.2.addr + pageBytes d.2.size / 65536
  judge [(3 < q, 0x000A, atParam 0), (1 < t, 0x000A, atParam 1), (m.frameCap q t ≤ f, 0x000A, atParam 4),
      (m.flash.retired.contains (q, t, f) || waiting.any fun d => d.obj == key, 0x0207, atParam 4),
      (4096 ≤ used, 0x0208, atParam 4), (held, 0x0209, atParam 4)] fun _ =>
    .defer ((m.deferWork pair p key).1.settleRetires.askRetires)

/-- RETIRE_FRAME, served for a pair. -/
def execRetireFrame (pair : Nat) : State → Host.Outcome State Fault Refusal :=
  onHw fun m => m.serve pair retireFrameCmd (m.retireFrameReply pair)

/-- The unit exists, is neither retired nor pending, and its going leaves the quarter a stack and a package (17 R448, R449). -/
def Hw.unitMayGo (m : Hw) (u : PendingUnit) : Bool :=
  match m.flash.topo with
  | none => false
  | some r =>
    let now := m.flash.pending.foldl TopoRec.retire r
    let w := now.quarter u.quarter
    let z := now.retire u
    let v := z.quarter u.quarter
    let here : Bool := match u.kind with
      | 0 => u.dev < 4 && u.chan < 32 && w.stackBits.getLsbD u.dev
          && !(lget now.chanRet u.quarter 0#128).getLsbD (32 * u.dev + u.chan)
      | 1 => u.dev < 4 && w.stackBits.getLsbD u.dev
      | _ => u.dev < 16 && w.pkgs.getLsbD u.dev
    here && v.pkgs != 0#16 && (List.range 128).any fun c =>
      v.stackBits.getLsbD (c / 32) && !(lget z.chanRet u.quarter 0#128).getLsbD c

/-- Catalogue row of RETIRE_UNIT. -/
def retireUnitCmd : CmdSpec := anyCmd 0x0206 [pf 0 1, pf 1 1, pf 2 1, pf 3 1]

/-- RETIRE_UNIT is recorded as pending; the next reset applies it (06 R181, 17 R449). -/
def Hw.retireUnitReply (m : Hw) (p : Pair) : Reply :=
  let u : PendingUnit := ⟨p.arg 0 1, p.arg 1 1, p.arg 2 1, p.arg 3 1⟩
  let tier := if u.kind = 2 then 1 else 0
  let homed := m.ctxs.any fun c => c.2.pds.any fun d => d.2.home == tier && d.2.homeQ == u.quarter
  judge [(2 < u.kind, 0x0003, atParam 1), (3 < u.quarter || !m.unitMayGo u, 0x0603, atParam 2),
      (homed, 0x020B, atParam 0)] fun _ =>
    .done { m with flash := { m.flash with pending := m.flash.pending ++ [u] } } []

/-- RETIRE_UNIT, served for a pair. -/
def execRetireUnit (pair : Nat) : State → Host.Outcome State Fault Refusal :=
  onHw fun m => m.serve pair retireUnitCmd m.retireUnitReply

/-- Catalogue row of SCRUB_CFG. -/
def scrubCfgCmd : CmdSpec := modCmd 0x0207 [pf 0 2, pf 2 2]

/-- SCRUB_CFG. A new period begins its banks' counts anew (DESIGN CHOICE, log 54). -/
def Hw.scrubCfgReply (m : Hw) (p : Pair) : Reply :=
  judge [(p.arg 0 2 < 4 || 168 < p.arg 0 2, 0x000A, atParam 0), (p.arg 2 2 == 0, 0x000A, atParam 2)] fun _ =>
    .done { m with mem := { m.mem with
      scrubHours := p.arg 0 2, scrubThresh := p.arg 2 2
      bankCorr := if p.arg 0 2 = m.mem.scrubHours then m.mem.bankCorr else [] } } []

/-- SCRUB_CFG, served for a pair. -/
def execScrubCfg (pair : Nat) : State → Host.Outcome State Fault Refusal :=
  onHw fun m => m.serve pair scrubCfgCmd m.scrubCfgReply

/-- Catalogue row of APERTURE. -/
def apertureCmd : CmdSpec := ctxCmd 0x0208 [pf 0 2, pf 2 1, pva 8]

/-- APERTURE: a window that another context holds is not this context's. -/
def Hw.apertureReply (m : Hw) (p : Pair) : Reply :=
  let w := p.arg 0 2
  let other := match mget m.host.windows w with | some x => x.ctx != p.ctxNo | none => false
  judge [(1 < p.arg 2 1, 0x0003, atParam 2), (p.arg 8 8 % 2 ^ 30 != 0, 0x000A, atParam 8),
      (2 ^ (m.host.bar2 - 30) ≤ w || other, 0x0005, atParam 0)] fun _ =>
    let ws := if p.arg 2 1 = 1 then mset m.host.windows w ⟨p.ctxNo, p.arg 8 8⟩ else mdel m.host.windows w
    .done { m with host := { m.host with windows := ws } } []

/-- APERTURE, served for a pair. -/
def execAperture (pair : Nat) : State → Host.Outcome State Fault Refusal :=
  onHw fun m => m.serve pair apertureCmd m.apertureReply

/-! ### Sequences -/

/-- The table's pages and contents, at an address the driver chooses: moored, read-only, in the table quarter (07 R187, R201). -/
def Hw.makeSeqTable (m : Hw) (c : Nat) (x : Ctx) (va n : Nat) (fs : List Nat) : Hw :=
  let ps := freshPdis fs.length x.pds 1
  let ls := newLeaves va 0 true true ps
  let desc (f : Nat) : PageDesc :=
    { home := 0, homeQ := x.tableQ, size := 0, moored := true, nopf := false, ret := false, mig := false, sealed := false
      refs := 1, vslots := 0, addr := f }
  let pds := (List.zip ps fs).foldl (fun (d : Map PageDesc) w => mset d w.1 (desc w.2)) x.pds
  let m := fs.foldl (fun (m : Hw) f => { m with mem := m.mem.zeroFrames x.tableQ 0 f 1 }) m
  let m := m.addPages c { x with seqVa := va, seqN := n, seqs := [] } ls pds
  (List.range n).foldl (fun (m : Hw) i => m.poke c (va + 64 * i) SeqDesc.blank.bytes) (m.ctlWrite c x.tableQ (64 * n))

/-- Catalogue row of SEQ_TABLE. -/
def seqTableCmd : CmdSpec := ctxCmd 0x0210 [pva 0, pf 8 4]

/-- SEQ_TABLE; a table in place gives way when every sequence of it is FREE. -/
def Hw.seqTableReply (m : Hw) (p : Pair) : Reply :=
  let va := p.arg 0 8
  let n := p.arg 8 4
  let bytes := ceilDiv (64 * n) 65536 * 65536
  match mget m.ctxs p.ctxNo with
  | none => .refuse 0x0004 0
  | some x =>
    let busy := x.seqs.any fun s => s.2.st != .free
    judge [(n == 0 || 65536 < n, 0x000A, atParam 8), (busy, 0x000B, 0), (va % 65536 != 0, 0x0241, atParam 0)] fun _ =>
      let m1 := if x.seqN = 0 then m else m.unmapRange p.ctxNo x.seqVa (ceilDiv (64 * x.seqN) 65536 * 65536)
      match mget m1.ctxs p.ctxNo with
      | none => .refuse 0x0004 0
      | some y =>
        let y := { y with seqs := [] }
        let ps := freshPdis (bytes / 65536) y.pds 1
        judge [(y.taken va bytes, 0x0241, atParam 0), (outOfSpace va bytes, 0x0242, atParam 0),
            (ps.any fun k => 0x08000000 ≤ k, 0x0247, atParam 8),
            (moorLimit 0 < m1.mooredBytes y.tableQ 0 + bytes, 0x0206, atParam 8),
            (65536 < y.poolNeed (newLeaves va 0 true true ps), 0x0247, atParam 8),
            (m1.framesFree y.tableQ 0 < bytes / 65536 + y.tableGrowth (newLeaves va 0 true true ps) ps, 0x0007, atParam 8)]
          fun _ =>
          match m1.allocPages y.tableQ 0 1 (bytes / 65536) 0 [] [] with
          | none => .refuse 0x0007 (atParam 8)
          | some fs => .done (m1.makeSeqTable p.ctxNo y va n fs) []

/-- Requests to the pages of the table in place are in flight. -/
def Hw.tableBusy (m : Hw) (c : Nat) : Bool :=
  match mget m.ctxs c with
  | some x => x.seqN != 0 && m.pagesBusy c x.seqVa (ceilDiv (64 * x.seqN) 65536 * 65536)
  | none => false

/-- SEQ_TABLE, served for a pair; a table gives way once every request to it is over (07 R196). -/
def execSeqTable (pair : Nat) : State → Host.Outcome State Fault Refusal :=
  onHw fun m => if m.tableBusy (m.espor.pair pair).ctxNo then m else m.serve pair seqTableCmd m.seqTableReply

/-- Catalogue row of SEQ_DEFINE. -/
def seqDefineCmd : CmdSpec :=
  { ctxCmd 0x0211 [pf 0 2, pf 2 1, pf 3 1, pf 4 1, pf 5 1, pf 6 1, pva 8] with resv := 0x0240 }

/-- SEQ_DEFINE. -/
def Hw.seqDefineReply (m : Hw) (p : Pair) : Reply :=
  let s := p.arg 0 2
  let d : SeqDesc := { SeqDesc.blank with
    base := p.arg 8 8, psz := p.arg 2 1, slotL2 := p.arg 3 1, log2 := p.arg 4 1, newT := p.arg 5 1, newQ := p.arg 6 1 }
  let at_ := atIndex 8 s
  match mget m.ctxs p.ctxNo with
  | none => .refuse 0x0004 0
  | some x =>
    let others : Ctx := { x with seqs := mdel x.seqs s }
    let old := mgetD x.seqs s SeqDesc.blank
    judge [(old.st != .free, 0x000B, at_), (x.seqN ≤ s, 0x0244, at_),
        (1 < d.psz || 10 < d.slotL2 || 1 < d.newT || 3 < d.newQ, 0x0240, at_),
        (outOfSpace d.base (2 ^ d.log2), 0x0242, at_),
        (d.log2 < 26 || 44 < d.log2 || d.base % 2 ^ d.log2 != 0 || d.page < d.slot
          || others.taken d.base (2 ^ d.log2), 0x0243, at_)] fun _ =>
      .done ((m.noteSeq p.ctxNo (m.epochOf p.ctxNo) s 0).putSeq p.ctxNo s d) []

/-- A sequence op in progress names one of the sequences (07 R204). -/
def Hw.seqBusy (m : Hw) (c s n : Nat) : Bool :=
  m.cores.any fun k => k.2.ctx == some c && k.2.ops.any fun o => o.eff.seqs.any fun i => s ≤ i && i < s + n

/-- SEQ_DEFINE, served for a pair, serialised with the sequence ops (07 R204). -/
def execSeqDefine (pair : Nat) : State → Host.Outcome State Fault Refusal :=
  onHw fun m =>
    let p := m.espor.pair pair
    if m.seqBusy p.ctxNo (p.arg 0 2) 1 then m else m.serve pair seqDefineCmd m.seqDefineReply

/-- Catalogue row of SEQ_RELEASE. -/
def seqReleaseCmd : CmdSpec := ctxCmd 0x0212 [pf 0 2, pf 2 2]

/-- SEQ_RELEASE waits: a sequence op names one of the sequences, or a request to its pages is in flight. -/
def Hw.releaseWaits (m : Hw) (p : Pair) : Bool :=
  let c := p.ctxNo
  let s := p.arg 0 2
  let n := p.arg 2 2
  m.seqBusy c s n || (List.range n).any fun i => match m.seq c (s + i) with
    | some d => m.pagesBusy c d.base (d.pages * d.page)
    | none => false

/-- SEQ_RELEASE: the sequences give up their pages and are FREE. -/
def Hw.seqReleaseReply (m : Hw) (p : Pair) : Reply :=
  let c := p.ctxNo
  let s := p.arg 0 2
  let n := p.arg 2 2
  match mget m.ctxs c with
  | none => .refuse 0x0004 0
  | some x =>
    judge [(n == 0 || 256 < n, 0x000A, atParam 2), (x.seqN < s + n, 0x0244, atIndex 8 s)] fun _ =>
      .done ((List.range n).foldl (fun (m : Hw) i => (m.noteSeq c (m.epochOf c) (s + i) 0).releaseSeq c (s + i)) m).refill []

/-- SEQ_RELEASE, served for a pair, serialised with the sequence ops; it is done once every request to the pages is. -/
def execSeqRelease (pair : Nat) : State → Host.Outcome State Fault Refusal :=
  onHw fun m => if m.releaseWaits (m.espor.pair pair) then m else m.serve pair seqReleaseCmd m.seqReleaseReply

end Sys2Proof.Machine
end

