-- ==== Sys2Proof/Machine/EsporSys.lean ====
section
/-! DEFINITION. Espor commands on partitions, power, time, the health record, firmware images, the expected-topology record
and the error log (14 R379, 15 R399, R400, R408, 16 R413 to R425, R433, 17 R439 to R448, 18 R459). -/

namespace Sys2Proof.Machine

/-! ### Partitions -/

/-- Logical positions of the clusters of a bitmap. -/
def clusterCores (b : BitVec 32) : List Nat := (List.range 256).filter fun k => b.getLsbD (k / 8)

/-- Catalogue row of PART_CREATE. -/
def partCreateCmd : CmdSpec := { modCmd 0x0401 [pf 0 1, pf 1 1, pf 4 4, pf 8 4, pf 12 1] with resv := 0x0401 }

/-- PART_CREATE. -/
def Hw.partCreateReply (m : Hw) (p : Pair) : Reply :=
  let n := p.arg 0 1
  let cl := BitVec.ofNat 32 (p.arg 4 4)
  let stbyV := p.arg 12 1
  let sb (q : Nat) : Option Nat := if bitb stbyV q then some (p.arg (8 + q) 1) else none
  let badSb (q : Nat) : Bool := match sb q with
    | some k => k / 64 != q || !cl.getLsbD (k / 8)
    | none => false
  let pool := m.ctxs.any fun c => c.2.part.isNone && (clusterCores cl).any fun k => c.2.cores.getLsbD k
  judge [(7 < n, 0x000A, atParam 0), (1 < p.arg 1 1, 0x0401, atParam 1), (15 < stbyV, 0x0401, atParam 12),
      (cl == 0#32, 0x0401, atParam 4), (mhas m.parts n, 0x0402, atParam 0),
      (m.parts.any fun x => x.2.clusters &&& cl != 0#32, 0x0402, atParam 4), (pool, 0x0403, atParam 4),
      ((List.range 4).any badSb, 0x0404, atParam 8),
      (!(clusterCores cl).all m.coreValid, 0x0605, atParam 4)] fun _ =>
    let x : Part := { fixed := p.arg 1 1 == 1, clusters := cl, standby := (List.range 4).map sb
                      refill := List.replicate 4 none, suspended := false }
    -- its clusters leave the shared pool, and with it the power cap's clock (16 R425)
    .done ({ m with parts := mset m.parts n x }.updPower fun w =>
      { w with capClk := (List.range 32).map fun i => if cl.getLsbD i then m.fuses.clk else lget w.capClk i fMin }).retune []

/-- PART_CREATE, served for a pair. -/
def execPartCreate (pair : Nat) : State → Host.Outcome State Fault Refusal :=
  onHw fun m => m.serve pair partCreateCmd m.partCreateReply

/-- Catalogue row of PART_DESTROY. -/
def partDestroyCmd : CmdSpec := modCmd 0x0402 [pf 0 1]

/-- A standby of the partition waits for its refill. -/
def Hw.refillWaits (m : Hw) (n : Nat) : Bool :=
  match mget m.parts n with
  | some x => x.refill.any Option.isSome
  | none => false

/-- PART_DESTROY. -/
def Hw.partDestroyReply (m : Hw) (p : Pair) : Reply :=
  let n := p.arg 0 1
  judge [(!mhas m.parts n, 0x0005, atParam 0), (m.ctxs.any fun c => c.2.part == some n, 0x0006, atParam 0)] fun _ =>
    .done { m with parts := mdel m.parts n
                   power := { m.power with hotParts := m.power.hotParts.filter fun x => x != n } } []

/-- PART_DESTROY, served for a pair; a standby that waits for its refill gets it first. -/
def execPartDestroy (pair : Nat) : State → Host.Outcome State Fault Refusal :=
  onHw fun m =>
    if m.refillWaits ((m.espor.pair pair).arg 0 1) then m else m.serve pair partDestroyCmd m.partDestroyReply

/-! ### Power states, limits and the capstan -/

/-- A PSTATE command that another one replaces reports. -/
def Hw.dropTarget (m : Hw) : Hw :=
  match m.power.target with
  | none => m
  | some (_, pair, seq) => (m.updPower fun w => { w with target := none }).pstateDone pair seq

/-- Catalogue row of PSTATE. -/
def pstateCmd : CmdSpec := { modCmd 0x0501 [pf 0 1] with resv := 0x0501 }

/-- PSTATE: Hold and Anchor are entered once the runs in progress are complete; Run takes effect at once. -/
def Hw.pstateReply (m : Hw) (pair : Nat) (p : Pair) : Reply :=
  let t := p.arg 0 1
  let busy := !m.streams.isEmpty || !m.jobs.isEmpty || m.fixedPlan
  judge [(2 < t, 0x0501, atParam 0), (t != 0 && busy, 0x0502, atParam 0)] fun _ =>
    let m := m.dropTarget
    if t = 0 then .defer (m.toRun.pstateDone pair p.seq)
    else
      let want : PState := if t = 1 then .hold else .anchor
      if m.quay.ps == want then .defer (m.pstateDone pair p.seq)
      else .defer (m.updPower fun w => { w with target := some (want, pair, p.seq) })

/-- PSTATE, served for a pair. -/
def execPstate (pair : Nat) : State → Host.Outcome State Fault Refusal :=
  onHw fun m => m.serve pair pstateCmd (m.pstateReply pair)

/-- The largest F_RT of the enabled fixed-timing plans. -/
def Hw.topFrt (m : Hw) : Nat := m.plans.foldl (fun a l => match l.2.fixed with
  | some d => if m.isFixed l.2.ctx then max a d.frtMhz else a
  | none => a) 0

/-- Catalogue row of POWER_LIMIT. -/
def powerLimitCmd : CmdSpec := { modCmd 0x0502 [pf 0 2, pf 2 1] with resv := 0x0501 }

/-- POWER_LIMIT: 0 is the variant's own limit. -/
def Hw.powerLimitReply (m : Hw) (p : Pair) : Reply :=
  let clk := if p.arg 0 2 = 0 then m.fuses.clk else p.arg 0 2
  let pw := if p.arg 2 1 = 0 then m.fuses.pwr else p.arg 2 1
  judge [(clk % 25 != 0 || clk < 400 || m.fuses.clk < clk, 0x0505, atParam 0),
      (pw < 12 || m.fuses.pwr < pw, 0x0505, atParam 2), (clk < m.topFrt, 0x040A, atParam 0)] fun _ =>
    .done (m.updPower fun w => { w with clkLimit := clk, pwrLimit := pw * 100 }).retune []

/-- POWER_LIMIT, served for a pair. -/
def execPowerLimit (pair : Nat) : State → Host.Outcome State Fault Refusal :=
  onHw fun m => m.serve pair powerLimitCmd m.powerLimitReply

/-- Catalogue row of CAPSTAN_CFG. -/
def capstanCfgCmd : CmdSpec := { modCmd 0x0504 [pf 0 4] with resv := 0x0501 }

/-- CAPSTAN_CFG. -/
def Hw.capstanCfgReply (m : Hw) (p : Pair) : Reply :=
  judge [(p.arg 0 4 < 100 || 10000000 < p.arg 0 4, 0x0506, atParam 0)] fun _ =>
    .done (m.updPower fun w => { w with wakeBound := p.arg 0 4 }) []

/-- CAPSTAN_CFG, served for a pair. -/
def execCapstanCfg (pair : Nat) : State → Host.Outcome State Fault Refusal :=
  onHw fun m => m.serve pair capstanCfgCmd m.capstanCfgReply

/-! ### Tide -/

/-- Some enabled plan contains a TIDE_WAIT. -/
def Hw.tideWaits (m : Hw) : Bool :=
  m.plans.any fun p => p.2.cores.any fun e => e.entry.any fun a => a != 0 &&
    (m.streamFrom p.2.ctx 65536 a).any fun d => (OpHdr.parse d.2).opcode == 0x1A

/-- Catalogue row of TIDE_CFG. -/
def tideCfgCmd : CmdSpec := { modCmd 0x0503 [pf 0 1, pf 1 1, pf 2 1, pf 4 4, pf 8 4, pf 16 8] with resv := 0x0501 }

/-- TIDE_CFG: a time transmitter received on a port that PTP no longer uses is no longer selected; event 0x0582 then names
neither (log 36). -/
def Hw.tideCfgReply (m : Hw) (p : Pair) : Reply :=
  let ports := p.arg 2 1
  let num := p.arg 4 4
  let den := p.arg 8 4
  judge [(1 < p.arg 0 1, 0x0501, atParam 0), (15 < ports, 0x0501, atParam 2), (num == 0, 0x0503, atParam 4),
      (den == 0, 0x0503, atParam 8), (num < den || 1000 * den < num, 0x0503, atParam 4),
      (ports == 0 || (List.range 4).any fun i => bitb ports i && (m.port i).cfg.isNone, 0x0503, atParam 2),
      (!m.streams.isEmpty || m.tideWaits, 0x0504, 0)] fun _ =>
    let t : TideCfg := ⟨p.arg 0 1, p.arg 1 1, ports, num, den, p.arg 16 8⟩
    let gm := m.island.gm.filter fun g => bitb ports g.2
    let n := m.updIsland fun i => { i with tideCfg := some t, tick := t.tickAt m.now, gm := gm }
    .done (if gm == m.island.gm then n else n.event 0x0582 none [(8, 0), (24, 0), (64, 0)]) []

/-- TIDE_CFG, served for a pair. -/
def execTideCfg (pair : Nat) : State → Host.Outcome State Fault Refusal :=
  onHw fun m => m.serve pair tideCfgCmd m.tideCfgReply

/-! ### The health record and firmware images -/

/-- Catalogue row of HEALTH_READ. -/
def healthReadCmd : CmdSpec := anyCmd 0x0601 []

/-- HEALTH_READ. -/
def Hw.healthReadReply (m : Hw) (_ : Pair) : Reply :=
  let i := m.island
  .done m (leBytes 1 (b2n i.health.valid) ++ leBytes 1 (i.lastReset + 8 * b2n i.fullPath)
    ++ leBytes 6 i.fastReason ++ i.health.bytes)

/-- HEALTH_READ, served for a pair. -/
def execHealthRead (pair : Nat) : State → Host.Outcome State Fault Refusal :=
  onHw fun m => m.serve pair healthReadCmd m.healthReadReply

/-- Catalogue row of HEALTH_CLEAR. -/
def healthClearCmd : CmdSpec := modCmd 0x0604 []

/-- HEALTH_CLEAR. -/
def Hw.healthClearReply (m : Hw) (_ : Pair) : Reply :=
  .done (m.setHealth { m.island.health with valid := false }) []

/-- HEALTH_CLEAR, served for a pair. -/
def execHealthClear (pair : Nat) : State → Host.Outcome State Fault Refusal :=
  onHw fun m => m.serve pair healthClearCmd m.healthClearReply

/-- Catalogue row of FW_STAGE. -/
def fwStageCmd : CmdSpec := ⟨0x0602, false, [], 1, 1048576, true, 0x0003⟩

/-- FW_STAGE: the image goes into the slot that is not active, as trial; the event says whether it is authentic. -/
def Hw.fwStageReply (m : Hw) (pair : Nat) (p : Pair) (img : List Byte) : Reply :=
  judge [(m.flash.trial.isSome && !m.flash.booted, 0x0604, 0)] fun _ =>
    let done (m : Hw) (status : Nat) : Reply := .defer (m.eventDone none pair p.seq 0x0602 status 0 0)
    match imageFault m.fuses img with
    | some c => done m c
    | none =>
      let f := m.flash
      let f := if f.activeB then { f with slotA := .image img } else { f with slotB := .image img }
      done { m with flash := { f with trial := some (!f.activeB), booted := false } } 0

/-- FW_STAGE, served for a pair. -/
def execFwStage (pair : Nat) (block : Option (List Byte)) : State → Host.Outcome State Fault Refusal :=
  onHw fun m => m.serveBlock pair fwStageCmd block (m.fwStageReply pair)

/-! ### TOPO_ACCEPT -/

/-- The quarter's word of the record as discovered. -/
def acceptQuarter (r : Option TopoRec) (f : Found) (good : List (BitVec 68)) (q : Nat) : QuarterWord :=
  let half (h : Nat) : BitVec 2 :=
    if recHub r q h && decide (16 ≤ lget f.hubLanes (2 * q + h) 0) then 1#2 <<< h else 0#2
  { cores := min 64 (countBits (lget good q 0#68)), present := f.quarters.getLsbD q, stackBits := stacksOf r f q
    pkgs := pkgsOf r f q, hubh := half 0 ||| half 1 }

/-- The record that TOPO_ACCEPT writes; `r` is the record in place, none where it is missing. -/
def acceptRec (fuses : Fuses) (r : Option TopoRec) (gen : BitVec 32) (f : Found) (good : List (BitVec 68)) : TopoRec :=
  let qq := (List.range 6).foldl (fun (a : BitVec 8) i =>
    if recQq r i && decide (64 ≤ lget f.qqLanes i 0) then a ||| (1#8 <<< i) else a) 0#8
  TopoRec.written
    { tver := 1#16, part := match r with | some x => x.part | none => BitVec.ofNat 16 fuses.part.toNat
      cfgGen := gen, quarters := (List.range 4).map (acceptQuarter r f good), qqlink := qq
      chanRet := (List.range 4).map fun q => lget f.badChans q 0#128 |||
        (match r with | some x => lget x.chanRet q 0#128 | none => 0#128)
      crc := 0#64 }

/-- The limits of R448. -/
def TopoRec.inLimits (r : TopoRec) : Bool :=
  (r.quarters.all fun w => decide (8 ≤ w.cores) && w.stackBits != 0#4 && w.pkgs != 0#16 && w.hubh != 0#2)
    && decide (5 ≤ countBits r.qqlink)

/-- Catalogue row of TOPO_ACCEPT. -/
def topoAcceptCmd : CmdSpec := anyCmd 0x0603 []

/-- TOPO_ACCEPT, and the step 9 that follows it. -/
def Hw.topoAcceptReply (m : Hw) (_ : Pair) : Reply :=
  let why := m.quay.reason.toNat
  let may := m.quay.st == .notReady && (why == 0x0610 || (0x0613 ≤ why && why ≤ 0x0616))
  match m.found with
  | none => .refuse 0x0601 0
  | some f =>
    let i := m.island
    let sound := m.flash.topo.filter fun r => r.tver == 1#16 && r.crc == crc64 r.body
    let gen := match m.flash.topo with | some r => r.cfgGen | none => 0#32
    let r := acceptRec m.fuses sound gen f i.health.good
    judge [(!may, 0x0601, 0), (!r.inLimits, 0x0602, 0)] fun _ =>
      .done ({ m with flash := { m.flash with topo := some r } }.stepNine f i.health.good (f.hubOk || !i.fullPath)
        i.health) []

/-- TOPO_ACCEPT, served for a pair. -/
def execTopoAccept (pair : Nat) : State → Host.Outcome State Fault Refusal :=
  onHw fun m => m.serve pair topoAcceptCmd m.topoAcceptReply

/-! ### The error log -/

/-- An error-log record of 64 bytes (18 R459). -/
def ErrRec.bytes (r : ErrRec) : List Byte :=
  fit 64 (leBytes 36 (packFields
    [(32, r.num), (16, r.code), (10, r.ctx), (1, b2n r.ctxv), (1, b2n r.recov), (4, 0), (64, r.tide), (64, r.loc.toNat),
     (64, r.aux.toNat), (32, r.boot)]))

/-- Catalogue row of ERRLOG_READ. -/
def errlogReadCmd : CmdSpec := anyCmd 0x0605 [pf 0 4]

/-- ERRLOG_READ: up to three records from FIRST, oldest first; reading frees nothing. -/
def Hw.errlogReadReply (m : Hw) (p : Pair) : Reply :=
  let f := p.arg 0 4
  let out := (m.island.errlog.filter fun r => decide (f ≤ r.num)).take 3
  let next := match out.getLast? with | some r => r.num + 1 | none => f
  let m := m.updIsland fun i =>
    { i with errlog := i.errlog.map fun r => if out.any fun o => o.num == r.num then { r with read := true } else r }
  .done m (leBytes 8 next ++ leBytes 8 out.length ++ out.flatMap ErrRec.bytes)

/-- ERRLOG_READ, served for a pair. -/
def execErrlogRead (pair : Nat) : State → Host.Outcome State Fault Refusal :=
  onHw fun m => m.serve pair errlogReadCmd m.errlogReadReply

end Sys2Proof.Machine
end

