-- ==== Sys2Proof/Machine/Reset.lean ====
section
/-! DEFINITION. Module resets and the bring-up that each starts (17 R435 to R438, R444). The operand of a reset says what the tests of
its bring-up find; STATE 0 and STATE 1 pass with time and with the capstan's admissions (log 23). -/

namespace Sys2Proof.Machine

/-! ### The reset itself (17 R435) -/

/-- A HEALTH_CLEAR that waits as a reset comes is applied before the reset reads the record (17 R441). -/
def Hw.clearFirst (m : Hw) : Hw :=
  if m.espor.order.any fun n =>
      let p := m.espor.pair n
      p.st == .busy && p.cmd == healthClearCmd.code && (m.headCheck p healthClearCmd).isNone then
    m.setHealth { m.island.health with valid := false }
  else m

/-- What a module reset leaves: the island, the flash, the supply's state and the host's memory; nothing else survives, and no
quarter is powered. -/
def Hw.wiped (m : Hw) (kind : Nat) : Hw :=
  let z := Hw.reset
  let p := m.power
  { z with
    fuses := m.fuses
    flash := { m.flash with boots := m.flash.boots + 1 }
    island := { m.island with lastReset := kind }
    quay := { z.quay with v400 := m.quay.v400, v48 := m.quay.v48, v12 := m.quay.v12, pIn := m.quay.pIn, warn := m.quay.warn
                          tq := m.quay.tq, thub := m.quay.thub, tcool := m.quay.tcool, throt := m.quay.throt
                          speed := m.quay.speed, width := m.quay.width, flit := m.quay.flit, linkLow := m.quay.linkLow
                          retrains := m.quay.retrains }
    mem := { z.mem with host := m.mem.host, free := m.mem.free }
    host := { z.host with sent := m.host.sent, rdata := m.host.rdata, rep := m.host.rep }
    power := { z.power with
      clkLimit := m.fuses.clk, pwrLimit := m.fuses.pwr * 100, capClk := List.replicate 32 m.fuses.clk
      thermal := if p.hot = 0#4 then List.replicate 4 m.fuses.clk else p.thermal
      clocks := List.replicate 32 0, hubUp := true, brown := p.brown, bus48 := p.bus48, bus48Warn := p.bus48Warn
      riseAt := p.riseAt, rise48At := p.rise48At, vmin := p.vmin, dipUs := p.dipUs
      overWarn := p.overWarn, hot := p.hot, inlet := p.inlet, lastThermal := p.lastThermal, lost := p.lost
      convCap := p.convCap, steadyFrom := p.steadyFrom } }

/-- A reset of kind 0 power-on, 1 cold, 2 warm or 3 automatic: the module is in STATE 0 with its bring-up to come. -/
def Hw.bringUp (m : Hw) (kind : Nat) (found : Found) : Hw :=
  { m.clearFirst.wiped kind with coming := some ⟨kind, found, false, none⟩ }

/-! ### The bring-up (17 R437, R438) -/

/-- Frames that the pattern test finds uncorrectable words in, up to the limit of R180. -/
def Flash.retireFound (f : Flash) (bad : List (Nat × Nat × Nat)) : Flash :=
  bad.foldl (fun (f : Flash) b =>
    if f.retired.contains b || 4096 ≤ (f.retired.filter fun r => r.1 == b.1 && r.2.1 == b.2.1).length then f
    else { f with retired := f.retired ++ [b] }) f

/-- A fallback ends the trial; an image that boots as trial is marked so (17 R444). -/
def Flash.booting (f : Flash) (fallback : Bool) : Flash :=
  if fallback then { f with trial := none, booted := false } else if f.trial.isSome then { f with booted := true } else f

/-- Steps 1 and 2, and the power-up requests of step 3: the image, the pending retirements and the path. The fast path fails and
gives way to the full one where its training fails, or no parameters are saved (17 R438). -/
def Hw.selfTest (m : Hw) (c : Coming) : Hw :=
  match m.bootSlot c.hung with
  | none =>
    ({ m with boot := .done, coming := none }.updIsland fun i => { i with fastReason := 0, fullPath := true }).setStatus
      .notReady 0x0910#16
  | some (b, fb, why) =>
    let build := (m.flash.slot b).build
    let m := { m with flash := m.flash.applyPending.booting fb, fwVer := (m.flash.slot b).ver, fwBuild := build }
    let status := if 2 ≤ c.kind then m.fastStatus build else 0
    let full := c.kind < 2 || status != 0 || !c.found.trainOk || m.island.trained.isNone
    let m := m.updIsland fun i => { i with fastReason := status, fullPath := full }
    let m := m.updPower fun w => { w with queue := (List.range 4).map fun q => ⟨0, q, m.now, false⟩ }
    { m with coming := some { c with picked := some ⟨b, fb, why, status, full⟩ } }.setStatus .selfTest 0#16

/-- Steps 4 to 9, once the quarters are powered: the full path's tests retire frames and save training parameters, and the fast
path takes GOOD from the health record. -/
def Hw.finishTest (m : Hw) (c : Coming) (p : Picked) : Hw :=
  let old := m.island.health
  let fl := if p.full then m.flash.retireFound c.found.badFrames else m.flash
  let m := { m with boot := .done, coming := none, flash := fl, found := some c.found, idle := c.found.idle }
  let m := m.updIsland fun i => { i with trained := if p.full then some m.flash.boots else i.trained }
  let h : Health :=
    { hver := 1#16, valid := true, dirty := !p.full && old.dirty, warms := if p.full then 0 else old.warms + 1, cfgGen := 0#32
      fwBuild := m.fwBuild, slotB := p.slotB, fallback := p.fallback, bootReason := BitVec.ofNat 16 p.why, good := []
      crc := 0#64 }
  m.stepNine c.found (if p.full then c.found.good else old.good) (c.found.hubOk || !p.full) h

/-- What a bring-up under way does next as time passes. -/
def Hw.comeUp (m : Hw) : Hw :=
  match m.coming with
  | none => m
  | some c =>
    match c.picked with
    | none => m.selfTest c
    | some p => if m.power.quartersUp == 0xF#4 && m.power.hubUp then m.finishTest c p else m

/-! ### The commands -/

/-- POWER_ON_RESET: the input rises through 300 V with the island off, or the module stands at its first reset release; an island
that was off starts anew, tide FREE from 0. -/
def execPowerOnReset (found : Found) : State → Host.Outcome State Fault Refusal :=
  onHw fun m =>
    if m.boot == .done || m.coming.isSome then m
    else if m.island.on then m.bringUp 0 found
    else { m with island := { Island.reset with errNext := m.island.errNext } }.bringUp 0 found

/-- A write to QW_RESET of a value with KIND `kind`: valid, it resets. A write with another KIND or CONFIRM, or a reserved bit, is
ignored and counted in BADACC; an orderly stop that has begun completes (16 R429; log 38). -/
def Hw.resetWrite (m : Hw) (value : BitVec 64) (kind other : Nat) (n : Nat) (found : Found) : Hw :=
  if !m.hostOn || m.inReset then m
  else if resetWord value kind then (if m.quay.st == .stopping then m else m.bringUp n found)
  else if resetWord value other then m
  else m.hosterr .badacc

/-- QW_RESET_WARM. -/
def execQwResetWarm (value : BitVec 64) (found : Found) : State → Host.Outcome State Fault Refusal :=
  onHw fun m => m.resetWrite value 1 2 2 found

/-- QW_RESET_COLD. -/
def execQwResetCold (value : BitVec 64) (found : Found) : State → Host.Outcome State Fault Refusal :=
  onHw fun m => m.resetWrite value 2 1 1 found

/-- AUTOMATIC_RESET: after an orderly stop the input has stayed between 360 V and 420 V for 1 s (16 R430). -/
def execAutomaticReset (run : AutoReset) : State → Host.Outcome State Fault Refusal :=
  onHw fun m =>
    if !m.island.on || m.quay.st != .stopped then m
    else
      let m := m.setV400 run.v400
      if 36000 ≤ run.v400 && run.v400 ≤ 42000 && m.power.steadyFrom + 10 ^ 9 ≤ m.now then m.bringUp 3 run.found else m

/-- TRIAL_IMAGE_TIMEOUT: a bring-up whose trial image reaches neither Ready nor Not-Ready in time; the ROM boots the other slot, in
the same reset (17 R444). -/
def execTrialImageTimeout (found : Found) : State → Host.Outcome State Fault Refusal :=
  onHw fun m =>
    match m.coming with
    | none => m
    | some c =>
      if c.picked.isSome && !c.hung && m.flash.trial.isSome then
        { m.wiped c.kind with coming := some ⟨c.kind, found, true, none⟩ }
      else m

end Sys2Proof.Machine
end

