-- ==== Sys2Proof/Machine/Clock.lean ====
section
/-! DEFINITION. The passing of time: what one nanosecond without a command does (16 R410, R414, 15 R389, R397, 17 R436, 18 R458,
19 R481). -/

namespace Sys2Proof.Machine

/-- Cycles of each cluster grow with its clock, in thousandths of a cycle. -/
def tickCycles : List Nat → List Nat → List Nat
  | c :: cs, k :: ks => (c + k) :: tickCycles cs ks
  | cs, _ => cs

/-- Whole cycles of core `k` that the last nanosecond completed. -/
def newCycles (before after : List Nat) (k : Nat) : Nat :=
  lget after (k / 8) 0 / 1000 - lget before (k / 8) 0 / 1000

/-- BUSY of a core and ENGINE and virtual time of its context, after `n` more cycles; a partition's context is charged while it
has a plan enabled (15 R389, R397). -/
def chargeCore (k n : Nat) (m : Hw) : Hw :=
  let c := m.core k
  let m := if c.ops.isEmpty then m else m.countCore k cBUSY n
  match c.ctx with
  | none => m
  | some x =>
    let part := match mget m.ctxs x with | some y => y.part.isSome | none => false
    let m := if part && (m.plansOf x).isEmpty then m else m.count 8 x 0 n
    m.updCtx x fun y =>
      if y.part.isSome then y else { y with v := y.v.add (65536 * n) (max y.shares 1) }

def chargeAll (before after : List Nat) : List Nat → Hw → Hw
  | [], m => m
  | k :: t, m =>
    let n := newCycles before after k
    chargeAll before after t (if n = 0 then m else chargeCore k n m)

/-- Tide after one nominal nanosecond: slewed by the rate, never backward (16 R410, R412). -/
def Island.advance (i : Island) : Island :=
  let f := i.frac + i.rate
  if 10 ^ 9 ≤ f then { i with tide := i.tide + 2, frac := f - 10 ^ 9 }
  else if f ≤ -(10 ^ 9) then { i with frac := f + 10 ^ 9 }
  else { i with tide := i.tide + 1, frac := f }

/-- The request that the sideband holds is answered (19 R481). -/
def Island.reply (i : Island) : Island :=
  match i.asked with
  | none => i
  | some a => { i with asked := none, answer := some a }

/-- One nanosecond passes. -/
def passTime (m : Hw) : Hw :=
  if !m.island.on then m
  else
    let m := { m with island := m.island.advance.reply }.comeUp
    if m.clocked then
      let after := tickCycles m.cycles m.power.clocks
      chargeAll m.cycles after (m.cores.map (·.1)) { m with cycles := after }
    else m

end Sys2Proof.Machine
end

