-- ==== Sys2Proof/Machine/Complete.lean ====
section
/-! DEFINITION. OP_COMPLETE (02 R37): an op completes once its loads are consumed, its stores visible and its post-signal
can be issued; a sequence op first checks the fault conditions of 07 R204. -/

namespace Sys2Proof.Machine

/-- A combine closes its voyage. -/
def Core.closeVoyage (c : Core) (v : Option Nat) : Core :=
  match v with
  | none => c
  | some k => match mget c.voyages k with
    | some y => { c with voyages := mset c.voyages k { y with isOpen := false } }
    | none => c

/-- The op of a thread that completes next: its oldest op that is done. -/
def Core.nextDone (c : Core) (cyc thread : Nat) : Option OpRec :=
  c.ops.find? fun o => o.thread == thread && c.opDone cyc o

/-- A MATMUL with MARSHAL 1, by its descriptor. -/
def Hw.isBatch (m : Hw) (ctx : Nat) (o : OpRec) : Bool :=
  o.hdr.opcode == 0x01 && bitb (leNat (m.peek ctx o.addr 128)) 404

/-- The completion of a marshalling batch is noted for the next one's deadline (03 R90). -/
def Hw.batchDone (m : Hw) (core ctx : Nat) (o : OpRec) : Hw :=
  if m.isBatch ctx o then
    m.updCore core fun c => c.setThread o.thread { c.thread o.thread with mshDone := m.cyc core }
  else m

/-- What completion makes visible: hold writes, sequences, the voyage; then the op leaves. -/
def Hw.complete (m : Hw) (core ctx : Nat) (o : OpRec) : Hw :=
  let m := (m.holdStores ctx core o.eff.stores).holdReads ctx core o.eff.remote
  let m := match o.eff.seq with
    | some q => m.runSeqOp ctx (m.core core).recs q o.eff.opened
    | none => m
  ((m.updCore core fun c => c.closeVoyage o.eff.closeVoyage).batchDone core ctx o).retire core ctx o

/-- SEAL_PAGE RELEASE completes only when no request to its pages is in flight any more (07 R196, R207). -/
def Hw.releasing (m : Hw) (ctx : Nat) (o : Option SeqOp) : Bool :=
  match o with
  | some (.release s n) => (List.range n).any fun i => match m.seq ctx (s + i) with
    | some d => d.pages != 0 && m.pagesBusy ctx d.base (d.pages * d.page)
    | none => false
  | _ => false

/-- OP_COMPLETE. -/
def execOpComplete (core thread : Nat) : State → Host.Outcome State Fault Refusal :=
  onHw fun m =>
    let c := m.core core
    match c.ctx, c.nextDone (m.cyc core) thread with
    | some x, some o =>
      (match o.eff.seq.bind (m.seqOpFault x) with
       | some f => m.fault core thread (m.opFaultRec core x o f)
       | none => if m.releasing x o.eff.seq then m else m.complete core x o)
    | _, _ => m

end Sys2Proof.Machine
end

