-- ==== Sys2Proof/Machine/EsporMedia.lean ====
section
/-! DEFINITION. Espor commands on ports, flow-table entries, live streams, quarantines and upload jobs (14 R377, R378, 12 R307
to R335, R338). -/

namespace Sys2Proof.Machine

/-! ### Ports -/

/-- Catalogue row of PORT_CFG. -/
def portCfgCmd : CmdSpec := modCmd 0x0301 [pf 0 1, pf 1 1, pf 2 2, pf 4 1, pf 5 1, pf 8 4, pf 16 16]

/-- PORT_CFG: with neither address family the port has no address. -/
def Hw.portCfgReply (m : Hw) (p : Pair) : Reply :=
  let f := p.arg 1 1
  judge [(7 < f, 0x0003, atParam 1), (3 < p.arg 0 1, 0x000A, atParam 0), (4095 < p.arg 2 2, 0x000A, atParam 2),
      (32 < p.arg 4 1, 0x000A, atParam 4), (128 < p.arg 5 1, 0x000A, atParam 5)] fun _ =>
    let c : PortCfg := { v4 := bitb f 0, v6 := bitb f 1, tagged := bitb f 2, vlan := p.arg 2 2, pfx4 := p.arg 4 1
                         pfx6 := p.arg 5 1, ip4 := p.arg 8 4, ip6 := p.arg 16 16 }
    let x := m.port (p.arg 0 1)
    .done (m.setPort (p.arg 0 1) { x with cfg := if c.v4 || c.v6 then some c else none }) []

/-- PORT_CFG, served for a pair. -/
def execPortCfg (pair : Nat) : State → Host.Outcome State Fault Refusal :=
  onHw fun m => m.serve pair portCfgCmd m.portCfgReply

/-! ### The flow table -/

/-- A flow-table entry as written (12 R309). -/
def Flow.parse (e : Nat) : Flow :=
  { v6 := bitb e 1, ports := BitVec.ofNat 4 (bits e 5 2), srcm := bitb e 6, ssrcm := bitb e 7, vlanm := bitb e 8
    leg := bits e 9 9, pt := bits e 22 16, vlan := bits e 35 24, dstUdp := bits e 63 48, dstIp := bits e 191 64
    srcIp := bits e 319 192, srcUdp := bits e 335 320, ssrc := bits e 383 352, ctx := bits e 393 384
    stream := bits e 408 400, lock := none, lockAt := 0, pinned := false }

def flowReserved (e : Nat) : Bool :=
  bits e 15 10 != 0 || bits e 23 23 != 0 || bits e 47 36 != 0 || bits e 351 336 != 0 || bits e 399 394 != 0
    || bits e 511 409 != 0

/-- Fields that must be 0 are not: an IPv4 address has 32 bits, and an unmatched source field is 0. -/
def Flow.malformed (f : Flow) : Bool :=
  (!f.v6 && (2 ^ 32 ≤ f.dstIp || 2 ^ 32 ≤ f.srcIp)) || (!f.srcm && (f.srcIp != 0 || f.srcUdp != 0)) || (!f.ssrcm && f.ssrc != 0)

/-- The keys of two entries can match one packet (12 R310). -/
def Flow.meets (a b : Flow) : Bool :=
  a.ports &&& b.ports != 0#4 && a.v6 == b.v6 && a.dstIp == b.dstIp && a.dstUdp == b.dstUdp && a.pt == b.pt
    && a.vlanm == b.vlanm && (!a.vlanm || a.vlan == b.vlan)
    && (!(a.srcm && b.srcm) || (a.srcIp == b.srcIp && a.srcUdp == b.srcUdp)) && (!(a.ssrcm && b.ssrcm) || a.ssrc == b.ssrc)

/-- Catalogue row of FLOW_WRITE. -/
def flowWriteCmd : CmdSpec := modCmd 0x0302 [pf 0 2, pf 8 64]

/-- FLOW_WRITE: an entry is written whole; its locks and quarantines are gone, and a port reports its multicast groups. -/
def Hw.flowWriteReply (m : Hw) (p : Pair) : Reply :=
  let i := p.arg 0 2
  let e := p.arg 8 64
  let f := Flow.parse e
  let valid := bitb e 0
  let at_ := atIndex 9 i
  let foreign := !mhas m.ctxs f.ctx || (match mget m.streams f.stream with | some s => s.ctx != f.ctx | none => false)
  judge [(flowReserved e || (valid && f.malformed), 0x0301, at_),
      (valid && ((m.flows.any fun o => o.1 != i && o.2.meets f) || foreign), 0x0302, at_)] fun _ =>
    let old := mget m.flows i
    let m := { m with flows := if valid then mset m.flows i f else mdel m.flows i
                      quars := m.quars.filter fun q => q.2.entry != i }
    let m := match old with
      | some o => if multicast o.v6 o.dstIp then m.reportGroups o.v6 o.ports else m
      | none => m
    .done (if valid && multicast f.v6 f.dstIp then m.reportGroups f.v6 f.ports else m) []

/-- FLOW_WRITE, served for a pair. -/
def execFlowWrite (pair : Nat) : State → Host.Outcome State Fault Refusal :=
  onHw fun m => m.serve pair flowWriteCmd m.flowWriteReply

/-! ### Quarantines -/

/-- Catalogue row of QUAR_CLEAR. -/
def quarClearCmd : CmdSpec := ctxCmd 0x0305 [pf 0 4]

/-- QUAR_CLEAR: the quarantines and pins of an entry of the context, or of all of them. -/
def Hw.quarClearReply (m : Hw) (p : Pair) : Reply :=
  let i := p.arg 0 4
  let mine (k : Nat) : Bool := match mget m.flows k with | some f => f.ctx == p.ctxNo | none => false
  let hit (k : Nat) : Bool := mine k && (i == 0xFFFFFFFF || k == i)
  judge [(i != 0xFFFFFFFF && 65535 < i, 0x000A, atParam 0), (i != 0xFFFFFFFF && !mine i, 0x0005, atParam 0)] fun _ =>
    .done { m with quars := m.quars.filter fun q => !hit q.2.entry
                   flows := m.flows.map fun f => if hit f.1 then (f.1, { f.2 with pinned := false }) else f } []

/-- QUAR_CLEAR, served for a pair. -/
def execQuarClear (pair : Nat) : State → Host.Outcome State Fault Refusal :=
  onHw fun m => m.serve pair quarClearCmd m.quarClearReply

/-- A quarantine's record of 40 bytes. -/
def Quar.bytes (q : Quar) : List Byte :=
  leBytes 2 q.entry ++ leBytes 1 q.port ++ leBytes 1 (b2n q.v6) ++ leBytes 4 q.srcUdp ++ leBytes 8 q.ssrc
    ++ leBytes 16 q.srcIp ++ leBytes 8 q.dropped

/-- Catalogue row of QUAR_LIST. -/
def quarListCmd : CmdSpec := modCmd 0x0308 [pf 0 1]

/-- QUAR_LIST: up to five records from slot FIRST. -/
def Hw.quarListReply (m : Hw) (p : Pair) : Reply :=
  let out := (m.quars.filter fun q => decide (p.arg 0 1 ≤ q.1)).take 5
  let next := match out.getLast? with | some q => q.1 + 1 | none => p.arg 0 1
  .done m (leBytes 1 out.length ++ leBytes 7 (next % 256) ++ out.flatMap fun q => q.2.bytes)

/-- QUAR_LIST, served for a pair. -/
def execQuarList (pair : Nat) : State → Host.Outcome State Fault Refusal :=
  onHw fun m => m.serve pair quarListCmd m.quarListReply

/-! ### Tensorizer and encoder configurations -/

/-- Bytes of a structure as a number. -/
def numAt (l : List Byte) (off n : Nat) : Nat := leNat ((l.drop off).take n)

def TzCfg.parse (l : List Byte) : TzCfg :=
  let three (off : Nat) : List Word32 := (List.range 3).map fun i => BitVec.ofNat 32 (numAt l (off + 4 * i) 4)
  { cropX := numAt l 0 2, cropY := numAt l 2 2, cropW := numAt l 4 2, cropH := numAt l 6 2, ow := numAt l 8 2
    oh := numAt l 10 2, tf := numAt l 12 2, fs := numAt l 14 1, csc := numAt l 15 1, range := numAt l 16 1
    resize := numAt l 17 1, fmt := numAt l 18 1, mean := three 24, scale := three 36 }

/-- Bytes of TZCFG that no field covers. -/
def tzReserved (l : List Byte) : Bool := numAt l 19 5 != 0 || numAt l 48 16 != 0

def f32finite (w : Word32) : Bool := !(f32v w).isNan && !(f32v w).isInf

/-- The ranges of R328. -/
def TzCfg.ok (t : TzCfg) : Bool :=
  1 ≤ t.ow && t.ow ≤ 4096 && 1 ≤ t.oh && t.oh ≤ 4096 && 1 ≤ t.tf && t.tf ≤ 256 && 1 ≤ t.fs && t.fs ≤ 64 && t.csc ≤ 3
    && t.range ≤ 1 && t.resize ≤ 1 && t.fmt ≤ 5 && t.mean.all f32finite && t.scale.all f32finite

def EncCfg.parse (l : List Byte) : EncCfg :=
  { codec := numAt l 0 1, rc := numAt l 1 1, qp := numAt l 2 1, gain := numAt l 3 1, gop := numAt l 4 2, rate := numAt l 8 4
    peak := numAt l 12 4, guideDl := numAt l 16 4, guideVa := numAt l 24 8, guideNs := numAt l 32 2, guideNf := numAt l 36 4 }

def encReserved (l : List Byte) : Bool :=
  numAt l 6 2 != 0 || numAt l 20 4 != 0 || numAt l 34 2 != 0 || numAt l 40 8 != 0

/-- The ranges of R335. -/
def EncCfg.ok (e : EncCfg) (maxF : Nat) : Bool :=
  e.codec ≤ 1 && e.rc ≤ 2 && e.gain ≤ 24 && 1 ≤ e.gop && e.gop ≤ 600
    && (e.rc != 1 || (100 ≤ e.rate && e.rate ≤ 400000)) && e.guideDl ≤ 1000000 && 1 ≤ e.guideNs && e.guideNs ≤ 4096
    && 1 ≤ e.guideNf && e.guideNf ≤ maxF && e.guideVa < 2 ^ 57

/-! ### Live streams -/

def Stream.parse (c : Nat) (p : Pair) : Stream :=
  let tzVa := p.arg 48 8
  { ctx := c, w := p.arg 2 2, h := p.arg 4 2, samp := p.arg 6 1, depth := p.arg 7 1, colr := p.arg 8 1, legs := p.arg 9 1
    nslot := p.arg 10 1, bol := p.arg 11 1, entries := if p.arg 9 1 = 1 then [p.arg 12 2] else [p.arg 12 2, p.arg 14 2]
    ringVa := p.arg 16 8, relVa := p.arg 24 8, cores := (List.range (p.arg 36 1)).map fun i => p.arg (32 + i) 1
    frameDl := p.arg 40 4, lockIdle := if p.arg 44 4 = 0 then 1000 else p.arg 44 4, tzVa := tzVa
    tz := if tzVa = 0 then none else some (TzCfg.parse (p.argBytes 56 64)), frameSeq := 0, frames := [], seen := []
    closed := [] }

/-- The geometry of R307 and R315. -/
def Stream.geometry (s : Stream) : Bool :=
  16 ≤ s.w && s.w ≤ 7680 && 16 ≤ s.h && s.h ≤ 4320 && s.samp ≤ 2 && (s.depth == 8 || s.depth == 10 || s.depth == 12)
    && s.colr ≤ 1

/-- The ring's pages: moored, in the fast tier of a quarter. -/
def Hw.mooredNear (m : Hw) (c q va n : Nat) : Bool :=
  (pieces va n).all fun w => match m.locOf c w.1 with
    | some (_, d, some _) => d.moored && d.home == 0 && d.homeQ == q
    | _ => false

/-- Release word, consumer cores, bollard and deadlines in their ranges. -/
def Hw.streamRanges (m : Hw) (x : Ctx) (s : Stream) : Bool :=
  let tick := match m.island.tideCfg with | some t => 10 ^ 9 * t.den / t.num | none => 0
  s.relVa % 8 == 0 && m.mapped s.ctx s.relVa 8 && !s.cores.isEmpty && s.cores.length ≤ 4
    && (s.cores.all fun k => x.cores.getLsbD k) && 60 ≤ s.bol && s.bol ≤ 63 && 1000 ≤ s.frameDl && s.frameDl ≤ tick
    && s.lockIdle ≤ 10000

/-- The flow entries feed this stream: valid, and with its context and number. -/
def Hw.entriesOf (m : Hw) (n : Nat) (s : Stream) : List Flow :=
  (s.entries.filterMap fun i => mget m.flows i).filter fun f => f.ctx == s.ctx && f.stream == n

/-- One primary and one secondary leg, on different ports. -/
def legsOk (fs : List Flow) : Bool :=
  match fs with
  | [_] => true
  | [a, b] => a.leg + b.leg == 1 && a.ports &&& b.ports == 0#4
  | _ => false

/-- Catalogue row of STREAM_ENABLE. -/
def streamEnableCmd : CmdSpec :=
  { ctxCmd 0x0303 [pf 0 2, pf 2 4, pf 6 3, pf 9 3, pf 12 4, pva 16, pva 24, pf 32 5, pf 40 8, pva 48, pf 56 64] with resv := 0x0301 }

/-- STREAM_ENABLE. A stream's tensorizer takes none of the 8 engines that jobs are given: 12 R315 gives its TZ no engine count
(DESIGN CHOICE, log 52). -/
def Hw.streamEnableReply (m : Hw) (p : Pair) : Reply :=
  let n := p.arg 0 2
  let c := p.ctxNo
  let s := Stream.parse c p
  match mget m.ctxs c with
  | none => .refuse 0x0004 0
  | some x =>
    let fs := m.entriesOf n s
    let tzOk := match s.tz with | some t => t.ok | none => true
    let tzMapped := match s.tz with | some t => m.mapped c s.tzVa (s.nslot * t.bytes) | none => true
    let ring := 2 ≤ s.nslot && s.nslot ≤ 16 && m.mooredNear c (s.cores.headD 0 / 64) s.ringVa (s.nslot * s.slotBytes)
    judge [(511 < n, 0x000A, atParam 0), (mhas m.streams n, 0x000B, atParam 0),
        (tzReserved (p.argBytes 56 64), 0x0301, atField 56),
        ((s.legs == 1 || s.legs == 2) && fs.length != s.entries.length, 0x0302, atField 12), (!s.geometry, 0x0303, atField 2),
        ((s.legs != 1 && s.legs != 2) || !legsOk fs, 0x0304, atField 9),
        (!m.streamRanges x s, 0x0307, atField 16), (!tzOk, 0x0308, atField 56), (!ring, 0x030A, atField 16),
        (!tzMapped, 0x0008, atField 48)] fun _ =>
      let m := m.hubWrite c s.relVa (leBytes 8 (2 ^ 64 - 1)) false
      .done { m with streams := mset m.streams n s, counters := countClear m.counters 4 n } []

/-- STREAM_ENABLE, served for a pair. -/
def execStreamEnable (pair : Nat) : State → Host.Outcome State Fault Refusal :=
  onHw fun m => m.serve pair streamEnableCmd m.streamEnableReply

/-- Catalogue row of STREAM_DISABLE. -/
def streamDisableCmd : CmdSpec := modCmd 0x0304 [pf 0 2]

/-- STREAM_DISABLE: from now on no byte goes to its ring (12 R312). -/
def Hw.streamDisableReply (m : Hw) (p : Pair) : Reply :=
  judge [(!mhas m.streams (p.arg 0 2), 0x0005, atParam 0)] fun _ =>
    .done { m with streams := mdel m.streams (p.arg 0 2) } []

/-- STREAM_DISABLE, served for a pair. -/
def execStreamDisable (pair : Nat) : State → Host.Outcome State Fault Refusal :=
  onHw fun m => m.serve pair streamDisableCmd m.streamDisableReply

/-! ### Upload jobs -/

/-- The JOB_ENABLE block; the division levels default to 90, 75 and 60. -/
def Job.parse (c : Nat) (l : List Byte) : Job :=
  let nenc := numAt l 14 1
  let or (v d : Nat) : Nat := if v = 0 then d else v
  { ctx := c, ba := numAt l 0 8, nent := numAt l 8 4, head := 0#32, tail := 0#32, err := false, ndec := numAt l 12 1
    ntz := numAt l 13 1, nenc := nenc, division := numAt l 15 1 == 1, maxW := numAt l 16 2, maxH := numAt l 18 2
    maxF := numAt l 20 4, budget := numAt l 24 2, nqb := numAt l 26 1, lowWater := numAt l 27 1, batch := numAt l 28 2
    qbol := numAt l 30 1, divHi := or (numAt l 31 1) 90, divTarget := or (numAt l 44 1) 75, divLo := or (numAt l 45 1) 60
    qVa := numAt l 32 8, batchDl := numAt l 40 4, cons := (List.range (numAt l 46 1)).map fun i => numAt l (48 + i) 1
    tz := TzCfg.parse (l.drop 56), enc := if nenc = 0 then none else some (EncCfg.parse (l.drop 120)), nextSeq := 0
    samples := [], batches := 0, released := -1, firstAt := [], lastSeq := 0, alarmArmed := false, occ := [], lastP := 0
    lowSince := none, disabling := [] }

/-- Engine slots that no job holds: each of a job's NDEC, NTZ and NENC is a whole engine of the 8 decoders, 8 tensorizers and 4
encoders (01 R16, R23; 12 R321 calls it a share; DESIGN CHOICE, log 52). -/
def Hw.engineFree (m : Hw) (total : Nat) (f : Job → Nat) : Nat := total - m.jobs.foldl (fun a j => a + f j.2) 0

/-- Every byte of a range is mapped in module memory: HOME 0 or 1 (12 R321). -/
def Hw.inModule (m : Hw) (c va n : Nat) : Bool :=
  (pieces va n).all fun w => match m.locOf c w.1 with
    | some (_, _, some (.ram _)) => true
    | _ => false

/-- Ring, queue, consumers, bollard and deadline in their ranges. -/
def Hw.jobRanges (m : Hw) (x : Ctx) (j : Job) : Bool :=
  powerOf2 j.nent 64 65536 && 2 ≤ j.nqb && j.nqb ≤ 64 && 1 ≤ j.batch && j.batch ≤ 256 && 60 ≤ j.qbol && j.qbol ≤ 63
    && !j.cons.isEmpty && j.cons.length ≤ 8 && (j.cons.all fun k => x.cores.getLsbD k) && j.batchDl ≤ 10000000
    && j.qVa < 2 ^ 57 && j.qVa % 8 == 0 && m.inModule j.ctx j.qVa (64 + j.nqb * j.slotBytes)

/-- The job maxima, the budget and the levels of R321. -/
def Job.maxima (j : Job) : Bool :=
  16 ≤ j.maxW && j.maxW ≤ 8192 && 16 ≤ j.maxH && j.maxH ≤ 8192 && 1 ≤ j.maxF && j.maxF ≤ 1048576 && 1 ≤ j.budget
    && (if j.division then 10 ≤ j.divLo && j.divLo < j.divTarget && j.divTarget < j.divHi && j.divHi ≤ 100
        else j.lowWater < j.nqb)

/-- Consumer clusters of a job (12 R332). -/
def Job.clusters (j : Job) : Nat := (j.cons.map fun k => k / 8).eraseDups.length

/-- Bytes of the block that no field covers. -/
def jobReserved (l : List Byte) : Bool := numAt l 47 1 != 0 || numAt l 168 88 != 0

/-- Catalogue row of JOB_ENABLE. -/
def jobEnableCmd : CmdSpec := ⟨0x0306, true, [], 256, 256, false, 0x0003⟩

/-- JOB_ENABLE: firmware's choice of the job number, which is also its intake ring, is an operand. With NENC 0 the bytes of
ENCCFG are ignored (DESIGN CHOICE, log 52: 12 R321 calls it absent, and says no more of its bytes). -/
def Hw.jobEnableReply (m : Hw) (bad : Bool) (job : Nat) (p : Pair) (l : List Byte) : Reply :=
  let c := p.ctxNo
  let j := Job.parse c l
  match mget m.ctxs c, chooseKey m.jobs job 64 with
  | none, _ => .refuse 0x0004 0
  | some _, none => .refuse 0x0007 0
  | some x, some n =>
    let modeOk := if j.division then 3 ≤ j.clusters else j.clusters ≤ 3
    let enginesOk := 1 ≤ j.ndec && j.ndec ≤ m.engineFree 8 Job.ndec && 1 ≤ j.ntz && j.ntz ≤ m.engineFree 8 Job.ntz
      && j.nenc ≤ m.engineFree 4 Job.nenc
    let encOk := match j.enc with | some e => e.ok j.maxF | none => true
    let rsv := 1 < numAt l 15 1 || tzReserved (l.drop 56) || (j.enc.isSome && encReserved (l.drop 120))
    judge [(j.ba % 64 != 0 || bad, 0x0008, atField 0), (!j.maxima, 0x000A, atField 16), (jobReserved l, 0x0301, atField 47), (rsv, 0x0301, atField 15), (!modeOk, 0x0305, atField 15), (!enginesOk, 0x0306, atField 12),
        (!m.jobRanges x j, 0x0307, atField 0), (!j.tz.ok, 0x0308, atField 56), (!encOk, 0x0309, atField 120)] fun _ =>
      let m := m.hubWrite c j.qVa (leBytes 8 (2 ^ 64 - 1)) false
      .done { m with jobs := mset m.jobs n j, counters := countClear m.counters 5 n } (leBytes 2 n ++ leBytes 1 n)

/-- JOB_ENABLE, served for a pair. -/
def execJobEnable (pair job : Nat) (block : JobBlock) : State → Host.Outcome State Fault Refusal :=
  onHw fun m => m.serveBlock pair jobEnableCmd block.block (m.jobEnableReply block.ringBad job)

/-- Catalogue row of JOB_DISABLE. -/
def jobDisableCmd : CmdSpec := modCmd 0x0307 [pf 0 2]

/-- JOB_DISABLE: samples whose decode has not started become void, and the open batch closes (12 R331). -/
def Hw.jobDisableReply (m : Hw) (pair : Nat) (p : Pair) : Reply :=
  let n := p.arg 0 2
  match mget m.jobs n with
  | none => .refuse 0x0005 (atParam 0)
  | some j =>
    let ss := j.samples.map fun s => if s.2.st == .taken then (s.1, s.2.toVoid 0x0346) else s
    let j := { j with samples := ss, disabling := j.disabling ++ [(pair, p.seq)] }.closeBatch
    .defer ((m.setJob n j).jobPump n)

/-- JOB_DISABLE, served for a pair. -/
def execJobDisable (pair : Nat) : State → Host.Outcome State Fault Refusal :=
  onHw fun m => m.serve pair jobDisableCmd (m.jobDisableReply pair)

end Sys2Proof.Machine
end

