-- ==== Sys2Proof/Machine/OpTable.lean ====
section
/-! DEFINITION. The tensor fields of every op body, with their ranks and what the op does with them (03 R84, R88, 05 R143,
R144, 06 R182, R183, 07 R199, R205, 08 R227, R232, 09 R246, R254, 10 R267, R274, 11 R288, R296), and the chains it names.
Run-ahead, plan enable and static footprints (02 R35, R70, R485) read them. -/

namespace Sys2Proof.Machine

/-- What an op does with an operand: reads it, writes it, or both. -/
inductive Use where
  | inp | outp | both
  deriving DecidableEq, Repr

/-- A tensor field of a body: index, rank of one instance, use, and whether 0xFFFF is refused. -/
structure Opnd where
  ix : Nat
  rank : Nat
  use : Use
  req : Bool
  deriving DecidableEq, Repr

/-- A tensor field at bit `lo`. -/
def opndAt (d lo rank : Nat) (use : Use) (req : Bool) : Opnd := ⟨bits d (lo + 15) lo, rank, use, req⟩

/-- Operands of a descriptor, in field order. A field that the op's mode does not use is left out. -/
def opndsOf (d : Nat) : List Opnd :=
  let f := opndAt d
  let on (c : Bool) (l : List Opnd) : List Opnd := if c then l else []
  match bits d 7 0 with
  | 0x01 =>
    [f 256 2 .inp true, f 272 2 .inp true, f 288 2 .outp true, f 304 2 .inp false]
      ++ on (bitb d 15) [f 320 2 .inp true] ++ [f 336 2 .outp false]
      ++ on (bitb d 16) [f 352 1 .both true, f 368 2 .both true] ++ on (bitb d 404) [f 384 2 .both true]
  | 0x02 => [f 256 2 .inp true, f 272 2 .inp true, f 288 2 .outp true, f 304 2 .inp false]
  | 0x03 =>
    if bitb d 400 then [f 256 3 .inp true, f 384 3 .outp true]
    else [f 256 3 .inp true, f 272 3 .inp true, f 288 3 .outp false, f 304 3 .inp false]
      ++ on (bitb d 15) [f 320 3 .inp true] ++ [f 336 3 .outp false]
      ++ on (bitb d 16) [f 352 1 .both true, f 368 3 .both true] ++ [f 384 3 .outp (bitb d 401)]
  | 0x04 => [f 256 3 .inp true, f 272 2 .inp true, f 288 4 .outp true, f 304 1 .inp false, f 320 1 .outp false]
  | 0x05 =>
    let bwd := bits d 465 464 = 1
    let tm := !bitb d 466
    [f 256 2 .inp true] ++ on tm [f 272 2 .inp true, f 288 2 .inp true]
      ++ [f 304 2 (if bwd then .inp else .outp) true, f 320 2 (if bwd then .inp else .outp) bwd, f 336 2 .inp false,
          f 352 2 .both true]
      ++ on (!bwd) [f 368 2 .outp false]
      ++ on bwd [f 384 2 .inp true, f 400 2 .outp true,
                 f 416 2 (if bitb d 469 then .both else .outp) true, f 432 2 (if bitb d 469 then .both else .outp) true]
  | 0x06 =>
    [f 256 2 .inp true] ++ on (!bitb d 466) [f 272 2 .inp true, f 288 2 .inp true]
      ++ [f 304 2 .outp true, f 320 2 .outp false, f 336 2 .inp false]
  | 0x07 =>
    [f 256 2 .inp true, f 272 2 .inp true, f 288 2 .inp true, f 304 2 .outp true]
      ++ on (bits d 353 352 == 1) [f 320 2 .outp false]
  | 0x08 =>
    let x := bits d 271 256 != 0xFFFF
    [f 256 3 .inp false, f 272 2 .inp false, f 288 3 (if x then .both else .inp) true, f 304 2 .inp false,
     f 320 2 .inp false, f 336 3 .outp false, f 352 2 .inp false]
  | 0x09 => on (bits d 280 279 != 2) [f 256 1 (if bits d 280 279 = 0 then .outp else .inp) true]
  | 0x0A => [f 256 2 .inp true, f 272 2 .outp true]
  | 0x0B =>
    [f 256 2 .inp true, f 272 2 .inp true, f 288 1 .inp false, f 304 1 .inp false, f 320 2 .outp true, f 384 2 .inp false]
  | 0x10 => [f 256 3 .inp true, f 272 3 .outp true]
  | 0x11 => [f 256 2 .inp true, f 272 1 .inp true, f 288 2 .outp true]
  | 0x12 => [f 256 5 .inp true]
  | 0x20 =>
    if bits d 321 320 = 0 then [f 256 2 .inp true, f 272 2 .inp true, f 288 3 .outp true, f 304 2 .outp true]
    else [f 256 2 .inp true]
  | 0x21 => [f 256 3 .inp true, f 272 2 .inp true, f 288 2 .inp true, f 304 2 .inp false, f 320 2 .outp true]
  | 0x29 => on (bits d 281 280 == 0) [f 304 3 .inp true]
  | _ => []

/-- Chain-table indices a descriptor names: prologue, epilogue, and CHAIN_PRODUCT's middle chain. -/
def chainIxs (d : Nat) : List Nat :=
  ([bits d 175 160, bits d 191 176] ++ (if bits d 7 0 = 0x07 && bits d 353 352 = 0 then [bits d 351 336] else [])).filter
    fun i => i != 0xFFFF

/-- Tensor indices named by the stages of a chain entry. -/
def stageTens (entry : Nat) : List Nat :=
  ((chainStages entry).flatMap fun s => [s.opnd, s.aux, s.aux2]).filter fun i => i != 0xFFFF

/-! ### Everything run-ahead reads for one descriptor (02 R35) -/

/-- First byte and length of the descriptor, the tensor descriptors and the chain entries it names. -/
def Hw.fetchList (m : Hw) (ctx : Nat) (p : Plan) (addr : Nat) : List (Nat × Nat) :=
  let d := leNat (m.peek ctx addr 128)
  let ch := chainIxs d
  let tens := ((opndsOf d).map (·.ix)).filter (fun i => i != 0xFFFF)
    ++ ch.flatMap fun i => stageTens (leNat (m.peek ctx (p.chainTbl + 128 * i) 128))
  (addr, 128) :: (ch.eraseDups.map fun i => (p.chainTbl + 128 * i, 128))
    ++ tens.eraseDups.map fun i => (p.tenTbl + 32 * i, 32)

end Sys2Proof.Machine
end

