-- ==== Sys2Proof/Machine/PlanTensor.lean ====
section
/-! DEFINITION. Plan enable, part 1: the header of a descriptor and the tensors it names (02 R44 to R57, R70, R485, 14 R370,
R371). -/

namespace Sys2Proof.Machine

/-! ### Failing objects (14 R370) -/

/-- A refusal: code and DETAIL. -/
abbrev Bad := Option (Nat × Nat)

def firstBad (l : List Check) : Bad := (l.find? fun c => c.1).map (·.2)

/-- The first code whose condition holds. -/
def firstCode (l : List (Bool × Nat)) : Option Nat := (l.find? fun c => c.1).map (·.2)

/-- DETAIL: core, thread, object, its number and index. -/
def detailOf (core thread obj sub index : Nat) : Nat :=
  core ||| thread <<< 8 ||| obj <<< 12 ||| (sub % 2 ^ 16) <<< 16 ||| (index % 2 ^ 32) <<< 32

/-- Index of a descriptor from its thread's entry point. -/
def Env.index (e : Env) : Nat :=
  match e.plan.cores.find? fun c => c.core == e.core with
  | none => 0
  | some c => (e.addr - lget c.entry e.thread 0) / 128

/-- DETAIL of an object that a descriptor names: 1 the descriptor itself, 2 a tensor descriptor, 3 a chain entry, which has
neither thread nor index. -/
def Env.at (e : Env) (obj sub : Nat) : Nat :=
  if obj = 3 then detailOf e.core 0 3 sub 0 else detailOf e.core e.thread obj sub e.index

def Env.inCtx (e : Env) (k : Nat) : Bool := (e.m.ctxCores e.ctx).contains k && e.m.coreValid k

/-! ### Tensor fields -/

/-- How an op reaches an operand: by its rank and the loops; every frame of a CONV's X, its zero flags and its previous input; the tiles of a crop's output; every
index; nothing. -/
inductive Reach where
  | plain
  | frames
  | tiles (n : Nat)
  | all
  | nothing
  deriving DecidableEq, Repr

/-- Whether a field must be given, may be, or must not be (0x0104). -/
inductive Need2 where
  | must | may | never
  deriving DecidableEq, Repr

/-- A tensor field of a body as plan enable sees it. -/
structure TenField where
  lo : Nat
  ix : Nat
  rank : Nat
  use : Use
  need : Need2
  reach : Reach
  /-- the op reads or writes through it -/
  live : Bool
  /-- codes that are not refused with 0x0105 -/
  fmts : List Nat
  deriving DecidableEq, Repr

def anyFmt : List Nat := List.range 15
/-- Product operands (04 R114). -/
def prodFmt : List Nat := (List.range 12).map (· + 1)
/-- Outputs of 03 R85. -/
def outFmt : List Nat := anyFmt.filter fun f => f != 0xB && f != 0xE

def slotAt (d lo rank : Nat) (use : Use) (need : Need2) (fmts : List Nat) : TenField :=
  ⟨lo, bits d (lo + 15) lo, rank, use, need, .plain, true, fmts⟩

def mustIf (b : Bool) : Need2 := if b then .must else .may
def onlyIf (b : Bool) : Need2 := if b then .must else .never

/-- The tensor fields of a descriptor. Where a chapter's own code refuses a missing operand, an operand given, or a format,
the field is left to it. -/
def slotsOf (d : Nat) : List TenField :=
  let s := slotAt d
  match bits d 7 0 with
  | 0x01 =>
    let ms := bitb d 404
    [s 256 2 .inp .must prodFmt, s 272 2 .inp .must prodFmt,
     { s 288 2 .outp .must outFmt with reach := if ms then .nothing else .plain }, s 304 2 .inp .may [0],
     { s 320 2 .inp .may [5] with live := bitb d 15 }, s 336 2 .outp .may [5],
     { s 352 2 .both .may [0xD] with live := bitb d 16 }, { s 368 2 .inp .may prodFmt with live := bitb d 16 },
     s 384 2 .both (onlyIf ms) [0xD]]
  | 0x02 => [s 256 2 .inp .must prodFmt, s 272 2 .inp .must prodFmt, s 288 2 .outp .must outFmt, s 304 2 .inp .may [0]]
  | 0x03 =>
    let md := bitb d 400
    [{ s 256 3 .inp .must anyFmt with reach := if md then .plain else .frames }, s 272 3 .inp (mustIf !md) anyFmt,
     s 288 3 .outp .may anyFmt, s 304 3 .inp .may anyFmt,
     { s 320 3 .inp (mustIf (bitb d 15 && !md)) [5] with live := bitb d 15, reach := .frames }, s 336 3 .outp .may [5],
     { s 352 2 .both .may [0xD] with live := bitb d 16 },
     { s 368 3 .inp .may prodFmt with live := bitb d 16, reach := .frames }, s 384 2 .outp (mustIf md) anyFmt]
  | 0x04 =>
    [s 256 3 .inp .must prodFmt, s 272 2 .inp .must anyFmt, { s 288 4 .outp .must anyFmt with reach := .tiles 0 },
     s 304 1 .inp .may anyFmt, s 320 1 .outp .may anyFmt]
  | 0x05 =>
    let b := bits d 465 464 == 1
    let tm := !bitb d 466
    let g := if b then Need2.may else Need2.never
    let kv := if bitb d 469 then Use.both else Use.outp
    [s 256 2 .inp .must anyFmt, s 272 2 .inp (mustIf tm) anyFmt, s 288 2 .inp (mustIf tm) anyFmt,
     s 304 2 (if b then .inp else .outp) (mustIf !b) anyFmt, s 320 2 (if b then .inp else .outp) .may anyFmt,
     s 336 2 .inp .may anyFmt, s 352 2 .both .may anyFmt, s 368 2 .outp .may anyFmt, s 384 2 .inp g anyFmt,
     s 400 2 .outp g anyFmt, s 416 2 kv g anyFmt, s 432 2 kv g anyFmt]
  | 0x06 =>
    let tm := !bitb d 466
    [s 256 2 .inp .must anyFmt, s 272 2 .inp (mustIf tm) anyFmt, s 288 2 .inp (mustIf tm) anyFmt, s 304 2 .outp .must anyFmt,
     s 320 2 .outp .may anyFmt, s 336 2 .inp .may anyFmt]
  | 0x07 =>
    [s 256 2 .inp .must anyFmt, s 272 2 .inp .must anyFmt, s 288 2 .inp .must anyFmt, s 304 2 .outp .must anyFmt,
     s 320 2 .outp .may anyFmt]
  | 0x08 =>
    [s 256 3 .inp .may prodFmt, s 272 2 .inp .may prodFmt,
     s 288 3 (if bits d 271 256 = 0xFFFF then .inp else .both) .must anyFmt, s 304 2 .inp .may prodFmt,
     s 320 2 .inp .may [bits d 378 375], s 336 3 .outp .may outFmt, s 352 2 .inp .may [5]]
  | 0x09 => [s 256 1 (if bits d 280 279 = 0 then .outp else .inp) (mustIf (bits d 280 279 < 2)) anyFmt]
  | 0x0A => [s 256 2 .inp .must anyFmt, s 272 2 .outp .must anyFmt]
  | 0x0B =>
    [s 256 2 .inp .must anyFmt, s 272 2 .inp .must anyFmt, s 288 1 .inp .may anyFmt, s 304 1 .inp .may anyFmt,
     s 320 2 .outp .must anyFmt, s 384 2 .inp .may [5]]
  | 0x10 => [s 256 3 .inp .must anyFmt, s 272 3 .outp .must anyFmt]
  | 0x11 => [s 256 2 .inp .must anyFmt, s 272 1 .inp .must anyFmt, s 288 2 .outp .must anyFmt]
  | 0x12 => [{ s 256 5 .inp .must anyFmt with reach := .all }]
  | 0x20 =>
    let snd := bits d 321 320 == 0
    [s 256 2 .inp .must anyFmt, s 272 2 .inp (mustIf snd) anyFmt, s 288 3 .outp (mustIf snd) anyFmt,
     s 304 2 .outp (mustIf snd) anyFmt]
  | 0x21 =>
    [s 256 3 .inp .must anyFmt, s 272 2 .inp .must anyFmt, s 288 2 .inp .must anyFmt,
     s 304 2 .inp .may (outFmt.filter fun f => f != 0xE), s 320 2 .outp .must anyFmt]
  | 0x29 => [s 304 3 .inp .may anyFmt]
  | _ => []

/-! ### Footprints (02 R485) -/

/-- Indices taken in dimensions 1 to 4. -/
def Ten.counts (t : Ten) (rank : Nat) (reach : Reach) (h : OpHdr) : List Nat :=
  match reach with
  | .nothing => [0, 0, 0, 0]
  | .all => (List.range 4).map fun i => t.ext (i + 1)
  | .frames => [t.ext 1, t.ext 2, t.ext 3, h.loops.2.1]
  | .tiles n => [t.ext 1, t.ext 2, n, 1]
  | .plain => (List.range 4).map fun i =>
      if i + 1 < rank then t.ext (i + 1) else if i + 1 - rank < 3 then h.loop (i + 1 - rank) else 1

/-- First bytes of the rows over those indices. -/
def Ten.rowsOver (t : Ten) (c : List Nat) : List Nat :=
  (List.range (lget c 3 0)).flatMap fun i4 => (List.range (lget c 2 0)).flatMap fun i3 =>
    (List.range (lget c 1 0)).flatMap fun i2 => (List.range (lget c 0 0)).map fun i1 =>
      t.addr + i4 * t.str 4 + i3 * t.str 3 + i2 * t.str 2 + i1 * t.str 1

/-- The byte after the highest one. -/
def Ten.topOver (t : Ten) (c : List Nat) : Nat :=
  t.addr + (List.range 4).foldl (fun a i => a + (lget c i 0 - 1) * t.str (i + 1)) 0 + t.row

/-- Intervals sorted and joined. -/
def joinSpans (l : List (Nat × Nat)) : List (Nat × Nat) :=
  ((l.mergeSort fun a b => decide (a.1 ≤ b.1)).foldl (fun acc x =>
    match acc with
    | [] => [x]
    | y :: r => if x.1 ≤ y.1 + y.2 then (y.1, max (y.1 + y.2) (x.1 + x.2) - y.1) :: r else x :: y :: r) []).reverse

/-- The bytes an operand reaches: the space or hold, its intervals, and whether the op writes or reads them. -/
structure Area where
  lo : Nat
  place : Nat
  spans : List (Nat × Nat)
  outp : Bool
  inp : Bool

/-- Context memory is 256; a hold, its core. -/
def Env.placeOf (e : Env) (t : Ten) : Nat := if t.space = 0 then 256 else e.holdOf t

/-- A crop's output reaches one tile per box. -/
def Env.reachOf (e : Env) (s : TenField) : Reach :=
  match s.reach with
  | .tiles _ => .tiles ((e.ten (e.field 287 272)).ext 1)
  | r => r

def Env.countsOf (e : Env) (s : TenField) : List Nat := (e.ten s.ix).counts s.rank (e.reachOf s) e.h

def Env.area (e : Env) (s : TenField) : Area :=
  let t := e.ten s.ix
  ⟨s.lo, e.placeOf t, joinSpans ((t.rowsOver (e.countsOf s)).map fun a => (a, t.row)), s.use != .inp, s.use != .outp⟩

/-- The static footprint of a list of fields, those that name a tensor and are read or written. -/
def Env.areas (e : Env) (l : List TenField) : List Area :=
  (l.filter fun s => s.ix < e.plan.nten && s.live).map e.area

/-- The same of every field, those that the op's bits leave unread among them: the checks of 02 R70 take them whatever the bit
(03 R84). -/
def Env.everyArea (e : Env) (l : List TenField) : List Area := (l.filter fun s => s.ix < e.plan.nten).map e.area

def Area.meets (a b : Area) : Bool := a.place == b.place && overlaps a.spans b.spans

/-! ### The tensor descriptor (02 R54 to R57, R70) -/

/-- Every page of the table entry can be read. -/
def Env.tenMarked (e : Env) (ix : Nat) : Bool := e.m.unreadable e.ctx (e.plan.tenTbl + 32 * ix) 32

/-- Outer loops for the operand (02 R50); a CONV's X takes its frames by 09 R242, and a PREFETCH takes no loop. -/
def Env.loopsOk (e : Env) (s : TenField) (t : Ten) : Bool :=
  match s.reach with
  | .frames => e.h.loops.2.2 == 1 && (e.h.loops.2.1 == 1 || t.str 4 == 0 || e.h.loops.2.1 ≤ t.ext 4)
  | .all => e.h.count == 1
  | .tiles _ => true
  | _ => t.loopOk s.rank e.h

/-- The checks of one tensor field. -/
def Env.slotBad (e : Env) (s : TenField) : Bad :=
  let none16 := s.ix == 0xFFFF
  if none16 then (if s.need = .must then some (0x0104, e.at 1 0) else none)
  else if s.need = .never || e.plan.nten ≤ s.ix then some (0x0104, e.at 1 0)
  else
    let d := e.tenDesc s.ix
    let t := Ten.parse d
    let c := e.countsOf s
    let w := e.at 2 s.ix
    let top := t.topOver c
    -- a source in another core's hold is a MOVE's alone (02 R32, R70; 10 R274 is read under them, log 25)
    let src := s.use != .outp && e.h.opcode != 0x10
    firstBad [(e.tenMarked s.ix, 0x0008, w), (tenReserved d || t.fmt == 0xF, 0x0103, w), (!s.fmts.contains t.fmt, 0x0105, w),
      (!t.geomOk, 0x0106, w), (!t.alignOk, 0x0107, w), (t.space != 0 && !c.contains 0 && 2 ^ 22 < top, 0x0108, w),
      ((t.space == 2 && (!e.inCtx t.remote || src)) || (t.space != 0 && e.h.opcode == 0x12), 0x0109, w),
      (!e.loopsOk s t, 0x010A, w), (t.space == 0 && !c.contains 0 && 2 ^ 57 < top, 0x010B, w)]

/-! ### Overlaps (0x010C) -/

/-- Where an op body permits an output in place of an input: the same footprint, with identical address and strides, and the
formats it states. -/
def Env.inPlace (e : Env) (o i : Area) : Bool :=
  let x := e.ten (e.field (o.lo + 15) o.lo)
  let y := e.ten (e.field (i.lo + 15) i.lo)
  let same := x.addr == y.addr && x.space == y.space && x.remote == y.remote && x.stride == y.stride && o.spans == i.spans
  match e.h.opcode, o.lo, i.lo with
  | 0x01, 288, 304 | 0x02, 288, 304 | 0x03, 288, 304 => same && x.fmt == 0 && y.fmt == 0
  | 0x0A, 272, 256 => same && x.row == y.row
  | 0x0B, 320, 256 => same && x.fmt == y.fmt
  | _, _, _ => false

/-- An output meets another operand that is an input, and is not permitted in its place. -/
def Env.clash (e : Env) (outs ins : List Area) : Bool :=
  outs.any fun o => o.outp && ins.any fun i => i.inp && i.lo != o.lo && o.meets i && !e.inPlace o i

/-- A stage writes its statistics where a stage of the op reads. -/
def stageClash (st : List Area) : Bool := st.any fun o => o.outp && st.any fun i => i.inp && o.meets i

/-! ### The header (02 R44, R70) -/

def opcodes : List Nat :=
  [0x01, 0x02, 0x03, 0x04, 0x05, 0x06, 0x07, 0x08, 0x09, 0x0A, 0x0B, 0x10, 0x11, 0x12, 0x18, 0x19, 0x1A, 0x20, 0x21, 0x28,
   0x29, 0x3F]

/-- Chain sides an op accepts (05 R127). -/
def takesPro (op : Nat) : Bool := op == 0x01 || op == 0x02 || op == 0x08
def takesEpi (op : Nat) : Bool := (1 ≤ op && op ≤ 8) || op == 0x0A || op == 0x0B || op == 0x21

def Env.midIx (e : Env) : Nat := if e.h.opcode = 0x07 && e.field 353 352 = 0 then e.field 351 336 else 0xFFFF

def Env.headerBad (e : Env) : Bad :=
  let h := e.h
  let w := e.at 1 0
  let chainBad (i : Nat) (ok : Bool) : Bool := i != 0xFFFF && (!ok || e.plan.nchain ≤ i)
  firstBad [(!opcodes.contains h.opcode, 0x0101, w), (h.dver != 1, 0x0102, w), (hdrReserved e.d, 0x0103, w),
    (h.postEn && (h.postInc == 0 || 60 ≤ h.postBol || !e.inCtx h.postCore), 0x010D, w),
    ((h.opcode == 0x06 || h.opcode == 0x07) && e.core % 8 != 0, 0x010F, w),
    (chainBad h.pro (takesPro h.opcode) || chainBad h.epi (takesEpi h.opcode) || chainBad e.midIx true, 0x0110, w),
    ((h.spx || h.tru) && h.opcode != 0x01 && h.opcode != 0x03, 0x0112, w)]

end Sys2Proof.Machine
end

