-- ==== Sys2Proof/Machine/PlanChain.lean ====
section
/-! DEFINITION. Plan enable, part 2: chain entries and their stages (05 R127 to R157, 08 R233, 10 R264, R265). -/

namespace Sys2Proof.Machine

/-! ### Function sets -/

/-- FUNC of a function: built-in, or an entry that the image holds (05 R149, R151). -/
def funcOk (img : List Byte) (f : Nat) : Bool :=
  (1 ≤ f && f ≤ 0x0F) || (0x80 ≤ f && f ≤ 0x8F && fsetValid img (f - 0x80))

def isNan32 (w : Word32) : Bool := (f32v w).isNan
def finite32 (w : Word32) : Bool := !(f32v w).isNan && !(f32v w).isInf

/-- ε of a finishing stage or op: finite and not negative. -/
def epsOk (w : Word32) : Bool := finite32 w && !(f32v w).lt FV.zero

/-! ### What a chain acts on -/

/-- The data of a chain: dimension 0, dimension 1, dimension 2 of a map, and whether it is a map. -/
structure Data where
  n : Nat
  m : Nat
  k : Nat
  isMap : Bool
  deriving DecidableEq, Repr

inductive Side where
  | pro | epi | mid
  deriving DecidableEq, Repr

def Ten.data (t : Ten) : Data := ⟨t.ext 0, t.ext 1, 1, false⟩

/-- The data a chain of the descriptor acts on; `after` is a stage behind the gate stage of a RECUR_STEP (05 R132, 09 R246,
R255, 10 R265). -/
def Env.dataOf (e : Env) (side : Side) (after : Bool) : Data :=
  let f (lo : Nat) : Data := (e.ten (e.field (lo + 15) lo)).data
  match e.h.opcode, side with
  | 0x01, .pro | 0x02, .pro => f 256
  | 0x01, _ | 0x02, _ => f 288
  | 0x03, _ =>
    let b := e.conv
    ⟨match b.w with | some w => w.ext 1 | none => 0, b.ow, b.oh, true⟩
  | 0x04, _ =>
    let t := e.ten (e.field 303 288)
    ⟨t.ext 0, t.ext 1, t.ext 2, true⟩
  | 0x05, _ | 0x06, _ => f 304
  | 0x07, .mid => ⟨(e.ten (e.field 287 272)).ext 1, (e.ten (e.field 271 256)).ext 1, 1, false⟩
  | 0x07, _ => f 304
  | 0x08, .pro =>
    let t := e.ten (e.field 271 256)
    ⟨t.ext 0, t.ext 1 * t.ext 2, 1, false⟩
  | 0x08, _ =>
    let r := e.recur
    ⟨if after then r.b.ns else r.b.ncol, r.s, r.l, true⟩
  | 0x0A, _ => f 272
  | 0x0B, _ => f 320
  | 0x21, _ => f 320
  | _, _ => ⟨0, 0, 0, false⟩

/-! ### The tensors of a stage -/

/-- A stage field as a tensor field; `lo` lies beyond every body field. -/
def stageField (ix rank : Nat) (use : Use) (need : Need2) (reach : Reach) : TenField :=
  ⟨2048, ix, rank, use, need, reach, true, anyFmt⟩

/-- The tensors a stage names, by kind (05 R129, R132, R137, R141, log 14). -/
def Env.stageFields (e : Env) (side : Side) (s : Stage) : List TenField :=
  let map := (e.dataOf side false).isMap && e.h.opcode != 0x08
  let reach : Reach := if e.h.opcode = 0x04 && s.bcast = 0 then .tiles 0 else .plain
  let r := if s.bcast = 0 then (if map then 3 else 2) else 1
  let f := stageField
  let on (c : Bool) (l : List TenField) : List TenField := if c then l else []
  match s.kind with
  | 0x01 | 0x02 | 0x04 | 0x05 | 0x08 => on (s.bcast != 3) [f s.opnd r .inp .must reach]
  | 0x03 => on (s.bcast != 3) [f s.opnd r .inp .must reach, f s.aux r .inp .may reach]
  | 0x10 => on (s.func / 4 % 4 == 2) [f s.opnd 1 .inp .must .plain] ++ [f s.aux 2 .outp .must .plain]
  | 0x11 => [f s.opnd 2 .inp .must .plain, f s.aux 1 .inp .may .plain, f s.aux2 1 .inp .may .plain]
  | 0x12 =>
    on (s.func / 4 % 4 == 2) [f s.opnd 1 .inp .must .plain] ++ [f s.aux 1 .inp .may .plain, f s.aux2 1 .inp .may .plain]
  | _ => []

/-- A tensor field of a stage: what is missing is the chain entry's. -/
def Env.stageFieldBad (e : Env) (ch : Nat) (s : TenField) : Bad :=
  match e.slotBad s with
  | some (0x0104, _) => some (0x0104, e.at 3 ch)
  | b => b

/-! ### The codes of class 0x07 -/

def stageKinds : List Nat :=
  [0x01, 0x02, 0x03, 0x04, 0x05, 0x06, 0x07, 0x08, 0x09, 0x10, 0x11, 0x12, 0x13, 0x20, 0x21, 0x22, 0x23, 0x24]

/-- Indices that a stage gives where its kind takes none (0x0104); a BCAST 3 with OPND given has a code of its own. -/
def Stage.strays (s : Stage) : List Nat :=
  let opnd := if s.bcast = 3 then [] else [s.opnd]
  let shift := if s.func / 4 % 4 = 2 then [] else [s.opnd]
  (match s.kind with
   | 0x01 | 0x02 | 0x04 | 0x05 | 0x08 => [s.aux, s.aux2]
   | 0x03 => [s.aux2]
   | 0x06 | 0x07 | 0x09 | 0x13 => opnd ++ [s.aux, s.aux2]
   | 0x10 => shift ++ [s.aux2]
   | 0x12 => shift
   | _ => []).filter fun i => i != 0xFFFF

/-- A reserved kind, FUNC or field (0x0701). Mode 2 of a ROWNORM is one (DESIGN CHOICE, log 25: a softmax of a row is
ROWSOFTMAX's), and so are the fields of a gate stage that 10 R264 fixes, but for OPND with BCAST 3. -/
def Stage.reserved (s : Stage) : Bool :=
  match s.kind with
  | 0x07 => false
  | 0x09 => 16 ≤ s.func
  | 0x10 => 1 < s.func % 4 || 16 ≤ s.func
  | 0x11 => 2 < s.func
  | 0x12 => 1 < s.func % 4 || 16 ≤ s.func
  | 0x20 | 0x21 | 0x22 | 0x23 | 0x24 =>
    (s.opnd != 0xFFFF && s.bcast != 3) || s.aux != 0xFFFF || s.aux2 != 0xFFFF || s.imm != 0#32 || s.imm2 != 0#32
  | k => !stageKinds.contains k || s.func != 0

def isRow (s : Stage) : Bool := s.kind == 0x12 || s.kind == 0x13

/-- Stages before the first one of a kind are all MASK stages. -/
def maskedBefore (k : Stage → Bool) (l : List Stage) : Bool := (l.takeWhile fun s => !k s).all fun s => s.kind == 0x08

def countOf (k : Stage → Bool) (l : List Stage) : Nat := (l.filter k).length

/-- A per-element operand of a CROPRESIZE has a tile for each box (09 R255). -/
def Env.tilesIn (e : Env) (t : Ten) : Bool := e.h.opcode != 0x04 || (e.ten (e.field 287 272)).ext 1 ≤ t.ext 3

/-- A stage operand has the extents of its BCAST (05 R132, 09 R246, R255). -/
def Env.shaped (e : Env) (d : Data) (bcast ix : Nat) : Bool :=
  let t := e.ten ix
  t.fmt != 0xE &&
  match bcast with
  | 0 => t.ext 0 == d.n && t.ext 1 == d.m
      && (!d.isMap || (t.ext 2 == d.k && e.tilesIn t))
  | 1 => t.ext 0 == d.n
  | _ => t.ext 0 == d.m

/-- A MASK stage's bitmap (05 R133). -/
def Env.maskShaped (e : Env) (d : Data) (bcast ix : Nat) : Bool :=
  let t := e.ten ix
  t.fmt == 5 && t.ext 0 == ceilDiv d.n 8
    && (bcast == 1 || (t.ext 1 == d.m && (!d.isMap || (t.ext 2 == d.k && e.tilesIn t))))

/-- Operands of a stage that do not match its BCAST or kind (0x0709). An immediate MULADD takes no tensor for b (DESIGN CHOICE,
log 25: "the same BCAST" gives AUX no shape there). -/
def Env.operandBad (e : Env) (d : Data) (s : Stage) : Bool :=
  let given (i : Nat) (ok : Bool) : Bool := i != 0xFFFF && !ok
  let shape (i : Nat) : Bool := given i (e.shaped d s.bcast i)
  let col (i : Nat) : Bool := given i (e.shaped d 1 i)
  let est : Bool := s.func / 4 % 4 == 2 && given s.opnd (e.shaped d 2 s.opnd)
  match s.kind with
  | 0x01 | 0x02 | 0x04 | 0x05 => if s.bcast = 3 then s.opnd != 0xFFFF else shape s.opnd
  | 0x03 => if s.bcast = 3 then s.opnd != 0xFFFF || s.aux != 0xFFFF else shape s.opnd || shape s.aux
  | 0x06 => s.bcast != 3 || s.opnd != 0xFFFF
  | 0x08 => 2 ≤ s.bcast || given s.opnd (e.maskShaped d s.bcast s.opnd)
  | 0x07 | 0x09 | 0x20 | 0x21 | 0x22 | 0x23 | 0x24 => s.bcast == 3 && s.opnd != 0xFFFF
  | 0x10 => s.bcast != 0 || est
  | 0x11 => s.bcast != 0 || col s.aux || col s.aux2
  | 0x12 => s.bcast != 0 || est || col s.aux || col s.aux2
  | 0x13 => s.bcast != 0
  | _ => false

/-- A statistics tensor of data `d` (05 R138). -/
def Env.statShaped (e : Env) (d : Data) (ix : Nat) : Bool :=
  let t := e.ten ix
  t.fmt == 0 && t.ext 0 == 4 * ceilDiv d.n 32 && t.ext 1 == d.m

/-- Immediates out of range (0x070C). -/
def Stage.immBad (s : Stage) : Bool :=
  let sh := s.func / 4 % 4
  match s.kind with
  | 0x06 => isNan32 s.imm || isNan32 s.imm2 || (f32v s.imm2).lt (f32v s.imm)
  | 0x10 => sh == 3 && !finite32 s.imm
  | 0x11 => !epsOk s.imm
  | 0x12 => !epsOk s.imm || (sh == 3 && !finite32 s.imm2)
  | _ => false

/-- The data of each stage of a chain, with the stage. -/
def Env.staged (e : Env) (side : Side) (l : List Stage) : List (Stage × Data) :=
  (List.range l.length).filterMap fun i => (l[i]?).map fun s => (s, e.dataOf side ((l.take i).any isGate))

/-- The codes of a chain's words, in the order of the codes. -/
def Env.chainCode (e : Env) (img : List Byte) (side : Side) (w : Nat) : Option Nat :=
  let words := (List.range 8).map fun i => bits w (128 * i + 127) (128 * i)
  let l := chainStages w
  let op := e.h.opcode
  let row := op == 0x0A && bitb e.d 288
  let ends := words.drop l.length
  let epi := side == .epi
  let sd := e.staged side l
  firstCode
    [(l.any Stage.reserved || ends.head?.any fun x => bits x 15 8 != 0, 0x0701),
     ((ends.drop 1).any fun x => x != 0, 0x0702),
     (l.any fun s => (s.kind == 0x10 && !epi) || (s.kind == 0x11 && side != .pro) || (isGate s && !(epi && op == 0x08)), 0x0703),
     (epi && op != 0x0A && l.any isRow, 0x0704),
     ((!epi && l.any isRow) || (op == 0x0A && ((!row && l.any isRow)
        || (row && (countOf isRow l != 1 || !maskedBefore isRow l)))), 0x0705),
     (l.any (fun s => s.kind == 0x10) && (1 < countOf (fun s => s.kind == 0x10) l
        || !(l.getLast?.any fun s => s.kind == 0x10) || (e.dataOf side false).isMap), 0x0706),
     (sd.any fun p => (p.1.kind == 0x10 && !e.statShaped p.2 p.1.aux) || (p.1.kind == 0x11 && !e.statShaped p.2 p.1.opnd), 0x0707),
     (l.any (fun s => s.kind == 0x11) && (1 < countOf (fun s => s.kind == 0x11) l || !maskedBefore (fun s => s.kind == 0x11) l
        || (op != 0x01 && op != 0x02)), 0x0708),
     (sd.any fun p => e.operandBad p.2 p.1, 0x0709),
     (l.any fun s => s.kind == 0x09 && (s.func % 16 == 0 || 0xC < s.func % 16), 0x070A),
     (l.any fun s => s.kind == 0x07 && !funcOk img s.func, 0x070B),
     (l.any Stage.immBad, 0x070C)]

/-- The chains a descriptor names, with their sides. -/
def Env.chainNames (e : Env) : List (Side × Nat) :=
  [(Side.pro, e.h.pro), (Side.epi, e.h.epi), (Side.mid, e.midIx)].filter fun p => p.2 != 0xFFFF

def Env.chainWord (e : Env) (i : Nat) : Nat := leNat (e.m.peek e.ctx (e.plan.chainTbl + 128 * i) 128)

/-- Tensor fields of every stage of a descriptor's chains, with the chain. -/
def Env.allStageFields (e : Env) : List (Nat × TenField) :=
  e.chainNames.flatMap fun p => (chainStages (e.chainWord p.2)).flatMap fun s => (e.stageFields p.1 s).map fun f => (p.2, f)

/-- The checks of one chain: its words can be read, its stages may stand there, then their tensors, then the rest (log 25). -/
def Env.chainBad (e : Env) (img : List Byte) (p : Side × Nat) : Bad :=
  if e.m.unreadable e.ctx (e.plan.chainTbl + 128 * p.2) 128 then some (0x0008, e.at 3 p.2)
  else
    let code := e.chainCode img p.1 (e.chainWord p.2)
    let own := code.map fun c => (c, e.at 3 p.2)
    if code.any fun c => decide (c < 0x0707) then own
    else if (chainStages (e.chainWord p.2)).any fun s => !s.strays.isEmpty then some (0x0104, e.at 3 p.2)
    else
      match ((chainStages (e.chainWord p.2)).flatMap fun s => e.stageFields p.1 s).findSome? (e.stageFieldBad p.2) with
      | some b => some b
      | none => own

end Sys2Proof.Machine
end

