-- ==== Sys2Proof/Machine/PlanBody.lean ====
section
/-! DEFINITION. Plan enable, part 3: the body of every op (02 R63, R64, R70, 03 R103, 05 R157, 06 R185, 07 R212, 08 R238,
09 R257, 10 R279, 11 R306, 16 R416). The codes of a body are tried in ascending order. -/

namespace Sys2Proof.Machine

/-- Some bit of the body fields is not 0. -/
def Env.anySet (e : Env) (l : List (Nat × Nat)) : Bool := l.any fun p => e.field p.1 p.2 != 0

def Ten.sameExt (s t : Ten) (n : Nat) : Bool := (List.range n).all fun i => s.ext i == t.ext i

/-- An optional tensor has these extents in its first dimensions. -/
def optExt (t : Option Ten) (l : List Nat) : Bool :=
  match t with
  | none => true
  | some t => (List.range l.length).all fun i => t.ext i == lget l i 0

def optAll (t : Option Ten) (f : Ten → Bool) : Bool := match t with | none => true | some t => f t

/-- Bytes of a row of zero flags over `n` positions (03 R86). -/
def flagBytes (n : Nat) : Nat := ceilDiv (ceilDiv n 32) 8

/-- A tensor lies in pages the context maps read-only (03 R97). -/
def Env.readOnly (e : Env) (lo rank : Nat) : Bool :=
  let t := e.ten (e.field (lo + 15) lo)
  t.space == 0 && (joinSpans ((t.rowsOver (t.counts rank .plain e.h)).map fun a => (a, t.row))).all fun p =>
    e.m.mappedRO e.ctx p.1 p.2

/-- The landing entry that a RETURN names. -/
def Env.landing (e : Env) (l : Nat) : Landing :=
  match e.plan.cores.find? fun c => c.core == e.core with
  | none => Landing.none
  | some c => lget c.lands l Landing.none

def Env.noLoops (e : Env) : Bool := e.h.count == 1

/-! ### MATMUL and MATVEC (03 R84 to R103) -/

def Env.matmulCode (e : Env) : Option Nat :=
  let t (lo : Nat) : Ten := e.ten (e.field (lo + 15) lo)
  let o (lo : Nat) : Option Ten := e.opt (e.field (lo + 15) lo)
  let a := t 256
  let b := t 272
  let c := t 288
  let kn := bitb e.d 403
  let ms := bitb e.d 404
  let n := if kn then b.ext 0 else b.ext 1
  let k := if kn then b.ext 1 else b.ext 0
  let msh := t 384
  let lo := e.field 424 416
  let hi := e.field 433 425
  let fixed := e.m.isFixed e.ctx
  let inter := match mget e.m.ctxs e.ctx with | some x => x.interactive | none => false
  firstCode
    [(3 < e.field 402 400 || e.anySet [(407, 405), (415, 414), (447, 434), (1023, 480)], 0x0140),
     (a.ext 0 != k || c.ext 0 != n || (!ms && a.ext 1 != c.ext 1) || !optExt (o 304) [n, a.ext 1], 0x0141),
     ((e.h.spx && (o 320).isNone) || !optExt (o 320) [flagBytes k, ceilDiv (a.ext 1) 32]
        || !optExt (o 336) [flagBytes n, ceilDiv (a.ext 1) 32], 0x0143),
     ((e.h.tru && (!e.readOnly 272 2 || (o 304).isSome || ms || (o 352).isNone || (o 368).isNone))
        || !optExt (o 352) [2, ceilDiv (a.ext 1) 64]
        || !optAll (o 368) (fun p => p.sameExt a 5 && p.fmt == a.fmt), 0x0144),
     (ms && (a.space != 1 || msh.space != 1 || 256 < a.ext 1 || msh.ext 0 != 4 || msh.ext 1 != a.ext 1 || !e.noLoops
        || (o 304).isSome), 0x0145),
     (ms && (lo == 0 || hi == 0 || hi < lo || a.ext 1 < hi || 59 < e.field 413 408), 0x0146),
     (ms && (inter || fixed), 0x0147)]

def Env.matvecCode (e : Env) : Option Nat :=
  let x := e.ten (e.field 271 256)
  let w := e.ten (e.field 287 272)
  let y := e.ten (e.field 303 288)
  let kn := bitb e.d 320
  let n := if kn then w.ext 0 else w.ext 1
  let k := if kn then w.ext 1 else w.ext 0
  firstCode
    [(e.anySet [(1023, 321)], 0x0140),
     (x.ext 0 != k || y.ext 0 != n || x.ext 1 != y.ext 1 || !optExt (e.opt (e.field 319 304)) [n, x.ext 1], 0x0141),
     (8 < x.ext 1 || w.space != 1, 0x0142)]

/-! ### CONV and CROPRESIZE (09 R240 to R257) -/

/-- A stage of the epilogue takes a per-row operand. -/
def Env.epiRows (e : Env) : Bool := e.epi.any fun s => s.bcast == 2

def amFmtOk (t : Ten) (chans : Nat) : Bool := t.fmt == 0xD || (t.fmt == 5 && chans ≤ 128)

def Env.convCode (e : Env) : Option Nat :=
  let b := e.conv
  let md := bitb e.d 400
  let cin := b.x.ext 0
  let cout := match b.w with | some w => w.ext 1 | none => 0
  let ow := b.ow
  let oh := b.oh
  let nib (lo : Nat) : Bool := 7 < e.field (lo + 3) lo
  let strip := ((min b.kw 7 - 1) * b.dx + 1) * b.x.row
  let maps := !(optExt b.c [cout, ow, oh]) || !(optExt b.acc [cout, ow, oh]) || !(optExt b.am [ow, oh])
  let zoBad := match b.zo with | some z => z.ext 1 != ceilDiv ow 32 || z.ext 2 != oh | none => false
  let rfmt := [0, 1, 2, 3, 4, 5, 0xA, 0xD]
  firstCode
    [(e.anySet [(407, 406), (415, 413), (423, 421), (431, 427), (1023, 480)] || nib 432 || nib 436 || nib 440 || nib 444
        || nib 448 || nib 452, 0x0160),
     (if md then !optExt b.am [b.x.ext 1, b.x.ext 2]
      else ow == 0 || oh == 0 || maps || zoBad || e.h.loops.1 != b.ot
        || !optAll b.w (fun w => w.ext 0 == cin && w.ext 2 == b.kw * b.kh * b.kt), 0x0161),
     (31 < b.kw || 31 < b.kh || 7 < b.kt, 0x0162),
     (!md && 32768 < strip, 0x0163),
     (!prodFmt.contains b.x.fmt || !optAll b.w (fun w => prodFmt.contains w.fmt)
        || !optAll b.c (fun c => outFmt.contains c.fmt) || !optAll b.acc (fun c => c.fmt == 0)
        || !optAll b.am (fun t => amFmtOk t (if md then cin else cout))
        || ((b.amx || b.c.isNone) && !rfmt.contains b.rfmt) || !optAll b.c (fun c => c.fmt == b.rfmt), 0x0164),
     (if md then b.w.isSome || b.c.isSome || b.acc.isSome || b.zf.isSome || b.zo.isSome || b.ruTbl.isSome || b.ruPrev.isSome
        || e.field 479 402 != 0
      else (b.c.isNone && b.am.isNone) || b.amx != b.am.isSome, 0x0165),
     (!optExt b.zf [flagBytes cin, ceilDiv (b.x.ext 1) 32, b.x.ext 2] || !optAll b.zf (fun z => b.x.ext 3 ≤ z.ext 3) || !optExt b.zo [flagBytes cout]
        || (e.h.tru && (!e.readOnly 272 3 || b.acc.isSome || b.ruTbl.isNone || b.ruPrev.isNone))
        || !optExt b.ruTbl [2, b.nMB] || !optAll b.ruPrev (fun p => p.sameExt b.x 5 && p.fmt == b.x.fmt), 0x0166),
     (e.epiRows, 0x0169)]

def Env.cropCode (e : Env) : Option Nat :=
  let b := e.crop
  let nb := b.box.ext 1
  firstCode
    [(e.anySet [(339, 339), (383, 356), (1023, 464)] || 1 < e.field 337 336, 0x0160),
     (b.box.fmt != 0 || b.box.ext 0 != 4 || 4096 < nb || b.y.ext 0 != b.x.ext 0 || b.y.ext 3 < nb
        || !optAll b.cnt (fun t => t.fmt == 0xD && t.ext 0 == 1) || !optAll b.bst (fun t => t.fmt == 0xD && t.ext 0 == nb), 0x0167),
     (b.y.ext 1 ≤ b.pl + b.pr || b.y.ext 2 ≤ b.pt + b.pb || b.span == 0 || !finite32 b.extv || !finite32 b.padv, 0x0168),
     (!e.noLoops || e.epiRows, 0x0169)]

/-! ### Attention (08 R226 to R238) -/

/-- Key blocks that tokens `lo` up to `hi` touch (08 R216). -/
def blockSpan (lo hi : Nat) : Nat := if hi ≤ lo then 0 else ceilDiv hi 32 - lo / 32

/-- The sequence of a descriptor table; an entry never defined reads as zeros. -/
def Env.seqAt (e : Env) (s : Nat) : SeqDesc := (e.m.seq e.ctx s).getD SeqDesc.blank

def Env.seqCount (e : Env) : Nat := match mget e.m.ctxs e.ctx with | some x => x.seqN | none => 0

def openEnd : Nat := 0xFFFFFFFFFF

/-- The largest key range of an op in sequence mode, as the sequences stand. -/
def Env.keyEnd (e : Env) (x : AttnBody) : Nat :=
  if x.khi = openEnd then ((List.range e.h.loops.2.1).map fun j => (e.seqAt (x.seq + j)).len).foldl max 0 else x.khi

/-- Scores and probabilities are shaped for the range; a range up to LEN is taken at its least (log 25). -/
def Env.scShaped (e : Env) (x : AttnBody) (t : Ten) : Bool :=
  t.ext 1 == x.q.ext 1 &&
  if !x.seqMode then t.ext 0 == 32 * blockSpan 0 (match x.k with | some k => k.ext 1 | none => 0)
  else if x.khi = openEnd then t.ext 0 % 32 == 0 && 32 * blockSpan x.klo (e.keyEnd x) ≤ t.ext 0
  else t.ext 0 == 32 * blockSpan x.klo x.khi

def Env.attnCode (e : Env) : Option Nat :=
  let x := e.attn
  let strm := e.h.opcode == 0x06
  let lim := if strm then 256 else 512
  let d := x.q.ext 0
  let noO := e.field 319 304 == 0xFFFF
  let dv := match noO, x.v with
    | true, some v => v.ext 0
    | _, _ => x.o.ext 0
  let m := x.q.ext 1
  let keys := match x.k with | some k => k.ext 1 | none => 0
  let fmt4 (f : Nat) : Bool := 1 ≤ f && f ≤ 4
  let f12 (f : Nat) : Bool := prodFmt.contains f
  let range := if x.seqMode then e.keyEnd x - x.klo else keys
  let nMask := if x.seqMode then x.khi - x.klo else keys
  let grads := x.doT.isSome || x.dq.isSome || x.dk.isSome || x.dvT.isSome
  let allGrads := x.doT.isSome && x.dq.isSome && x.dk.isSome && x.dvT.isSome
  let seqs := (List.range e.h.loops.2.1).map fun j => x.seq + j
  let mkBad := match x.mkT with
    | none => false
    | some t => (!(x.seqMode && x.khi == openEnd) && t.ext 0 != ceilDiv nMask 8) || t.ext 1 != (if x.mkSh then 1 else m)
  firstCode
    [(e.anySet [(471, 470), (487, 484), (1023, 768)] || 1 < e.field 465 464 || !fmt4 x.pfmt
        || (x.seqMode && (!f12 x.kFmt || !f12 x.vFmt)), 0x0150),
     ((!x.seqMode && (!optExt x.k [d] || !optAll x.v (fun v => v.ext 1 == keys && v.ext 0 == dv)))
        || (!noO && x.o.ext 1 != m) || !optExt x.st [4, m] || !optAll x.sc (e.scShaped x) || !optAll x.pr (e.scShaped x) || mkBad
        || !optExt x.doT [dv, m] || !optExt x.dq [d, m]
        || (!x.seqMode && (!optExt x.dk [d, keys] || !optExt x.dvT [dv, keys])), 0x0151),
     (lim < d || lim < dv, 0x0152),
     (!f12 x.q.fmt || (!x.seqMode && (!optAll x.k (fun t => f12 t.fmt) || !optAll x.v (fun t => f12 t.fmt)))
        || (!noO && !outFmt.contains x.o.fmt) || !optAll x.dq (fun t => outFmt.contains t.fmt)
        || !optAll x.pr (fun t => outFmt.contains t.fmt) || !optAll x.sc (fun t => t.fmt == 0) || !optAll x.st (fun t => t.fmt == 0)
        || !optAll x.dk (fun t => t.fmt == 0) || !optAll x.dvT (fun t => t.fmt == 0) || !optAll x.mkT (fun t => t.fmt == 5)
        || !optAll x.doT (fun t => f12 t.fmt), 0x0153),
     (!finite32 x.scale || (f32v x.scale).isZero || (if x.bwd then !finite32 x.gscale else x.gscale != 0#32), 0x0154),
     (if x.seqMode then x.k.isSome || x.v.isSome || e.seqCount < x.seq + e.h.loops.2.1 || x.gqa == 0 || 64 < x.gqa
        || x.koff % 64 != 0 || x.voff % 64 != 0 || x.kvhs % 64 != 0 || e.h.loops.2.2 != 1
      else x.seq != 0xFFFF || x.khi != openEnd, 0x0155),
     (x.seqMode && seqs.any fun s => x.slotBad e.h (e.seqAt s), 0x0156),
     (x.seqMode && x.mkT.isSome && x.khi == openEnd, 0x0157),
     (x.bwd && (strm || x.seqMode || x.st.isNone || noO || !allGrads), 0x0158),
     ((!strm && x.sc.isNone) || (strm && (x.sc.isSome || x.pr.isSome || grads)) || (x.bwd && x.pr.isSome), 0x0159),
     (2 ^ (if strm then 32 else 24) < range || (x.seqMode && x.khi ≤ x.klo), 0x015A)]

def Env.chainProductCode (e : Env) : Option Nat :=
  let t (lo : Nat) : Ten := e.ten (e.field (lo + 15) lo)
  let x := t 256
  let a := t 272
  let b := t 288
  let y := t 304
  let st := e.opt (e.field 335 320)
  let fn := e.field 353 352
  let hf := e.field 357 354
  let sc : Word32 := BitVec.ofNat 32 (e.field 415 384)
  let mid := if e.field 351 336 = 0xFFFF then [] else e.chain (e.field 351 336)
  firstCode
    [(e.anySet [(383, 358), (1023, 416)] || 1 < fn || hf == 0 || 4 < hf, 0x0150),
     (x.ext 0 != a.ext 0 || a.ext 1 != b.ext 1 || y.ext 0 != b.ext 0 || y.ext 1 != x.ext 1 || !optExt st [4, x.ext 1], 0x0151),
     (256 < x.ext 0 || 256 < b.ext 0, 0x0152),
     (!prodFmt.contains x.fmt || !prodFmt.contains a.fmt || !prodFmt.contains b.fmt || !outFmt.contains y.fmt
        || !optAll st (fun t => t.fmt == 0), 0x0153),
     (if fn = 0 then sc != 0#32 else !finite32 sc || (f32v sc).isZero, 0x0154),
     (mid.any (fun s => !(s.kind ≤ 0x07 || s.kind == 0x09)) || (fn == 1 && e.field 351 336 != 0xFFFF) || (fn == 0 && st.isSome), 0x015B)]

/-! ### Recurrence (10 R261 to R279) -/

/-- Arrays of a binding (10 R266). -/
def Env.recurCode (e : Env) (img : List Byte) : Option Nat :=
  let r := e.recur
  let b := r.b
  let kin := match r.x, r.win with
    | some x, _ => x.ext 0
    | none, some w => w.ext 0
    | none, none => 0
  let gates := countOf isGate e.epi
  let gBad := e.epi.any fun s => isGate s && (s.kind != 0x20 + b.cell || s.bcast != 3 || !(s.func == 0 || funcOk img s.func))
  firstCode
    [(e.anySet [(383, 379), (391, 390), (399, 398), (1023, 408)] || 4 < b.cell || r.hf == 0 || 0xC < r.hf || !e.noLoops, 0x0170),
     (!optExt r.x [kin, r.s, r.l] || !optExt r.win [kin, b.ncol] || !optExt r.xp [b.ncol, r.s, r.l] || !optExt r.u [b.ns, b.ncol]
        || !optExt r.hin [b.ns, r.s] || !optExt r.h [b.ns, r.s, r.l] || !optExt r.rs [ceilDiv r.s 8, r.l], 0x0171),
     (8 < b.narr || 8 < b.arr0 + b.narr, 0x0172),
     (!optAll r.xp (fun t => t.space == 1 && t.fmt == 0) || !optAll r.u (fun t => t.space == 1) || r.x.isSome != r.win.isSome, 0x0173),
     (gates != 1 || gBad || (e.epi.any fun s => !isGate s && s.bcast != 1 && s.bcast != 3)
        || (e.pro.any fun s => s.bcast != 1 && s.bcast != 3) || (!e.pro.isEmpty && r.x.isNone), 0x0176)]

/-- Bytes of a state image (10 R273). -/
def imageSize (ns n : Nat) (sx : Bool) : Nat := 64 + n * (ceilDiv (ns * (if sx then 8 else 4)) 64 * 64)

def Env.xferCode (e : Env) : Option Nat :=
  let x := e.xfer
  firstCode
    [(e.anySet [(287, 281), (319, 308), (1023, 384)] || 4 < x.b.cell || x.dir == 3 || !e.noLoops, 0x0170),
     (8 < x.b.narr || 8 < x.b.arr0 + x.b.narr || 64 < x.sb + x.n, 0x0172),
     (!optAll x.img (fun t => t.fmt == 5 && t.ext 0 == imageSize x.b.ns x.n x.b.sx) || (x.dir == 2 && x.img.isSome), 0x0177)]

/-! ### Element-wise ops, memory ops (05 R143, R144, 06 R182, R183, 07 R199, R205, R209) -/

def Env.elemwiseCode (e : Env) : Option Nat :=
  let x := e.ten (e.field 271 256)
  let y := e.ten (e.field 287 272)
  firstCode [(e.anySet [(1023, 289)], 0x0701), (bitb e.d 288 && e.epi.isEmpty, 0x0705), (!x.sameExt y 2, 0x070D)]

def Env.normCode (e : Env) : Option Nat :=
  let t (lo : Nat) : Ten := e.ten (e.field (lo + 15) lo)
  let o (lo : Nat) : Option Ten := e.opt (e.field (lo + 15) lo)
  let x := t 256
  firstCode
    [(e.anySet [(351, 338), (1023, 400)] || e.field 337 336 == 3, 0x0701),
     (!e.statShaped x.data (e.field 287 272), 0x0707),
     (!epsOk (BitVec.ofNat 32 (e.field 383 352)), 0x070C),
     (!x.sameExt (t 320) 2 || !optExt (o 288) [x.ext 0] || !optExt (o 304) [x.ext 0]
        || !optExt (o 384) [ceilDiv (x.ext 0) 8, x.ext 1], 0x070D)]

def Env.moveCode (e : Env) : Option Nat :=
  firstCode [(e.anySet [(1023, 288)], 0x0201), (!(e.ten (e.field 271 256)).sameExt (e.ten (e.field 287 272)) 5, 0x0202)]

/-- A rank-1 operand: no dimension beyond those its loops advance has an extent over 1. -/
def Env.rank1 (e : Env) (t : Ten) : Bool :=
  (List.range 4).all fun i => t.ext (i + 1) == 1 || (i < 3 && e.h.loop i != 1)

def Env.gatherCode (e : Env) : Option Nat :=
  let tb := e.ten (e.field 271 256)
  let ix := e.ten (e.field 287 272)
  let ds := e.ten (e.field 303 288)
  firstCode
    [(e.anySet [(1023, 305)], 0x0201), (ds.ext 0 != tb.ext 0 || ds.ext 1 != ix.ext 0, 0x0203),
     (ix.fmt != 0xD || !e.rank1 ix, 0x0204)]

def Env.prefetchCode (e : Env) : Option Nat :=
  firstCode [(e.anySet [(1023, 278)] || e.field 273 272 == 3 || 4 < e.field 276 274, 0x0240)]

def Env.forkCode (e : Env) : Option Nat :=
  let n := e.field 279 272 + 1
  let nb := e.field 283 280
  let br (b : Nat) : Nat := e.field (303 + 16 * b) (288 + 16 * b)
  let used := (List.range nb).map br
  firstCode
    [(e.anySet [(287, 284), (1023, 528)], 0x0240),
     (e.seqCount < e.field 271 256 + n || nb == 0 || (used.any fun s => e.seqCount < s + n)
        || ((List.range 15).any fun b => nb ≤ b && br b != 0), 0x0244),
     (used.eraseDups.length != used.length, 0x024B)]

def Env.sealCode (e : Env) : Option Nat :=
  let n := e.field 279 272 + 1
  let md := e.field 281 280
  let s0 := e.field 271 256
  let src := e.opt (e.field 319 304)
  firstCode
    [(e.anySet [(303, 282), (1023, 320)] || md == 3, 0x0240),
     (e.seqCount < s0 + n, 0x0244),
     (if md = 0 then (match src with
        | none => true
        | some t => t.ext 2 != n || ((List.range n).any fun l => (e.seqAt (s0 + l)).slot != t.row))
      else src.isSome, 0x0245)]

/-! ### Signals, waits, tide (02 R53, R63, R64, 16 R416, R417) -/

def Env.signalCode (e : Env) : Option Nat :=
  let md := e.field 271 270
  firstCode
    [(e.anySet [(287, 272), (1023, 320)] || md == 3, 0x0103),
     (if md = 2 then e.field 269 256 != 0 else 60 ≤ e.field 269 264 || !e.inCtx (e.field 263 256), 0x010D)]

def Env.waitCode (e : Env) : Option Nat := firstCode [(e.anySet [(287, 264), (1023, 320)] || e.field 263 262 == 3, 0x0103)]

def Env.nopCode (e : Env) : Option Nat := firstCode [(e.anySet [(1023, 256)], 0x0103)]

def Env.tideWaitCode (e : Env) : Option Nat :=
  let md := e.field 257 256
  let tick := e.field 383 320
  let late := match e.m.island.tideCfg with
    | none => false
    | some t => 10 ^ 9 * t.den / t.num ≤ e.field 319 288
  firstCode
    [(e.anySet [(287, 258), (1023, 384)] || md == 3 || late || (md == 2 && (tick == 0 || 2 ^ 32 ≤ tick)) || (md == 0 && tick != 0), 0x0508),
     (e.m.island.tideCfg.isNone, 0x0509)]

/-! ### Ferries (11 R286 to R297) -/

/-- The row of a ferry: a multiple of 64 bytes, at most 16,384. -/
def ferryRow (t : Ten) : Bool := t.row % 64 == 0 && t.row ≤ 16384

def Env.sendCode (e : Env) : Option Nat :=
  let t (lo : Nat) : Ten := e.ten (e.field (lo + 15) lo)
  let x := t 256
  let man := t 272
  let ret := t 288
  let cst := t 304
  let md := e.field 321 320
  let snd := md == 0
  let k := man.ext 0 / 2
  firstCode
    [(e.anySet [(335, 332), (1023, 352)] || 1 < md || !e.noLoops
        || (if snd then e.field 331 324 != 0
            else [272, 288, 304].any (fun lo => e.field (lo + 15) lo != 0xFFFF) || e.field 323 322 != 0 || e.field 351 336 != 0), 0x0801),
     (if snd then man.ext 0 % 2 != 0 || k == 0 || 8 < k || man.ext 1 != x.ext 1 || ret.ext 1 != k || ret.ext 2 != x.ext 1
        || cst.ext 0 != k || cst.ext 1 != x.ext 1
      else x.ext 1 != (e.landing (e.field 327 324)).rows, 0x0802),
     (!ferryRow x || (snd && (!ferryRow ret || ret.space != 1 || cst.space != 1 || cst.fmt != 5 || man.fmt != 0xD)), 0x0803)]

def Env.combineCode (e : Env) : Option Nat :=
  let t (lo : Nat) : Ten := e.ten (e.field (lo + 15) lo)
  let ret := t 256
  let man := t 272
  let cst := t 288
  let y := t 320
  let k := man.ext 0 / 2
  firstCode
    [(e.anySet [(1023, 338)] || !e.noLoops, 0x0801),
     (man.ext 0 % 2 != 0 || k == 0 || 8 < k || ret.ext 1 != k || cst.ext 0 != k || ret.ext 2 != man.ext 1 || cst.ext 1 != man.ext 1
        || y.ext 0 != ret.ext 0 || y.ext 1 != man.ext 1 || !optExt (e.opt (e.field 319 304)) [y.ext 0, y.ext 1], 0x0802),
     (!ferryRow ret || ret.space != 1 || cst.space != 1 || cst.fmt != 5 || man.fmt != 0xD, 0x0803)]

/-! ### Every body -/

def Env.bodyCode (e : Env) (img : List Byte) : Option Nat :=
  match e.h.opcode with
  | 0x01 => e.matmulCode
  | 0x02 => e.matvecCode
  | 0x03 => e.convCode
  | 0x04 => e.cropCode
  | 0x05 | 0x06 => e.attnCode
  | 0x07 => e.chainProductCode
  | 0x08 => e.recurCode img
  | 0x09 => e.xferCode
  | 0x0A => e.elemwiseCode
  | 0x0B => e.normCode
  | 0x10 => e.moveCode
  | 0x11 => e.gatherCode
  | 0x12 => e.prefetchCode
  | 0x18 => e.signalCode
  | 0x19 => e.waitCode
  | 0x1A => e.tideWaitCode
  | 0x20 => e.sendCode
  | 0x21 => e.combineCode
  | 0x28 => e.forkCode
  | 0x29 => e.sealCode
  | _ => e.nopCode

/-- One descriptor, in the order of 14 R371 item 2: header, tensor descriptors, overlaps, body, chains (log 25). -/
def Env.descBad (e : Env) (img : List Byte) : Bad :=
  match e.headerBad with
  | some b => some b
  | none =>
    match (slotsOf e.d).findSome? e.slotBad with
    | some b => some b
    | none =>
      let own := e.everyArea (slotsOf e.d)
      if e.clash own own then some (0x010C, e.at 1 0)
      else
        match e.bodyCode img with
        | some c => some (c, e.at 1 0)
        | none =>
          match e.chainNames.findSome? (e.chainBad img) with
          | some b => some b
          | none =>
            let st := e.everyArea (e.allStageFields.map (·.2))
            if e.clash own st || e.clash st own || stageClash st then some (0x010C, e.at 1 0) else none

end Sys2Proof.Machine
end

