-- ==== Sys2Proof/Machine/PlanSpan.lean ====
section
/-! DEFINITION. Plan enable, part 4: streams, landing tables, what spans streams, images, and fixed-timing conditions
(02 R33, R34, R39, R65, 10 R258, R259, 11 R281, R284 to R294, 05 R151, R152, 14 R371, 15 R401 to R406). -/

namespace Sys2Proof.Machine

/-- A plan as it would be enabled, with its images; `decls` holds the declaration block where one can be read. -/
structure PlanReq where
  m : Hw
  ctx : Nat
  plan : Plan
  fset : List Byte
  route : List Byte
  fsetVa : Nat
  routeVa : Nat
  declVa : Nat

/-! ### Streams -/

def PlanReq.env (r : PlanReq) (core thread : Nat) (p : Nat × Nat) : Env :=
  { m := r.m, core := core, ctx := r.ctx, thread := thread, plan := r.plan, d := p.2, h := OpHdr.parse p.2, addr := p.1
    ow := 0, tile := 0, seen := [] }

def PlanReq.stream (r : PlanReq) (c : CoreEntry) (t : Nat) : List Env :=
  let a := lget c.entry t 0
  if a = 0 then [] else (r.m.streamFrom r.ctx 65536 a).map (r.env c.core t)

/-- Cores in ascending identifier. -/
def PlanReq.byCore (r : PlanReq) : List CoreEntry := r.plan.cores.mergeSort fun a b => decide (a.core ≤ b.core)

def PlanReq.ofCore (r : PlanReq) (c : CoreEntry) : List Env := (List.range 4).flatMap (r.stream c)

/-- Every descriptor, in the order of the checks. -/
def PlanReq.all (r : PlanReq) : List Env := r.byCore.flatMap r.ofCore

/-- The static footprint of an op. -/
def Env.footprint (e : Env) : List Area := e.areas (slotsOf e.d ++ e.allStageFields.map (·.2))

/-- Its static footprint as the checks of 02 R70 take it. -/
def Env.checkedFootprint (e : Env) : List Area := e.everyArea (slotsOf e.d ++ e.allStageFields.map (·.2))

/-- OVL 1 over a descriptor that can run immediately before, with a static overlap (02 R39). -/
def ovlBad (es : List Env) (loop : Nat) (e : Env) : Bool :=
  e.h.ovl &&
    let before := (es.filter fun p => p.addr + 128 == e.addr && p.h.flow == 0)
      ++ (if e.addr = loop then es.filter fun p => p.h.flow == 1 else [])
    before.any fun p => e.checkedFootprint.any fun a => p.checkedFootprint.any a.meets

def Env.textBad (e : Env) (img : List Byte) (es : List Env) (loop : Nat) : Bad :=
  if !e.m.mappedRO e.ctx e.addr 128 then some (0x0111, e.at 1 0)
  else if e.m.unreadable e.ctx e.addr 128 then some (0x0008, e.at 1 0)
  else match e.descBad img with
    | some b => some b
    | none => if ovlBad es loop e then some (0x010C, e.at 1 0) else none

/-- One thread: its points, its descriptors, its end. -/
def PlanReq.threadBad (r : PlanReq) (c : CoreEntry) (t : Nat) : Bad :=
  let a := lget c.entry t 0
  let l := if lget c.loop t 0 = 0 then a else lget c.loop t 0
  if a = 0 then none
  else if a % 128 != 0 || l % 128 != 0 then some (0x0111, detailOf c.core t 1 0 0)
  else
    let es := r.stream c t
    match es.findSome? fun e => e.textBad r.fset es l with
    | some b => some b
    | none => match es.getLast? with
      | none => none
      | some e => if e.h.flow = 0 || !es.any (fun x => x.addr == l) then some (0x0111, e.at 1 0) else none

def PlanReq.streamsBad (r : PlanReq) : Bad :=
  let p := r.plan
  let roBad (va n : Nat) : Bool := n != 0 && !r.m.mappedRO r.ctx va n
  match firstBad [(roBad p.tenTbl (32 * p.nten), 0x0111, atParam 16), (roBad p.chainTbl (128 * p.nchain), 0x0111, atParam 32)] with
  | some b => some b
  | none => r.byCore.findSome? fun c => (List.range 4).findSome? (r.threadBad c)

/-! ### Landing tables (11 R284, R285, R294) -/

def Landing.parse (d : Nat) : Landing :=
  { ring := bits d 21 0, tags := bits d 43 22, rowBytes := 64 * (bits d 51 44 + 1), batch := bits d 53 52
    nb := bits d 57 54 + 1, bol := bits d 63 58, thread := bits d 65 64, valid := bitb d 66, cr := bits d 79 72
    flushDl := bits d 127 96 }

/-- Bytes of the buffers and of the tag table. -/
def Landing.areas (l : Landing) : List (Nat × Nat) := [(l.ring, l.nb * l.rows * l.rowBytes), (l.tags, 16 * l.nb * l.rows)]

/-- Landings of a core with their numbers, the valid ones. -/
def CoreEntry.valids (c : CoreEntry) : List (Nat × Landing) :=
  ((List.range c.lands.length).filterMap fun i => (c.lands[i]?).map fun l => (i, l)).filter fun p => p.2.valid

def atLanding (core i : Nat) : Nat := detailOf core 0 5 0 i

/-- The landing table of a core; `raw` holds its entries, and none where it cannot be read (14 R370, R371 item 3). -/
def PlanReq.landingBad (r : PlanReq) (c : CoreEntry) (raw : Option (List Nat)) : Bad :=
  let fixed := r.m.isFixed r.ctx
  match raw with
  | none => some (0x0008, atLanding c.core 0)
  | some raw => (List.range c.lands.length).findSome? fun i =>
    let d := lget raw i 0
    let l := lget c.lands i Landing.none
    let w := atLanding c.core i
    let others := c.valids.filter fun p => p.1 != i
    let earlier := c.valids.filter fun p => p.1 < i
    let bad := bits d 71 67 != 0 || bits d 95 80 != 0 || bits d 255 128 != 0
      || (l.valid && (l.nb == 1 || l.cr == 0 || 60 ≤ l.bol))
    let top := l.areas.any fun a => 2 ^ 22 < a.1 + a.2
    let cross := overlaps l.areas (others.flatMap fun p => p.2.areas) || overlaps (l.areas.take 1) (l.areas.drop 1)
    firstBad [(bad, 0x0801, w),
      (l.valid && (top || l.ring % 64 != 0 || l.tags % 64 != 0 || cross || (fixed && l.flushDl == 0)), 0x0804, w),
      (l.valid && earlier.any (fun p => p.2.bol == l.bol), 0x0805, w),
      (l.valid && earlier.any (fun p => p.2.thread == l.thread && p.2.nb != l.nb), 0x0806, w)]

/-- Where a descriptor signals: core and bollard. -/
def Env.signals (e : Env) : List (Nat × Nat) :=
  (if e.h.postEn then [(e.h.postCore, e.h.postBol)] else [])
    ++ (if e.h.opcode = 0x18 && e.field 271 270 < 2 then [(e.field 263 256, e.field 269 264)] else [])

def Env.isSend (e : Env) : Bool := e.h.opcode == 0x20 && e.field 321 320 == 0
def Env.isReturn (e : Env) : Bool := e.h.opcode == 0x20 && e.field 321 320 == 1

/-- Landings of every plan of the context and of this one, by core. -/
def PlanReq.landTables (r : PlanReq) : List CoreEntry := (r.m.plansOf r.ctx).flatMap (fun p => p.2.cores) ++ r.byCore

/-- Berth threads: no SEND on one, a RETURN only on its landing's own (11 R294, R306). -/
def PlanReq.berthBad (r : PlanReq) : Bad :=
  r.byCore.findSome? fun c => (r.ofCore c).findSome? fun e =>
    let mine := c.valids
    if (e.isSend && mine.any fun p => p.2.thread == e.thread)
      || (e.isReturn && !mine.any fun p => p.1 == e.field 327 324 && p.2.thread == e.thread) then some (0x0806, e.at 1 0)
    else none

/-- Signals of the plans of the context that are enabled already. -/
def PlanReq.standing (r : PlanReq) : List (Nat × Nat) :=
  ((r.m.plansOf r.ctx).flatMap fun p => p.2.cores).flatMap fun c => (r.ofCore c).flatMap Env.signals

/-- A plan signal on a landing's bollard (11 R294): of this plan on any landing of the context, and of an enabled plan on a
landing of this one. -/
def PlanReq.bolBad (r : PlanReq) : Bad :=
  let sig := r.all.flatMap Env.signals ++ r.standing
  r.landTables.findSome? fun c => c.valids.findSome? fun p =>
    if sig.contains (c.core, p.2.bol) then some (0x0805, atLanding c.core p.1) else none

/-! ### What spans streams -/

/-- A binding an op names: array set and geometry, and the presence of U (10 R258). -/
def Env.binding (e : Env) : Option (Binding4 × Bool) :=
  match e.h.opcode with
  | 0x08 => some (e.recur.b, e.recur.u.isSome)
  | 0x09 => some (e.xfer.b, e.hasU e.xfer.b.arr0)
  | _ => none

def bindMeets (a b : Binding4) : Bool := a.arr0 < b.arr0 + b.narr && b.arr0 < a.arr0 + a.narr

def bindSame (a b : Binding4 × Bool) : Bool :=
  a.1.arr0 == b.1.arr0 && a.1.narr == b.1.narr && a.1.cell == b.1.cell && a.1.sx == b.1.sx && a.1.ns == b.1.ns && a.2 == b.2

def PlanReq.bindingBad (r : PlanReq) : Bad :=
  r.byCore.findSome? fun c =>
    let es := r.ofCore c
    let bs := es.filterMap Env.binding
    match es.findSome? fun e => match e.binding with
        | some b => if bs.any fun a => bindMeets a.1 b.1 && !bindSame a b then some (0x0174, e.at 1 0) else none
        | none => none with
    | some b => some b
    | none =>
      if bs.isEmpty then none
      else es.findSome? fun e =>
        if e.h.opcode = 0x01 || e.h.opcode = 0x03 || e.h.opcode = 0x05 then some (0x0175, e.at 1 0) else none

/-- A thread's voyages as its stream runs: open ones with the tensors of their SEND and the pass that opened them. -/
def voyageWalk (pass : Nat) (st : Map (Nat × Nat × Nat × Nat) × Bad) (e : Env) : Map (Nat × Nat × Nat × Nat) × Bad :=
  if st.2.isSome then st
  else if e.isSend then
    let v := e.field 323 322
    if mhas st.1 v then (st.1, some (0x0807, e.at 1 0))
    else (mset st.1 v (pass, e.field 303 288, e.field 287 272, e.field 319 304), none)
  else if e.h.opcode = 0x21 then
    let v := e.field 337 336
    match mget st.1 v with
    | some w =>
      if w.2 = (e.field 271 256, e.field 287 272, e.field 303 288) then (mdel st.1 v, none) else (st.1, some (0x0807, e.at 1 0))
    | none => (st.1, some (0x0807, e.at 1 0))
  else st

def Env.voyageOf (e : Env) : List Nat :=
  if e.isSend then [e.field 323 322] else if e.h.opcode = 0x21 then [e.field 337 336] else []

/-- Voyage pairing (11 R287): the stream once, and its loop once more; a voyage still open from the first pass has no
combine before it would be opened again. -/
def PlanReq.voyageBad (r : PlanReq) (c : CoreEntry) (t : Nat) : Bad :=
  let es := r.stream c t
  let l := if lget c.loop t 0 = 0 then lget c.entry t 0 else lget c.loop t 0
  let loops := match es.getLast? with | some e => e.h.flow == 1 | none => false
  let one := es.foldl (voyageWalk 0) ([], none)
  let two := if loops then (es.dropWhile fun e => e.addr != l).foldl (voyageWalk 1) one else one
  let left := two.1.any fun v => v.2.1 == 0
  let other := (List.range 4).any fun u => u < t && (r.stream c u).any fun e => e.voyageOf.any fun v =>
    es.any fun x => x.voyageOf.contains v
  match two.2, es.find? fun e => !e.voyageOf.isEmpty with
  | some b, _ => some b
  | none, some e => if left || other then some (0x0807, e.at 1 0) else none
  | none, none => none

/-- Bollards of its own core that a descriptor waits on: pre-wait, WAIT, marshalling wait (02 R60, 03 R90). -/
def Env.waits (e : Env) : List Nat :=
  (if e.h.preEn then [e.h.preBol] else []) ++ (if e.h.opcode = 0x19 then [e.field 261 256] else [])
    ++ (if e.h.opcode = 0x01 && bitb e.d 404 then [e.field 413 408] else [])

/-- Waits that no signal of the plan reaches; a landing's bollard counts as reachable (02 R65, 11 R294). -/
def PlanReq.waitBad (r : PlanReq) : Bad :=
  let sig := r.all.flatMap Env.signals
  r.byCore.findSome? fun c => (r.ofCore c).findSome? fun e =>
    if e.waits.any fun b => b < 60 && !sig.contains (c.core, b) && !c.valids.any fun p => p.2.bol == b then
      some (0x010E, e.at 1 0)
    else none

/-- The landing credit rule over the context, this plan's senders counted (11 R291). -/
def PlanReq.creditBad (r : PlanReq) : Bad :=
  let n := r.m.senders r.ctx + (r.byCore.filter fun c => (r.ofCore c).any Env.isSend).length
  r.landTables.findSome? fun c => c.valids.findSome? fun p =>
    if p.2.rows * (p.2.nb - 1) < p.2.cr * n then some (0x0804, atLanding c.core p.1) else none

def PlanReq.spanBad (r : PlanReq) : Bad :=
  match r.bindingBad with
  | some b => some b
  | none => match r.byCore.findSome? fun c => (List.range 4).findSome? (r.voyageBad c) with
    | some b => some b
    | none => match r.waitBad with
      | some b => some b
      | none => r.creditBad

/-! ### Images (05 R151, R152, 11 R281) -/

/-- A micro-word with a reserved OP, MODE or field. -/
def microBad (w : Nat) : Bool :=
  let op := bits w 5 0
  let md := bits w 23 16
  let mode := match op with
    | 0x01 | 0x02 | 0x03 | 0x04 | 0x05 => md ≤ 1
    | 0x06 => md == 0 || md == 2 || md == 4
    | 0x0B => md == 0 || md == 2
    | _ => md == 0
  0x0B < op || bitb w 15 || bits w 31 24 != 0 || !mode

/-- A valid entry of the entry table: its length, its words inside the micro-store, END at its end and nowhere else. -/
def fsetEntryBad (img : List Byte) (i : Nat) : Bool :=
  let e := fsetEntry img i
  let n := bits e 14 8
  let ops := (fsetWords img i).map fun w => bits w 5 0
  fsetValid img i && (n < 2 || 64 < n || 256 < bits e 7 0 + n || ops.getLast? != some 0 || (ops.take (n - 1)).contains 0)

/-- The micro-word or entry that makes a function-set image malformed. -/
def fsetBad (img : List Byte) : Option Nat :=
  match (List.range 256).find? fun j => microBad (imgNat img (0x4000 + 8 * j) 8) with
  | some j => some j
  | none => match (List.range 16).find? (fsetEntryBad img) with
    | some i => some i
    | none => if (img.drop 0x4820).any fun b => b != 0#8 then some 0 else none

def routeWord (img : List Byte) (i : Nat) : Nat := imgNat img (4 * i) 4

/-- A route entry with a reserved bit, or one that places an expert outside the cores or at a landing not configured. -/
def routeBad (img : List Byte) (inCtx : Nat → Bool) (landed : Nat → Nat → Bool) : Option Nat :=
  (List.range 4096).find? fun i =>
    let w := routeWord img i
    bits w 14 12 != 0 || bits w 31 16 != 0 || (bitb w 15 && (!inCtx (bits w 7 0) || !landed (bits w 7 0) (bits w 11 8)))

/-- Landing `l` of core `k` is configured. -/
def landedIn (cs : List CoreEntry) (k l : Nat) : Bool := cs.any fun c => c.core == k && c.valids.any fun p => p.1 == l

/-- An image in context memory: mapped, and every word readable. -/
def Hw.imageOk (m : Hw) (ctx va n : Nat) : Bool := m.mapped ctx va n && !m.unreadable ctx va n

/-- DETAIL of an image that cannot be read: the micro-word, entry or expert that the first such word holds; segments stand in
turn in the first 16 KiB of a function set (05 R151, 11 R281). -/
def Hw.imageAt (m : Hw) (ctx va n : Nat) (route : Bool) : Nat :=
  let off := 64 * ((List.range (n / 64)).find? fun i => !m.imageOk ctx (va + 64 * i) 64).getD 0
  if route then detailOf 0 0 6 0 (off / 4)
  else detailOf 0 0 7 (if off < 0x4000 then off / 0x400 else if off < 0x4800 then (off - 0x4000) / 8 else (off - 0x4800) / 2) 0

def PlanReq.coreIn (r : PlanReq) (k : Nat) : Bool := (r.m.ctxCores r.ctx).contains k && r.m.coreValid k

/-- The initial images; a route target outside the context is a plan's own refusal (11 R306). -/
def PlanReq.imagesBad (r : PlanReq) : Bad :=
  let lost (va size : Nat) (route : Bool) : Bool × Nat × Nat :=
    (va != 0 && !r.m.imageOk r.ctx va size, 0x0008, r.m.imageAt r.ctx va size route)
  match firstBad [lost r.fsetVa 18688 false, ((fsetBad r.fset).isSome, 0x0721, detailOf 0 0 7 ((fsetBad r.fset).getD 0) 0),
      lost r.routeVa 16384 true] with
  | some b => some b
  | none =>
    match (List.range 4096).find? fun i => bitb (routeWord r.route i) 15 && !r.coreIn (bits (routeWord r.route i) 7 0) with
    | some i => some (0x0808, detailOf 0 0 6 0 i)
    | none => (routeBad r.route r.coreIn (landedIn r.landTables)).map fun i => (0x0821, detailOf 0 0 6 0 i)

/-! ### Fixed timing (06 R174, 07 R197, R200, R208, 15 R401, R405, R406) -/

/-- The leaves that hold a static footprint in context memory. -/
def Env.leavesOf (e : Env) (as : List Area) : List Leaf :=
  match mget e.m.ctxs e.ctx with
  | none => []
  | some x => ((as.filter fun a => a.place == 256).flatMap fun a => a.spans.flatMap fun s => x.leavesIn s.1 s.2).eraseDups

/-- A footprint outside moored pages of the core's own quarter's fast tier. -/
def Env.farBad (e : Env) (a : Area) : Bool :=
  a.place == 256 &&
    match mget e.m.ctxs e.ctx with
    | none => true
    | some x => a.spans.any fun s => !x.covers s.1 s.2 || (x.leavesIn s.1 s.2).any fun l =>
        match mget x.pds l.pdi with
        | some p => !(p.moored && p.home == 0 && p.homeQ == e.core / 64)
        | none => true

def Env.fields (e : Env) : List TenField :=
  (slotsOf e.d ++ e.allStageFields.map (·.2)).filter fun s => s.ix < e.plan.nten && s.live

/-- Sequences a descriptor names. -/
def Env.sequences (e : Env) : List Nat :=
  if (e.h.opcode = 0x05 || e.h.opcode = 0x06) && bitb e.d 466 then
    (List.range e.h.loops.2.1).map fun j => e.field 463 448 + j
  else e.seqNames

/-- The pages to lock in a quarter. -/
def PlanReq.toLock (r : PlanReq) (q : Nat) : List Leaf :=
  ((r.all.filter fun e => e.core / 64 == q).flatMap fun e => e.leavesOf e.footprint).eraseDups

/-- Those of them not locked already for the context. -/
def PlanReq.newLocks (r : PlanReq) (q : Nat) : List Leaf :=
  (r.toLock q).filter fun l => !r.m.quarterTlb.any fun e => e.1 == q && e.2.locked && e.2.ctx == r.ctx && e.2.leaf.va == l.va

/-- The declaration block (15 R405). -/
def PlanReq.declHead (r : PlanReq) : List Byte := r.m.peek r.ctx r.declVa 64
def PlanReq.nent (r : PlanReq) : Nat := imgNat r.declHead 4 4

def PlanReq.declRaw (r : PlanReq) : List (List Byte) :=
  (List.range r.nent).map fun i => r.m.peek r.ctx (r.declVa + 64 + 16 * i) 16

def declOf (b : List Byte) : Decl := ⟨imgNat b 0 1, imgNat b 1 1, imgNat b 2 1, imgNat b 4 4, imgNat b 8 8⟩

def PlanReq.fixedOf (r : PlanReq) : Fixed :=
  let h := r.declHead
  { tickNs := imgNat h 8 8, wcetNs := imgNat h 16 8, segNs := imgNat h 24 8, frtMhz := imgNat h 32 2
    decls := r.declRaw.map declOf }

/-- An attention op has its declarations (15 R406). -/
def Env.declared (e : Env) (f : Fixed) : Bool :=
  let has (k : Nat) : Bool := f.decls.any fun d => d.core == e.core && d.thread == e.thread && d.kind == k && d.index == e.index
  match e.h.opcode with
  | 0x05 | 0x06 => has 0 && (!bitb e.d 466 || has 1)
  | 0x07 => has 0
  | _ => true

/-- Every quarter that holds cores of the partition has a valid standby. -/
def Hw.allStandby (m : Hw) (part : Nat) : Bool :=
  match mget m.parts part with
  | none => false
  | some p => (List.range 4).all fun q =>
      !((List.range 8).any fun i => p.clusters.getLsbD (8 * q + i)) || (lget p.standby q none).any m.coreValid

/-- The tick condition of 15 R406. -/
def Hw.tickBad (m : Hw) (part : Nat) (f : Fixed) : Bool :=
  let tick := match m.island.tideCfg with
    | some t => f.tickNs != 10 ^ 9 * t.den / t.num
    | none => true
  tick || m.fuses.clk < f.frtMhz || m.power.clkLimit < f.frtMhz
    || f.tickNs < (if m.allStandby part then f.wcetNs + 40000 + f.segNs else f.wcetNs)

def PlanReq.declBad (r : PlanReq) (part : Nat) : Bad :=
  let w := atParam 56
  if r.declVa = 0 then some (0x0407, w)
  else if !r.m.imageOk r.ctx r.declVa 64 || (65535 < r.nent || !r.m.imageOk r.ctx r.declVa (64 + 16 * r.nent)) then
    some (if r.m.imageOk r.ctx r.declVa 64 && 65535 < r.nent then 0x0401 else 0x0008, w)
  else
    let h := r.declHead
    let f := r.fixedOf
    let reserved := imgNat h 2 2 != 0 || imgNat h 34 30 != 0 || r.declRaw.any fun b => imgNat b 3 1 != 0 || 1 < imgNat b 2 1
    let named (d : Decl) : Bool := r.all.any fun e => e.core == d.core && e.thread == d.thread && e.index == d.index
    match firstBad [(reserved, 0x0401, w), (imgNat h 0 2 != 1 || f.decls.any fun d => !named d, 0x0407, w)] with
    | some b => some b
    | none => match r.all.find? fun e => !e.declared f with
      | some e => some (0x0407, e.at 1 0)
      | none => if r.m.tickBad part f then some (0x0408, w) else none

/-- The fixed-timing conditions in the order of 14 R371 item 6. -/
def PlanReq.fixedBad (r : PlanReq) (part : Nat) : Bad :=
  let es := r.all
  match es.findSome? fun e => (e.fields.find? fun s => e.farBad (e.area s)).map fun s => (0x020A, e.at 2 s.ix) with
  | some b => some b
  | none =>
    if (List.range 4).any fun q => !r.m.lockRoom q r.ctx (r.newLocks q).length then some (0x0246, 0)
    else match es.findSome? fun e => (e.sequences.find? fun s =>
        (e.seqAt s).newT != 0 || (e.seqAt s).newQ != e.core / 64).map fun s => (0x0249, detailOf e.core 0 8 0 s) with
      | some b => some b
      | none => match es.find? fun e => e.h.opcode == 0x12 && (e.field 273 272 == 1 || e.field 273 272 == 2) with
        | some e => some (0x024A, e.at 1 0)
        | none => match es.findSome? fun e => (e.fields.find? fun s =>
            (e.ten s.ix).space == 2 && (e.ten s.ix).remote / 64 != e.core / 64).map fun s => (0x0406, e.at 2 s.ix) with
          | some b => some b
          | none => r.declBad part

/-- Every check from the streams on (14 R371 items 2 to 6); `raw` holds each core's landing entries. -/
def PlanReq.bad (r : PlanReq) (raw : Nat → Option (List Nat)) : Bad :=
  match r.streamsBad with
  | some b => some b
  | none => match r.byCore.findSome? fun c => r.landingBad c (raw c.core) with
    | some b => some b
    | none => match r.bolBad with
      | some b => some b
      | none => match r.berthBad with
        | some b => some b
        | none => match r.spanBad with
          | some b => some b
          | none => match r.imagesBad with
            | some b => some b
            | none => match r.m.fixedPart r.ctx with
              | some p => r.fixedBad p
              | none => none

end Sys2Proof.Machine
end

