-- ==== Sys2Proof/Machine/EsporPlan.lean ====
section
/-! DEFINITION. Espor commands on plans and images (14 R371 to R374, 05 R155, R156, 11 R282). -/

namespace Sys2Proof.Machine

/-! ### The core table (14 R373) -/

/-- A core-table entry as read. -/
def rawEntry (m : Hw) (ctx tbl i : Nat) : List Byte := m.peek ctx (tbl + 128 * i) 128

/-- The landing entries of a core-table entry, as numbers. -/
def rawLands (m : Hw) (ctx : Nat) (b : List Byte) : List Nat :=
  (List.range (imgNat b 1 1)).map fun i => leNat (m.peek ctx (imgNat b 8 8 + 32 * i) 32)

def entryOf (m : Hw) (ctx : Nat) (b : List Byte) : CoreEntry :=
  { core := imgNat b 0 1, entry := (List.range 4).map fun t => imgNat b (16 + 8 * t) 8
    loop := (List.range 4).map fun t => imgNat b (48 + 8 * t) 8, lands := (rawLands m ctx b).map Landing.parse }

/-- The checks of entry `i`; `seen` holds the cores of the entries before it. -/
def Hw.entryBad (m : Hw) (ctx tbl i : Nat) (seen : List Nat) : Bad :=
  let w (k : Nat) : Nat := detailOf k 0 4 0 i
  if !m.imageOk ctx (tbl + 128 * i) 128 then some (0x0008, w 0)
  else
    let b := rawEntry m ctx tbl i
    let k := imgNat b 0 1
    let n := imgNat b 1 1
    let lv := imgNat b 8 8
    let points := (List.range 8).map fun t => imgNat b (16 + 8 * t) 8
    let vas := (lv :: points).any fun v => 2 ^ 57 ≤ v
    firstBad [(imgNat b 2 6 != 0 || imgNat b 80 48 != 0 || vas, 0x0003, w k),
      (16 < n || (n == 0) != (lv == 0), 0x000A, w k),
      (!((m.ctxCores ctx).contains k && m.coreValid k) || seen.contains k, 0x000C, w k),
      ((m.planOn ctx k).isSome, 0x000B, w k)]

def Hw.tableBad (m : Hw) (ctx tbl n : Nat) : Bad :=
  (List.range n).findSome? fun i =>
    m.entryBad ctx tbl i ((List.range i).map fun j => imgNat (rawEntry m ctx tbl j) 0 1)

/-! ### Enabling -/

/-- Applies a change to a context's configuration on one core: in its state there, or in what the slipway saved. -/
def Hw.updBanks (m : Hw) (ctx k : Nat) (f : Core → Core) (g : CoreSave → CoreSave) : Hw :=
  if m.runs k ctx then m.updCore k f
  else { m with saves := mset m.saves (saveKey ctx k) (g (mgetD m.saves (saveKey ctx k) CoreSave.empty)) }

/-- Arrays that the bindings of a core hold. -/
def PlanReq.boundArrays (r : PlanReq) (c : CoreEntry) : List Nat :=
  ((r.ofCore c).filterMap Env.binding).flatMap fun b => (List.range b.1.narr).map fun i => b.1.arr0 + i

def PlanReq.arraysOf (r : PlanReq) (k : Nat) : List Nat :=
  match r.plan.cores.find? fun c => c.core == k with
  | some c => r.boundArrays c
  | none => []

/-- The initial images become active on every core of the context; on the plan's own cores threads idle at slot 0, no
voyage is open, credits are whole, and bound state is +0 (05 R156, 11 R282, R291, 10 R260, 03 R91). -/
def PlanReq.install (r : PlanReq) (m : Hw) (k : Nat) : Hw :=
  let mine := r.plan.cores.any fun c => c.core == k
  let arrs := r.arraysOf k
  let keep (a : Nat × Word32) : Bool := !arrs.contains (a.1 / 2048)
  let idle := List.replicate 4 Thread.idle
  -- a landing of this plan starts with all its credits at every sending core of the context (11 R291)
  let other (p : Nat × Nat) : Bool := r.plan.cores.all fun c => c.core != p.1 / 16
  m.updBanks r.ctx k
    (fun c =>
      let c := { c with fset := { c.fset with active := r.fset }, route := { c.route with active := r.route }
                        credits := c.credits.filter other }
      if mine then { c with threads := idle, lands := [], credits := [], voyages := [], steps := [], recs := 0, ahead := []
                            acc := c.acc.filter keep } else c)
    (fun c =>
      let c := { c with fset := { c.fset with active := r.fset }, route := { c.route with active := r.route }
                        credits := c.credits.filter other }
      if mine then { c with threads := idle, lands := [], credits := [], voyages := [], steps := [], recs := 0, ahead := []
                            acc := c.acc.filter keep } else c)

/-- Locks the translations of a fixed-timing plan (07 R197). -/
def PlanReq.lockAll (r : PlanReq) (m : Hw) : Hw :=
  match mget m.ctxs r.ctx with
  | none => m
  | some x =>
    (List.range 4).foldl (fun (m : Hw) q => (r.toLock q).foldl (fun (m : Hw) l =>
      match mget x.pds l.pdi with
      | some p => m.lockEntry q r.ctx l p
      | none => m) m) m

/-- What firmware reads of context memory for a plan: the core table's landings, the streams, both tables and the images. -/
def PlanReq.reads (r : PlanReq) : List (Nat × Nat) :=
  let some0 (va n : Nat) : List (Nat × Nat) := if va = 0 then [] else [(va, n)]
  (r.all.map fun e => (e.addr, 128)) ++ some0 r.plan.tenTbl (32 * r.plan.nten) ++ some0 r.plan.chainTbl (128 * r.plan.nchain)
    ++ some0 r.fsetVa 18688 ++ some0 r.routeVa 16384 ++ some0 r.declVa 64

/-- The plan stands: a CREATED context is ENABLED, and a partition's context comes onto its cores (15 R386, R399). -/
def PlanReq.enable (r : PlanReq) (m : Hw) (handle : Nat) : Hw :=
  let m := { m with plans := mset m.plans handle r.plan }
  let m := (m.ctxCores r.ctx).foldl r.install m
  let m := if m.isFixed r.ctx then r.lockAll m else m
  let m := m.updCtx r.ctx fun x =>
    { x with st := if x.st = .created then .enabled else x.st
             back := if x.st = .switching && x.back = .created then .enabled else x.back }
  match mget m.ctxs r.ctx with
  | some x => if x.part.isSome && !m.onCores r.ctx then m.switchIn r.ctx else m
  | none => m

/-- Catalogue row of PLAN_ENABLE. -/
def planEnableCmd : CmdSpec := ctxCmd 0x0110 [pva 0, pf 8 2, pva 16, pf 24 4, pf 28 4, pva 32, pva 40, pva 48, pva 56]

/-- PLAN_ENABLE: firmware's choice of the handle is an operand. -/
def Hw.planEnableReply (m : Hw) (handle : Nat) (p : Pair) : Reply :=
  let c := p.ctxNo
  let tbl := p.arg 0 8
  let n := p.arg 8 2
  let ten := p.arg 16 8
  let nten := p.arg 24 4
  let nch := p.arg 28 4
  let ch := p.arg 32 8
  let image (va size : Nat) : List Byte := if va = 0 then [] else m.peek c va size
  judge [(n == 0 || 256 < n, 0x000A, atParam 8), (65535 < nten, 0x000A, atParam 24), (65535 < nch, 0x000A, atParam 28),
      (tbl % 128 != 0, 0x000A, atParam 0), (ten % 32 != 0, 0x000A, atParam 16),
      (ch % 128 != 0 || (ch == 0) != (nch == 0), 0x000A, atParam 32), (16 ≤ (m.plansOf c).length, 0x0007, 0)] fun _ =>
    match m.tableBad c tbl n with
    | some b => .refuse b.1 b.2
    | none =>
      let raws := (List.range n).map (rawEntry m c tbl)
      let plan : Plan := { ctx := c, cores := raws.map (entryOf m c), tenTbl := ten, nten := nten, chainTbl := ch
                           nchain := nch, fixed := none, run := none, disabling := [] }
      let r : PlanReq :=
        { m := m, ctx := c, plan := plan, fset := image (p.arg 40 8) 18688, route := image (p.arg 48 8) 16384
          fsetVa := p.arg 40 8, routeVa := p.arg 48 8, declVa := p.arg 56 8 }
      let lands (k : Nat) : Option (List Nat) := match raws.find? fun b => imgNat b 0 1 == k with
        | some b => if imgNat b 1 1 = 0 || m.imageOk c (imgNat b 8 8) (32 * imgNat b 1 1) then some (rawLands m c b) else none
        | none => some []
      match r.bad lands, chooseKey m.plans handle 65536 with
      | some b, _ => .refuse b.1 b.2
      | none, none => .refuse 0x0007 0
      | none, some h =>
        let r := if m.isFixed c then { r with plan := { plan with fixed := some r.fixedOf } } else r
        .done (r.enable (r.reads.foldl (fun m w => m.ctlRead c w.1 w.2) m) h) (leBytes 2 h)

/-- PLAN_ENABLE, served for a pair. -/
def execPlanEnable (pair : Nat) (run : EnableRun) : State → Host.Outcome State Fault Refusal :=
  onHw fun m => m.serve pair planEnableCmd (m.replyOver run.bad fun m => m.planEnableReply run.handle)

/-- Catalogue row of PLAN_DISABLE. -/
def planDisableCmd : CmdSpec := ctxCmd 0x0111 [pf 0 2, pf 2 1]

/-- PLAN_DISABLE: MODE 1 at once; MODE 0 after the current run, which is its entry's last (14 R372). -/
def Hw.planDisableReply (m : Hw) (pair : Nat) (p : Pair) : Reply :=
  let h := p.arg 0 2
  if 1 < p.arg 2 1 then .refuse 0x0003 (atParam 2)
  else
    match mget m.plans h with
    | none => .refuse 0x0005 (atParam 0)
    | some x =>
      if x.ctx != p.ctxNo then .refuse 0x0005 (atParam 0)
      else if p.arg 2 1 = 1 then .done (m.endPlanNow h) []
      else if x.run.isNone then .defer ((m.dropPlan h).eventDone (some x.ctx) pair p.seq 0x0111 0 0 0)
      else .defer { m with plans := mset m.plans h { x with disabling := x.disabling ++ [(pair, p.seq)] } }

/-- PLAN_DISABLE, served for a pair. -/
def execPlanDisable (pair : Nat) : State → Host.Outcome State Fault Refusal :=
  onHw fun m => m.serve pair planDisableCmd (m.planDisableReply pair)

/-! ### Loads -/

/-- Entries of the function set that a plan's chains name (05 R156). -/
def Hw.planFuncs (m : Hw) (p : Plan) : List Nat :=
  let words := p.cores.flatMap fun c => (c.entry.filter fun a => a != 0).flatMap fun a =>
    (m.streamFrom p.ctx 65536 a).flatMap fun d => chainIxs d.2
  ((words.eraseDups.flatMap fun i => chainStages (leNat (m.peek p.ctx (p.chainTbl + 128 * i) 128))).filter fun s =>
    (s.kind == 0x07 || isGate s) && 0x80 ≤ s.func).map fun s => s.func - 0x80

/-- Banks of a context's core: function sets or route tables. -/
def Hw.banksOf (m : Hw) (ctx k : Nat) (route : Bool) : Banks :=
  if m.runs k ctx then (if route then (m.core k).route else (m.core k).fset)
  else
    let s := mgetD m.saves (saveKey ctx k) CoreSave.empty
    if route then s.route else s.fset

/-- The shadow bank is written; in SYNC mode the hub then adds 1 to the swap bollard (05 R155). -/
def Hw.writeShadow (m : Hw) (ctx k : Nat) (route sync : Bool) (bol id : Nat) (img : List Byte) : Hw :=
  let b := m.banksOf ctx k route
  let b := { b with shadow := some img, sync := sync, bol := bol, load := id, bumped := false, due := false }
  let m := (m.ctlWrite ctx (k / 64) img.length).updBanks ctx k (fun c => if route then { c with route := b } else { c with fset := b })
    (fun c => if route then { c with route := b } else { c with fset := b })
  if sync then m.hubUpdateAs 257 ctx k bol false 1#32 else m

/-- A load of function sets or of route tables: codes, image, and what is wrong with the image. -/
def Hw.load (m : Hw) (pair : Nat) (p : Pair) (route : Bool) (busy late size : Nat) (imgBad : List Byte → Option (Nat × Nat)) : Reply :=
  let c := p.ctxNo
  let md := p.arg 0 1
  let bol := p.arg 1 1
  let cores := p.argCores 16
  let ks := coreList cores
  let ours := m.ctxCores c
  let img := m.peek c (p.arg 8 8) size
  if 1 < md then .refuse 0x0003 (atParam 0)
  else if !m.imageOk c (p.arg 8 8) size then .refuse 0x0008 (m.imageAt c (p.arg 8 8) size route)
  else
    match ks.find? fun k => (m.banksOf c k route).shadow.isSome with
    | some k => .refuse busy (atCore 16 k)
    | none =>
      match imgBad img with
      | some b => .refuse b.1 b.2
      | none =>
        match ks.find? fun k => !(ours.contains k && m.coreValid k) with
        | some k => .refuse late (atCore 16 k)
        | none =>
          if md = 1 && !(60 ≤ bol && bol ≤ 63) then .refuse late (atParam 1)
          else
            let id := m.nextLoad
            let m := ks.foldl (fun (m : Hw) k => m.writeShadow c k route (md == 1) bol id img) ({ m with nextLoad := id + 1 }.ctlRead c (p.arg 8 8) size)
            if ks.isEmpty then
              .defer (m.event (if route then 0x0890 else 0x0780) (some c) [(8, pair), (16, p.seq)])
            else .defer { m with loads := m.loads ++ [⟨id, route, pair, p.seq, c, cores⟩] }

/-- Catalogue row of FSET_LOAD. -/
def fsetLoadCmd : CmdSpec := ctxCmd 0x0112 [pf 0 1, pf 1 1, pva 8, pf 16 32]

/-- FSET_LOAD. -/
def Hw.fsetLoadReply (m : Hw) (pair : Nat) (p : Pair) : Reply :=
  let used := (m.plansOf p.ctxNo).flatMap fun x => m.planFuncs x.2
  m.load pair p false 0x0720 0x0723 18688 fun img =>
    match fsetBad img, used.find? fun i => !fsetValid img i with
    | some j, _ => some (0x0721, detailOf 0 0 7 j 0)
    | none, some i => some (0x0722, detailOf 0 0 7 i 0)
    | none, none => none

/-- FSET_LOAD, served for a pair. -/
def execFsetLoad (run : LoadRun) : State → Host.Outcome State Fault Refusal :=
  onHw fun m => m.serve run.pair fsetLoadCmd (m.replyOver run.bad fun m => m.fsetLoadReply run.pair)

/-- Catalogue row of ROUTE_LOAD. -/
def routeLoadCmd : CmdSpec := ctxCmd 0x0113 [pf 0 1, pf 1 1, pva 8, pf 16 32]

/-- ROUTE_LOAD. -/
def Hw.routeLoadReply (m : Hw) (pair : Nat) (p : Pair) : Reply :=
  let c := p.ctxNo
  let lands := (m.plansOf c).flatMap fun x => x.2.cores
  m.load pair p true 0x0820 0x0822 16384 fun img =>
    (routeBad img (fun k => (m.ctxCores c).contains k && m.coreValid k) (landedIn lands)).map fun i =>
      (0x0821, detailOf 0 0 6 0 i)

/-- ROUTE_LOAD, served for a pair. -/
def execRouteLoad (run : LoadRun) : State → Host.Outcome State Fault Refusal :=
  onHw fun m => m.serve run.pair routeLoadCmd (m.replyOver run.bad fun m => m.routeLoadReply run.pair)

end Sys2Proof.Machine
end

