-- ==== Sys2Proof/Machine/Fetch.lean ====
section
/-! DEFINITION. Run-ahead fetch (02 R35, 07 R198) and page-table walks (02 R38, 07 R195). -/

namespace Sys2Proof.Machine

/-- The descriptors a thread will run, at most `n`, following FLOW. -/
def Hw.aheadList (m : Hw) (ctx loop : Nat) : Nat → Option Nat → List Nat
  | 0, _ => []
  | _ + 1, none => []
  | n + 1, some a => a :: Hw.aheadList m ctx loop n (flowNext (OpHdr.parse (leNat (m.peek ctx a 128))) a loop)

/-- A thread that may fetch: context resident, module ready, clocks running. -/
def Hw.fetchPlan (m : Hw) (core thread : Nat) : Option (Nat × Plan × Thread) :=
  let c := m.core core
  match c.ctx with
  | none => none
  | some x =>
    match mget m.ctxs x, m.planOn x core with
    | some y, some p =>
      let t := c.thread thread
      if m.coreValid core && thread < 4 && y.st == .resident && m.quay.st == .ready && m.clocked && c.broken.isNone
          && t.st == .running then some (x, p.2, t) else none
    | _, _ => none

/-- The first descriptor ahead that is not fetched, and whether the thread has reached it. -/
def Hw.toFetch (m : Hw) (ctx : Nat) (t : Thread) : Option (Nat × Bool) :=
  ((m.aheadList ctx t.loop 8 t.next).find? fun a => !t.staged.contains a && t.bad.all fun b => b.addr != a).map fun a => (a, t.next == some a)

/-- The core TLB's entry for an address. -/
def Core.tlbOf (c : Core) (ctx va : Nat) : Option TlbEntry := tlbHit c.tlb ctx va

/-- Every page of a fetch list is in the core TLB. -/
def Core.fetchHits (c : Core) (ctx : Nat) (l : List (Nat × Nat)) : Bool :=
  l.all fun p => (c.tlbOf ctx p.1).isSome && (c.tlbOf ctx (p.1 + p.2 - 1)).isSome

/-- Run-ahead may read a page: one the reached descriptor uses, or one with PF = 1, NOPF = 0 and RET = 0. -/
def Core.aheadOk (c : Core) (ctx : Nat) (own l : List (Nat × Nat)) : Bool :=
  l.all fun p => match c.tlbOf ctx p.1 with
    | none => false
    | some e => (own.any fun q => e.leaf.va ≤ q.1 && q.1 < e.leaf.va + pageBytes e.leaf.size)
        || (e.leaf.pf && !e.pd.nopf && !e.pd.ret)

/-- The record of a fetch that the thread's own op takes as its fault. -/
def Hw.fetchFault (m : Hw) (code core thread ctx addr va : Nat) : FaultRec :=
  { FaultRec.base m code core thread (OpHdr.parse (leNat (m.peek ctx addr 128))).tag ctx with va := va, fetch := true }

/-- The reads of a fetch list, each with the way it ends. -/
def withEnds (l : List (Nat × Nat)) (ends : List ReadEnd) : List (Nat × Nat × ReadEnd) :=
  (List.zip (List.range l.length) l).map fun p => (p.2.1, p.2.2, ends.getD p.1 (.answered ⟨[]⟩))

/-- A read of a fetch or a walk ended late. -/
def Hw.coreLate (m : Hw) (core : Nat) (l : Loc) : Hw :=
  (m.updCore core fun c => { c with nextReq := c.nextReq + 1 }).lateNote core (m.core core).nextReq l

/-- Reads of a fetch list, decoded and counted at their homes; the response of a late one may still arrive (06 R175). -/
def Hw.fetchReads (m : Hw) (core ctx : Nat) (l : List (Nat × Nat × ReadEnd)) : Hw :=
  l.foldl (fun (m : Hw) p => match m.locOf ctx p.1, p.2.2 with
    | some (_, _, some loc), .answered rb => (m.decoded loc p.2.1 rb).account ctx core loc p.2.1 false m.mem.ram
    | some (_, _, some loc), .late => m.coreLate core loc
    | _, _ => m) m

/-- The first read of a fetch list that ends poisoned: its address, the code and the syndrome (06 R176). -/
def Hw.fetchEnd (m : Hw) (ctx : Nat) (l : List (Nat × Nat × ReadEnd)) : Option (Nat × Nat × Nat) :=
  l.findSome? fun p => match m.locOf ctx p.1, p.2.2 with
    | some (_, _, some _), .late => some (p.1, 0x0281, 0)
    | some (_, _, some loc), .answered rb => (m.readFault loc p.2.1 rb).map fun f => (p.1, f.1, f.2)
    | _, _ => none

/-- DESCRIPTOR_RUN_AHEAD_FETCH: the next descriptor of a thread, with the tensor descriptors and chain entries it names;
the command says how these reads end, in that order. -/
def execDescriptorRunAheadFetch (core : Nat) (run : FetchRun) : State → Host.Outcome State Fault Refusal :=
  onHw fun m =>
    match m.fetchPlan core run.thread with
    | none => m
    | some (x, p, t) =>
      match m.toFetch x t with
      | none => m
      | some (a, reached) =>
        let c := m.core core
        let l := m.fetchList x p a
        let own := match t.next with | some n => m.fetchList x p n | none => []
        if !(c.fetchHits x l) then m
        else if !reached && !(c.aheadOk x own l) then m
        else
          let r := withEnds l run.ends
          let n := (m.fetchReads core x r).updCore core fun c => c.setThread run.thread
            (match m.fetchEnd x r with
             | some f => { t with bad := t.bad ++ [⟨a, f.2.1, f.1, f.2.2⟩] }
             | none => { t with staged := t.staged ++ [a] })
          n.chargeFetch core run.thread

/-! ### Walks -/

/-- Two addresses lie in the page a leaf maps, or in the same 64 KiB where there is none. -/
def samePage (l : Option Leaf) (a b : Nat) : Bool :=
  match l with
  | some l => l.va ≤ a && a < l.va + pageBytes l.size && l.va ≤ b && b < l.va + pageBytes l.size
  | none => a / 65536 == b / 65536

/-- What a thread needs a page's translation for: a request in the reorder window, or the fetch of its reached descriptor. -/
inductive Need3 where
  | request (r : Req)
  | fetch (addr : Nat)

def Hw.walkNeed (m : Hw) (core thread ctx va : Nat) (l : Option Leaf) : Option Need3 :=
  let c := m.core core
  match c.window.find? fun r => r.thread == thread && r.place.isNone && samePage l r.va va with
  | some r => some (.request r)
  | none =>
    match m.fetchPlan core thread with
    | none => none
    | some (x, p, t) =>
      match m.toFetch x t with
      | some (a, true) =>
        if x == ctx && c.ops.all (fun o => o.thread != thread)
            && (m.fetchList x p a).any (fun q => samePage l q.1 va || samePage l (q.1 + q.2 - 1) va) then
          some (.fetch a)
        else none
      | _ => none

/-- The request or the fetch ends with a translation fault. -/
def Hw.walkFault (m : Hw) (code core thread ctx va : Nat) (n : Need3) : Hw :=
  match n with
  | .request r =>
    let rs := (m.core core).served r
    (rs.foldl (fun m q => m.endWith core ctx q (m.reqFault code core ctx q))
      (m.updCore core fun c => c.dropReq r.id)).updCore core Core.fill
  | .fetch a => m.fault core thread (m.fetchFault code core thread ctx a va)

/-- The reads of a walk, each with the way it ends: an entry at each level, then the descriptor (07 R195). -/
def walkEnds (x : Ctx) (va : Nat) (ends : List ReadEnd) : List (Nat × Nat × ReadEnd) :=
  withEnds ((x.walkReads va).map fun p => (ramKey x.tableQ 0 p.1, p.2)) ends

/-- A read of a walk ends poisoned or late. -/
def Hw.walkBad (m : Hw) (l : List (Nat × Nat × ReadEnd)) : Bool :=
  l.any fun p => match p.2.2 with
    | .late => true
    | .answered rb => (m.readFault (.ram p.1) p.2.1 rb).isSome

/-- The responses of a walk's reads are decoded; that of a late one may still arrive. -/
def Hw.walkDecoded (m : Hw) (core : Nat) (l : List (Nat × Nat × ReadEnd)) : Hw :=
  l.foldl (fun (m : Hw) p => match p.2.2 with
    | .late => m.coreLate core (.ram p.1)
    | .answered rb => m.decoded (.ram p.1) p.2.1 rb) m

/-- TLB_WALK: a core TLB miss; a hit in the quarter TLB fills the core TLB, a miss walks the tables; `ends` says how the walk's
reads end, in order. -/
def execTlbWalk (core thread va : Nat) (ends : List ReadEnd) : State → Host.Outcome State Fault Refusal :=
  onHw fun m =>
    let c := m.core core
    match c.ctx with
    | none => m
    | some x =>
      match mget m.ctxs x with
      | none => m
      | some y =>
        if !m.clocked || (c.tlbOf x va).isSome then m
        else
          match m.walkNeed core thread x va (y.leafAt va) with
          | none => m
          | some n =>
            let m := m.countCore core cTLBMISS 1
            match tlbHit ((m.quarterTlb.filter fun (t : Nat × TlbEntry) => t.1 == core / 64).map (·.2)) x va with
            | some e => m.updCore core fun c => { c with tlb := tlbFill coreTlbCap c.tlb { e with locked := false } }
            | none =>
              let m := m.countCore core cWALKS 1
              let l := walkEnds y va ends
              let m := (m.walkDecoded core l).walkTraffic core x va
              if m.walkBad l then m.walkFault 0x02C2 core thread x va n
              else match y.walk va with
                | none => m.walkFault 0x02C0 core thread x va n
                | some (l, p) =>
                  let e : TlbEntry := ⟨x, l, p, false⟩
                  let q := core / 64
                  let mine := (m.quarterTlb.filter fun t => t.1 == q).map (·.2)
                  let m := { m with quarterTlb := (m.quarterTlb.filter fun (t : Nat × TlbEntry) => t.1 != q)
                      ++ (tlbFill quarterTlbCap mine e).map fun z => (q, z) }
                  m.updCore core fun c => { c with tlb := tlbFill coreTlbCap c.tlb e }

end Sys2Proof.Machine
end

