-- ==== Sys2Proof/Machine/Sideband.lean ====
section
/-! DEFINITION. The MCTP and PLDM sideband, which reads the module and changes nothing but its own endpoint identifier
(19 R480 to R483). Type, command and unit numbers are those of the DMTF standards the table names (log 24). -/

namespace Sys2Proof.Machine

/-- The 7-bit SMBus target address (19 R480). -/
def Hw.smbusAddr (m : Hw) : Nat := 0x60 + m.island.addr

/-- The island takes a request, whose answer follows as time passes; one that arrives meanwhile gets ERROR_NOT_READY at once
(19 R481). -/
def Hw.sb (m : Hw) (a : SbAnswer) : Hw :=
  if !m.island.on then m
  else match m.island.asked with
    | none => { m with island := { m.island with asked := some a } }
    | some _ => { m with island := { m.island with answer := some .notReady } }

/-- SET_ENDPOINT_ID: 0 and 255 name no endpoint. -/
def execSetEndpointId (eid : Nat) : State → Host.Outcome State Fault Refusal :=
  onHw fun m =>
    if !m.island.on then m
    else if eid = 0 || 255 ≤ eid then m.sb .invalid
    else if m.island.asked.isSome then m.sb .notReady
    else { m with island := { m.island with eid := eid } }.sb (.endpoint eid)

/-- GET_ENDPOINT_ID. -/
def execGetEndpointId : State → Host.Outcome State Fault Refusal := onHw fun m => m.sb (.endpoint m.island.eid)

/-- GET_MCTP_VERSION_SUPPORT: base 1.3. -/
def execGetMctpVersionSupport : State → Host.Outcome State Fault Refusal := onHw fun m => m.sb (.versions [0x0103])

/-- GET_MESSAGE_TYPE_SUPPORT: PLDM, beside MCTP control. -/
def execGetMessageTypeSupport : State → Host.Outcome State Fault Refusal := onHw fun m => m.sb (.types [1])

/-- GET_TID: no command sets it. -/
def execGetTid : State → Host.Outcome State Fault Refusal := onHw fun m => m.sb (.tid 0)

def pldmTypes : List Nat := [0, 2, 4]

/-- Command numbers of a PLDM type (19 R480). -/
def pldmCommands (type : Nat) : List Nat :=
  match type with
  | 0 => [0x02, 0x03, 0x04, 0x05]
  | 2 => [0x11, 0x21, 0x50, 0x51]
  | 4 => [0x01, 0x02]
  | _ => []

/-- GET_PLDM_VERSION: the table names no version of these standards, so it is a free value (log 4). -/
def execGetPldmVersion (type : Nat) : State → Host.Outcome State Fault Refusal :=
  onHw fun m =>
    if pldmTypes.contains type then
      { m with mem := { m.mem with free := m.mem.free + 1 } }.sb (.versions [(Config.freeWord m.mem.free).toNat])
    else m.sb .invalid

/-- GET_PLDM_TYPES. -/
def execGetPldmTypes : State → Host.Outcome State Fault Refusal := onHw fun m => m.sb (.types pldmTypes)

/-- GET_PLDM_COMMANDS. -/
def execGetPldmCommands (type : Nat) : State → Host.Outcome State Fault Refusal :=
  onHw fun m => m.sb (if pldmTypes.contains type then .commands (pldmCommands type) else .invalid)

/-! ### Sensors (19 R482) -/

/-- The sensors in table order. -/
def sensorIds : List Nat := [1, 2, 3, 4, 5, 6, 7, 8, 9, 10, 20, 21, 22, 23]

/-- Unit, resolution and thresholds in thousandths: kind 0 lower warning, 1 lower critical, 2 upper warning, 3 upper
critical. -/
def Hw.sensorPdr (m : Hw) (s : Nat) : Option SbAnswer :=
  match s with
  | 1 => some (.pdr s 5 10 [(0, 340000), (1, 300000), (2, 425000), (3, 440000)])
  | 2 => some (.pdr s 5 1 [(0, 44000), (1, 40000)])
  | 3 => some (.pdr s 5 100 [(1, 10800)])
  | 4 => some (.pdr s 7 1000 [(2, m.power.pwrLimit * 1000)])
  | 5 | 6 | 7 | 8 => some (.pdr s 2 500 [(2, 105000), (3, 115000)])
  | 9 => some (.pdr s 2 500 [(3, 110000)])
  | 10 => some (.pdr s 2 500 [(2, 45000)])
  | 20 | 21 | 22 | 23 => some (.pdr s 0 0 [])
  | _ => none

/-- A code of QW_THERMAL in half degrees: the code counts them from −20 °C. -/
def halfDegrees (code : Nat) : Int := (code : Int) - 40

/-- A numeric sensor, in the unit and resolution of its PDR: the island sample that the quay field mirrors; 5 to 9 are unavailable while their unit is off. -/
def Hw.sensorReading (m : Hw) (s : Nat) : SbAnswer :=
  let q := m.quay
  match s with
  | 1 => .reading q.v400
  | 2 => .reading q.v48
  | 3 => .reading q.v12
  | 4 => .reading q.pIn
  | 5 | 6 | 7 | 8 => if m.power.quartersUp.getLsbD (s - 5) then .reading (halfDegrees (lget q.tq (s - 5) 0)) else .unavailable
  | 9 => if m.power.hubUp then .reading (halfDegrees q.thub) else .unavailable
  | 10 => .reading (halfDegrees q.tcool)
  | _ => .invalid

/-- A state sensor. -/
def Hw.stateReading (m : Hw) (s : Nat) : SbAnswer :=
  match s with
  | 20 => .reading m.quay.st.code
  | 21 => .reading m.quay.ps.code
  | 22 => .reading (b2n m.quay.warn + 2 * b2n m.quay.throt)
  | 23 => .reading m.island.sync.code
  | _ => .invalid

/-- GET_PDR_REPOSITORY_INFO: one PDR for each sensor. -/
def execGetPdrRepositoryInfo : State → Host.Outcome State Fault Refusal :=
  onHw fun m => m.sb (.repository sensorIds.length)

/-- GET_PDR: handle k, from 1, is the k-th sensor of the table. -/
def execGetPdr (handle : Nat) : State → Host.Outcome State Fault Refusal :=
  onHw fun m => m.sb ((if handle = 0 then none else (sensorIds[handle - 1]?).bind m.sensorPdr).getD .invalid)

/-- GET_SENSOR_READING. -/
def execGetSensorReading (sensor : Nat) : State → Host.Outcome State Fault Refusal :=
  onHw fun m => m.sb (m.sensorReading sensor)

/-- GET_STATE_SENSOR_READINGS. -/
def execGetStateSensorReadings (sensor : Nat) : State → Host.Outcome State Fault Refusal :=
  onHw fun m => m.sb (m.stateReading sensor)

/-! ### FRU data (19 R483) -/

def ascii (s : String) : List Byte := s.toList.map fun c => BitVec.ofNat 8 c.toNat

/-- The part number: its letter is the stepping letter (00 R4). -/
def Fuses.partName (f : Fuses) : List Byte :=
  ascii (if f.part = 0x948#12 then "PT948-" else if f.part = 0x936#12 then "PT936-" else "PT928-")
    ++ [BitVec.ofNat 8 (0x41 + f.stepL)]

/-- GET_FRU_RECORD_TABLE_METADATA: one record. -/
def execGetFruRecordTableMetadata : State → Host.Outcome State Fault Refusal := onHw fun m => m.sb (.fruMeta 1)

/-- GET_FRU_RECORD_TABLE. -/
def execGetFruRecordTable : State → Host.Outcome State Fault Refusal :=
  onHw fun m =>
    let f := m.fuses
    m.sb (.fru (ascii "Cithaelle Systems") f.partName [BitVec.ofNat 8 (f.stepL + 16 * f.stepD)] f.serial f.made f.macs)

/-- UNSUPPORTED_PLDM_COMMAND: ERROR_UNSUPPORTED_PLDM_CMD for every command outside the table (19 R481). -/
def execUnsupportedPldmCommand (type cmd : Nat) : State → Host.Outcome State Fault Refusal :=
  onHw fun m => if (pldmCommands type).contains cmd then m else m.sb .unsupported

end Sys2Proof.Machine
end

