-- ==== Sys2Proof/Machine/Swap.lean ====
section
/-! DEFINITION. Swaps of function-set and route banks (05 R155, 11 R282). -/

namespace Sys2Proof.Machine

/-- Shadow becomes active. -/
def Banks.swap (b : Banks) : Banks :=
  { b with active := b.shadow.getD b.active, shadow := none, bumped := false, due := false }

/-- A core named by load `id` has swapped; the last one posts the load's event. -/
def Hw.swapped (m : Hw) (core id code : Nat) : Hw :=
  match m.loads.find? fun l => l.id == id with
  | none => m
  | some l =>
    let left := l.left &&& ~~~(1#256 <<< core)
    if left = 0#256 then
      { m with loads := m.loads.filter fun x => x.id != id }.event code (some l.ctx) [(8, l.pair), (16, l.seq)]
    else { m with loads := m.loads.map fun x => if x.id == id then { l with left := left } else x }

/-- FUNCTION_SET_SWAP. -/
def execFunctionSetSwap (core : Nat) : State → Host.Outcome State Fault Refusal :=
  onHw fun m =>
    let b := (m.core core).fset
    if m.mayswap core 3 b then (m.updCore core fun c => { c with fset := b.swap }).swapped core b.load 0x0780 else m

/-- ROUTE_TABLE_SWAP. -/
def execRouteTableSwap (core : Nat) : State → Host.Outcome State Fault Refusal :=
  onHw fun m =>
    let b := (m.core core).route
    if m.mayswap core 7 b then (m.updCore core fun c => { c with route := b.swap }).swapped core b.load 0x0890 else m

end Sys2Proof.Machine
end

