-- ==== Sys2Proof/Machine/Dispatch.lean ====
section
/-! DEFINITION. The meaning of each command, one arm per constructor. -/

namespace Sys2Proof.Machine

def exec (i : Instr) (s : State) : Host.Outcome State Fault Refusal :=
  match i with
  | .matmul core thread => Sys2Proof.Machine.execMatmul core thread s
  | .marshallingStage core thread => Sys2Proof.Machine.execMarshallingStage core thread s
  | .marshallingDeadline core thread => Sys2Proof.Machine.execMarshallingDeadline core thread s
  | .matvec core thread => Sys2Proof.Machine.execMatvec core thread s
  | .conv core thread => Sys2Proof.Machine.execConv core thread s
  | .convArgmax core thread => Sys2Proof.Machine.execConvArgmax core thread s
  | .cropresize core thread => Sys2Proof.Machine.execCropresize core thread s
  | .attnMatFwd core thread => Sys2Proof.Machine.execAttnMatFwd core thread s
  | .attnMatBwd core thread => Sys2Proof.Machine.execAttnMatBwd core thread s
  | .attnStream core thread => Sys2Proof.Machine.execAttnStream core thread s
  | .chainProduct core thread => Sys2Proof.Machine.execChainProduct core thread s
  | .recurStep core thread => Sys2Proof.Machine.execRecurStep core thread s
  | .stateXferExport core thread => Sys2Proof.Machine.execStateXferExport core thread s
  | .stateXferImport core thread => Sys2Proof.Machine.execStateXferImport core thread s
  | .stateXferZero core thread => Sys2Proof.Machine.execStateXferZero core thread s
  | .elemwise core thread => Sys2Proof.Machine.execElemwise core thread s
  | .normApply core thread => Sys2Proof.Machine.execNormApply core thread s
  | .move core thread => Sys2Proof.Machine.execMove core thread s
  | .gather core thread => Sys2Proof.Machine.execGather core thread s
  | .prefetch core thread => Sys2Proof.Machine.execPrefetch core thread s
  | .signalAdd core thread => Sys2Proof.Machine.execSignalAdd core thread s
  | .signalSet core thread => Sys2Proof.Machine.execSignalSet core thread s
  | .signalHost core thread => Sys2Proof.Machine.execSignalHost core thread s
  | .wait core thread => Sys2Proof.Machine.execWait core thread s
  | .tideWait core thread => Sys2Proof.Machine.execTideWait core thread s
  | .tideWaitTarget core thread => Sys2Proof.Machine.execTideWaitTarget core thread s
  | .ferrySend core thread => Sys2Proof.Machine.execFerrySend core thread s
  | .ferrySendReturn core thread => Sys2Proof.Machine.execFerrySendReturn core thread s
  | .ferryCombine core thread => Sys2Proof.Machine.execFerryCombine core thread s
  | .forkSeq core thread => Sys2Proof.Machine.execForkSeq core thread s
  | .sealPageAppend core thread => Sys2Proof.Machine.execSealPageAppend core thread s
  | .sealPageSeal core thread => Sys2Proof.Machine.execSealPageSeal core thread s
  | .sealPageRelease core thread => Sys2Proof.Machine.execSealPageRelease core thread s
  | .nop core thread => Sys2Proof.Machine.execNop core thread s
  | .opComplete core thread => Sys2Proof.Machine.execOpComplete core thread s
  | .descriptorRunAheadFetch core run => Sys2Proof.Machine.execDescriptorRunAheadFetch core run s
  | .requestIssue core => Sys2Proof.Machine.execRequestIssue core s
  | .requestComplete core req rb => Sys2Proof.Machine.execRequestComplete core req rb s
  | .lateResponseBound core req => Sys2Proof.Machine.execLateResponseBound core req s
  | .lateArrival core req => Sys2Proof.Machine.execLateArrival core req s
  | .contextFaultStop ctx => Sys2Proof.Machine.execContextFaultStop ctx s
  | .tlbWalk core thread va ends => Sys2Proof.Machine.execTlbWalk core thread va ends s
  | .bollardUpdate core bol => Sys2Proof.Machine.execBollardUpdate core bol s
  | .waitBoundExpiry core thread => Sys2Proof.Machine.execWaitBoundExpiry core thread s
  | .residueMismatch core thread at_ => Sys2Proof.Machine.execResidueMismatch core thread at_ s
  | .holdError core err => Sys2Proof.Machine.execHoldError core err s
  | .coreFaultHandling core => Sys2Proof.Machine.execCoreFaultHandling core s
  | .rollback ctx => Sys2Proof.Machine.execRollback ctx s
  | .standbyRefill part quarter => Sys2Proof.Machine.execStandbyRefill part quarter s
  | .functionSetSwap core => Sys2Proof.Machine.execFunctionSetSwap core s
  | .routeTableSwap core => Sys2Proof.Machine.execRouteTableSwap core s
  | .ferryArrival src dst land => Sys2Proof.Machine.execFerryArrival src dst land s
  | .returnArrival src dst => Sys2Proof.Machine.execReturnArrival src dst s
  | .creditReturn src dst land => Sys2Proof.Machine.execCreditReturn src dst land s
  | .batchEmission core land => Sys2Proof.Machine.execBatchEmission core land s
  | .flushDl core land => Sys2Proof.Machine.execFlushDl core land s
  | .stallNotice core => Sys2Proof.Machine.execStallNotice core s
  | .flitRetry link => Sys2Proof.Machine.execFlitRetry link s
  | .laneReplacement link lane => Sys2Proof.Machine.execLaneReplacement link lane s
  | .linkRetirement link => Sys2Proof.Machine.execLinkRetirement link s
  | .halfLinkRetirement quarter half => Sys2Proof.Machine.execHalfLinkRetirement quarter half s
  | .migrationGranuleMove quarter run => Sys2Proof.Machine.execMigrationGranuleMove quarter run s
  | .migrationStepLate quarter slot => Sys2Proof.Machine.execMigrationStepLate quarter slot s
  | .migrationEnd quarter slot => Sys2Proof.Machine.execMigrationEnd quarter slot s
  | .patrolScrub quarter tier word rb => Sys2Proof.Machine.execPatrolScrub quarter tier word rb s
  | .schedulingDecision => Sys2Proof.Machine.execSchedulingDecision s
  | .quantumExpiry ctx => Sys2Proof.Machine.execQuantumExpiry ctx s
  | .switchOut ctx => Sys2Proof.Machine.execSwitchOut ctx s
  | .switchIn ctx => Sys2Proof.Machine.execSwitchIn ctx s
  | .submitEntryTake queue entry => Sys2Proof.Machine.execSubmitEntryTake queue entry s
  | .runEnd plan => Sys2Proof.Machine.execRunEnd plan s
  | .energyApportionment measured hub => Sys2Proof.Machine.execEnergyApportionment measured hub s
  | .ethernetFrameReceive port frame => Sys2Proof.Machine.execEthernetFrameReceive port frame s
  | .frameDl stream => Sys2Proof.Machine.execFrameDl stream s
  | .senderLockRelease entry => Sys2Proof.Machine.execSenderLockRelease entry s
  | .ptpMessage port msg => Sys2Proof.Machine.execPtpMessage port msg s
  | .announceTimeout => Sys2Proof.Machine.execAnnounceTimeout s
  | .controlProtocolMessage port frame => Sys2Proof.Machine.execControlProtocolMessage port frame s
  | .portLinkStateChange port link => Sys2Proof.Machine.execPortLinkStateChange port link s
  | .tideTick => Sys2Proof.Machine.execTideTick s
  | .intakeEntryFetch job entry => Sys2Proof.Machine.execIntakeEntryFetch job entry s
  | .decodeStart job seq hdr => Sys2Proof.Machine.execDecodeStart job seq hdr s
  | .decodeComplete job seq how => Sys2Proof.Machine.execDecodeComplete job seq how s
  | .tensorizerWrite job run => Sys2Proof.Machine.execTensorizerWrite job run s
  | .batchDl job => Sys2Proof.Machine.execBatchDl job s
  | .releaseWordPoll job => Sys2Proof.Machine.execReleaseWordPoll job s
  | .decoderOccupancySample job busyNs => Sys2Proof.Machine.execDecoderOccupancySample job busyNs s
  | .encodeFrame job seq frame late => Sys2Proof.Machine.execEncodeFrame job seq frame late s
  | .guideDl job seq frame => Sys2Proof.Machine.execGuideDl job seq frame s
  | .snapshotTick => Sys2Proof.Machine.execSnapshotTick s
  | .snapshotPublication => Sys2Proof.Machine.execSnapshotPublication s
  | .fwBeat => Sys2Proof.Machine.execFwBeat s
  | .fwDead => Sys2Proof.Machine.execFwDead s
  | .capstanAdmission => Sys2Proof.Machine.execCapstanAdmission s
  | .wakeBoundExpiry => Sys2Proof.Machine.execWakeBoundExpiry s
  | .powerCapEvaluation watts => Sys2Proof.Machine.execPowerCapEvaluation watts s
  | .powerLimitNotMet => Sys2Proof.Machine.execPowerLimitNotMet s
  | .brownWarning v400 v48 => Sys2Proof.Machine.execBrownWarning v400 v48 s
  | .brownWarningClear v400 below => Sys2Proof.Machine.execBrownWarningClear v400 below s
  | .recoveryTimer => Sys2Proof.Machine.execRecoveryTimer s
  | .inputUndervoltageStop v400 => Sys2Proof.Machine.execInputUndervoltageStop v400 s
  | .orderlyStopComplete => Sys2Proof.Machine.execOrderlyStopComplete s
  | .inputOvervoltageWarning v400 => Sys2Proof.Machine.execInputOvervoltageWarning v400 s
  | .inputOvervoltageClear v400 => Sys2Proof.Machine.execInputOvervoltageClear v400 s
  | .inputOvervoltageStop v400 => Sys2Proof.Machine.execInputOvervoltageStop v400 s
  | .inputPowerLoss => Sys2Proof.Machine.execInputPowerLoss s
  | .bus48Throttle v400 v48 => Sys2Proof.Machine.execBus48Throttle v400 v48 s
  | .bus48Clear v400 v48 => Sys2Proof.Machine.execBus48Clear v400 v48 s
  | .bus48Stop v48 => Sys2Proof.Machine.execBus48Stop v48 s
  | .rail12Stop v12 => Sys2Proof.Machine.execRail12Stop v12 s
  | .conversionUnitLoss group unit => Sys2Proof.Machine.execConversionUnitLoss group unit s
  | .quarterThermalThrottle quarter temp => Sys2Proof.Machine.execQuarterThermalThrottle quarter temp s
  | .thermalLimitStep quarter temp => Sys2Proof.Machine.execThermalLimitStep quarter temp s
  | .thermalRecovery quarter temp => Sys2Proof.Machine.execThermalRecovery quarter temp s
  | .coolantInletLimit temp => Sys2Proof.Machine.execCoolantInletLimit temp s
  | .coolantInletClear temp => Sys2Proof.Machine.execCoolantInletClear temp s
  | .criticalTemperature site temp => Sys2Proof.Machine.execCriticalTemperature site temp s
  | .anchorWake src => Sys2Proof.Machine.execAnchorWake src s
  | .wakeComplete => Sys2Proof.Machine.execWakeComplete s
  | .holdEntryComplete => Sys2Proof.Machine.execHoldEntryComplete s
  | .automaticReset run => Sys2Proof.Machine.execAutomaticReset run s
  | .powerOnReset found => Sys2Proof.Machine.execPowerOnReset found s
  | .trialImageTimeout found => Sys2Proof.Machine.execTrialImageTimeout found s
  | .functionLevelReset => Sys2Proof.Machine.execFunctionLevelReset s
  | .hotReset => Sys2Proof.Machine.execHotReset s
  | .linkDown => Sys2Proof.Machine.execLinkDown s
  | .pcieLinkTraining speed width => Sys2Proof.Machine.execPcieLinkTraining speed width s
  | .bar2Read offset read => Sys2Proof.Machine.execBar2Read offset read s
  | .bar2Write offset bytes poisoned => Sys2Proof.Machine.execBar2Write offset bytes poisoned s
  | .quayRefusedAccess offset len write => Sys2Proof.Machine.execQuayRefusedAccess offset len write s
  | .registerWrite offset bytes => Sys2Proof.Machine.execRegisterWrite offset bytes s
  | .qwCauseWrite value => Sys2Proof.Machine.execQwCauseWrite value s
  | .qwCauseEnWrite value => Sys2Proof.Machine.execQwCauseEnWrite value s
  | .qwHosterrRead => Sys2Proof.Machine.execQwHosterrRead s
  | .intakeTailWrite ring value => Sys2Proof.Machine.execIntakeTailWrite ring value s
  | .submitTailWrite queue value => Sys2Proof.Machine.execSubmitTailWrite queue value s
  | .eventHeadWrite ctx value => Sys2Proof.Machine.execEventHeadWrite ctx value s
  | .bollardDoorbellAdd core value => Sys2Proof.Machine.execBollardDoorbellAdd core value s
  | .bollardDoorbellSet core value => Sys2Proof.Machine.execBollardDoorbellSet core value s
  | .qwResetWarm value found => Sys2Proof.Machine.execQwResetWarm value found s
  | .qwResetCold value found => Sys2Proof.Machine.execQwResetCold value found s
  | .msixVectorUnmask vec => Sys2Proof.Machine.execMsixVectorUnmask vec s
  | .msixHoldoffExpiry vec => Sys2Proof.Machine.execMsixHoldoffExpiry vec s
  | .ctxCreate pair num tableQ => Sys2Proof.Machine.execCtxCreate pair num tableQ s
  | .ctxDestroy pair => Sys2Proof.Machine.execCtxDestroy pair s
  | .ctxSet pair => Sys2Proof.Machine.execCtxSet pair s
  | .ctxFaults pair => Sys2Proof.Machine.execCtxFaults pair s
  | .planEnable pair run => Sys2Proof.Machine.execPlanEnable pair run s
  | .planDisable pair => Sys2Proof.Machine.execPlanDisable pair s
  | .fsetLoad run => Sys2Proof.Machine.execFsetLoad run s
  | .routeLoad run => Sys2Proof.Machine.execRouteLoad run s
  | .subqCreate run queue => Sys2Proof.Machine.execSubqCreate run queue s
  | .subqDestroy pair => Sys2Proof.Machine.execSubqDestroy pair s
  | .map pair frame => Sys2Proof.Machine.execMap pair frame s
  | .unmap pair => Sys2Proof.Machine.execUnmap pair s
  | .mapAttr pair => Sys2Proof.Machine.execMapAttr pair s
  | .migrate pair => Sys2Proof.Machine.execMigrate pair s
  | .retireFrame pair => Sys2Proof.Machine.execRetireFrame pair s
  | .retireUnit pair => Sys2Proof.Machine.execRetireUnit pair s
  | .scrubCfg pair => Sys2Proof.Machine.execScrubCfg pair s
  | .aperture pair => Sys2Proof.Machine.execAperture pair s
  | .seqTable pair => Sys2Proof.Machine.execSeqTable pair s
  | .seqDefine pair => Sys2Proof.Machine.execSeqDefine pair s
  | .seqRelease pair => Sys2Proof.Machine.execSeqRelease pair s
  | .portCfg pair => Sys2Proof.Machine.execPortCfg pair s
  | .flowWrite pair => Sys2Proof.Machine.execFlowWrite pair s
  | .streamEnable pair => Sys2Proof.Machine.execStreamEnable pair s
  | .streamDisable pair => Sys2Proof.Machine.execStreamDisable pair s
  | .quarClear pair => Sys2Proof.Machine.execQuarClear pair s
  | .jobEnable pair job block => Sys2Proof.Machine.execJobEnable pair job block s
  | .jobDisable pair => Sys2Proof.Machine.execJobDisable pair s
  | .quarList pair => Sys2Proof.Machine.execQuarList pair s
  | .partCreate pair => Sys2Proof.Machine.execPartCreate pair s
  | .partDestroy pair => Sys2Proof.Machine.execPartDestroy pair s
  | .pstate pair => Sys2Proof.Machine.execPstate pair s
  | .powerLimit pair => Sys2Proof.Machine.execPowerLimit pair s
  | .tideCfg pair => Sys2Proof.Machine.execTideCfg pair s
  | .capstanCfg pair => Sys2Proof.Machine.execCapstanCfg pair s
  | .healthRead pair => Sys2Proof.Machine.execHealthRead pair s
  | .fwStage pair block => Sys2Proof.Machine.execFwStage pair block s
  | .topoAccept pair => Sys2Proof.Machine.execTopoAccept pair s
  | .healthClear pair => Sys2Proof.Machine.execHealthClear pair s
  | .errlogRead pair => Sys2Proof.Machine.execErrlogRead pair s
  | .evringCreate run => Sys2Proof.Machine.execEvringCreate run s
  | .evringDestroy pair => Sys2Proof.Machine.execEvringDestroy pair s
  | .intrBind pair => Sys2Proof.Machine.execIntrBind pair s
  | .snapArm pair => Sys2Proof.Machine.execSnapArm pair s
  | .snapCancel pair => Sys2Proof.Machine.execSnapCancel pair s
  | .echo pair => Sys2Proof.Machine.execEcho pair s
  | .info pair => Sys2Proof.Machine.execInfo pair s
  | .setEndpointId eid => Sys2Proof.Machine.execSetEndpointId eid s
  | .getEndpointId => Sys2Proof.Machine.execGetEndpointId s
  | .getMctpVersionSupport => Sys2Proof.Machine.execGetMctpVersionSupport s
  | .getMessageTypeSupport => Sys2Proof.Machine.execGetMessageTypeSupport s
  | .getTid => Sys2Proof.Machine.execGetTid s
  | .getPldmVersion type => Sys2Proof.Machine.execGetPldmVersion type s
  | .getPldmTypes => Sys2Proof.Machine.execGetPldmTypes s
  | .getPldmCommands type => Sys2Proof.Machine.execGetPldmCommands type s
  | .getPdrRepositoryInfo => Sys2Proof.Machine.execGetPdrRepositoryInfo s
  | .getPdr handle => Sys2Proof.Machine.execGetPdr handle s
  | .getSensorReading sensor => Sys2Proof.Machine.execGetSensorReading sensor s
  | .getStateSensorReadings sensor => Sys2Proof.Machine.execGetStateSensorReadings sensor s
  | .getFruRecordTableMetadata => Sys2Proof.Machine.execGetFruRecordTableMetadata s
  | .getFruRecordTable => Sys2Proof.Machine.execGetFruRecordTable s
  | .mailboxDoorbell pair value => Sys2Proof.Machine.execMailboxDoorbell pair value s
  | .bar2Resize log2 => Sys2Proof.Machine.execBar2Resize log2 s
  | .unsupportedPldmCommand type cmd => Sys2Proof.Machine.execUnsupportedPldmCommand type cmd s

end Sys2Proof.Machine
end

