-- ==== Sys2Proof/Machine/Step.lean ====
section
/-! DEFINITION. The step: the front command of the queue runs on the module with the queue's rest; on an empty queue one
nanosecond passes (log 1). -/

namespace Sys2Proof.Machine

def step (s : State) : Host.Outcome State Fault Refusal :=
  match s.pending with
  | [] => .next { s with m := passTime s.m }
  | c :: rest => exec c { s with pending := rest }

/-- `s` with the command a word spells put at the front of its queue. -/
def State.withFetchWord (s : State) (nbits w : Nat) : State :=
  match decodeTableWord nbits w with
  | none => s
  | some c => { s with pending := c :: s.pending }

end Sys2Proof.Machine
end

