-- ==== Sys2Proof/Safety.lean ====
section
/-! DEFINITION. What counts as a safe run, in the terms the statements use: canonical memories and registers whose
reserved bits stay 0. -/

namespace Sys2Proof

open Machine

/-- Every memory of the module is in its canonical form. -/
def memoriesWf (m : Hw) : Bool :=
  m.mem.ram.wf && (m.cores.all fun c => c.2.hold.wf) && (m.saves.all fun c => c.2.hold.wf)
    && (m.espor.pairs.all fun p => p.2.req.wf && p.2.resp.wf)

/-- QW_CAUSE and QW_CAUSE_EN hold 0 in their reserved bits (13 R356). -/
def causesWf (m : Hw) : Bool := m.quay.cause &&& 0xFFFFFFFFFFFFFF80#64 == 0#64 && m.quay.causeEn &&& 0xFFFFFFFFFFFFFF80#64 == 0#64

/-- What every step keeps: canonical memories, and 0 in the reserved bits of QW_CAUSE and QW_CAUSE_EN. -/
def Sound (m : Hw) : Prop := causesWf m = true ∧ memoriesWf m = true

/-- A step from `s` neither faults nor is refused. -/
def Safe (s : State) : Prop := ∃ t, step s = .next t

/-- The command completes: it answers a next state with the queue as it was and a module that satisfies `P`. -/
def After (i : Instr) (s : State) (P : Hw → Prop) : Prop := ∃ m, exec i s = .next { s with m := m } ∧ P m

/-- The command completes: it answers a next state with the queue as it was and module `m`. -/
def Leaves (i : Instr) (s : State) (m : Hw) : Prop := exec i s = .next { s with m := m }

/-- The command completes and changes nothing. -/
def Idles (i : Instr) (s : State) : Prop := exec i s = .next s

/-- A host access to an address that does not exist: beyond the 4 MiB of BAR0 (and, in the offsets of REGISTER_WRITE, beyond
BAR4 and configuration space, which log 56 lets follow it), or beyond the size of BAR2. -/
def beyond (i : Instr) (m : Hw) : Bool :=
  match i with
  | .registerWrite off _ => decide (0x411000 ≤ off)
  | .quayRefusedAccess off _ _ => decide (0x400000 ≤ off)
  | .bar2Read off r => decide (2 ^ m.host.bar2 < off + r.len)
  | .bar2Write off bs _ => decide (2 ^ m.host.bar2 < off + bs.length)
  | _ => false

/-- Op `e` has started with effect `b`, waiting for `w`, its record finished by `f`: the thread moves on, the op stands in
progress, and an op without loads whose values give a fault takes it. -/
def started (m : Hw) (e : Env) (b : Body) (w : Cond) (f : OpRec → OpRec) : Hw :=
  ((e.noted m).updCore e.core fun c => c.begin e m.now (m.cyc e.core) b w f).settle e.core (m.core e.core).nextOp

/-- `started` for an op that waits for nothing but its requests and its cycle count. -/
def startedOp (m : Hw) (e : Env) (b : Body) : Hw := started m e b .done fun o => o

/-- What the start of an op leaves as it was, memory aside: the queue, everything outside the cores and the contexts, every other
core, all of every context but the faults detected for it, and of the op's core the hold, accumulators, TLB, credits, voyages,
landings and step records, and every bollard but the one of a take-mode pre-wait, which falls by PRE_VAL (02 R31, R36, R45). -/
def StartFrame (s t : State) (core thread : Nat) : Prop :=
  t.pending = s.pending ∧ { t.m with cores := s.m.cores, ctxs := s.m.ctxs, mem := s.m.mem } = s.m ∧
  (∀ k, k ≠ core → t.m.core k = s.m.core k) ∧
  (∀ c, (mget t.m.ctxs c).map (fun x => { x with detected := [] }) = (mget s.m.ctxs c).map fun x => { x with detected := [] }) ∧
  (t.m.core core).hold = (s.m.core core).hold ∧ (t.m.core core).acc = (s.m.core core).acc ∧
  (t.m.core core).tlb = (s.m.core core).tlb ∧ (t.m.core core).credits = (s.m.core core).credits ∧
  (t.m.core core).voyages = (s.m.core core).voyages ∧ (t.m.core core).lands = (s.m.core core).lands ∧
  (t.m.core core).steps = (s.m.core core).steps ∧
  (∀ e, s.m.startable core thread = some e → t.m ≠ s.m → ∀ b, (t.m.core core).bol b =
    if e.h.preEn ∧ e.h.preTake ∧ b = e.h.preBol then (s.m.core core).bol b - e.h.preVal else (s.m.core core).bol b)

/-- Firmware may serve pair `n` with the command of row `c`, and the checks of its header find nothing. -/
def Taken (s : State) (n : Nat) (c : CmdSpec) : Prop :=
  s.m.maybeServed n c.code = true ∧ s.m.headCheck (s.m.espor.pair n) c = none

/-- Command `i` serves pair `n` as row `c` of the catalogue says: the first header check that fails refuses; then the command's
own checks and effect `f` answer, and a refusal changes nothing but the answer. Where firmware may not serve the pair, nothing
changes. -/
def Serves (i : Instr) (s : State) (n : Nat) (c : CmdSpec) (f : Pair → Reply) : Prop :=
  (s.m.maybeServed n c.code = false → Idles i s) ∧
  (∀ e, s.m.maybeServed n c.code = true → s.m.headCheck (s.m.espor.pair n) c = some e →
    Leaves i s (s.m.answer n false e.1 e.2 [])) ∧
  (Taken s n c →
    (∀ code d, f (s.m.espor.pair n) = .refuse code d → Leaves i s (s.m.answer n false code d [])) ∧
    (∀ m out, f (s.m.espor.pair n) = .done m out → Leaves i s (m.answer n false 0 0 out)) ∧
    (∀ m, f (s.m.espor.pair n) = .defer m → Leaves i s (m.answer n true 0 0 [])))

/-- The always-on island takes a sideband request while it has power and will answer it with `a`; one that arrives while
another is unanswered gets ERROR_NOT_READY. Nothing else changes. -/
def Tells (i : Instr) (s : State) (a : SbAnswer) : Prop :=
  (s.m.island.on = false → Idles i s) ∧
  (s.m.island.on = true → s.m.island.asked = none →
    Leaves i s { s.m with island := { s.m.island with asked := some a } }) ∧
  (s.m.island.on = true → s.m.island.asked.isSome = true →
    Leaves i s { s.m with island := { s.m.island with answer := some .notReady } })

end Sys2Proof
end

