-- ==== Sys2Proof/Certificates/Slice0/Obligations.lean ====
section
/-! DEFINITION. The statements about the model: one definition each, its docstring saying in words what it states and which
rule it formalises or rests on. -/

open Sys2Proof Sys2Proof.Machine

/-- For every command c, queue rest and state s: a step of s with c in front of its queue is exec of c on s with the
queue's rest. (00_scope.md (the commands of the block); model: NOTES.md, Scope) -/
def Obligations.StepRunsFrontCommand : Prop :=
  ∀ (c : Instr) (rest : List Instr) (s : State), step { s with pending := c :: rest } = exec c { s with pending := rest }

/-- With no command waiting a step answers a next state. Without power on the always-on island nothing changes; with it,
with no reset coming up, no rate correction and no gathered part of a nanosecond, tide time is one nanosecond later,
the sideband request that the island holds, if any, is answered, and memory, contexts' mappings, plans, holds and
registers of the quay window are as they were. That an empty queue lets time pass is the model's choice (log 1), as is
that the next such step answers (log 24). (16_tide_and_power.md (R410, R412); 19_electrical_and_mechanical.md (R481);
log 1 (DESIGN CHOICE: the tick of an empty queue); log 24 (when a held request is answered)) -/
def Obligations.IdleStepLetsTimePass : Prop :=
  ∀ (s : State), s.pending = [] →
    (s.m.island.on = false → step s = .next s) ∧
    (s.m.island.on = true → s.m.coming = none → s.m.island.rate = 0 → s.m.island.frac = 0 →
      ∃ t, step s = .next t ∧ t.pending = [] ∧
        (s.m.island.asked = none → t.m.island = { s.m.island with tide := s.m.island.tide + 1 }) ∧
        (∀ a, s.m.island.asked = some a →
          t.m.island = { s.m.island with tide := s.m.island.tide + 1, asked := none, answer := some a }) ∧
        t.m.mem.ram = s.m.mem.ram ∧ t.m.mem.marks = s.m.mem.marks ∧ t.m.quay = s.m.quay ∧ t.m.plans = s.m.plans ∧
        (∀ k, t.m.core k = s.m.core k) ∧ (∀ c, (mget t.m.ctxs c).map Ctx.leaves = (mget s.m.ctxs c).map Ctx.leaves))

/-- For every command and state: an access beyond the 4 MiB of BAR0, where the offsets of REGISTER_WRITE go on with BAR4
and configuration space up to 0x411000 (log 56), or beyond the size of BAR2 faults with noSuchAddress; every other
command answers a next state in which the queue of waiting commands is as it was. No command is refused.
(13_host_link_and_quay.md (R344, R346, R361); model: the queue of waiting commands (log 1); log 56 (offsets of BAR4
and configuration space)) -/
def Obligations.StopsOnlyBeyondTheBars : Prop :=
  ∀ (i : Instr) (s : State),
    (beyond i s.m = true → exec i s = .fault .noSuchAddress) ∧
    (beyond i s.m = false → ∃ m, exec i s = .next { s with m := m })

/-- At reset release: QW_STATUS.STATE and REASON are 0, QW_CAUSE is 0 and QW_CAUSE_EN 0x7F, QW_HOSTERR is 0, QW_TIDE_STAT
is 0 (the counter is FREE and no tick rate is set), every mailbox pair is IDLE, every bollard is 0, no snapshot is
published (EPOCH_B = EPOCH_E = 0), the scrub defaults are 24 hours and 64, and the command queue is empty.
(13_host_link_and_quay.md (R354, R356); 14_espor_mailboxes.md (R364); 16_tide_and_power.md (R411);
18_telemetry_and_faults.md (R457); 06_memory_tiers.md (R167); 02_core_and_descriptors.md (R67); log 29
(QW_TIDE_STAT.TICK without a tick rate)) -/
def Obligations.ResetRegisters : Prop :=
  State.reset.pending = [] ∧ State.reset.m.quay.st = .reset ∧ State.reset.m.quay.reason = 0#16 ∧
  State.reset.m.quay.cause = 0#64 ∧ State.reset.m.quay.causeEn = 0x7F#64 ∧ qwHosterr State.reset.m.quay = 0 ∧
  quayWord State.reset.m 0x1010 = 0 ∧
  (∀ n, (State.reset.m.espor.pair n).st = .idle) ∧ (∀ k b, (State.reset.m.core k).bol b = 0#32) ∧
  State.reset.m.snap.epochB = 0 ∧ State.reset.m.snap.epochE = 0 ∧
  State.reset.m.mem.scrubHours = 24 ∧ State.reset.m.mem.scrubThresh = 64

/-- At reset every memory is in its canonical form and the reserved bits of QW_CAUSE and QW_CAUSE_EN read 0.
(13_host_link_and_quay.md (R356: reserved bits); 02_core_and_descriptors.md (R31); log 3 and NOTES.md (canonical
memories)) -/
def Obligations.ResetIsSound : Prop :=
  Sound State.reset.m

/-- From every state whose memories (module memory, every hold on a core or saved by the slipway, the request and response
areas of every mailbox pair) are in canonical form and whose QW_CAUSE and QW_CAUSE_EN hold 0 in bits 7 to 63, a step
that answers a next state leaves both so, whichever of the commands is in front of the queue, or none.
(13_host_link_and_quay.md (R356: reserved bits of QW_CAUSE and QW_CAUSE_EN); 02_core_and_descriptors.md (R31);
06_memory_tiers.md (R172); 14_espor_mailboxes.md (R364)) -/
def Obligations.StepKeepsSound : Prop :=
  ∀ (s t : State), Sound s.m → step s = .next t → Sound t.m

/-- In a module memory in canonical form, after a store of bytes bs at key k: the stored bytes read back; every byte
outside them reads as before; host memory is as before; a poison mark of a unit (a 64-byte word, in the slow tier a 2
KiB granule) that the store covers whole is gone when the store lies within one granule, and every other mark stays as
it was. (06_memory_tiers.md (R177: stores, marks); 01_architecture.md (R19)) -/
def Obligations.StoredBytesReadBack : Prop :=
  ∀ (s : MemSys) (k : Nat) (bs : List Byte), s.ram.wf = true →
    rdN (s.store k bs).ram k bs.length = bs ∧
    (∀ a, a < k ∨ k + bs.length ≤ a → rd (s.store k bs).ram a = rd s.ram a) ∧
    (s.store k bs).host = s.host ∧ (s.store k bs).ram.wf = true ∧
    (∀ w, w ∈ (s.store k bs).marks ↔ w ∈ s.marks ∧ ¬ (w ∈ marksIn k bs.length ∧ k ≤ w ∧ w + markSize k ≤ k + bs.length))

/-- Poisoning [k, k + n) marks every unit it touches, keeps the marks there were, adds no other, changes no byte, and a
read of it then meets a mark when n is not 0. (06_memory_tiers.md (R177); 12_ingest_and_media.md (R330)) -/
def Obligations.PoisonMarksTouchedUnits : Prop :=
  ∀ (s : MemSys) (k n : Nat),
    (s.poison k n).ram = s.ram ∧ (s.poison k n).host = s.host ∧
    (∀ w, w ∈ (s.poison k n).marks ↔ w ∈ s.marks ∨ w ∈ marksIn k n) ∧
    (0 < n → (s.poison k n).poisoned k n = true)

/-- When every start condition of the op a thread has reached holds, and its opcode and mode are those of the command, the
command starts it: the op stands in progress with the loads, stores and counts that its body computes from the
operands, and its thread moves on. Covers MATMUL, MATVEC, CONV, its ARGMAX mode, CROPRESIZE, ATTN_MAT forward and
backward, ATTN_STREAM, CHAIN_PRODUCT, RECUR_STEP and STATE_XFER EXPORT, IMPORT and ZERO. That values are formed at the
start is the model's choice (log 15). Under these conditions each of these commands is stated to complete, exec
answering a next state: MATMUL, MATVEC, CONV, CONV_ARGMAX, CROPRESIZE, ATTN_MAT_FWD, ATTN_MAT_BWD, ATTN_STREAM,
CHAIN_PRODUCT, RECUR_STEP, STATE_XFER_EXPORT, STATE_XFER_IMPORT, STATE_XFER_ZERO. (02_core_and_descriptors.md (R33,
R36, R52); 03_matrix_arrays.md (R71, R87); 09_window_engine.md (R241, R248, R251); 08_attention_and_kv.md (R213, R228,
R230, R232); 10_recurrent_streams.md (R267, R272); log 15 (operands are read when an op starts)) -/
def Obligations.ProductOpsStart : Prop :=
  ∀ (s : State) (core thread : Nat) (e : Env), s.m.startable core thread = some e →
    (e.h.opcode = 0x01 ∧ bitb e.d 404 = false → Leaves (.matmul core thread) s
      (startedOp s.m e e.matmulBody)) ∧
    (e.h.opcode = 0x02 → Leaves (.matvec core thread) s
      (startedOp s.m e e.matvecBody)) ∧
    (e.h.opcode = 0x03 ∧ bitb e.d 400 = false → Leaves (.conv core thread) s
      (startedOp s.m e e.convBody)) ∧
    (e.h.opcode = 0x03 ∧ bitb e.d 400 = true → Leaves (.convArgmax core thread) s
      (startedOp s.m e e.argmaxBody)) ∧
    (e.h.opcode = 0x04 → Leaves (.cropresize core thread) s
      (startedOp s.m e e.cropBody)) ∧
    (e.h.opcode = 0x05 ∧ e.field 465 464 = 0 → Leaves (.attnMatFwd core thread) s
      (startedOp s.m e (e.attnFwdBody false))) ∧
    (e.h.opcode = 0x05 ∧ e.field 465 464 = 1 → Leaves (.attnMatBwd core thread) s
      (startedOp s.m e e.attnBwdBody)) ∧
    (e.h.opcode = 0x06 → Leaves (.attnStream core thread) s
      (startedOp s.m e (e.attnFwdBody true))) ∧
    (e.h.opcode = 0x07 → Leaves (.chainProduct core thread) s
      (startedOp s.m e e.chainBody)) ∧
    (e.h.opcode = 0x08 → Leaves (.recurStep core thread) s
      (startedOp s.m e e.recurBody)) ∧
    (e.h.opcode = 0x09 ∧ e.field 280 279 = 0 → Leaves (.stateXferExport core thread) s
      (startedOp s.m e e.exportBody)) ∧
    (e.h.opcode = 0x09 ∧ e.field 280 279 = 1 → Leaves (.stateXferImport core thread) s
      (startedOp s.m e e.importBody)) ∧
    (e.h.opcode = 0x09 ∧ e.field 280 279 = 2 → Leaves (.stateXferZero core thread) s
      (startedOp s.m e e.zeroBody))

/-- As ProductOpsStart, for ELEMWISE, NORM_APPLY, MOVE, GATHER, SEAL_PAGE in its three modes, FORK_SEQ, SIGNAL in its
three modes and NOP. An APPEND zeroes the frames of the pages it opens as it starts; what else a sequence op changes
is done as one change when it completes. A SIGNAL takes TGT_CORE, TGT_BOL, its mode and VALUE from the body and
completes no earlier than 4 cycles after it starts, as does a NOP. Under these conditions each of these commands is
stated to complete, exec answering a next state: ELEMWISE, NORM_APPLY, MOVE, GATHER, SIGNAL_ADD, SIGNAL_SET,
SIGNAL_HOST, FORK_SEQ, SEAL_PAGE_APPEND, SEAL_PAGE_SEAL, SEAL_PAGE_RELEASE, NOP. (05_chains_and_functions.md (R143,
R144); 06_memory_tiers.md (R182, R183); 07_translation_and_sequences.md (R205, R209); 02_core_and_descriptors.md (R53,
R63); log 15 (operands are read when an op starts)) -/
def Obligations.RowAndSequenceOpsStart : Prop :=
  ∀ (s : State) (core thread : Nat) (e : Env), s.m.startable core thread = some e →
    (e.h.opcode = 0x0A → Leaves (.elemwise core thread) s
      (startedOp s.m e e.elemwiseBody)) ∧
    (e.h.opcode = 0x0B → Leaves (.normApply core thread) s
      (startedOp s.m e e.normApplyBody)) ∧
    (e.h.opcode = 0x10 → Leaves (.move core thread) s
      (startedOp s.m e e.moveBody)) ∧
    (e.h.opcode = 0x11 → Leaves (.gather core thread) s
      (startedOp s.m e e.gatherBody)) ∧
    (e.h.opcode = 0x29 ∧ e.sealMode = 0 → Leaves (.sealPageAppend core thread) s
      (e.zeroOpened (startedOp s.m e e.appendBody))) ∧
    (e.h.opcode = 0x29 ∧ e.sealMode = 1 → Leaves (.sealPageSeal core thread) s
      (startedOp s.m e
      { Body.empty with seq := some (.seal (e.field 271 256) (e.field 279 272 + 1)), seqs := e.seqNames })) ∧
    (e.h.opcode = 0x29 ∧ e.sealMode = 2 → Leaves (.sealPageRelease core thread) s
      (startedOp s.m e
      { Body.empty with seq := some (.release (e.field 271 256) (e.field 279 272 + 1)), seqs := e.seqNames })) ∧
    (e.h.opcode = 0x28 → Leaves (.forkSeq core thread) s
      (startedOp s.m e
      { Body.empty with
        seq := some (.fork (e.field 271 256) (e.field 279 272 + 1)
          ((List.range (e.field 283 280)).map fun b => e.field (303 + 16 * b) (288 + 16 * b)))
        seqs := e.seqNames })) ∧
    (e.h.opcode = 0x18 ∧ e.field 271 270 = 0 → Leaves (.signalAdd core thread) s
      (started s.m e { Body.empty with cycles := 4 } .done fun o => { o with eff := { o.eff with
      signal := some (e.field 263 256, e.field 269 264, false, BitVec.ofNat 32 (e.field 319 288)) } })) ∧
    (e.h.opcode = 0x18 ∧ e.field 271 270 = 1 → Leaves (.signalSet core thread) s
      (started s.m e { Body.empty with cycles := 4 } .done fun o => { o with eff := { o.eff with
      signal := some (e.field 263 256, e.field 269 264, true, BitVec.ofNat 32 (e.field 319 288)) } })) ∧
    (e.h.opcode = 0x18 ∧ e.field 271 270 = 2 → Leaves (.signalHost core thread) s
      (started s.m e { Body.empty with cycles := 4 } .done fun o => { o with eff := { o.eff with
      hostVal := some (BitVec.ofNat 32 (e.field 319 288)) } })) ∧
    (e.h.opcode = 0x3F → Leaves (.nop core thread) s
      (startedOp s.m e { Body.empty with cycles := 4 }))

/-- A WAIT waits for its condition on its bollard, and ends at once if a reach or equal condition already holds. A
TIDE_WAIT, when the tide is configured, waits for its target instant, with its thread's last target tick as it was
before. A marshalling stage consumes its rows at the bollard and in the tags, PREFETCH fills the TLB or queues its
pages, a SEND opens its voyage and its ferries leave, a RETURN whose BUF is the oldest emitted buffer sends its rows
and releases the buffer, and one with another BUF takes fault 0x0883. Without a configured tide a TIDE_WAIT does not
start. A COMBINE closes its voyage when it completes. That the values of a marshalling stage, a SEND, a RETURN or a
COMBINE are formed at its start is the model's choice (log 15). Under these conditions each of these commands is
stated to complete, exec answering a next state: MARSHALLING_STAGE, PREFETCH, WAIT, TIDE_WAIT, FERRY_SEND,
FERRY_SEND_RETURN, FERRY_COMBINE. (02_core_and_descriptors.md (R64); 16_tide_and_power.md (R416, R417);
03_matrix_arrays.md (R89, R90); 06_memory_tiers.md (R183); 07_translation_and_sequences.md (R199);
11_experts_and_ferries.md (R287, R289, R295, R297); log 15 (operands are read when an op starts)) -/
def Obligations.WaitingAndFerryOpsStart : Prop :=
  ∀ (s : State) (core thread : Nat) (e : Env), s.m.startable core thread = some e →
    (e.h.opcode = 0x19 → Leaves (.wait core thread) s
      ((started s.m e Body.empty (.bollard (e.field 261 256) (e.field 263 262) (BitVec.ofNat 32 (e.field 319 288)) e.m.now)
      fun o => o).updCore e.core fun c => c.checkWaits (e.field 261 256))) ∧
    (s.m.island.tideCfg = none → Idles (.tideWait core thread) s) ∧
    (∀ c, s.m.island.tideCfg = some c → e.h.opcode = 0x1A → Leaves (.tideWait core thread) s
      (e.tideStart c (started s.m e Body.empty
        (.tide (e.tideTarget c).2 ((e.m.core e.core).thread e.thread).lastTick) fun o => o))) ∧
    (e.h.opcode = 0x01 ∧ bitb e.d 404 = true → Leaves (.marshallingStage core thread) s
      (e.mshStart (startedOp s.m e e.marshalBody))) ∧
    (e.h.opcode = 0x12 → Leaves (.prefetch core thread) s
      (e.prefetchRun (startedOp s.m e e.prefetchBody))) ∧
    (e.h.opcode = 0x20 ∧ e.field 321 320 = 0 → Leaves (.ferrySend core thread) s
      (((started s.m e e.sendBody .done fun o =>
      { o with send := sentRows e.choices, voy := e.field 323 322, creditWait := e.m.cyc e.core }).updCore core
        e.openVoyage).pumpFerries core)) ∧
    (e.h.opcode = 0x20 ∧ e.field 321 320 = 1 ∧ e.bufOk = true → Leaves (.ferrySendReturn core thread) s
      ((started s.m e e.returnBody .done fun o =>
      { o with send := e.returnRows.map (·.1)
               eff := { o.eff with release := some (e.field 327 324, e.field 331 328) } }).pumpFerries core)) ∧
    (e.h.opcode = 0x20 ∧ e.field 321 320 = 1 ∧ e.bufOk = false → Leaves (.ferrySendReturn core thread) s
      ((startedOp s.m e { Body.empty with fault := some ⟨0x0883, 0, 0, 0⟩ }).pumpFerries core)) ∧
    (e.h.opcode = 0x21 → Leaves (.ferryCombine core thread) s
      (started s.m e e.combineBody .done fun o =>
      { o with eff := { o.eff with closeVoyage := some (e.field 337 336) } }))

/-- If a thread may start an op now, then the core names a valid position whose context is RESIDENT, the module is READY
with clocks running, the core is not stopped by a core fault, the thread runs and its reached descriptor is fetched;
with OVL 0 no op of the thread is in progress, with OVL 1 the last load of the op before it is issued; its pre-wait
holds (reach: the difference is not negative as a signed number, now or at a value the bollard had in this cycle;
take: at least PRE_VAL, unsigned); no op in progress claims one of its units; and no bank of the core is to swap in
this cycle. (02_core_and_descriptors.md (R36, R45, R52); 05_chains_and_functions.md (R155);
07_translation_and_sequences.md (R204)) -/
def Obligations.OpStartsOnlyWhenItMay : Prop :=
  ∀ (m : Hw) (core thread : Nat) (e : Env), m.startable core thread = some e →
    e.m = m ∧ e.core = core ∧ e.thread = thread ∧ thread < 4 ∧ m.coreValid core = true ∧ m.quay.st = .ready ∧
    m.clocked = true ∧ (m.core core).broken = none ∧ (m.core core).ctx = some e.ctx ∧
    (∃ x, mget m.ctxs e.ctx = some x ∧ x.st = .resident) ∧
    ((m.core core).thread thread).st = .running ∧ ((m.core core).thread thread).next = some e.addr ∧
    e.addr ∈ ((m.core core).thread thread).staged ∧
    (e.h.ovl = false → ∀ o ∈ (m.core core).ops, o.thread ≠ thread) ∧
    (e.h.ovl = true → ∀ n, ((m.core core).thread thread).prev = some n → ∀ o ∈ (m.core core).ops, o.no = n →
      (m.core core).loadsIssued o = true) ∧
    (e.h.preEn = true → e.h.preTake = false → (((m.core core).bol e.h.preBol) - e.h.preVal).msb = false ∨
      ((m.core core).thread thread).metCyc = some (m.cyc core)) ∧
    (e.h.preEn = true → e.h.preTake = true → e.h.preVal.toNat ≤ ((m.core core).bol e.h.preBol).toNat) ∧
    (∀ b ∈ e.takes, (m.core core).tookNow (m.cyc core) b = false) ∧
    (∀ o ∈ (m.core core).ops, o.claims &&& e.units = 0#10) ∧
    m.mayswap core 3 (m.core core).fset = false ∧ m.mayswap core 7 (m.core core).route = false

/-- For each of the 32 ops: when the thread has reached no op that may start now, the command answers the state it was
given. (02_core_and_descriptors.md (R36)) -/
def Obligations.NoStartChangesNothing : Prop :=
  ∀ (s : State) (core thread : Nat), s.m.startable core thread = none →
    ∀ i ∈ [.matmul core thread, .marshallingStage core thread, .matvec core thread, .conv core thread,
      .convArgmax core thread, .cropresize core thread, .attnMatFwd core thread, .attnMatBwd core thread,
      .attnStream core thread, .chainProduct core thread, .recurStep core thread, .stateXferExport core thread,
      .stateXferImport core thread, .stateXferZero core thread, .elemwise core thread, .normApply core thread,
      .move core thread, .gather core thread, .prefetch core thread, .signalAdd core thread, .signalSet core thread,
      .signalHost core thread, .wait core thread, .tideWait core thread, .ferrySend core thread,
      .ferrySendReturn core thread, .ferryCombine core thread, .forkSeq core thread, .sealPageAppend core thread,
      .sealPageSeal core thread, .sealPageRelease core thread, .nop core thread], Idles i s

/-- For every op but the marshalling stage, PREFETCH, TIDE_WAIT and the two FERRY_SEND modes: in a next state the queue,
all of module and host memory, every register, counter, link and table outside the cores and contexts are as before,
where an APPEND alone zeroes frames it takes for new pages and leaves every byte outside them and host memory; so is
every other core; of every context only the list of detected faults may differ; and on the core itself the hold, the
accumulators, the TLB, credits, voyages, landings, step records, and every bollard but the one of a take-mode pre-wait
are as before. The bollard of a take-mode pre-wait falls by PRE_VAL. (02_core_and_descriptors.md (R31, R33, R36, R45);
06_memory_tiers.md (R176)) -/
def Obligations.OpStartFrame : Prop :=
  (∀ (s t : State) (core thread : Nat),
    ∀ i ∈ [.matmul core thread, .matvec core thread, .conv core thread, .convArgmax core thread, .cropresize core thread,
      .attnMatFwd core thread, .attnMatBwd core thread, .attnStream core thread, .chainProduct core thread,
      .recurStep core thread, .stateXferExport core thread, .stateXferImport core thread, .stateXferZero core thread,
      .elemwise core thread, .normApply core thread, .move core thread, .gather core thread, .signalAdd core thread,
      .signalSet core thread, .signalHost core thread, .wait core thread, .ferryCombine core thread,
      .forkSeq core thread, .sealPageSeal core thread, .sealPageRelease core thread, .nop core thread], exec i s = .next t → StartFrame s t core thread ∧ t.m.mem = s.m.mem) ∧
  (∀ (s t : State) (core thread : Nat), exec (.sealPageAppend core thread) s = .next t → StartFrame s t core thread ∧
    { t.m.mem with ram := s.m.mem.ram, marks := s.m.mem.marks } = s.m.mem ∧
    (∀ e, s.m.startable core thread = some e → ∀ a,
      (∀ o ∈ e.appendBody.opened, let k := ramKey o.homeQ o.tier (o.frame * 65536)
        a < k ∨ k + pageBytes o.size / 65536 * 65536 ≤ a) →
      rd t.m.mem.ram a = rd s.m.mem.ram a ∧ (a ∈ t.m.mem.marks ↔ a ∈ s.m.mem.marks)))

/-- When op e starts on a core with a body b, a condition w and a record finish f that keeps the record's number: the op
gets the core's next number and the number rises by 1; its record is the only one added and the others keep their
numbers and order; the thread has moved to the next descriptor under FLOW (0: the one 128 bytes on; 1: the loop point;
2: none), remembers the op as its predecessor and no longer holds the descriptor as staged; the round-robin position
is the thread; every other thread is as it was; and with f the identity the new record claims the op's units, began
now and is due b.cycles after the present cycle count. (02_core_and_descriptors.md (R33, R36, R37, R45, R52)) -/
def Obligations.StartedOpStandsInProgress : Prop :=
  ∀ (c : Core) (e : Env) (now cyc : Nat) (b : Body) (w : Cond) (f : OpRec → OpRec), (∀ o, (f o).no = o.no) →
    e.thread < c.threads.length →
    (c.begin e now cyc b w f).nextOp = c.nextOp + 1 ∧ (c.begin e now cyc b w f).lastThread = e.thread ∧
    (c.begin e now cyc b w f).ops.map (·.no) = c.ops.map (·.no) ++ [c.nextOp] ∧
    ((c.begin e now cyc b w f).thread e.thread).next = flowNext e.h e.addr (c.thread e.thread).loop ∧
    ((c.begin e now cyc b w f).thread e.thread).prev = some c.nextOp ∧
    e.addr ∉ ((c.begin e now cyc b w f).thread e.thread).staged ∧
    (∀ t, t ≠ e.thread → (c.begin e now cyc b w f).thread t = c.thread t) ∧
    ((∀ o, f o = o) → ∃ o, (c.begin e now cyc b w f).ops.getLast? = some o ∧ o.claims = e.units ∧ o.start = now ∧
      o.due = cyc + b.cycles ∧ o.cond = w ∧ o.hdr = e.h ∧ o.thread = e.thread ∧ o.addr = e.addr) ∧
    (e.h.flow = 0 → flowNext e.h e.addr (c.thread e.thread).loop = some (e.addr + 128)) ∧
    (e.h.flow = 1 → flowNext e.h e.addr (c.thread e.thread).loop = some (c.thread e.thread).loop) ∧
    (e.h.flow = 2 → flowNext e.h e.addr (c.thread e.thread).loop = none)

/-- When the oldest done op o of a thread changes no sequence, marks no step, posts no event and has no HOST value,
OP_COMPLETE answers a next state. No op with its number remains; every op that remains was there; its hold stores are
in the holds, applied in order, and so are its accumulator entries on its own core; and all of module memory is as
before. With a post-signal and no other signal, one addition of POST_INC for POST_BOL waits at POST_CORE behind what
waited there, with the core's number of step records as its marker e and its context as identifier. That hold stores
land at completion is the model's choice (log 15). Under these conditions each of these commands is stated to
complete, exec answering a next state: OP_COMPLETE. (02_core_and_descriptors.md (R37, R46, R49);
18_telemetry_and_faults.md (R458: OPS); log 15 (hold stores land at completion)) -/
def Obligations.CompletedOpLeaves : Prop :=
  ∀ (s : State) (core thread x : Nat) (o : OpRec), (s.m.core core).ctx = some x →
    (s.m.core core).nextDone (s.m.cyc core) thread = some o → o.eff.seq = none → o.hdr.step = false → o.hdr.evt = false →
    o.eff.hostVal = none → o.eff.signal = none → o.eff.rets = [] →
    After (.opComplete core thread) s fun m =>
      (∀ p ∈ (m.core core).ops, p.no ≠ o.no) ∧
      (∀ n ∈ (m.core core).ops.map (·.no), n ∈ (s.m.core core).ops.map (·.no)) ∧
      (∀ k, (m.core k).hold = ((s.m.holdStores x core o.eff.stores).core k).hold) ∧
      (m.core core).acc = ((s.m.core core).setAccs o.eff.accs).acc ∧
      m.mem.ram = s.m.mem.ram ∧ m.mem.marks = s.m.mem.marks ∧
      (o.hdr.postEn = true → (m.core o.hdr.postCore).inbox = (s.m.core o.hdr.postCore).inbox ++
        [⟨s.m.postNo, core, x, (s.m.core core).recs, o.hdr.postBol, false, BitVec.ofNat 32 o.hdr.postInc⟩]) ∧
      (o.hdr.postEn = false → ∀ k, (m.core k).inbox = (s.m.core k).inbox)

/-- DESCRIPTOR_RUN_AHEAD_FETCH: when the thread may fetch, no earlier bad fetch of the reached descriptor stands, the
first descriptor ahead is not staged, every page it needs is in the core TLB (and allowed ahead, unless the thread has
reached it) and no read ends poisoned, the descriptor joins the thread's staged ones, and holds, memory and the other
cores are as before; one not yet reached of whose reads one is uncorrectable, marked or late is not staged, but kept
with its code, address and syndrome for the op's fault. TLB_WALK: for an address that misses in the core and quarter
TLBs and that something in the window or a fetch needs, a good walk that finds leaf and page descriptor puts them into
the core TLB, so that the address hits with them; a walk with a poisoned or late read, or one that finds no leaf, is
counted and ends with fault 0x02C2 or 0x02C0. Under these conditions each of these commands is stated to complete,
exec answering a next state: DESCRIPTOR_RUN_AHEAD_FETCH, TLB_WALK. (02_core_and_descriptors.md (R35, R38);
07_translation_and_sequences.md (R188, R195, R198)) -/
def Obligations.DescriptorsAndTranslationsAreFetched : Prop :=
  (∀ (s : State) (core thread x a : Nat) (p : Plan) (t : Thread) (reached : Bool) (ends : List ReadEnd), s.m.fetchPlan core thread = some (x, p, t) →
    s.m.toFetch x t = some (a, reached) → (s.m.core core).fetchHits x (s.m.fetchList x p a) = true →
    (reached = true ∨ (s.m.core core).aheadOk x ((t.next.map (s.m.fetchList x p)).getD []) (s.m.fetchList x p a) = true) →
    thread < (s.m.core core).threads.length → (∀ b ∈ t.bad, t.next ≠ some b.addr) →
    let f := s.m.fetchEnd x (withEnds (s.m.fetchList x p a) ends)
    (f = none ∨ reached = false) →
    After (.descriptorRunAheadFetch core ⟨thread, ends⟩) s fun m =>
      (m.core core).thread thread = (match f with
        | none => { t with staged := t.staged ++ [a] }
        | some f => { t with bad := t.bad ++ [⟨a, f.2.1, f.1, f.2.2⟩] }) ∧
      (∀ u, u ≠ thread → (m.core core).thread u = (s.m.core core).thread u) ∧
      (m.core core).hold = (s.m.core core).hold ∧ (m.core core).ops = (s.m.core core).ops ∧
      (m.core core).bols = (s.m.core core).bols ∧ (m.core core).reqs = (s.m.core core).reqs ∧
      (∀ k, k ≠ core → m.core k = s.m.core k) ∧ m.mem.ram = s.m.mem.ram ∧ m.mem.marks = s.m.mem.marks) ∧
  (∀ (s : State) (core thread va x : Nat) (y : Ctx) (n : Need3) (ends : List ReadEnd), (s.m.core core).ctx = some x → mget s.m.ctxs x = some y →
    s.m.clocked = true → (s.m.core core).tlbOf x va = none → s.m.walkNeed core thread x va (y.leafAt va) = some n →
    tlbHit ((s.m.quarterTlb.filter fun t => t.1 == core / 64).map (·.2)) x va = none →
    let w := walkEnds y va ends
    let r := ((((s.m.countCore core cTLBMISS 1).countCore core cWALKS 1).walkDecoded core w).walkTraffic core x va)
    let bad := s.m.walkBad w
    (∀ l p, bad = false → y.walk va = some (l, p) → After (.tlbWalk core thread va ends) s fun m =>
      (m.core core).tlbOf x va = some ⟨x, l, p, false⟩ ∧ m.mem.ram = s.m.mem.ram ∧ (∀ k, k ≠ core → m.core k = s.m.core k)) ∧
    (bad = false → y.walk va = none → Leaves (.tlbWalk core thread va ends) s (r.walkFault 0x02C0 core thread x va n)) ∧
    (bad = true → Leaves (.tlbWalk core thread va ends) s (r.walkFault 0x02C2 core thread x va n)))

/-- A request of an append to a frame it has taken has no fault, but of a context in fixed-timing mode 0x0283 when the
frame is not in the fast tier of the core's quarter. Of the others, one to an unmapped address ends with 0x02C0; a
store that no append makes, to a read-only mapping or a page of a sequence range, with 0x02C1, whatever else holds; a
request of a context in fixed-timing mode to a page that is not moored in the fast tier of the core's quarter with
0x0283; one to a host page whose table entry is not valid with 0x02C3; and a request that passes all of these has no
fault. (07_translation_and_sequences.md (R189: RO; R193; R203); 06_memory_tiers.md (R174);
15_scheduling_and_realtime.md (R401)) -/
def Obligations.IssueFaultsByMapping : Prop :=
  ∀ (m : Hw) (core ctx : Nat) (r : Req),
    (∀ k, r.place = some k → m.issueFault core ctx r =
      if m.isFixed ctx = true ∧ ¬ (keyTier k = 0 ∧ keyQ k = core / 64) then some 0x0283 else none) ∧
    (r.place = none → m.locOf ctx r.va = none → m.issueFault core ctx r = some 0x02C0) ∧
    (∀ l p loc, r.place = none → m.locOf ctx r.va = some (l, p, loc) →
      let noStore := r.store = true ∧ r.append = false ∧ (l.ro = true ∨ m.seqPdi ctx l.pdi = true)
      (noStore → m.issueFault core ctx r = some 0x02C1) ∧
      (¬ noStore → m.isFixed ctx = true → ¬ (p.moored = true ∧ p.home = 0 ∧ p.homeQ = core / 64) →
        m.issueFault core ctx r = some 0x0283) ∧
      (¬ noStore → m.isFixed ctx = false → p.home = 2 → loc = none → m.issueFault core ctx r = some 0x02C3) ∧
      (¬ noStore → m.isFixed ctx = false → loc ≠ none → m.issueFault core ctx r = none))

/-- REQUEST_ISSUE on a core whose clocks run, whose window has issued nothing in this cycle and has a request r to issue
that ends with no fault: r is issued now, no request joins or leaves, and memory and other cores are as before.
REQUEST_COMPLETE, within the 50 µs bound, in order and at a granule that no migration has locked, of a good store to
module memory stores its bytes at the place its address has, with the marks as a store leaves them, and nothing else
of module memory changes; of a load, no byte of module memory and no mark changes, whatever the decoder reports. Under
these conditions each of these commands is stated to complete, exec answering a next state: REQUEST_ISSUE,
REQUEST_COMPLETE. (02_core_and_descriptors.md (R40, R42, R43); 06_memory_tiers.md (R175, R177)) -/
def Obligations.RequestsIssueAndComplete : Prop :=
  (∀ (s : State) (core x : Nat) (r : Req), (s.m.core core).ctx = some x → s.m.clocked = true →
    (s.m.core core).issueFree (s.m.cyc core) = true → s.m.nextIssue core x = some r → s.m.issueFault core x r = none →
    After (.requestIssue core) s fun m =>
      (m.core core).reqs.map (·.id) = (s.m.core core).reqs.map (·.id) ∧
      (∀ q ∈ (m.core core).reqs, q.id = r.id → q.issued = some s.m.now) ∧
      m.mem = s.m.mem ∧ (∀ k, k ≠ core → m.core k = s.m.core k)) ∧
  (∀ (s : State) (core req x t : Nat) (r : Req) (rb : ReadBack), (s.m.core core).ctx = some x →
    ((s.m.core core).reqs.find? fun q => q.id == req) = some r → r.issued = some t → s.m.now ≤ t + 50000 →
    (s.m.core core).ordered r = true → s.m.locked x r = false →
    (∀ k, s.m.reqLoc x r = some (.ram k) → r.store = true → After (.requestComplete core req ⟨[]⟩) s fun m =>
      m.mem.ram = (s.m.mem.store k r.data).ram ∧ m.mem.marks = (s.m.mem.store k r.data).marks) ∧
    (r.store = false → After (.requestComplete core req rb) s fun m =>
      m.mem.ram = s.m.mem.ram ∧ m.mem.marks = s.m.mem.marks))

/-- LATE_RESPONSE_BOUND for a request issued at least 50 µs ago at a place of module memory, in a granule that no
migration has locked: its late response is expected, a store leaves marked every unit it addressed and changes no
byte, and a load leaves bytes and marks alone. LATE_ARRIVAL of an expected response forgets it once, and changes no
core, byte or mark. Under these conditions each of these commands is stated to complete, exec answering a next state:
LATE_RESPONSE_BOUND, LATE_ARRIVAL. (06_memory_tiers.md (R175, R176, R177); 18_telemetry_and_faults.md (R458: late
ends)) -/
def Obligations.LateRequestsEnd : Prop :=
  (∀ (s : State) (core req x t k : Nat) (r : Req), (s.m.core core).ctx = some x →
    ((s.m.core core).reqs.find? fun q => q.id == req) = some r → r.issued = some t → t + 50000 ≤ s.m.now →
    s.m.locked x r = false → s.m.reqLoc x r = some (.ram k) → After (.lateResponseBound core req) s fun m =>
      m.late = s.m.late ++ [(core, req, some (s.m.chanOf k))] ∧ m.mem.ram = s.m.mem.ram ∧
      m.mem.marks = (if r.store then (s.m.mem.poison k r.len).marks else s.m.mem.marks)) ∧
  (∀ (s : State) (core req : Nat) (ch : Option Nat), (s.m.late.find? fun e => e.1 == core && e.2.1 == req) = some (core, req, ch) →
    After (.lateArrival core req) s fun m => m.late = s.m.late.erase (core, req, ch) ∧ m.cores = s.m.cores ∧
      m.mem.ram = s.m.mem.ram ∧ m.mem.marks = s.m.mem.marks)

/-- When the hardware has detected faults of a context that is not switching, CONTEXT_FAULT_STOP leaves the context
STOPPED with none left to record, with no thread running and no op in progress on any core that runs it; every other
context's state, and module memory, are as before. Under these conditions each of these commands is stated to
complete, exec answering a next state: CONTEXT_FAULT_STOP. (06_memory_tiers.md (R176, R178);
15_scheduling_and_realtime.md (R386); 14_espor_mailboxes.md (R380)) -/
def Obligations.FaultedContextStops : Prop :=
  ∀ (s : State) (c : Nat) (x : Ctx), mget s.m.ctxs c = some x → x.detected ≠ [] → x.st ≠ .switching →
    After (.contextFaultStop c) s fun m =>
      (mget m.ctxs c).map Ctx.st = some .stopped ∧ (mget m.ctxs c).map Ctx.detected = some [] ∧
      (∀ k ∈ s.m.ctxCores c, (s.m.core k).ctx = some c → ∀ t, t < 4 → ((m.core k).thread t).st ≠ .running) ∧
      (∀ k ∈ s.m.ctxCores c, (s.m.core k).ctx = some c → ∀ o ∈ (m.core k).ops, 4 ≤ o.thread) ∧
      (∀ d, d ≠ c → (mget m.ctxs d).map Ctx.st = (mget s.m.ctxs d).map Ctx.st) ∧ m.mem.ram = s.m.mem.ram

/-- When exactly one update waits for a bollard of a core and no op in progress waits there in take mode: if the core runs
the update's context, an addition leaves the old value plus the operand modulo 2^32 and a set leaves the operand; if
not, the bollard keeps its value. An update that has not reached the core, because a packet of its source and path is
ahead of it, stays where it is and nothing else of the core changes; one that has no longer waits; every other bollard
of the core, the hold, memory and every other core are as before; and no op is left waiting in reach or equal mode for
a value the bollard now has. The condition of reach mode is that the bollard minus VALUE, as a signed 32-bit number,
is 0 or more; of equal mode that the bollard is VALUE; of take mode that the bollard, unsigned, is VALUE or more.
Under these conditions each of these commands is stated to complete, exec answering a next state: BOLLARD_UPDATE.
(02_core_and_descriptors.md (R59, R60, R63, R69); 11_experts_and_ferries.md (R300)) -/
def Obligations.BollardPortAppliesOneUpdate : Prop :=
  (∀ (val v : Word32), (waitHolds 0 val v = true ↔ 0 ≤ (v - val).toInt) ∧ (waitHolds 1 val v = true ↔ v = val) ∧
    (waitHolds 2 val v = true ↔ val.toNat ≤ v.toNat)) ∧
  ∀ (s : State) (core b : Nat) (u : Signal), ((s.m.core core).inbox.filter fun v => v.bol == b) = [u] →
    (∀ o ∈ (s.m.core core).ops, ∀ v since, o.cond ≠ .bollard b 2 v since) →
    (s.m.arrived core u = false → After (.bollardUpdate core b) s fun m =>
      (m.core core).inbox = (s.m.core core).inbox ∧ (m.core core).bols = (s.m.core core).bols ∧
      (m.core core).ops = (s.m.core core).ops ∧ m.mem = s.m.mem ∧ (∀ k, k ≠ core → m.core k = s.m.core k)) ∧
    (s.m.arrived core u = true → After (.bollardUpdate core b) s fun m =>
      (s.m.runs core u.ctx = true → (m.core core).bol b = if u.set then u.val else (s.m.core core).bol b + u.val) ∧
      (s.m.runs core u.ctx = false → (m.core core).bol b = (s.m.core core).bol b) ∧
      (∀ v ∈ (m.core core).inbox, v.bol ≠ b) ∧ (∀ d, d ≠ b → (m.core core).bol d = (s.m.core core).bol d) ∧
      (m.core core).hold = (s.m.core core).hold ∧ m.mem.ram = s.m.mem.ram ∧ (∀ k, k ≠ core → m.core k = s.m.core k) ∧
      (s.m.runs core u.ctx = true → ∀ o ∈ (m.core core).ops, ∀ mode v since, o.cond = .bollard b mode v since →
        mode ≠ 2 → waitHolds mode v ((m.core core).bol b) = false))

/-- When the first WAIT op in progress of a running thread, on a bollard that no landing of the core signals, has waited
longer than the context's wait bound, the command leaves the thread stopped with none of its ops in progress and a
fault 0x0180 of the core, the thread and the op's tag detected for the context; other cores and memory are as before.
Under these conditions each of these commands is stated to complete, exec answering a next state: WAIT_BOUND_EXPIRY.
(02_core_and_descriptors.md (R66); 11_experts_and_ferries.md (R294); 15_scheduling_and_realtime.md (R386)) -/
def Obligations.WaitBoundEndsAWait : Prop :=
  ∀ (s : State) (core thread x b mode since : Nat) (v : Word32) (o : OpRec) (y : Ctx), (s.m.core core).ctx = some x →
    mget s.m.ctxs x = some y → thread < (s.m.core core).threads.length → ((s.m.core core).thread thread).st = .running →
    ((s.m.core core).ops.find? fun p => p.thread == thread && (match p.cond with
      | .bollard b _ _ since => !s.m.landingBol x core b && decide (since + s.m.waitBound x < s.m.now) | _ => false)) = some o →
    o.cond = .bollard b mode v since →
    After (.waitBoundExpiry core thread) s fun m =>
      ((m.core core).thread thread).st = .stopped ∧ (∀ p ∈ (m.core core).ops, p.thread ≠ thread) ∧
      (∃ r, (mget m.ctxs x).map Ctx.detected = some (y.detected ++ [r]) ∧ r.code = 0x0180 ∧ r.core = core ∧
        r.thread = thread ∧ r.opTag = o.hdr.tag) ∧
      m.mem = s.m.mem ∧ (∀ k, k ≠ core → m.core k = s.m.core k)

/-- TIDE_WAIT_TARGET: when the first TIDE_WAIT of a thread whose target has come exists, that op leaves, or waits for
nothing but its post-signal's turn. MARSHALLING_DEADLINE: when the thread has reached a marshalling stage whose
predecessor is complete, that has a deadline, at least one row at its bollard, and the deadline after the bollard's
rise or the thread's last batch, whichever is later, has passed, the thread's deadline mark is set and memory, holds
and bollards are as before. Under these conditions each of these commands is stated to complete, exec answering a next
state: MARSHALLING_DEADLINE, TIDE_WAIT_TARGET. (16_tide_and_power.md (R414, R417); 03_matrix_arrays.md (R90)) -/
def Obligations.TideAndMarshallingWaits : Prop :=
  (∀ (s : State) (core thread : Nat) (o : OpRec), ((s.m.core core).ops.find? fun p => p.thread == thread &&
      (match p.cond with | .tide g _ => decide (g ≤ s.m.now) | _ => false)) = some o →
    Leaves (.tideWaitTarget core thread) s (s.m.retireIf core o) ∧
    ((s.m.core core).ctx ≠ none → After (.tideWaitTarget core thread) s fun m =>
      ((s.m.core core).signalOk o = true → ∀ p ∈ (m.core core).ops, p.no ≠ o.no) ∧
      ((s.m.core core).signalOk o = false → ∀ p ∈ (m.core core).ops, p.no = o.no → p.cond = .done))) ∧
  (∀ (s : State) (core thread : Nat) (e : Env), s.m.envOf core thread = some e → e.h.opcode = 0x01 → e.matmul.marshal = true →
    e.predOk = true → e.matmul.mshDl ≠ 0 → 1 ≤ ((s.m.core core).bol e.matmul.mshBol).toNat →
    max (mgetD (s.m.core core).rise e.matmul.mshBol 0) ((s.m.core core).thread thread).mshDone + e.matmul.mshDl ≤ s.m.cyc core →
    thread < (s.m.core core).threads.length →
    After (.marshallingDeadline core thread) s fun m => ((m.core core).thread thread).mshDl = true ∧ m.mem = s.m.mem ∧
      (m.core core).bols = (s.m.core core).bols ∧ (m.core core).hold = (s.m.core core).hold ∧
      (∀ k, k ≠ core → m.core k = s.m.core k))

/-- RESIDUE_MISMATCH, on an array up to 10 met by the op a thread runs, and HOLD_ERROR of a double-bit error, met by any
thread or none, on a clocked core that runs a context and is not already stopped by a core fault: the core is stopped
by the fault with its array (11 for the hold) and the time of detection, no thread 0 to 3 runs or has an op in
progress, the health record is DIRTY, and memory, the hold, the accumulators and every other core are as before. A
single-bit error of a hold word is counted in HOLD_CORR and changes nothing else. Under these conditions each of these
commands is stated to complete, exec answering a next state: RESIDUE_MISMATCH, HOLD_ERROR. (03_matrix_arrays.md
(R102); 18_telemetry_and_faults.md (R465, R466); 17_bringup_and_variants.md (R439: DIRTY)) -/
def Obligations.CoreFaultsStopTheCore : Prop :=
  ∀ (s : State) (core thread : Nat), s.m.clocked = true → (s.m.core core).ctx ≠ none → (s.m.core core).broken = none →
    (∀ th, Leaves (.holdError core ⟨false, th⟩) s (s.m.countCore core cHOLDCORR 1)) ∧
    ∀ (i : Instr) (array : Nat),
      (array ≤ 10 ∧ (∃ p, i = .residueMismatch core thread ⟨array, p⟩) ∧ (∃ o ∈ (s.m.core core).ops, o.thread = thread)) ∨
      (array = 11 ∧ ∃ th, i = .holdError core ⟨true, th⟩) →
      After i s fun m =>
        (∃ tag th, (m.core core).broken = some (array, s.m.now, tag, th)) ∧
        (∀ t, t < 4 → ((m.core core).thread t).st ≠ .running) ∧ (∀ o ∈ (m.core core).ops, 4 ≤ o.thread) ∧
        m.island.health.dirty = true ∧ m.mem = s.m.mem ∧ (m.core core).hold = (s.m.core core).hold ∧
        (m.core core).acc = (s.m.core core).acc ∧ (∀ k, k ≠ core → m.core k = s.m.core k)

/-- For the earliest core fault of its quarter: every thread of the context stops; the core is no longer stopped by the
fault; if the context can go back to its newest complete epoch and a spare or, in fixed-timing mode, a standby can
fill the position, the position is filled, without a standby by the lowest spare, and the recovery noted, for whose
rollback the context keeps its state; else the position names no core and is out of service, and the context stops
with a fault 0x0181 recorded. STANDBY_REFILL of a used standby takes the quarter's spare, if there is one, and in any
case leaves no refill due. Under these conditions each of these commands is stated to complete, exec answering a next
state: CORE_FAULT_HANDLING, STANDBY_REFILL. (18_telemetry_and_faults.md (R464, R466); 15_scheduling_and_realtime.md
(R400); 17_bringup_and_variants.md (R441)) -/
def Obligations.CoreFaultIsRecoveredOrStopsTheContext : Prop :=
  (∀ (s : State) (core x phys : Nat) (y : Ctx) (b : Nat × Nat × Nat × Nat), (s.m.core core).ctx = some x →
    (s.m.core core).broken = some b → s.m.physOf core = some phys → mget s.m.ctxs x = some y → core < 256 →
    (∀ d ∈ s.m.cores, d.1 ≠ core → d.1 / 64 = core / 64 → ∀ o, d.2.broken = some o → b.2.1 < o.2.1 ∨ (b.2.1 = o.2.1 ∧ core < d.1)) →
    let st := s.m.stopThreads x
    let back := st.canRollBack x (st.epochOf x) = true ∧
      ((st.physQ (core / 64)).spare ≠ none ∨ (st.isFixed x = true ∧ st.standbyOf x (core / 64) ≠ none))
    let stopped := fun (m : Hw) => (m.core core).broken = none ∧ ∀ k ∈ s.m.ctxCores x, (s.m.core k).ctx = some x →
      ∀ t, t < 4 → ((m.core k).thread t).st ≠ .running
    (back → Leaves (.coreFaultHandling core) s (st.refillPosition x core phys b.1 b.2.1) ∧
      After (.coreFaultHandling core) s fun m => stopped m ∧
        (st.standbyOf x (core / 64) = none → m.physOf core = (s.m.physQ (core / 64)).spare) ∧
        ∃ z, mget m.ctxs x = some z ∧ z.st = y.st ∧
          z.recov = y.recov ++ [⟨core, phys, b.1, b.2.1, (st.standbyOf x (core / 64)).map (·.2)⟩] ∧
          z.rollbackDue = (y.rollbackDue || y.st == .switching)) ∧
    (¬ back → Leaves (.coreFaultHandling core) s (st.losePosition x core phys b.1 b.2.1 b.2.2.1 b.2.2.2) ∧
      After (.coreFaultHandling core) s fun m => stopped m ∧ m.physOf core = none ∧ m.outOfService.getLsbD core = true ∧
        ∃ z, mget m.ctxs x = some z ∧ (y.st ≠ .switching → z.st = .stopped) ∧
          (y.st = .switching → z.st = .switching ∧ z.back = .stopped) ∧
          (y.faults.length < 64 → ∃ r, z.faults = y.faults ++ [r] ∧ r.code = 0x0181 ∧ r.core = core ∧ r.array = b.1))) ∧
  (∀ (s : State) (part quarter : Nat) (y : Part) (r : Nat × Nat), mget s.m.parts part = some y → quarter < y.refill.length →
    lget y.refill quarter none = some r → After (.standbyRefill part quarter) s fun m =>
      ∃ z, mget m.parts part = some z ∧ lget z.refill quarter none = none ∧
        (quarter < y.standby.length → lget z.standby quarter none =
          if (s.m.physQ quarter).spare = none then lget y.standby quarter none else some r.1))

/-- A core that holds the record of epoch e goes back to it: bollards as corrected from the record, the binding images of
the record's accumulators, an empty hold, no op, request or voyage in progress, what is on its way to its bollards as
it was, every thread at the next descriptor of the record, and e records made. Recovering a context is that for each
of its cores and then the records of the newest complete epoch; without a complete epoch its runs are abandoned and
the records of the core faults name no epoch. ROLLBACK of a settled context in place, resident or enabled with core
faults handled or stopped with its fault log empty again, recovers it on its cores, resumes its state and starts its
runs; off its cores it only resumes the state, after abandoning the runs where no epoch is complete, and with the
rollback due at its next switch-in where one is. Under these conditions each of these commands is stated to complete,
exec answering a next state: ROLLBACK. (18_telemetry_and_faults.md (R467, R469); 02_core_and_descriptors.md (R49)) -/
def Obligations.RollbackRestoresTheRecord : Prop :=
  (∀ (c : Core) (now cyc e : Nat) (images : Map Word32 → Map Word32) (r : StepRec), (c.steps.find? fun r => r.no == e) = some r →
    let d := c.rollTo now cyc e images
    d.bols = r.bolsNow ∧ d.acc = images r.acc ∧ d.hold = [] ∧ d.ops = [] ∧ d.reqs = [] ∧ d.voyages = [] ∧ d.recs = e ∧
    d.ctx = c.ctx ∧ d.inbox = c.inbox ∧ (∀ t, t < 4 → (d.thread t).next = lget r.nexts t none)) ∧
  (∀ (m : Hw) (c : Nat),
    (m.epochOf c ≠ 0 → m.recover c = (m.rollTo c (m.epochOf c)).rollbackLog c (m.epochOf c)) ∧
    (m.epochOf c = 0 → m.recover c = ((m.abandonRuns c).coreFaultLog c 0 false).updCtx c fun y =>
      { y with rollbackDue := false, stopFault := none })) ∧
  (∀ (s : State) (c : Nat) (x : Ctx), mget s.m.ctxs c = some x →
    ((x.st = .resident ∨ x.st = .enabled) ∧ x.recov ≠ []) ∨ (x.st = .stopped ∧ x.faults = []) → x.detected = [] →
    s.m.settled c = true → s.m.placed c = true → s.m.plansOf c ≠ [] →
    (s.m.onCores c = true → Leaves (.rollback c) s (((s.m.recover c).resumeState c).startRuns c)) ∧
    (s.m.onCores c = false → s.m.epochOf c = 0 → Leaves (.rollback c) s ((s.m.recover c).resumeState c)) ∧
    (s.m.onCores c = false → s.m.epochOf c ≠ 0 → Leaves (.rollback c) s
      ({ s.m with ctxs := mset s.m.ctxs c { x with rollbackDue := true } }.resumeState c)))

/-- When a core's function-set or route banks may swap in this cycle, the active bank is the image the shadow held, the
shadow is empty, the other pair of banks, the hold, the ops and bollards of the core, every other core and module
memory are as before. Under these conditions each of these commands is stated to complete, exec answering a next
state: FUNCTION_SET_SWAP, ROUTE_TABLE_SWAP. (05_chains_and_functions.md (R155); 11_experts_and_ferries.md (R282)) -/
def Obligations.BanksSwapWhole : Prop :=
  ∀ (s : State) (core : Nat) (img : List Byte),
    (s.m.mayswap core 3 (s.m.core core).fset = true → (s.m.core core).fset.shadow = some img →
      After (.functionSetSwap core) s fun m => (m.core core).fset.active = img ∧ (m.core core).fset.shadow = none ∧
        (m.core core).route = (s.m.core core).route ∧ (m.core core).hold = (s.m.core core).hold ∧
        (m.core core).ops = (s.m.core core).ops ∧ (m.core core).bols = (s.m.core core).bols ∧
        (∀ k, k ≠ core → m.core k = s.m.core k) ∧ m.mem.ram = s.m.mem.ram) ∧
    (s.m.mayswap core 7 (s.m.core core).route = true → (s.m.core core).route.shadow = some img →
      After (.routeTableSwap core) s fun m => (m.core core).route.active = img ∧ (m.core core).route.shadow = none ∧
        (m.core core).fset = (s.m.core core).fset ∧ (m.core core).hold = (s.m.core core).hold ∧
        (m.core core).ops = (s.m.core core).ops ∧ (m.core core).bols = (s.m.core core).bols ∧
        (∀ k, k ≠ core → m.core k = s.m.core k) ∧ m.mem.ram = s.m.mem.ram)

/-- FERRY_ARRIVAL takes the row, seal or stall ferry at the front of its path: rows for a core that runs the ferry's
context land in order and are acknowledged, a notice covers the rows of its voyage, and one for another context is
dropped. RETURN_ARRIVAL takes the next row of the return ferry at the front of its path. CREDIT_RETURN adds the
credits to those the sender holds and lets its ferries leave. BATCH_EMISSION of a landing that may emit makes its fill
buffer the berth's. FLUSH_DL of a fill buffer with rows past its deadline marks it to be emitted. STALL_NOTICE of a
send that has waited 64 cycles sends one notice to each landing it sent rows to since the last. Under these conditions
each of these commands is stated to complete, exec answering a next state: FERRY_ARRIVAL, RETURN_ARRIVAL,
CREDIT_RETURN, BATCH_EMISSION, FLUSH_DL, STALL_NOTICE. (11_experts_and_ferries.md (R285, R290, R291, R292, R293,
R295)) -/
def Obligations.FerriesArriveAndBatchesAreEmitted : Prop :=
  (∀ (s : State) (src dst land : Nat) (f : Ferry),
    (s.m.nextFerry fun f => f.src == src && f.dst == dst && f.land == land && f.kind != 3) = some f →
    let m := { s.m with ferries := s.m.ferries.erase f }
    (m.runs dst f.ctx = true → f.kind = 0 → Leaves (.ferryArrival src dst land) s
      ((f.rows.foldl (fun m r => m.landRow f.ctx dst land src f.voy r) m).acked src 7 f.rows.length)) ∧
    (m.runs dst f.ctx = true → f.kind ≠ 0 → Leaves (.ferryArrival src dst land) s (m.landNotice f.ctx dst land src f.voy)) ∧
    (m.runs dst f.ctx = false → Leaves (.ferryArrival src dst land) s m)) ∧
  (∀ (s : State) (src dst : Nat) (f : Ferry),
    (s.m.nextFerry fun f => f.src == src && f.dst == dst && f.kind == 3) = some f →
    (f.rows = [] → Leaves (.returnArrival src dst) s { s.m with ferries := s.m.ferries.erase f }) ∧
    (∀ r rest, f.rows = r :: rest →
      let m := { s.m with ferries := if rest = [] then s.m.ferries.erase f else
        s.m.ferries.flatMap fun g => if g == f then [{ f with rows := rest }] else [g] }
      Leaves (.returnArrival src dst) s (if m.runs dst f.ctx then (m.returnRow f.ctx dst f.voy r).acked src 8 1 else m))) ∧
  (∀ (s : State) (src dst land x : Nat) (k : Credit),
    s.m.nextCredit src dst land = some k → (s.m.core dst).ctx = some x →
    Leaves (.creditReturn src dst land) s
      ((({ s.m with creditsInFlight := s.m.creditsInFlight.erase k }).updCore dst fun c =>
        { c with credits := mset c.credits (creditKey src land) (s.m.creditsOf x dst src land + k.n) }).pumpFerries dst)) ∧
  (∀ (s : State) (core land x : Nat), (s.m.core core).ctx = some x → land < 16 → (s.m.landState x core land).cfg.valid = true →
    ((s.m.landState x core land).emitted.length < (s.m.landState x core land).cfg.nb →
      s.m.emit123 x core (s.m.landState x core land) = true ∨ s.m.emitEmpty x core land (s.m.landState x core land) = true →
      Leaves (.batchEmission core land) s (s.m.emitBatch x core land (s.m.landState x core land))) ∧
    (0 < (s.m.landState x core land).slot → (s.m.landState x core land).cfg.flushDl ≠ 0 →
      (s.m.landState x core land).firstAt + (s.m.landState x core land).cfg.flushDl ≤ s.m.cyc core →
      After (.flushDl core land) s fun m =>
        mget (m.core core).lands land = some { s.m.landState x core land with flushed := true } ∧
        m.mem = s.m.mem ∧ (∀ k, k ≠ core → m.core k = s.m.core k))) ∧
  (∀ (s : State) (core x : Nat) (o : OpRec), (s.m.core core).ctx = some x →
    ((s.m.core core).ops.find? fun o => o.claims.getLsbD 7 && !o.send.isEmpty) = some o → (s.m.core core).loadsIn o = true →
    o.creditWait + 64 ≤ s.m.cyc core → After (.stallNotice core) s fun m =>
      m.ferries = s.m.ferries ++ o.sealTo.map fun t => ⟨core, t.1, t.2, o.voy, 2, x, 64, []⟩)

/-- After bring-up, for a link that is not retired: FLIT_RETRY changes nothing but counters and what a counter event
writes; LANE_REPLACEMENT with a spare left uses one spare; LINK_RETIREMENT of a quarter–quarter link and
HALF_LINK_RETIREMENT retire just that link, set QW_STATUS.DEGRADED and make the health record DIRTY. Under these
conditions each of these commands is stated to complete, exec answering a next state: FLIT_RETRY, LANE_REPLACEMENT,
LINK_RETIREMENT, HALF_LINK_RETIREMENT. (11_experts_and_ferries.md (R301, R302, R303); 17_bringup_and_variants.md
(R451); 13_host_link_and_quay.md (R353)) -/
def Obligations.LinksWearOut : Prop :=
  ∀ (s : State) (i : Nat), s.m.boot = .done → (s.m.link i).retired = false →
    (linkOk i = true → Leaves (.flitRetry i) s (s.m.count 3 i 2 1)) ∧
    (linkOk i = true → ∀ lane n, (s.m.link i).spares = n + 1 → After (.laneReplacement i lane) s fun m =>
      m.link i = ⟨n, false⟩ ∧ (∀ j, j ≠ i → m.link j = s.m.link j) ∧ m.cores = s.m.cores ∧ m.mem.ram = s.m.mem.ram) ∧
    (∀ j, (j = .linkRetirement i ∧ i < 6) ∨ (∃ q h, j = .halfLinkRetirement q h ∧ q < 4 ∧ h < 2 ∧ i = 8 + 2 * q + h) →
      After j s fun m => (m.link i).retired = true ∧ (∀ j, j ≠ i → m.link j = s.m.link j) ∧ m.quay.degraded = true ∧
        m.island.health.dirty = true ∧ m.cores = s.m.cores ∧ m.mem.ram = s.m.mem.ram)

/-- MIGRATION_GRANULE_MOVE, with the engine's queue empty, within the 40 µs of the read's and the write's bounds, of a
page that still has granules to move copies the next granule with its marks, and marks for the words its read found
uncorrectable, to the new home and moves on by one; later it commits nothing. MIGRATION_STEP_LATE, 20 µs after the
granule was locked, counts a late end, the third of which turns the migration back, and changes no byte. MIGRATION_END
acts only when every granule has moved, or every one is back: then, with no command deferred and no op in progress,
the page descriptor names the new home (or the old one as before), MIG is 0, the frames the page left are zeroed, and
no core TLB keeps an entry of a page that moved. Under these conditions each of these commands is stated to complete,
exec answering a next state: MIGRATION_GRANULE_MOVE, MIGRATION_STEP_LATE, MIGRATION_END. (06_memory_tiers.md (R170,
R171, R172)) -/
def Obligations.MigrationMovesGranules : Prop :=
  ∀ (s : State) (q k : Nat) (g : Mig), mget (s.m.engine q).slots k = some g → (s.m.engine q).queue = [] →
    q < s.m.engines.length →
    (s.m.boot = .done → g.back = false → g.done < g.granules → s.m.now ≤ g.since + 40000 → ∀ rb,
      After (.migrationGranuleMove q ⟨k, rb⟩) s fun m =>
      let c := s.m.mem.copyGranule (granKey g.fromHome g.fromFrame g.done) (granKey g.toHome g.toFrame g.done) rb
      m.mem.ram = c.ram ∧ m.mem.marks = c.marks ∧
      mget (m.engine q).slots k = some { g with done := g.done + 1, lates := 0, since := s.m.now } ∧
      (∀ n, (m.core n).hold = (s.m.core n).hold ∧ (m.core n).ops = (s.m.core n).ops) ∧
      (∀ n, (mget m.ctxs n).map Ctx.leaves = (mget s.m.ctxs n).map Ctx.leaves ∧
        (mget m.ctxs n).map Ctx.pds = (mget s.m.ctxs n).map Ctx.pds)) ∧
    (g.since + 40000 < s.m.now → ∀ rb, After (.migrationGranuleMove q ⟨k, rb⟩) s fun m => m.mem = s.m.mem ∧
      mget (m.engine q).slots k = some g) ∧
    (g.back = false → g.done < g.granules → g.since + 20000 ≤ s.m.now → After (.migrationStepLate q k) s fun m =>
      mget (m.engine q).slots k = some
        { g with lates := g.lates + 1, since := s.m.now, back := decide (3 ≤ g.lates + 1) } ∧ m.mem = s.m.mem) ∧
    (¬ (g.back = false ∧ g.done = g.granules) → ¬ (g.back = true ∧ g.done = 0) → Idles (.migrationEnd q k) s) ∧
    (∀ x p, s.m.espor.deferred = [] → (∀ d ∈ s.m.cores, d.2.ops = []) → mget s.m.ctxs g.ctx = some x →
      mget x.pds g.pdi = some p →
      (g.back = false → g.done = g.granules → After (.migrationEnd q k) s fun m =>
        m.mem.ram = (s.m.mem.zeroFrames (g.fromHome / 2) (g.fromHome % 2) g.fromFrame (g.granules / 32)).ram ∧
        ((mget m.ctxs g.ctx).bind fun y => mget y.pds g.pdi) = some
          { p with mig := false, ret := false, homeQ := g.toHome / 2, home := g.toHome % 2, addr := g.toFrame } ∧
        (∀ c ∈ m.cores, ∀ e ∈ c.2.tlb, ¬ (e.ctx = g.ctx ∧ e.leaf.pdi = g.pdi))) ∧
      (g.back = true → g.done = 0 → After (.migrationEnd q k) s fun m =>
        m.mem.ram = (s.m.mem.zeroFrames (g.toHome / 2) (g.toHome % 2) g.toFrame (g.granules / 32)).ram ∧
        ((mget m.ctxs g.ctx).bind fun y => mget y.pds g.pdi) = some { p with mig := false }))

/-- For a word of a memory in service, in no retired frame and not read in this scrub period, after bring-up: a codeword
that the decoder reports uncorrectable leaves the marks of its unit set, keeps every mark and every byte of module
memory, and makes the health record DIRTY; a good or marked one changes no byte and no mark, and a corrected one is
written back as the decoder gave it, with the marks as they were; either way it is not read again in the period. Under
these conditions each of these commands is stated to complete, exec answering a next state: PATROL_SCRUB.
(06_memory_tiers.md (R166, R167, R177)) -/
def Obligations.PatrolScrubMarksBadWords : Prop :=
  ∀ (s : State) (q t w : Nat) (rb : ReadBack), s.m.boot = .done → q < 4 → t < 2 → s.m.scrubStart.scrubs q t w = true →
    let k := ramKey q t (w * 64)
    let r := s.m.mem.readWord k (wordErrs rb (w % 32))
    (r.uncorrectable = true → After (.patrolScrub q t w rb) s fun m =>
      m.mem.ram = s.m.mem.ram ∧ m.mem.poisoned k 64 = true ∧ (∀ a ∈ s.m.mem.marks, a ∈ m.mem.marks) ∧
      m.island.health.dirty = true ∧ m.scrubs q t w = false) ∧
    (r.uncorrectable = false → After (.patrolScrub q t w rb) s fun m =>
      m.mem.ram = (if r = .plain .corrected then (s.m.mem.rewrite k rb).ram else s.m.mem.ram) ∧ m.mem.marks = s.m.mem.marks ∧ m.scrubs q t w = false)

/-- SCHEDULING_DECISION changes nothing while the module is not READY in Run, or when none of the occasions for a decision
has come since the last. Otherwise memory, holds, registers and plans are as before, and so is every bollard from
which no op in progress took as it started (one that a switch-out leaves not started gives its take back), and every
context keeps its state or, when it belongs to no partition and was not switching, turns SWITCHING. QUANTUM_EXPIRY of
a resident shared-pool context that has been resident for its quantum, the larger of 20 ms and ten times its last
switch-in, makes it preemptible and changes no memory. Under these conditions each of these commands is stated to
complete, exec answering a next state: SCHEDULING_DECISION, QUANTUM_EXPIRY. (15_scheduling_and_realtime.md (R386,
R390, R391)) -/
def Obligations.DecisionsOnlyBeginSwitches : Prop :=
  (∀ (s : State), (s.m.quay.st ≠ .ready ∨ s.m.quay.ps ≠ .run ∨ s.m.occasion = false → Idles .schedulingDecision s) ∧
    After .schedulingDecision s fun m =>
      m.mem = s.m.mem ∧ m.quay = s.m.quay ∧ m.plans = s.m.plans ∧ m.queues = s.m.queues ∧
      (∀ k, (m.core k).hold = (s.m.core k).hold ∧ (m.core k).ctx = (s.m.core k).ctx ∧
        ∀ b, (∀ o ∈ (s.m.core k).ops, ¬ (o.hdr.preEn = true ∧ o.hdr.preTake = true ∧ o.hdr.preBol = b)) →
          (m.core k).bol b = (s.m.core k).bol b) ∧
      (∀ c x, mget s.m.ctxs c = some x → ∃ y, mget m.ctxs c = some y ∧
        (y.st = x.st ∨ (y.st = .switching ∧ x.part = none)))) ∧
  (∀ (s : State) (c : Nat) (x : Ctx), mget s.m.ctxs c = some x → x.st = .resident → x.part = none →
    x.residentAt + max 20000000 (10 * x.lastSwitchIn) ≤ s.m.now → After (.quantumExpiry c) s fun m =>
      (mget m.ctxs c).map Ctx.quantumUp = some true ∧ m.mem = s.m.mem)

/-- A switching context that has drained, with no fault detected and no core of its set stopped by a core fault, leaves
its cores while the clocks run: each core of its set runs no context, has an empty hold and zero bollards, and the
slipway holds what it held: hold, written map, bollards, the binding images of the accumulators, threads, credits,
voyages, landings and step records; of a context that stops, only what recovery and the plans need is kept and the
saved hold is empty. Module memory is as before. So for a context that stops or has no rollback due: one with a
rollback due is recovered first. Under these conditions each of these commands is stated to complete, exec answering a
next state: SWITCH_OUT. (15_scheduling_and_realtime.md (R393, R394); 02_core_and_descriptors.md (R67)) -/
def Obligations.SwitchOutSavesThenClears : Prop :=
  ∀ (s : State) (c : Nat) (x : Ctx), mget s.m.ctxs c = some x → x.st = .switching → x.detected = [] → s.m.clocked = true →
    s.m.drained c = true → (∀ k ∈ s.m.ctxCores c, (s.m.core k).broken = none) → (x.rollbackDue = false ∨ x.back = .stopped) →
    After (.switchOut c) s fun m =>
      m.mem.ram = s.m.mem.ram ∧ m.mem.marks = s.m.mem.marks ∧ (mget m.ctxs c).map Ctx.quantumUp = some false ∧
      ∀ k ∈ s.m.ctxCores c, (m.core k).ctx = none ∧ (m.core k).hold = [] ∧ (∀ b, (m.core k).bol b = 0#32) ∧
        (x.back = .stopped → mget m.saves (saveKey c k) = some (s.m.core k).saveBare) ∧
        (x.back ≠ .stopped → ∃ acc, mget m.saves (saveKey c k) = some ((s.m.core k).save acc) ∧
          (s.m.moduleRing = none → acc = s.m.bindingImages c k (s.m.core k).acc))

/-- A chosen RUNNABLE context whose cores run no context switches in while the clocks run. Without a rollback due it is
RESIDENT, and each core of its set runs it with the hold, the accumulators, the credits and landings that were saved,
and, when no update was held for it, the bollards. With a rollback due the restored state is replaced by that of its
newest complete epoch, or without one its runs are abandoned. Under these conditions each of these commands is stated
to complete, exec answering a next state: SWITCH_IN. (15_scheduling_and_realtime.md (R394, R395);
18_telemetry_and_faults.md (R469)) -/
def Obligations.SwitchInRestores : Prop :=
  ∀ (s : State) (c : Nat) (x : Ctx), mget s.m.ctxs c = some x → x.chosen = true → x.st = .runnable → s.m.clocked = true →
    (∀ k ∈ s.m.ctxCores c, (s.m.core k).ctx = none) →
    (x.rollbackDue = false → After (.switchIn c) s fun m => (mget m.ctxs c).map Ctx.st = some .resident ∧
      m.mem.ram = s.m.mem.ram ∧ ∀ k ∈ s.m.ctxCores c,
        let d := mgetD s.m.saves (saveKey c k) CoreSave.empty
        (m.core k).ctx = some c ∧ (m.core k).hold = d.hold ∧ (m.core k).acc = d.acc ∧ (m.core k).credits = d.credits ∧
        (m.core k).lands = d.lands ∧ (x.held = [] → (m.core k).bols = d.bols)) ∧
    (x.rollbackDue = true →
      Leaves (.switchIn c) s (((((s.m.switchIn c).recover c).updCtx c fun y => { y with st := .resident }).startRuns c).decide_))

/-- For the entry at HEAD of a queue with none current, of a context that is not stopped and has no core fault to recover
from, while the module is READY and runs may start: with a reserved bit set, or naming a plan that is not enabled or
is another context's, HEAD advances by 1, no entry is current and every plan is as before; naming an idle plan that no
other queue waits for first, HEAD advances by 1, the entry is current and the plan's run 0 has the queue, tag and
event bit of the entry and RUNS runs (0: without end); naming a busy plan, or one another queue waits for first, HEAD
stays and the queue waits for it. Under these conditions each of these commands is stated to complete, exec answering
a next state: SUBMIT_ENTRY_TAKE. (14_espor_mailboxes.md (R375); 13_host_link_and_quay.md (R358);
15_scheduling_and_realtime.md (R386)) -/
def Obligations.SubmitEntriesStartRuns : Prop :=
  ∀ (s : State) (n : Nat) (q : SubQ) (entry : List Byte) (x : Ctx), mget s.m.queues n = some q → mget s.m.ctxs q.ctx = some x →
    x.st ≠ .stopped → (x.st = .switching → x.back ≠ .stopped) → x.recov = [] → s.m.quay.st = .ready → s.m.mayStart = true → q.cur = none → q.head ≠ q.tail →
    let e := leNat (entry.take 64)
    (bits e 31 17 ≠ 0 ∨ bits e 511 96 ≠ 0 ∨ (∀ p, mget s.m.plans (bits e 15 0) = some p → p.ctx ≠ q.ctx) →
      After (.submitEntryTake n entry) s fun m => (mget m.queues n).map SubQ.head = some (q.head + 1) ∧
        (mget m.queues n).map SubQ.cur = some none ∧ m.plans = s.m.plans) ∧
    (bits e 31 17 = 0 → bits e 511 96 = 0 → ∀ p, mget s.m.plans (bits e 15 0) = some p → p.ctx = q.ctx →
      (p.run = none → s.m.otherFirst n (bits e 15 0) q = false → After (.submitEntryTake n entry) s fun m =>
        (mget m.queues n).map SubQ.head = some (q.head + 1) ∧ (mget m.queues n).map SubQ.cur = some (some (bits e 15 0)) ∧
        ∃ st, (mget m.plans (bits e 15 0)).bind Plan.run = some ⟨n, bits e 63 32, bitb e 16, 0,
          if bits e 95 64 = 0 then none else some (bits e 95 64 - 1), st⟩) ∧
      (p.run ≠ none ∨ s.m.otherFirst n (bits e 15 0) q = true → Leaves (.submitEntryTake n entry) s
        { s.m with queues := mset s.m.queues n { q with waits := some (bits e 15 0) } }))

/-- When every thread of a started run has ended: with no disable waiting, the last run of its entry leaves the plan idle
and current in no queue, and any other is followed by the run with the next number, one fewer left; with a disable
waiting the plan is no longer enabled. Under these conditions each of these commands is stated to complete, exec
answering a next state: RUN_END. (14_espor_mailboxes.md (R372, R375); 02_core_and_descriptors.md (R33)) -/
def Obligations.RunsEnd : Prop :=
  ∀ (s : State) (plan : Nat) (p : Plan) (r : Run), mget s.m.plans plan = some p → p.run = some r → r.started = true →
    s.m.runOver p = true →
    (p.disabling = [] → r.left = some 0 → After (.runEnd plan) s fun m => (mget m.plans plan).bind Plan.run = none ∧
      (mget m.plans plan).isSome = true ∧ ∀ q ∈ m.queues, q.2.cur ≠ some plan) ∧
    (p.disabling = [] → r.left ≠ some 0 → After (.runEnd plan) s fun m => ∃ st,
      (mget m.plans plan).bind Plan.run = some { r with no := r.no + 1, left := r.left.map fun n => n - 1, started := st }) ∧
    (p.disabling ≠ [] → After (.runEnd plan) s fun m => m.plans = mdel s.m.plans plan ∧ ∀ q ∈ m.queues, q.2.cur ≠ some plan)

/-- A split of n by weights gives each weight its share rounded down and never more than n in sum, for any weights.
Apportioning an energy n, its static part by resident cores and the rest by activity, adds to the unowned account just
what the shares leave of n. After bring-up the command apportions the four quarters' measured energies and then the
hub's, and every context's next interval begins; memory, cores, registers and plans are as before. Under these
conditions each of these commands is stated to complete, exec answering a next state: ENERGY_APPORTIONMENT.
(15_scheduling_and_realtime.md (R397, R398); log 10 (free parts of the activity)) -/
def Obligations.EnergyIsSplitNotInvented : Prop :=
  (∀ (n : Nat) (ws : List (Nat × Nat)), ((splitBy n ws).map (·.2)).sum ≤ n ∧ (splitBy n ws).map (·.1) = ws.map (·.1) ∧
    ∀ c w, (c, w) ∈ ws → (ws.map (·.2)).sum ≠ 0 → (c, n * w / (ws.map (·.2)).sum) ∈ splitBy n ws) ∧
  (∀ (m : Hw) (q idle n : Nat), let still := splitBy (min idle n) (m.residents q)
    let moving := splitBy (n - min idle n) (m.ctxs.map fun c => (c.1, m.activity q c.1 c.2))
    (m.apportion q idle n).unowned + ((still ++ moving).map (·.2)).sum = m.unowned + n) ∧
  (∀ (s : State) (measured : List Nat) (hub : Nat), s.m.boot = .done → After (.energyApportionment measured hub) s fun m =>
    let f := ((List.range 4).foldl (fun m q => m.apportion q (lget s.m.idle q 0) (lget measured q 0)) s.m).apportion 4 0 hub
    m = { f with ctxs := f.ctxs.map fun c => (c.1, { c.2 with metered := f.meters c.1 }) } ∧
    m.mem.ram = s.m.mem.ram ∧ m.cores = s.m.cores ∧ m.quay = s.m.quay ∧ m.plans = s.m.plans ∧ s.m.unowned ≤ m.unowned)

/-- A frame that was taken ahead of its command does nothing more when its command comes; the one frame of a lower port
that waits is taken before the command's own. Else, with the island powered, on a port that is up,
ETHERNET_FRAME_RECEIVE counts a frame with a bad FCS, treats other frames as strangers, and of RTP packets, while the
hub takes input and the frame has a length that a port receives, gives one that no flow entry matches to the
strangers, one whose sender is quarantined to its quarantine, and one that its entry's lock lets pass to the entry's
stream; one with the locked SSRC from another sender collides: no stream and no byte of memory changes, the entry
keeps its lock, and its context learns of it in a free quarantine slot; without a free slot the entry is pinned.
CONTROL_PROTOCOL_MESSAGE with the port's tag that the port answers makes its reply, an echo or a report of the groups
asked for, the last it sent. PORT_LINK_STATE_CHANGE outside Anchor takes the link down. Under these conditions each of
these commands is stated to complete, exec answering a next state: ETHERNET_FRAME_RECEIVE, CONTROL_PROTOCOL_MESSAGE,
PORT_LINK_STATE_CHANGE. (12_ingest_and_media.md (R307, R310, R311, R312, R313, R314); log 4 (the length of a control
message is open)) -/
def Obligations.PacketsPassOnlyTheirLock : Prop :=
  (∀ (s : State) (port : Nat) (fr : EthFrame),
    ((port, fr) ∈ s.m.early → Leaves (.ethernetFrameReceive port fr) s { s.m with early := s.m.early.erase (port, fr) }) ∧
    (∀ a, (port, fr) ∉ s.m.early → sooner port s.pending = [a] → a ∉ s.m.early →
      Leaves (.ethernetFrameReceive port fr) s ((s.m.receiveEarly a).receive port fr))) ∧
  ∀ (s : State) (port : Nat), s.m.island.on = true → (s.m.port port).up = true → sooner port s.pending = [] →
    (∀ fr, (port, fr) ∉ s.m.early) → Leaves (.ethernetFrameReceive port .badFcs) s (s.m.count 2 port 8 1) ∧
    (∀ n, Leaves (.ethernetFrameReceive port (.other n)) s ((s.m.rxFrame port n).stranger port)) ∧
    (∀ n p ends, let i := Instr.ethernetFrameReceive port (.rtp n p ends)
      let m := s.m.rxFrame port n
      let does := fun f => Leaves i s (m.withEnds ends f)
      (s.m.hubOn = false ∨ frameLen n = false → Leaves i s (m.stranger port)) ∧
      (s.m.hubOn = true → frameLen n = true → (s.m.flows.find? fun f => f.2.hits port p) = none →
        does fun m => m.stranger port) ∧
      (∀ e f, s.m.hubOn = true → frameLen n = true → (s.m.flows.find? fun f => f.2.hits port p) = some (e, f) →
        (∀ slot q, s.m.quarOf e p = some (slot, q) →
          does fun m => { m with quars := mset m.quars slot { q with dropped := q.dropped + 1 } }.count 2 port 4 1) ∧
        (s.m.quarOf e p = none → f.judge p = .pass → does fun m => m.flowPacket port e f p) ∧
        (s.m.quarOf e p = none → f.judge p = .stranger → does fun m => m.stranger port) ∧
        (∀ ip udp, s.m.quarOf e p = none → f.lock = some (ip, udp, p.ssrc) → (ip ≠ p.srcIp ∨ udp ≠ p.srcUdp) →
          After i s fun t => t.streams = s.m.streams ∧ t.mem.ram = s.m.mem.ram ∧
            (∀ slot, chooseKey s.m.quars 256 256 = some slot → t.flows = s.m.flows ∧
              (mget t.quars slot).map Quar.entry = some e) ∧
            (chooseKey s.m.quars 256 256 = none → mget t.flows e = some { f with pinned := true } ∧ t.quars = s.m.quars)))) ∧
    (∀ c vlan msg, (s.m.port port).cfg = some c → c.tagOk vlan = true → c.answers msg = true →
      (s.m.hubOn = true ∨ ctlInAnchor msg = true) → port < s.m.ports.length →
      After (.controlProtocolMessage port ⟨vlan, msg⟩) s fun t =>
        (t.port port).tx = (s.m.ctlReply port msg <|> (s.m.port port).tx) ∧ t.mem.ram = s.m.mem.ram ∧
        t.streams = s.m.streams) ∧
    (s.m.quay.ps ≠ .anchor → port < s.m.ports.length → ∀ corr uncorr,
      After (.portLinkStateChange port ⟨false, corr, uncorr⟩) s fun t => t.port port = { s.m.port port with up := false } ∧ t.mem.ram = s.m.mem.ram)

/-- FRAME_DL, with the tide configured and the hub taking input, of a stream whose first frame past its deadline is f:
that frame is no longer gathered and its timestamp is closed, before the timestamps closed within half the range of
the present one; when its slot was not free, no byte of memory changes. SENDER_LOCK_RELEASE of an entry that is
locked, not pinned, and idle for LOCK_IDLE leaves it unlocked and otherwise as it was. Under these conditions each of
these commands is stated to complete, exec answering a next state: FRAME_DL, SENDER_LOCK_RELEASE.
(12_ingest_and_media.md (R313, R314, R317)) -/
def Obligations.FramesCloseAndLocksEnd : Prop :=
  (∀ (s : State) (n : Nat) (x : Stream) (t : TideCfg) (f : FrameAsm), mget s.m.streams n = some x → s.m.island.tideCfg = some t →
    (x.frames.find? fun f => decide (t.at (match f.tick with | none => 0 | some k => k + 1) + x.frameDl ≤ s.m.now)) = some f →
    s.m.hubOn = true → ∀ ends, After (.frameDl ⟨n, ends⟩) s fun m =>
      (mget m.streams n).map Stream.frames = some (x.frames.filter fun g => g.no != f.no) ∧
      (mget m.streams n).map Stream.closed = some (recent f.ts x.closed) ∧
      (f.dropped = true → m.mem = { s.m.mem with ends := [] })) ∧
  (∀ (s : State) (e : Nat) (f : Flow), mget s.m.flows e = some f → s.m.hubOn = true → f.lock ≠ none → f.pinned = false →
    f.lockAt + s.m.lockIdleNs f ≤ s.m.now → After (.senderLockRelease e) s fun m =>
      mget m.flows e = some { f with lock := none } ∧ m.mem.ram = s.m.mem.ram ∧ m.streams = s.m.streams)

/-- With the island powered, on a port that is up and that TIDE_CFG names: a selected Announce makes its sender the time
transmitter and leads to ACQUIRING, but one of the present time transmitter keeps LOCKED or ACQUIRING; a Sync of the
time transmitter in LOCKED with an offset beyond 10 µs leads to ACQUIRING, with a smaller one the state stays; a Sync
of another is counted only. ANNOUNCE_TIMEOUT leads from LOCKED or ACQUIRING to HOLDOVER and else changes nothing.
Module memory and cores are as before. Under these conditions each of these commands is stated to complete, exec
answering a next state: PTP_MESSAGE, ANNOUNCE_TIMEOUT. (16_tide_and_power.md (R411, R412, R413);
12_ingest_and_media.md (R307); log 4 (the length of a PTP message is open); log 22 (the correcting rate)) -/
def Obligations.TideFollowsItsTimeTransmitter : Prop :=
  ∀ (s : State), s.m.island.on = true →
    (∀ port t, (s.m.port port).up = true → s.m.island.tideCfg = some t → t.ports.testBit port = true →
      (∀ gm, After (.ptpMessage port (.announce gm true)) s fun m => m.island.gm = some (gm, port) ∧
        m.island.sync = (if s.m.island.sync = .free ∨ s.m.island.sync = .holdover ∨ s.m.island.gm ≠ some (gm, port) then .acquiring
          else s.m.island.sync) ∧
        m.island.announceAt = s.m.now ∧ m.mem.ram = s.m.mem.ram ∧ m.cores = s.m.cores) ∧
      (∀ gm o, s.m.island.gm = some (gm, port) → s.m.island.sync = .locked →
        After (.ptpMessage port (.sync gm o)) s fun m => m.island.offset = o ∧
          m.island.sync = (if 10000 < o.natAbs then .acquiring else .locked) ∧ m.mem.ram = s.m.mem.ram ∧ m.cores = s.m.cores) ∧
      (∀ gm o, s.m.island.gm ≠ some (gm, port) → After (.ptpMessage port (.sync gm o)) s fun m =>
        m.island.sync = s.m.island.sync ∧ m.island.offset = s.m.island.offset ∧ m.island.tide = s.m.island.tide)) ∧
    (s.m.island.sync = .locked ∨ s.m.island.sync = .acquiring → After .announceTimeout s fun m =>
      m.island.sync = .holdover ∧ m.island.tide = s.m.island.tide ∧
      m.island.rate = (if s.m.island.sync = .locked then s.m.island.rate else 0) ∧ m.mem.ram = s.m.mem.ram) ∧
    (s.m.island.sync = .free ∨ s.m.island.sync = .holdover → Idles .announceTimeout s)

/-- With the tide configured, TIDE_TICK leaves the current tick at the tick of the present tide time and changes nothing
else. For a rate of at most 1 GHz the tick k of an instant satisfies t(k) ≤ instant < t(k + 1), with t(n) = TICK0 +
floor(n · 10^9 · TICK_DEN ÷ TICK_NUM); before t(0) there is none. Under these conditions each of these commands is
stated to complete, exec answering a next state: TIDE_TICK. (16_tide_and_power.md (R414)) -/
def Obligations.CurrentTickIsTheLastBegun : Prop :=
  (∀ (s : State) (t : TideCfg), s.m.island.on = true → s.m.island.tideCfg = some t →
    Leaves .tideTick s { s.m with island := { s.m.island with tick := t.tickAt s.m.now } }) ∧
  (∀ (t : TideCfg) (now k : Nat), t.num ≤ 10 ^ 9 * t.den → t.tickAt now = some k → t.at k ≤ now ∧ now < t.at (k + 1)) ∧
  (∀ (t : TideCfg) (n : Nat), t.at n = t.tick0 + n * 10 ^ 9 * t.den / t.num) ∧
  (∀ (t : TideCfg) (now : Nat), 0 < t.num → 0 < t.den → (t.tickAt now = none ↔ now < t.tick0))

/-- While the hub takes input. A full queue takes no entry. Intake on a READY module, of a ring with an entry posted, room
in the queue and no disable waiting: HEAD rises by 1, the sample gets the next sequence number, which is the last
taken, and, without FLUSH, the number after it is the next; every other job is as before. DECODE_START of a taken
sample whose batch slot is free and that an engine can take: a header that the guard accepts starts the decode; one it
refuses makes the sample void with the guard's reason, and an undecodable, unsupported or unreadable one with 0x0342,
0x0343 or 0x0344; a host-decoded sample needs no engine. DECODE_COMPLETE of a decoding sample: unreadable and faulty
bytes make it void; a larger frame than allowed makes it void with the guard's reason and another changes nothing;
frames of an upload are its pictures, at most FRAMES of them, and of one whose read, as the command says its parts
end, ends poisoned or late they are not: the sample is void with 0x0344. Under these conditions each of these commands
is stated to complete, exec answering a next state: INTAKE_ENTRY_FETCH, DECODE_START, DECODE_COMPLETE.
(12_ingest_and_media.md (R322, R323, R324, R325, R326); 14_espor_mailboxes.md (R378)) -/
def Obligations.UploadsAreTakenAndDecoded : Prop :=
  ∀ (s : State) (n : Nat) (j : Job) (ends : List ReadEnd), mget s.m.jobs n = some j → s.m.hubOn = true →
    let leaves (i : Instr) (f : Hw → Hw) := Leaves i s (s.m.withEnds ends f)
    (∀ entry, j.slotFree (j.nextSeq / j.batch) = false → leaves (.intakeEntryFetch n ⟨entry, ends⟩) fun m => m) ∧
    (∀ entry, s.m.quay.st = .ready → j.disabling = [] → j.head ≠ j.tail → j.slotFree (j.nextSeq / j.batch) = true →
      After (.intakeEntryFetch n ⟨entry, ends⟩) s fun m =>
      ∃ k, mget m.jobs n = some k ∧ k.head = j.head + 1 ∧ k.lastSeq = j.nextSeq ∧
        (bitb (leNat (entry.take 64)) 100 = false → k.nextSeq = j.nextSeq + 1) ∧
        (∀ i, i ≠ n → mget m.jobs i = mget s.m.jobs i)) ∧
    (∀ seq x, mget j.samples seq = some x →
      let put (m : Hw) (y : Sample) : Hw := (m.setJob n (j.setSample seq y)).jobPump n
      let lost := { x.toVoid 0x0344 with poison := s.m.mapped j.ctx x.inVa x.inLen }
      (x.st = .taken → j.slotFree (seq / j.batch) = true →
        (x.codec ≠ 5 → j.startable seq = true →
          (∀ h, j.guard x h = none → leaves (.decodeStart n seq ⟨.header h, ends⟩) fun m => put m { x with st := .decoding }) ∧
          (∀ h r, j.guard x h = some r → leaves (.decodeStart n seq ⟨.header h, ends⟩) fun m => put m (x.toVoid r)) ∧
          leaves (.decodeStart n seq ⟨.undecodable, ends⟩) (fun m => put m (x.toVoid 0x0342)) ∧
          leaves (.decodeStart n seq ⟨.unsupported, ends⟩) (fun m => put m (x.toVoid 0x0343)) ∧
          leaves (.decodeStart n seq ⟨.unreadable, ends⟩) (fun m => put m lost)) ∧
        (x.codec = 5 → ∀ h, leaves (.decodeStart n seq ⟨h, ends⟩) fun m => put (m.hostDecoded j x).1 (m.hostDecoded j x).2)) ∧
      (x.st = .decoding →
        let read := fun m : Hw => (m.hubRead j.ctx x.inVa x.inLen).2
        (∀ h, j.guard x h = none → leaves (.decodeComplete n seq ⟨.larger h, ends⟩) fun m => m) ∧
        (∀ h r, j.guard x h = some r → leaves (.decodeComplete n seq ⟨.larger h, ends⟩) fun m => put m (x.toVoid r)) ∧
        leaves (.decodeComplete n seq ⟨.undecodable, ends⟩) (fun m => put (read m) (x.toVoid 0x0342)) ∧
        leaves (.decodeComplete n seq ⟨.unsupported, ends⟩) (fun m => put (read m) (x.toVoid 0x0343)) ∧
        leaves (.decodeComplete n seq ⟨.unreadable, ends⟩) (fun m => put (read m) lost) ∧
        (∀ fs, s.m.mapped j.ctx x.inVa x.inLen = false →
          leaves (.decodeComplete n seq ⟨.frames fs, ends⟩) fun m => put m (x.toVoid 0x0344)) ∧
        (∀ fs, s.m.mapped j.ctx x.inVa x.inLen = true → leaves (.decodeComplete n seq ⟨.frames fs, ends⟩) fun m =>
          if (m.hubRead j.ctx x.inVa x.inLen).1.bad then put (read m) { x.toVoid 0x0344 with poison := true }
          else put ((read m).count 8 j.ctx 1 ((fs.foldl (fun a p => a + p.w * p.h) 0) * 100 / 199))
              { x with st := .decoded, pics := fs.take x.frames, trunc := decide (x.frames < fs.length),
                       readyAt := s.m.now, srcW := (fs.head?.map Picture.w).getD 0,
                       srcH := (fs.head?.map Picture.h).getD 0 })))

/-- While the hub takes input. TENSORIZER_WRITE of a decoded sample whose batch slot is free writes it at its position,
with its stores ending as the command says. BATCH_DL, once the deadline after the open batch's first sample has
passed, closes the batch; a closed batch ends at the next multiple of BATCH, all its unassigned positions filled.
RELEASE_WORD_POLL takes the word's value, or keeps the last one where it cannot be read; a read of an unmarked word of
module memory that ends without an error gives that word. DECODER_OCCUPANCY_SAMPLE of a job with load division keeps
the last ten samples. Under these conditions each of these commands is stated to complete, exec answering a next
state: TENSORIZER_WRITE, BATCH_DL, RELEASE_WORD_POLL, DECODER_OCCUPANCY_SAMPLE. (12_ingest_and_media.md (R327, R329,
R330, R331, R333, R334)) -/
def Obligations.BatchesFillAndRelease : Prop :=
  (∀ (s : State) (n : Nat) (j : Job) (ends : List ReadEnd), mget s.m.jobs n = some j → s.m.hubOn = true →
    let leaves (i : Instr) (f : Hw → Hw) := Leaves i s (s.m.withEnds ends f)
    (∀ seq x, mget j.samples seq = some x → x.st = .decoded → x.void = false → j.slotFree (seq / j.batch) = true →
      leaves (.tensorizerWrite n ⟨seq, ends⟩) fun m => (m.writeSample n j seq x).jobPump n) ∧
    (∀ t, mget j.firstAt (j.nextSeq / j.batch) = some t → j.batchDl ≠ 0 → t + j.batchDl * 1000 ≤ s.m.now →
      leaves (.batchDl ⟨n, ends⟩) fun m => (m.setJob n j.closeBatch).jobPump n) ∧
    (s.m.mapped j.ctx j.qVa 8 = true → leaves (.releaseWordPoll ⟨n, ends⟩) fun m =>
      let v := m.hubInt64 j.ctx j.qVa
      (v.2.setJob n { j with released := v.1.getD j.released }).jobPump n) ∧
    (s.m.mapped j.ctx j.qVa 8 = false → leaves (.releaseWordPoll ⟨n, ends⟩) fun m =>
      ((m.hubInt64 j.ctx j.qVa).2.setJob n j).jobPump n) ∧
    (∀ busy, j.division = true → After (.decoderOccupancySample n busy) s fun m =>
      (mget m.jobs n).map Job.occ = some ((busy :: j.occ).take 10) ∧ m.mem.ram = s.m.mem.ram ∧ m.cores = s.m.cores)) ∧
  (∀ (m : Hw) (c va k : Nat) (l : Leaf) (p : PageDesc), m.mem.ends = [] → va % 64 = 0 → k % 64 = 0 →
    m.locOf c va = some (l, p, some (.ram k)) → m.mem.poisoned k 8 = false → (m.hubInt64 c va).1 = some (m.int64 c va)) ∧
  (∀ (j : Job), j.batch ≠ 0 → j.closeBatch.nextSeq % j.batch = 0 ∧ j.nextSeq ≤ j.closeBatch.nextSeq ∧
    j.closeBatch.nextSeq < j.nextSeq + j.batch ∧
    ∀ q, j.nextSeq ≤ q → q < j.closeBatch.nextSeq → mget j.closeBatch.samples q = some Sample.filler)

/-- While the hub takes input, of a job with an encoder and no disable waiting, for a sample whose next frame is this one,
in a batch that is not yet complete: a frame whose record has arrived, or for which none is awaited any more, is coded
from the job's fields, the frames and the offsets that its guidance gives, none where the read of the record ends
poisoned (the model's choice, log 54); one whose bytes still fit is written and the next frame is due; one that does
not fit stops the sample's encoder with its overflow flag. GUIDE_DL at the deadline, with the record still missing,
marks the sample as without guidance and awaits the record no more. Under these conditions each of these commands is
stated to complete, exec answering a next state: ENCODE_FRAME, GUIDE_DL. (12_ingest_and_media.md (R335, R336, R337);
log 21 (guide-ready choices); log 54 (a record that cannot be read)) -/
def Obligations.EncodersFollowGuidance : Prop :=
  ∀ (s : State) (n seq frame : Nat) (j : Job) (x : Sample) (e : EncCfg), mget s.m.jobs n = some j → mget j.samples seq = some x →
    j.enc = some e → s.m.hubOn = true → j.encoding x frame = true → j.disabling = [] → j.batches ≤ seq / j.batch →
    let guided := s.m.guided j e seq frame
    (∀ ends, (x.guideUp = true ∨ guided = true ∨ e.guideNf ≤ frame) →
      let rec_ := ({ s.m with mem := { s.m.mem with ends := ends } }.hubRead j.ctx (j.guideVaOf e seq frame) j.guideBytes).1
      let bits := Config.encode e.numbers x.pics (x.qoffs ++ [if !x.guideUp && guided && !rec_.bad then
        quantOffsets e.gain rec_.bytes (ceilDiv x.srcW 32) (ceilDiv x.srcH 32) else []])
      After (.encodeFrame n seq frame ends) s fun m => ∃ k y, mget m.jobs n = some k ∧ mget k.samples seq = some y ∧
        y.st = x.st ∧ y.pics = x.pics ∧
        (if x.outMax < x.encLen + bits.length then y.encStop = true ∧ y.encOvf = true ∧ y.encLen = x.encLen
         else y.encNext = frame + 1 ∧ y.encLen = x.encLen + bits.length ∧ y.readyAt = s.m.now ∧ y.guideUp = false)) ∧
    (e.guideDl ≠ 0 → x.guideUp = false → frame < e.guideNf → x.readyAt + e.guideDl * 1000 ≤ s.m.now →
      s.m.guided j e seq frame = false → After (.guideDl n seq frame) s fun m =>
        ∃ k y, mget m.jobs n = some k ∧ mget k.samples seq = some y ∧ y.guideUp = true ∧ y.guideMiss = true ∧
          y.encNext = x.encNext)

/-- While the hub takes input: at the armed tick's instant, with no publication in progress, every counter is copied with
the tick and its instant, the next epoch number is written to EPOCH_B and the published area is as before; with one in
progress no copy is taken and SKIPPED rises by 1 up to its maximum. Publication makes the copy the area and writes
EPOCH_E. The arming is over after one tick when its period is 0, else the next tick is a period later. While firmware
runs FW_BEAT rises by 1 and FW_ALIVE is set; after 1 s without a change FW_ALIVE is cleared, QW_CAUSE.FW_DEAD is set,
and no BUSY pair is served any more though it stays BUSY. Under these conditions each of these commands is stated to
complete, exec answering a next state: SNAPSHOT_TICK, SNAPSHOT_PUBLICATION, FW_BEAT, FW_DEAD.
(18_telemetry_and_faults.md (R454, R455, R456, R457); 13_host_link_and_quay.md (R354, R355)) -/
def Obligations.SnapshotsAreTakenWhole : Prop :=
  ∀ (s : State),
    (∀ n at_, s.m.snapDue = some (n, at_) → s.m.hubOn = true →
      let arm := if s.m.snap.period = 0 then none else some (n + s.m.snap.period)
      let e := s.m.snap.epoch + 1
      (s.m.snap.publishing = false → After .snapshotTick s fun m => m.snap = { s.m.snap with
          shadow := s.m.counters, shadowTick := n, shadowTide := at_, publishing := true, epoch := e, epochB := e,
          armTick := arm } ∧ { m with snap := s.m.snap } = s.m) ∧
      (s.m.snap.publishing = true → Leaves .snapshotTick s
        { s.m with snap := { s.m.snap with skipped := min (s.m.snap.skipped + 1) 0xFFFFFFFF, armTick := arm } })) ∧
    (s.m.snapDue = none → Idles .snapshotTick s) ∧
    (s.m.snap.publishing = true → s.m.hubOn = true → After .snapshotPublication s fun m => m.snap.area = s.m.snap.shadow ∧
      m.snap.areaTick = s.m.snap.shadowTick ∧ m.snap.areaTide = s.m.snap.shadowTide ∧ m.snap.epochE = s.m.snap.epoch ∧
      m.snap.epochB = s.m.snap.epochB ∧ m.snap.publishing = false ∧ { m with snap := s.m.snap } = s.m) ∧
    (s.m.fwRuns = true → Leaves .fwBeat s
      { s.m with quay := { s.m.quay with fwBeat := s.m.quay.fwBeat + 1, fwBeatAt := s.m.now, fwAlive := true } }) ∧
    (s.m.quay.fwAlive = true → s.m.quay.fwBeatAt + 1000000000 ≤ s.m.now → After .fwDead s fun m =>
      m.quay.fwAlive = false ∧ m.quay.cause.getLsbD 4 = true ∧ m.espor.order = [] ∧ m.espor.pairs = s.m.espor.pairs ∧ m.mem = s.m.mem ∧ m.cores = s.m.cores)

/-- With the island powered. A crossing below 340 V without a warning standing sets WARN, THROTTLE and the causes SUPPLY
and STATE_CHG, and leaves no cluster above 400 MHz; a further reading keeps the lowest voltage. A rise above 350 V
ends the warning and starts the recovery timer. A crossing of the 48 V bus below 44 V leaves no cluster above 400 MHz
and shuts the capstan; above 46 V its timer starts. One millisecond after the rise the restore begins (or, with no
cluster below its limit, is over). The over-voltage warning begins above 425 V and ends below 420 V. Memory is as
before. Under these conditions each of these commands is stated to complete, exec answering a next state:
BROWN_WARNING, BROWN_WARNING_CLEAR, RECOVERY_TIMER, INPUT_OVERVOLTAGE_WARNING, INPUT_OVERVOLTAGE_CLEAR,
BUS48_THROTTLE, BUS48_CLEAR. (16_tide_and_power.md (R424, R426, R428); 15_scheduling_and_realtime.md (R403); log 26
(operands of BROWN_WARNING and BROWN_WARNING_CLEAR)) -/
def Obligations.SupplyWarningsThrottle : Prop :=
  ∀ (s : State), s.m.island.on = true →
    (∀ v w, v < 34000 → s.m.quay.warn = false → After (.brownWarning v w) s fun m => m.quay.warn = true ∧ m.quay.throttle = true ∧
      m.quay.v400 = v ∧ m.quay.v48 = w ∧ m.quay.cause.getLsbD 1 = true ∧ m.quay.cause.getLsbD 0 = true ∧ m.power.brown = true ∧
      (∀ i, i < 32 → lget m.power.clocks i 0 ≤ 400) ∧ m.mem.ram = s.m.mem.ram ∧ m.cores = s.m.cores) ∧
    (∀ v w, v < 34000 → s.m.quay.warn = true → After (.brownWarning v w) s fun m => m.power.vmin = min s.m.power.vmin v ∧
      m.quay.v400 = v ∧ m.power.clocks = s.m.power.clocks ∧ m.mem = s.m.mem) ∧
    (∀ v b, 35000 < v → s.m.power.brown = true → s.m.power.restoring = false → After (.brownWarningClear v b) s fun m =>
      m.quay.warn = false ∧ m.power.riseAt = some s.m.now ∧ m.power.brown = true ∧ m.mem = s.m.mem) ∧
    (∀ v w, w < 44000 → s.m.power.bus48Warn = false → After (.bus48Throttle v w) s fun m => m.quay.throttle = true ∧
      m.power.bus48 = true ∧ m.capstanShut = true ∧ (∀ i, i < 32 → lget m.power.clocks i 0 ≤ 400) ∧ m.mem.ram = s.m.mem.ram) ∧
    (∀ v w, 46000 < w → s.m.power.bus48 = true → s.m.power.restoring = false → After (.bus48Clear v w) s fun m =>
      m.power.bus48Warn = false ∧ m.power.rise48At = some s.m.now ∧ m.mem = s.m.mem) ∧
    ((s.m.power.brown = true ∨ s.m.power.bus48 = true) → s.m.power.restoring = false → s.m.capstanShut = false →
      timerDone s.m.now s.m.power.brown s.m.power.riseAt = true → timerDone s.m.now s.m.power.bus48 s.m.power.rise48At = true →
      After .recoveryTimer s fun m => (m.power.restoring = true ∨ (m.power.brown = false ∧ m.power.bus48 = false)) ∧
        m.mem.ram = s.m.mem.ram) ∧
    (∀ v, 42500 < v → s.m.power.overWarn = false → After (.inputOvervoltageWarning v) s fun m =>
      m.power.overWarn = true ∧ m.quay.v400 = v ∧ m.mem.ram = s.m.mem.ram) ∧
    (∀ v, v < 42000 → s.m.power.overWarn = true → After (.inputOvervoltageClear v) s fun m =>
      m.power.overWarn = false ∧ m.quay.v400 = v ∧ m.mem = s.m.mem)

/-- With the island powered and no stop begun: an input below 300 V, above 440 V, a 48 V bus below 40 V, a 12 V rail below
10.8 V, or a critical temperature (115 °C in a quarter, 110 °C in the hub) leads to STATE stopping with reason 0x0510
to 0x0514, and a bring-up under way ends; no thread 0 to 3 of any core runs or has an op in progress and no mailbox
pair is BUSY. When the stop completes the module is stopped: every context, plan, queue, job, stream and core is gone,
module memory reads 0 without marks, no quarter is powered, and the time that the input must stay within 360 V to 420
V runs from now. When the input's power is lost, only flash, fuses and the error-log numbering remain; neither host
memory nor what the host wrote is the module's to change. Under these conditions each of these commands is stated to
complete, exec answering a next state: INPUT_UNDERVOLTAGE_STOP, ORDERLY_STOP_COMPLETE, INPUT_OVERVOLTAGE_STOP,
INPUT_POWER_LOSS, BUS48_STOP, RAIL12_STOP, CRITICAL_TEMPERATURE. (16_tide_and_power.md (R426, R429, R430, R432);
14_espor_mailboxes.md (R364); 18_telemetry_and_faults.md (R459)) -/
def Obligations.StopsAreOrderly : Prop :=
  (∀ (s : State), s.m.island.on = true → s.m.quay.st ≠ .stopped → s.m.quay.st ≠ .stopping → ∀ i reason,
    ((∃ v, i = .inputUndervoltageStop v ∧ v < 30000 ∧ reason = 0x0510#16) ∨
     (∃ v, i = .inputOvervoltageStop v ∧ 44000 < v ∧ reason = 0x0511#16) ∨
     (∃ v, i = .bus48Stop v ∧ v < 40000 ∧ reason = 0x0512#16) ∨ (∃ v, i = .rail12Stop v ∧ v < 108 ∧ reason = 0x0513#16) ∨
     (∃ site v, i = .criticalTemperature site v ∧ (if site < 4 then 270 else 260) ≤ v ∧ reason = 0x0514#16)) →
    After i s fun m => m.quay.st = .stopping ∧ m.quay.reason = reason ∧ m.boot = .done ∧ m.coming = none ∧
      (∀ c ∈ m.cores, (∀ t, t < 4 → (c.2.thread t).st ≠ .running) ∧ ∀ o ∈ c.2.ops, 4 ≤ o.thread) ∧
      (∀ n, (m.espor.pair n).st ≠ .busy) ∧ m.mem.ram = s.m.mem.ram ∧ m.mem.marks = s.m.mem.marks) ∧
  (∀ (s : State), s.m.live = true → s.m.quay.st = .stopping → After .orderlyStopComplete s fun m => m.quay.st = .stopped ∧
    m.quay.reason = s.m.quay.reason ∧ m.ctxs = [] ∧ m.plans = [] ∧ m.queues = [] ∧ m.jobs = [] ∧ m.streams = [] ∧
    m.cores = [] ∧ m.mem.ram = [] ∧ m.mem.marks = [] ∧ m.power.quartersUp = 0#4 ∧ m.power.steadyFrom = s.m.now ∧ m.flash = s.m.flash ∧ m.fuses = s.m.fuses) ∧
  (∀ (s : State), After .inputPowerLoss s fun m => m.boot = .off ∧ m.island.on = false ∧ m.flash = s.m.flash ∧
    m.fuses = s.m.fuses ∧ m.island.errNext = s.m.island.errNext ∧ m.mem.ram = [] ∧ m.mem.host = s.m.mem.host ∧ m.ctxs = [])

/-- CAPSTAN_ADMISSION of an admissible oldest request of a module that is not stopped and whose capstan is open takes just
that request off the queue, and no cluster runs above its limit. WAKE_BOUND_EXPIRY marks the late request and no
other. POWER_CAP_EVALUATION shows the power in QW_SUPPLY and changes the cap clock of no cluster of a partition or
without power. POWER_LIMIT_NOT_MET is noted once. CONVERSION_UNIT_LOSS counts the loss in its group and makes the
health record DIRTY. Memory and cores are as before. Under these conditions each of these commands is stated to
complete, exec answering a next state: CAPSTAN_ADMISSION, WAKE_BOUND_EXPIRY, POWER_CAP_EVALUATION,
POWER_LIMIT_NOT_MET, CONVERSION_UNIT_LOSS. (16_tide_and_power.md (R422, R423, R425, R431); log 11 (admitted currents);
log 12 (converter power)) -/
def Obligations.CapstanAndPowerCap : Prop :=
  ∀ (s : State),
    (∀ r rest, s.m.power.queue = r :: rest → s.m.island.on = true → s.m.quay.st ≠ .stopped → s.m.capstanShut = false → s.m.capstanAdmits r = true →
      After .capstanAdmission s fun m => (∃ more, m.power.queue = rest ++ more) ∧ m.power.recent.head? =
          some (s.m.now, r.kind, reqCurrent r.kind) ∧
        (∀ i, i < 32 → lget m.power.clocks i 0 ≤ m.clockLimit i) ∧ m.mem.ram = s.m.mem.ram ∧ m.cores = s.m.cores) ∧
    (∀ r, (s.m.power.queue.find? fun r => !r.warned && decide (r.at_ + s.m.power.wakeBound * 1000 < s.m.now)) = some r →
      After .wakeBoundExpiry s fun m => { r with warned := true } ∈ m.power.queue ∧
        m.power.queue.map CapReq.kind = s.m.power.queue.map CapReq.kind ∧
        (∀ x ∈ s.m.power.queue, x ≠ r → x ∈ m.power.queue) ∧ m.mem.ram = s.m.mem.ram ∧ m.cores = s.m.cores) ∧
    (∀ w, s.m.hubOn = true → After (.powerCapEvaluation w) s fun m => m.quay.pIn = w ∧
      (∀ i, i < 32 → (s.m.poolClusters.contains i) = false → lget m.power.capClk i 400 = lget s.m.power.capClk i 400) ∧
      m.mem.ram = s.m.mem.ram ∧ m.cores = s.m.cores) ∧
    (∀ t, s.m.power.overSince = some t → s.m.hubOn = true → s.m.power.noted = false → t + 10000000 ≤ s.m.now →
      (∀ i ∈ s.m.poolClusters, lget s.m.power.clocks i 0 ≤ 400) → After .powerLimitNotMet s fun m => m.power.noted = true ∧
        m.mem.ram = s.m.mem.ram ∧ m.cores = s.m.cores) ∧
    (∀ g u, s.m.island.on = true → g < s.m.power.lost.length → After (.conversionUnitLoss g u) s fun m =>
      lget m.power.lost g 0 = lget s.m.power.lost g 0 + 1 ∧ m.island.health.dirty = true ∧ m.mem.ram = s.m.mem.ram ∧
      m.cores = s.m.cores)

/-- With the island powered and temperatures as codes of QW_THERMAL: a powered quarter at 105 °C (250) that is not
throttled yet is throttled: THROT, THROTTLE and QW_CAUSE.THERMAL are set and its limit falls by 100 MHz, not below 400
MHz; each 100 µs at or above 105 °C it falls again, below that it stays; at 100 °C (240) or less the throttle ends and
the limit is the maximum clock. Above 45 °C (130) at the coolant inlet no cluster runs above 400 MHz; at 43 °C (126)
or less that ends. Under these conditions each of these commands is stated to complete, exec answering a next state:
QUARTER_THERMAL_THROTTLE, THERMAL_LIMIT_STEP, THERMAL_RECOVERY, COOLANT_INLET_LIMIT, COOLANT_INLET_CLEAR.
(16_tide_and_power.md (R432); 19_electrical_and_mechanical.md (R479); 13_host_link_and_quay.md (R354, R356)) -/
def Obligations.ThermalLimitsAct : Prop :=
  ∀ (s : State), s.m.island.on = true →
    (∀ q t, q < s.m.power.thermal.length → 250 ≤ t → s.m.power.quartersUp.getLsbD q = true → s.m.power.hot.getLsbD q = false →
      After (.quarterThermalThrottle q t) s fun m => m.power.hot.getLsbD q = true ∧ m.quay.throt = true ∧ m.quay.throttle = true ∧
        m.quay.cause.getLsbD 2 = true ∧ lget m.power.thermal q 400 = max 400 (lget s.m.power.thermal q 400 - 100) ∧
        m.mem.ram = s.m.mem.ram ∧ m.cores = s.m.cores) ∧
    (∀ q t, q < s.m.power.thermal.length → s.m.power.hot.getLsbD q = true → lget s.m.power.lastThermal q 0 + 100000 ≤ s.m.now →
      After (.thermalLimitStep q t) s fun m => m.power.hot.getLsbD q = true ∧ lget m.power.thermal q 400 =
        (if 250 ≤ t then max 400 (lget s.m.power.thermal q 400 - 100) else lget s.m.power.thermal q 400) ∧
        m.mem.ram = s.m.mem.ram) ∧
    (∀ q t, q < s.m.power.thermal.length → q < 4 → t ≤ 240 → s.m.power.hot.getLsbD q = true → After (.thermalRecovery q t) s fun m =>
      m.power.hot.getLsbD q = false ∧ lget m.power.thermal q 400 = s.m.fuses.clk ∧ m.mem.ram = s.m.mem.ram) ∧
    (∀ t, 130 < t → s.m.power.inlet = false → After (.coolantInletLimit t) s fun m => m.power.inlet = true ∧ m.quay.tcool = t ∧
      m.quay.throt = true ∧ (∀ i, i < 32 → lget m.power.clocks i 0 ≤ 400) ∧ m.mem.ram = s.m.mem.ram) ∧
    (∀ t, t ≤ 126 → s.m.power.inlet = true → After (.coolantInletClear t) s fun m => m.power.inlet = false ∧
      m.quay.tcool = t ∧ m.mem.ram = s.m.mem.ram)

/-- A QW_RESET word with its KIND and CONFIRM 0xC17E, an automatic reset of a module that stopped at least 1 s ago and
whose input lies within 360 V to 420 V since, a power-on and a trial image that hangs leave the module in STATE reset
with its bring-up to come: LAST_RESET is the kind, no context, plan, queue, job, stream, core, port configuration,
mailbox request or window is left, module memory reads 0 without marks, no quarter is powered, the link is down and
QW_CAUSE_EN is 0x7F. Tide time and TIDE_CFG stay, but at a power-on of an island that was off, where tide is 0 and
FREE. While STATE is stopping the stop goes on. Another QW_RESET word is counted in BADACC. As time passes, a bring-up
without a bootable slot ends at once in Not-Ready with REASON 0x0910; any other leads to the self-test with the
image's build and a power-up request for each quarter, waits there until the quarters are powered, and then ends in
Ready with REASON 0 or Not-Ready with a REASON. A Function Level Reset, a hot reset or a link-down removes every
context, plan, queue, job, stream, flow entry, ring, window and binding, returns every pair to IDLE and ends the
snapshot arming; where no core has a request or a signal under way and no core fault waits for its rollback, the
island, flash, ports, partitions, STATE and the last publication stay. Training sets QW_LINK; a resize of BAR2 unmaps
every window. Under these conditions each of these commands is stated to complete, exec answering a next state:
AUTOMATIC_RESET, POWER_ON_RESET, TRIAL_IMAGE_TIMEOUT, FUNCTION_LEVEL_RESET, HOT_RESET, LINK_DOWN, PCIE_LINK_TRAINING,
QW_RESET_WARM, QW_RESET_COLD, BAR2_RESIZE. (13_host_link_and_quay.md (R339, R343, R345, R354, R361);
17_bringup_and_variants.md (R435, R436, R437, R444); 16_tide_and_power.md (R410, R430); log 23 (what the tests of a
bring-up find, and when its steps pass)) -/
def Obligations.ResetsEndWhatTheySay : Prop :=
  ∀ (s : State),
    (let up := fun (k : Nat) (f : Found) (hung : Bool) (m : Hw) => m.boot = .pending ∧ m.coming = some ⟨k, f, hung, none⟩ ∧
        m.quay.st = .reset ∧ m.island.lastReset = k ∧ m.ctxs = [] ∧ m.plans = [] ∧ m.queues = [] ∧ m.jobs = [] ∧ m.streams = [] ∧
        m.cores = [] ∧ (∀ p, (m.port p).cfg = none) ∧ m.espor.pairs = [] ∧ m.host.windows = [] ∧ m.mem.ram = [] ∧
        m.mem.marks = [] ∧ m.power.quartersUp = 0#4 ∧ m.host.up = false ∧ m.quay.causeEn = 0x7F#64 ∧
        m.flash.boots = s.m.flash.boots + 1
     let kept := fun (m : Hw) => m.island.tide = s.m.island.tide ∧ m.island.tideCfg = s.m.island.tideCfg ∧ m.fuses = s.m.fuses
     (s.m.hostOn = true → s.m.inReset = false → ∀ f,
        (s.m.quay.st ≠ .stopping → After (.qwResetWarm 0xC17E0001#64 f) s (fun m => up 2 f false m ∧ kept m)) ∧
        (s.m.quay.st ≠ .stopping → After (.qwResetCold 0xC17E0002#64 f) s (fun m => up 1 f false m ∧ kept m)) ∧
        (s.m.quay.st = .stopping → Idles (.qwResetWarm 0xC17E0001#64 f) s ∧ Idles (.qwResetCold 0xC17E0002#64 f) s) ∧
        (∀ v, v ≠ 0xC17E0001#64 → v ≠ 0xC17E0002#64 → Leaves (.qwResetWarm v f) s (s.m.hosterr .badacc) ∧
          Leaves (.qwResetCold v f) s (s.m.hosterr .badacc))) ∧
     (s.m.island.on = true → s.m.quay.st = .stopped → ∀ v f, let fit := 36000 ≤ v ∧ v ≤ 42000 ∧ s.m.power.steadyFrom + 10 ^ 9 ≤ s.m.now
        (fit → After (.automaticReset ⟨v, f⟩) s fun m => up 3 f false m ∧ kept m) ∧
        (¬fit → Leaves (.automaticReset ⟨v, f⟩) s (s.m.setV400 v))) ∧
     (s.m.boot ≠ .done → s.m.coming = none → ∀ f,
        (s.m.island.on = false → After (.powerOnReset f) s fun m => up 0 f false m ∧ m.island.tide = 0 ∧ m.island.sync = .free) ∧
        (s.m.island.on = true → After (.powerOnReset f) s fun m => up 0 f false m ∧ kept m)) ∧
     (∀ c p, s.m.coming = some c → c.picked = some p → c.hung = false → s.m.flash.trial ≠ none → ∀ f,
        After (.trialImageTimeout f) s fun m => up c.kind f true m ∧ kept m)) ∧
    (s.pending = [] → s.m.island.on = true → s.m.boot = .pending → ∀ c, s.m.coming = some c →
      (c.picked = none → s.m.bootSlot c.hung = none → ∃ m, step s = .next { s with m := m } ∧ m.boot = .done ∧
        m.coming = none ∧ m.quay.st = .notReady ∧ m.quay.reason = 0x0910#16) ∧
      (∀ b fb why, c.picked = none → s.m.bootSlot c.hung = some (b, fb, why) → ∃ m p, step s = .next { s with m := m } ∧
        m.quay.st = .selfTest ∧ m.quay.reason = 0#16 ∧ m.fwBuild = (s.m.flash.slot b).build ∧
        m.power.queue.map CapReq.kind = [0, 0, 0, 0] ∧ m.coming = some { c with picked := some p } ∧ p.slotB = b ∧
        (c.kind < 2 → p.full = true)) ∧
      (∀ p, c.picked = some p → ¬(s.m.power.quartersUp = 0xF#4 ∧ s.m.power.hubUp = true) → ∃ m,
        step s = .next { s with m := m } ∧ m.coming = some c ∧ m.quay = s.m.quay) ∧
      (∀ p, c.picked = some p → s.m.power.quartersUp = 0xF#4 → s.m.power.hubUp = true → ∃ m,
        step s = .next { s with m := m } ∧ m.boot = .done ∧ m.coming = none ∧
        ((m.quay.st = .ready ∧ m.quay.reason = 0#16) ∨ (m.quay.st = .notReady ∧ m.quay.reason ≠ 0#16)))) ∧
    (let gone := fun (m : Hw) => m.ctxs = [] ∧ m.plans = [] ∧ m.queues = [] ∧ m.jobs = [] ∧ m.streams = [] ∧ m.flows = [] ∧
        m.quars = [] ∧ m.cores = [] ∧ m.moduleRing = none ∧ m.espor = ⟨[], [], [], 0⟩ ∧ m.host.bar2 = 34 ∧
        m.host.windows = [] ∧ m.host.vecs = [] ∧ m.host.binds = [] ∧ m.snap.armTick = none ∧ m.quay.held = []
     let quiet := (∀ k ∈ s.m.cores, k.2.reqs = [] ∧ k.2.inbox = []) ∧ ∀ c ∈ s.m.ctxs, c.2.recov = []
     let still := fun (m : Hw) => m.island = s.m.island ∧ m.flash = s.m.flash ∧ m.ports = s.m.ports ∧ m.parts = s.m.parts ∧
        m.quay.st = s.m.quay.st ∧ m.snap = { s.m.snap with armTick := none }
     (s.m.boot = .done → s.m.host.up = true →
        After .functionLevelReset s (fun m => gone m ∧ (quiet → still m ∧ m.host.up = true ∧ m.host.cfg = s.m.host.cfg.afterFlr)) ∧
        After .hotReset s (fun m => gone m ∧ (quiet → still m ∧ m.host.up = true ∧ m.host.cfg = s.m.host.cfg.afterHot))) ∧
     (s.m.host.up = true → After .linkDown s fun m => gone m ∧ m.host.up = false ∧ (quiet → still m))) ∧
    (∀ speed width, s.m.boot ≠ .off → 1 ≤ speed → speed ≤ 6 → width ∈ [1, 2, 4, 8, 16] → After (.pcieLinkTraining speed width) s
      fun m => m.host.up = true ∧ m.quay.speed = speed ∧ m.quay.width = width ∧ m.quay.linkLow = (speed < 6 || width < 16) ∧
        m.ctxs = s.m.ctxs ∧ m.mem.ram = s.m.mem.ram ∧ m.cores = s.m.cores) ∧
    (∀ n, s.m.host.up = true → 34 ≤ n → n ≤ 43 → Leaves (.bar2Resize n) s
      { s.m with host := { s.m.host with bar2 := n, windows := [] } })

/-- HOLD_ENTRY_COMPLETE with a target and no run left, while the hub takes input and PSTATE is not the target yet: Hold is
reached with module memory as it was; Anchor, with no context switching and every context drained, is reached with
every quarter and the hub off. ANCHOR_WAKE for a held write, or for a change of link state of a configured port, leads
to Waking and asks the capstan for the hub and the four quarters. WAKE_COMPLETE, once they are powered, leads to Run
with no write held any more. Under these conditions each of these commands is stated to complete, exec answering a
next state: ANCHOR_WAKE, WAKE_COMPLETE, HOLD_ENTRY_COMPLETE. (16_tide_and_power.md (R418, R419, R420);
13_host_link_and_quay.md (R362); 14_espor_mailboxes.md (R367)) -/
def Obligations.PowerStatesChange : Prop :=
  ∀ (s : State),
    (∀ pair seq, s.m.power.target = some (.hold, pair, seq) → s.m.runsLeft = false → s.m.hubOn = true → s.m.quay.ps ≠ .hold →
      After .holdEntryComplete s fun m => m.quay.ps = .hold ∧ m.power.target = none ∧ m.quay.cause.getLsbD 0 = true ∧
        m.mem.ram = s.m.mem.ram ∧ m.cores = s.m.cores) ∧
    (∀ pair seq, s.m.power.target = some (.anchor, pair, seq) → s.m.runsLeft = false → s.m.hubOn = true →
      (∀ c ∈ s.m.ctxs, c.2.st ≠ .switching ∧ s.m.drained c.1 = true) → After .holdEntryComplete s fun m =>
        m.quay.ps = .anchor ∧ m.power.target = none ∧ m.power.quartersUp = 0#4 ∧ m.power.hubUp = false ∧
        m.quay.cause.getLsbD 0 = true) ∧
    (s.m.live = true → s.m.quay.ps = .anchor →
      (s.m.quay.held ≠ [] → After (.anchorWake .heldWrite) s fun m => m.quay.ps = .waking ∧ m.quay.held = s.m.quay.held ∧
        m.power.queue.map CapReq.kind = [1, 0, 0, 0, 0] ∧ m.mem.ram = s.m.mem.ram ∧ m.cores = s.m.cores) ∧
      (s.m.quay.held = [] → Idles (.anchorWake .heldWrite) s) ∧
      (∀ p b corr uncorr, p < 4 → (s.m.port p).cfg ≠ none → (s.m.port p).up ≠ b →
        After (.anchorWake (.portLink p ⟨b, corr, uncorr⟩)) s fun m =>
        m.quay.ps = .waking ∧ m.power.queue.map CapReq.kind = [1, 0, 0, 0, 0] ∧ m.mem.ram = s.m.mem.ram ∧
        m.cores = s.m.cores)) ∧
    (s.m.live = true → s.m.quay.ps = .waking → s.m.power.quartersUp = 0xF#4 → s.m.power.hubUp = true →
      After .wakeComplete s fun m => m.quay.ps = .run ∧ m.quay.held = [])

/-- With the link up and the function enabled and not in D3hot. A BAR2 access that no window, translation or memory page
serves counts in BAR2_MISS and a read of it returns all ones; one that is served, of at most 4 KiB (log 55), reads the
context's bytes, with EP on just the 64-byte words that are marked, uncorrectable or late, or, unless a page of it is
read-only or belongs to a sequence (RO_DROP), writes them at that context and address, marked when the write came
poisoned. An access of a wrong shape counts in BADACC and a read of it returns all ones. An accepted access changes
nothing there, but a read of a half of QW_HOSTERR. A read of QW_HOSTERR returns its four counts, one of a half its
two, and resets what it returns. QW_CAUSE is write 1 to clear; a write of QW_CAUSE_EN keeps its seven bits and raises
vector 0 when it enables a set cause. While the function may send messages, unmasking a vector releases a message it
holds; so does the end of its holdoff. Under these conditions each of these commands is stated to complete, exec
answering a next state: BAR2_READ, BAR2_WRITE, QUAY_REFUSED_ACCESS, QW_CAUSE_WRITE, QW_CAUSE_EN_WRITE,
QW_HOSTERR_READ, MSIX_VECTOR_UNMASK, MSIX_HOLDOFF_EXPIRY. (13_host_link_and_quay.md (R344, R345, R346, R347, R348,
R350, R356); 06_memory_tiers.md (R177: EP); 07_translation_and_sequences.md (R203); log 55 (length of a host access)) -/
def Obligations.HostAccessesAreServedOrCounted : Prop :=
  ∀ (s : State), s.m.hostOn = true →
    (∀ off n, off + n ≤ 2 ^ s.m.host.bar2 → n ≠ 0 → n ≤ 4096 →
      (s.m.bar2Target off n = none → ∀ es, After (.bar2Read off ⟨n, es⟩) s fun m => m.host.rdata = List.replicate n 0xFF#8 ∧
        m.host.rep = [] ∧ m.quay.bar2miss = min (s.m.quay.bar2miss + 1) 0xFFFF ∧ m.mem = s.m.mem ∧ m.cores = s.m.cores) ∧
      (∀ c va es, s.m.bar2Target off n = some (c, va) →
        let d := ({ s.m with mem := { s.m.mem with ends := es } }.hubRead c va n).1
        After (.bar2Read off ⟨n, es⟩) s fun m => m.host.rdata = d.bytes ∧ m.host.rep = (if d.bad then d.words else []) ∧
          m.mem.ram = s.m.mem.ram ∧ m.mem.marks = s.m.mem.marks ∧ m.cores = s.m.cores)) ∧
    (∀ off bs bad, off + bs.length ≤ 2 ^ s.m.host.bar2 → bs ≠ [] → bs.length ≤ 4096 →
      (s.m.bar2Target off bs.length = none → Leaves (.bar2Write off bs bad) s (s.m.hosterr .bar2miss)) ∧
      (∀ c va, s.m.bar2Target off bs.length = some (c, va) →
        (s.m.someRO c va bs.length = true → Leaves (.bar2Write off bs bad) s (s.m.hosterr .roDrop)) ∧
        (s.m.someRO c va bs.length = false →
          Leaves (.bar2Write off bs bad) s (s.m.withEnds bad.ends fun m =>
            (m.count 8 c 19 bs.length).hubWrite c va bs bad.poisoned)))) ∧
    (∀ off n w, off < 0x400000 →
      (quayShape off n w = false → After (.quayRefusedAccess off n w) s fun m =>
        m.quay.badacc = min (s.m.quay.badacc + 1) 0xFFFF ∧ (w = false → m.host.rdata = List.replicate n 0xFF#8) ∧
        (w = true → m.host.rdata = s.m.host.rdata) ∧ m.mem = s.m.mem ∧ m.cores = s.m.cores) ∧
      (quayShape off n w = true → ¬(w = false ∧ n = 4 ∧ off / 8 = 0x1048 / 8) → Idles (.quayRefusedAccess off n w) s)) ∧
    (After .qwHosterrRead s fun m => m.host.rdata = leBytes 8 (qwHosterr s.m.quay) ∧ qwHosterr m.quay = 0 ∧
      m.quay.cause = s.m.quay.cause ∧ { m with host := s.m.host, quay := s.m.quay } = s.m) ∧
    (After (.quayRefusedAccess 0x1048 4 false) s fun m => m.host.rdata = leBytes 4 (qwHosterr s.m.quay) ∧
      m.quay = { s.m.quay with badacc := 0, bar2miss := 0 } ∧ { m with host := s.m.host, quay := s.m.quay } = s.m) ∧
    (After (.quayRefusedAccess 0x104C 4 false) s fun m => m.host.rdata = leBytes 4 (qwHosterr s.m.quay / 2 ^ 32) ∧
      m.quay = { s.m.quay with roDrop := 0, ptrErr := 0 } ∧ { m with host := s.m.host, quay := s.m.quay } = s.m) ∧
    (∀ v, Leaves (.qwCauseWrite v) s
      { s.m with quay := { s.m.quay with cause := s.m.quay.cause &&& ~~~(v &&& 0x7F#64) } }) ∧
    (∀ v, After (.qwCauseEnWrite v) s fun m => m.quay = { s.m.quay with causeEn := v &&& 0x7F#64 } ∧
      m.host = (if v &&& 0x7F#64 &&& s.m.quay.cause = 0#64 then s.m.host else s.m.host.raise s.m.now 0) ∧
      { m with host := s.m.host, quay := s.m.quay } = s.m) ∧
    (∀ n, After (.msixVectorUnmask n) s fun m => (m.host.vec n).masked = false ∧
      ((s.m.host.vec n).pend = true → s.m.host.cfg.silent = false → (s.m.host.vec n).ready s.m.now = true → m.host.sent = s.m.host.sent ++ [n] ∧
        (m.host.vec n).pend = false) ∧
      ((s.m.host.vec n).pend = false → m.host.sent = s.m.host.sent) ∧ { m with host := s.m.host } = s.m) ∧
    (∀ n, After (.msixHoldoffExpiry n) s fun m => (m.host.vec n).masked = (s.m.host.vec n).masked ∧
      m.host.sent = (if (s.m.host.vec n).pend = true ∧ (s.m.host.vec n).masked = false ∧ s.m.host.cfg.silent = false ∧
        (s.m.host.vec n).ready s.m.now = true then s.m.host.sent ++ [n] else s.m.host.sent) ∧ { m with host := s.m.host } = s.m)

/-- With the link up and no reset or stop on. In Run: a TAIL or HEAD value within the limits of the pointer rule becomes
the pointer, another sets ERR and counts in PTR_ERR, and a ring that does not exist counts in BADACC. A bollard
doorbell without reserved bits joins the inbox of a valid core as hub update 256 of its context, to bollard 60 + BOL,
ADD or SET by its MODE; with reserved bits it counts in BADACC. A mailbox doorbell of KIND 1, no reserved bits, the
request's SEQ and a pair that is not BUSY makes the pair BUSY and, while firmware is alive, last in the order of
acceptance; another counts in BADACC. In Anchor and Waking a TAIL or doorbell write is held behind the others while
fewer than 64 are, and else counts in BADACC; a HEAD write changes nothing. A register write of 8 bytes to QW_CAUSE or
QW_CAUSE_EN, the TAIL or HEAD of a ring that exists, or a doorbell acts as that command does, and one to the request
area of a pair that is not BUSY stores its bytes; one to the identity and capability registers changes nothing; a
wrong shape counts in BADACC. At the model's offsets (log 56) a write reaches BAR4, where a double word of the table
sets a vector's mask bit, and configuration space, whose command register has the memory and bus master enables. Under
these conditions each of these commands is stated to complete, exec answering a next state: REGISTER_WRITE,
INTAKE_TAIL_WRITE, SUBMIT_TAIL_WRITE, EVENT_HEAD_WRITE, BOLLARD_DOORBELL_ADD, BOLLARD_DOORBELL_SET, MAILBOX_DOORBELL.
(13_host_link_and_quay.md (R350, R351, R356, R357, R359, R360, R362); 14_espor_mailboxes.md (R363, R364, R365);
13_host_link_and_quay.md (R339, R344, R347); log 56 (where BAR4 and configuration space stand)) -/
def Obligations.PointersAndDoorbells : Prop :=
  ∀ (s : State), s.m.hostOn = true → s.m.inReset = false →
    (s.m.quay.ps = .run →
      (∀ ring v, (mget s.m.jobs ring = none → Leaves (.intakeTailWrite ring v) s (s.m.hosterr .badacc)) ∧
        (∀ j, mget s.m.jobs ring = some j →
          (((v - j.head).toNat ≤ j.nent ∧ (v - j.tail).toNat ≤ (v - j.head).toNat) →
            Leaves (.intakeTailWrite ring v) s { s.m with jobs := mset s.m.jobs ring { j with tail := v } }) ∧
          (¬((v - j.head).toNat ≤ j.nent ∧ (v - j.tail).toNat ≤ (v - j.head).toNat) →
            Leaves (.intakeTailWrite ring v) s
              ({ s.m with jobs := mset s.m.jobs ring { j with err := true } }.hosterr .ptrErr)))) ∧
      (∀ n v, (mget s.m.queues n = none → Leaves (.submitTailWrite n v) s (s.m.hosterr .badacc)) ∧
        (∀ q, mget s.m.queues n = some q →
          (((v - q.head).toNat ≤ q.nent ∧ (v - q.tail).toNat ≤ (v - q.head).toNat) → After (.submitTailWrite n v) s fun m =>
            (mget m.queues n).map SubQ.tail = some v ∧ (mget m.queues n).map SubQ.err = some q.err ∧
            { m with queues := s.m.queues, postNo := s.m.postNo } = s.m) ∧
          (¬((v - q.head).toNat ≤ q.nent ∧ (v - q.tail).toNat ≤ (v - q.head).toNat) →
            Leaves (.submitTailWrite n v) s
              ({ s.m with queues := mset s.m.queues n { q with err := true } }.hosterr .ptrErr)))) ∧
      (∀ c v, ((mget s.m.ctxs c).bind Ctx.ring = none → Leaves (.eventHeadWrite c v) s (s.m.hosterr .badacc)) ∧
        (∀ x r, mget s.m.ctxs c = some x → x.ring = some r →
          (((r.tail - v).toNat ≤ r.nent ∧ (v - r.head).toNat ≤ (r.tail - r.head).toNat) → After (.eventHeadWrite c v) s fun m =>
            ((mget m.ctxs c).bind Ctx.ring).map Ring.head = some v ∧ m.mem.ram = s.m.mem.ram ∧ m.cores = s.m.cores ∧
            (r.dropped = 0 → m.mem.host = s.m.mem.host)) ∧
          (¬((r.tail - v).toNat ≤ r.nent ∧ (v - r.head).toNat ≤ (r.tail - r.head).toNat) →
            Leaves (.eventHeadWrite c v) s
              ({ s.m with ctxs := mset s.m.ctxs c { x with ring := some { r with err := true } } }.hosterr .ptrErr)))) ∧
      (∀ core v, bits v.toNat 15 3 = 0 → bits v.toNat 31 26 = 0 → s.m.coreValid core = true →
        (v.getLsbD 2 = false → Leaves (.bollardDoorbellAdd core v) s
          (s.m.signal 256 (bits v.toNat 25 16) 0 core (60 + bits v.toNat 1 0) false (BitVec.ofNat 32 (bits v.toNat 63 32)))) ∧
        (v.getLsbD 2 = true → Leaves (.bollardDoorbellSet core v) s
          (s.m.signal 256 (bits v.toNat 25 16) 0 core (60 + bits v.toNat 1 0) true (BitVec.ofNat 32 (bits v.toNat 63 32))))) ∧
      (∀ core v, (bits v.toNat 15 3 ≠ 0 ∨ bits v.toNat 31 26 ≠ 0) → v.getLsbD 2 = false →
        Leaves (.bollardDoorbellAdd core v) s (s.m.hosterr .badacc)) ∧
      (∀ n v, let p := s.m.espor.pair n
        let ok := bits v.toNat 17 16 = 1 ∧ bits v.toNat 63 18 = 0 ∧ bits v.toNat 15 0 = p.seq ∧ p.st ≠ .busy
        (ok → s.m.quay.reason ≠ 0x0910#16 → (catalogue.contains p.cmd = true ∨ s.m.quay.fwAlive = false) →
          After (.mailboxDoorbell n v) s fun m => m.espor.pair n = { p with st := .busy, resp := [] } ∧
            m.espor.order = (if s.m.quay.fwAlive then s.m.espor.order ++ [n] else s.m.espor.order) ∧
            { m with espor := s.m.espor } = s.m) ∧
        (¬ok → Leaves (.mailboxDoorbell n v) s (s.m.hosterr .badacc)))) ∧
    ((s.m.quay.ps = .anchor ∨ s.m.quay.ps = .waking) → s.m.quay.held.length < 64 →
      let holds := fun (i : Instr) (w : HeldWrite) =>
        Leaves i s { s.m with quay := { s.m.quay with held := s.m.quay.held ++ [w] } }
      (∀ n v, holds (.submitTailWrite n v) (.submitTail n v) ∧ holds (.intakeTailWrite n v) (.intakeTail n v)) ∧
      (∀ n v, holds (.mailboxDoorbell n v) (.mailbox n v) ∧
        (v.getLsbD 2 = false → holds (.bollardDoorbellAdd n v) (.bollard n v)) ∧
        (v.getLsbD 2 = true → holds (.bollardDoorbellSet n v) (.bollard n v)))) ∧
    ((s.m.quay.ps = .anchor ∨ s.m.quay.ps = .waking) → 64 ≤ s.m.quay.held.length →
      (∀ n v, Leaves (.submitTailWrite n v) s (s.m.hosterr .badacc) ∧ Leaves (.intakeTailWrite n v) s (s.m.hosterr .badacc)) ∧
      (∀ n v, Leaves (.mailboxDoorbell n v) s (s.m.hosterr .badacc))) ∧
    ((s.m.quay.ps = .anchor ∨ s.m.quay.ps = .waking) → ∀ c v, Idles (.eventHeadWrite c v) s) ∧
    (∀ off bs, off < 0x400000 → quayShape off bs.length true = false → Leaves (.registerWrite off bs) s (s.m.hosterr .badacc)) ∧
    (∀ bs, bs.length = 8 → let v := leNat bs
      exec (.registerWrite 0x1038 bs) s = exec (.qwCauseWrite (BitVec.ofNat 64 v)) s ∧
      exec (.registerWrite 0x1040 bs) s = exec (.qwCauseEnWrite (BitVec.ofNat 64 v)) s ∧
      (∀ off, off < 0x1000 → off % 8 = 0 → Idles (.registerWrite off bs) s) ∧
      (∀ n, n < 64 → mhas s.m.jobs n = true →
        exec (.registerWrite (0x20000 + 16 * n) bs) s = exec (.intakeTailWrite n (BitVec.ofNat 32 v)) s) ∧
      (∀ n, n < 256 → mhas s.m.queues n = true →
        exec (.registerWrite (0x29000 + 16 * n) bs) s = exec (.submitTailWrite n (BitVec.ofNat 32 v)) s) ∧
      (∀ c, c < 1024 → (mget s.m.ctxs c).bind Ctx.ring ≠ none → bitb v 32 = false →
        exec (.registerWrite (0x21000 + 32 * c + 8) bs) s = exec (.eventHeadWrite c (BitVec.ofNat 32 v)) s) ∧
      (∀ k, k < 256 → (bitb v 2 = false →
          exec (.registerWrite (0x200000 + 8 * k) bs) s = exec (.bollardDoorbellAdd k (BitVec.ofNat 64 v)) s) ∧
        (bitb v 2 = true →
          exec (.registerWrite (0x200000 + 8 * k) bs) s = exec (.bollardDoorbellSet k (BitVec.ofNat 64 v)) s)) ∧
      (∀ n, n < 64 → exec (.registerWrite (0x202000 + 8 * n) bs) s = exec (.mailboxDoorbell n (BitVec.ofNat 64 v)) s)) ∧
    (∀ n o bs, n < 64 → o < 256 → bs ≠ [] → o % 64 + bs.length ≤ 64 → let p := s.m.espor.pair n
      (p.st ≠ .busy → Leaves (.registerWrite (0x10000 + 512 * n + o) bs) s
        { s.m with espor := { s.m.espor with pairs := mset s.m.espor.pairs n { p with req := wrN p.req o bs } } }) ∧
      (p.st = .busy → Leaves (.registerWrite (0x10000 + 512 * n + o) bs) s (s.m.hosterr .badacc))) ∧
    (∀ off bs, off < 0x10000 → Leaves (.registerWrite (0x400000 + off) bs) s (s.m.bar4Write off bs)) ∧
    (∀ off bs, off < 0x1000 → Leaves (.registerWrite (0x410000 + off) bs) s (s.m.configWrite off bs)) ∧
    (∀ n bs, n < 64 → bs.length = 4 →
      Leaves (.registerWrite (0x400000 + (16 * n + 12)) bs) s (s.m.setMask n (bitb (leNat bs) 0))) ∧
    (∀ bs, s.m.boot = .done → bs.length = 4 → After (.registerWrite 0x410004 bs) s fun m =>
      m.host.cfg = { s.m.host.cfg with memEn := bitb (leNat bs) 1, busMaster := bitb (leNat bs) 2 } ∧
      { m with host := s.m.host } = s.m)

/-- For each of the 47 commands: where firmware may serve the pair (the module live in Run or Hold, firmware alive, the
pair BUSY with this command and no earlier command of its context before it), the first failing check of the header
refuses with its code and DETAIL and changes nothing but the answer; else the command's own checks refuse in the same
way, or its effect is answered with success, DEFER set where work goes on. CTX_DESTROY waits for the handling of a
broken core, and stops the context's threads and waits for its requests and signals; UNMAP, MAP_ATTR and SEQ_RELEASE
for requests and moves, SEQ_TABLE for requests to the table before it, SEQ_DEFINE for ops of its sequence,
PART_DESTROY for a refill. SUBQ_CREATE, EVRING_CREATE and JOB_ENABLE check whether the ring's first bytes can be read.
JOB_ENABLE and FW_STAGE are refused with 0x0008 where their block cannot be read; so are PLAN_ENABLE, FSET_LOAD and
ROUTE_LOAD where a check meets a word that cannot be read. ECHO returns the parameter bytes. An answered pair is DONE
and out of the order, and an answer changes pairs and message vectors only. Under these conditions each of these
commands is stated to complete, exec answering a next state: CTX_CREATE, CTX_DESTROY, CTX_SET, CTX_FAULTS,
PLAN_ENABLE, PLAN_DISABLE, FSET_LOAD, ROUTE_LOAD, SUBQ_CREATE, SUBQ_DESTROY, MAP, UNMAP, MAP_ATTR, MIGRATE,
RETIRE_FRAME, RETIRE_UNIT, SCRUB_CFG, APERTURE, SEQ_TABLE, SEQ_DEFINE, SEQ_RELEASE, PORT_CFG, FLOW_WRITE,
STREAM_ENABLE, STREAM_DISABLE, QUAR_CLEAR, JOB_ENABLE, JOB_DISABLE, QUAR_LIST, PART_CREATE, PART_DESTROY, PSTATE,
POWER_LIMIT, TIDE_CFG, CAPSTAN_CFG, HEALTH_READ, FW_STAGE, TOPO_ACCEPT, HEALTH_CLEAR, ERRLOG_READ, EVRING_CREATE,
EVRING_DESTROY, INTR_BIND, SNAP_ARM, SNAP_CANCEL, ECHO, INFO. (14_espor_mailboxes.md (R364, R366, R367, R368, R369,
R370, R384); log 2 (what firmware chooses is an operand)) -/
def Obligations.MailboxCommandsAreServed : Prop :=
  (∀ (s : State) (pair num tableQ : Nat) (bad : Option Nat) (ringBad : Bool),
    Serves (.ctxCreate pair num tableQ) s pair ctxCreateCmd (s.m.ctxCreateReply num tableQ) ∧
    Serves (.ctxSet pair) s pair ctxSetCmd s.m.ctxSetReply ∧
    Serves (.ctxFaults pair) s pair ctxFaultsCmd s.m.ctxFaultsReply ∧
    Serves (.planEnable pair ⟨num, bad⟩) s pair planEnableCmd (s.m.replyOver bad fun m => m.planEnableReply num) ∧
    Serves (.planDisable pair) s pair planDisableCmd (s.m.planDisableReply pair) ∧
    Serves (.fsetLoad ⟨pair, bad⟩) s pair fsetLoadCmd (s.m.replyOver bad fun m => m.fsetLoadReply pair) ∧
    Serves (.routeLoad ⟨pair, bad⟩) s pair routeLoadCmd (s.m.replyOver bad fun m => m.routeLoadReply pair) ∧
    Serves (.subqCreate ⟨pair, ringBad⟩ num) s pair subqCreateCmd (s.m.subqCreateReply ringBad num) ∧
    Serves (.subqDestroy pair) s pair subqDestroyCmd s.m.subqDestroyReply ∧
    Serves (.map pair num) s pair mapCmd (s.m.mapReply num) ∧
    Serves (.migrate pair) s pair migrateCmd (s.m.migrateReply pair) ∧
    Serves (.retireFrame pair) s pair retireFrameCmd (s.m.retireFrameReply pair) ∧
    Serves (.retireUnit pair) s pair retireUnitCmd s.m.retireUnitReply ∧
    Serves (.scrubCfg pair) s pair scrubCfgCmd s.m.scrubCfgReply ∧
    Serves (.aperture pair) s pair apertureCmd s.m.apertureReply ∧
    Serves (.portCfg pair) s pair portCfgCmd s.m.portCfgReply ∧
    Serves (.flowWrite pair) s pair flowWriteCmd s.m.flowWriteReply ∧
    Serves (.streamEnable pair) s pair streamEnableCmd s.m.streamEnableReply ∧
    Serves (.streamDisable pair) s pair streamDisableCmd s.m.streamDisableReply ∧
    Serves (.quarClear pair) s pair quarClearCmd s.m.quarClearReply ∧
    Serves (.quarList pair) s pair quarListCmd s.m.quarListReply ∧
    Serves (.jobDisable pair) s pair jobDisableCmd (s.m.jobDisableReply pair) ∧
    Serves (.partCreate pair) s pair partCreateCmd s.m.partCreateReply ∧
    Serves (.pstate pair) s pair pstateCmd (s.m.pstateReply pair) ∧
    Serves (.powerLimit pair) s pair powerLimitCmd s.m.powerLimitReply ∧
    Serves (.tideCfg pair) s pair tideCfgCmd s.m.tideCfgReply ∧
    Serves (.capstanCfg pair) s pair capstanCfgCmd s.m.capstanCfgReply ∧
    Serves (.healthRead pair) s pair healthReadCmd s.m.healthReadReply ∧
    Serves (.healthClear pair) s pair healthClearCmd s.m.healthClearReply ∧
    Serves (.topoAccept pair) s pair topoAcceptCmd s.m.topoAcceptReply ∧
    Serves (.errlogRead pair) s pair errlogReadCmd s.m.errlogReadReply ∧
    Serves (.evringCreate ⟨pair, ringBad⟩) s pair evringCreateCmd (s.m.evringCreateReply ringBad) ∧
    Serves (.evringDestroy pair) s pair evringDestroyCmd s.m.evringDestroyReply ∧
    Serves (.intrBind pair) s pair intrBindCmd s.m.intrBindReply ∧
    Serves (.snapArm pair) s pair snapArmCmd s.m.snapArmReply ∧
    Serves (.snapCancel pair) s pair snapCancelCmd s.m.snapCancelReply ∧
    Serves (.info pair) s pair infoCmd s.m.infoReply ∧
    (s.m.coreBroken (s.m.espor.pair pair).ctxNo = false →
      s.m.quietCtx (s.m.espor.pair pair).ctxNo = true ∨ ¬ Taken s pair ctxDestroyCmd →
      Serves (.ctxDestroy pair) s pair ctxDestroyCmd s.m.ctxDestroyReply) ∧
    (Taken s pair ctxDestroyCmd → s.m.coreBroken (s.m.espor.pair pair).ctxNo = false →
      s.m.quietCtx (s.m.espor.pair pair).ctxNo = false →
      Leaves (.ctxDestroy pair) s (s.m.stopThreads (s.m.espor.pair pair).ctxNo)) ∧
    (s.m.coreBroken (s.m.espor.pair pair).ctxNo = true → Idles (.ctxDestroy pair) s) ∧
    (s.m.pagesBusy (s.m.espor.pair pair).ctxNo ((s.m.espor.pair pair).arg 0 8) ((s.m.espor.pair pair).arg 8 8) = true →
      Idles (.unmap pair) s) ∧
    (s.m.moorWaits (s.m.espor.pair pair) = true → Idles (.mapAttr pair) s) ∧
    (s.m.releaseWaits (s.m.espor.pair pair) = true → Idles (.seqRelease pair) s) ∧
    (s.m.tableBusy (s.m.espor.pair pair).ctxNo = true → Idles (.seqTable pair) s) ∧
    (s.m.tableBusy (s.m.espor.pair pair).ctxNo = false → Serves (.seqTable pair) s pair seqTableCmd s.m.seqTableReply) ∧
    (s.m.seqBusy (s.m.espor.pair pair).ctxNo ((s.m.espor.pair pair).arg 0 2) 1 = true → Idles (.seqDefine pair) s) ∧
    (s.m.seqBusy (s.m.espor.pair pair).ctxNo ((s.m.espor.pair pair).arg 0 2) 1 = false →
      Serves (.seqDefine pair) s pair seqDefineCmd s.m.seqDefineReply) ∧
    (s.m.refillWaits ((s.m.espor.pair pair).arg 0 1) = true → Idles (.partDestroy pair) s) ∧
    (s.m.pagesBusy (s.m.espor.pair pair).ctxNo ((s.m.espor.pair pair).arg 0 8) ((s.m.espor.pair pair).arg 8 8) = false →
      Serves (.unmap pair) s pair unmapCmd s.m.unmapReply) ∧
    (s.m.moorWaits (s.m.espor.pair pair) = false → Serves (.mapAttr pair) s pair mapAttrCmd s.m.mapAttrReply) ∧
    (s.m.releaseWaits (s.m.espor.pair pair) = false → Serves (.seqRelease pair) s pair seqReleaseCmd s.m.seqReleaseReply) ∧
    (s.m.refillWaits ((s.m.espor.pair pair).arg 0 1) = false → Serves (.partDestroy pair) s pair partDestroyCmd s.m.partDestroyReply) ∧
    Serves (.jobEnable pair num ⟨none, ringBad⟩) s pair jobEnableCmd (fun _ => .refuse 0x0008 0) ∧
    (∀ b, Serves (.jobEnable pair num ⟨some b, ringBad⟩) s pair jobEnableCmd
      (fun p => s.m.jobEnableReply ringBad num p (fit p.xlen b))) ∧
    Serves (.fwStage pair none) s pair fwStageCmd (fun _ => .refuse 0x0008 0) ∧
    (∀ b, Serves (.fwStage pair (some b)) s pair fwStageCmd (fun p => s.m.fwStageReply pair p (fit p.xlen b))) ∧
    (let n := min (s.m.espor.pair pair).len 224
     Serves (.echo pair) s pair (echoCmd n) (fun p => .done s.m (p.argBytes 0 n)))) ∧
  (∀ (m : Hw) (n : Nat) (later : Bool) (status detail : Nat) (out : List Byte),
    let t := m.answer n later status detail out
    (t.espor.pair n).st = .done ∧ n ∉ t.espor.order ∧ (∀ k, k ≠ n → t.espor.pair k = m.espor.pair k) ∧
    { t with espor := m.espor, host := m.host } = m)

/-- Where the header checks find nothing and the fields are in their ranges: CTX_SET changes the fields given and keeps
those given as 0; CTX_FAULTS frees every record below FIRST; SUBQ_CREATE makes an empty queue under a free number and
returns it and EVRING_CREATE makes an empty ring, where the ring address can be read; INTR_BIND binds the source to
the vector with its holdoff; APERTURE maps or unmaps the window; PORT_CFG sets the port's addresses, SCRUB_CFG the
scrub, CAPSTAN_CFG WAKE_BOUND, POWER_LIMIT both limits; PSTATE with target Hold or Anchor is deferred until the runs
are complete; FW_STAGE puts an authentic image into the inactive slot as trial and leaves flash as it was for another;
HEALTH_CLEAR makes the record invalid and seals it again; ECHO answers with the bytes it was given. Module memory and
cores are as before. Under these conditions each of these commands is stated to complete, exec answering a next state:
CTX_SET, CTX_FAULTS, SUBQ_CREATE, SCRUB_CFG, APERTURE, PORT_CFG, PSTATE, POWER_LIMIT, CAPSTAN_CFG, FW_STAGE,
HEALTH_CLEAR, EVRING_CREATE, INTR_BIND, ECHO. (14_espor_mailboxes.md (R372, R375, R379, R380); 16_tide_and_power.md
(R419, R423, R431); 06_memory_tiers.md (R167); 13_host_link_and_quay.md (R345); 17_bringup_and_variants.md (R441,
R444); 12_ingest_and_media.md (R307)) -/
def Obligations.ConfigurationCommandsSetWhatTheyName : Prop :=
  ∀ (s : State) (pair : Nat), let p := s.m.espor.pair pair
    let same := fun (m : Hw) => m.mem.ram = s.m.mem.ram ∧ m.mem.marks = s.m.mem.marks ∧ m.cores = s.m.cores
    (∀ x, Taken s pair ctxSetCmd → mget s.m.ctxs p.ctxNo = some x → p.arg 4 4 ≤ 60000 →
      (p.arg 8 8 = 0 ∨ x.tierBytes 0 ≤ p.arg 8 8) → (p.arg 16 8 = 0 ∨ x.tierBytes 1 ≤ p.arg 16 8) →
      After (.ctxSet pair) s fun m => same m ∧ mget m.ctxs p.ctxNo = some { x with
        shares := if p.arg 0 2 = 0 then x.shares else p.arg 0 2, waitMs := if p.arg 4 4 = 0 then x.waitMs else p.arg 4 4
        limFast := if p.arg 8 8 = 0 then x.limFast else p.arg 8 8, limSlow := if p.arg 16 8 = 0 then x.limSlow else p.arg 16 8 }) ∧
    (∀ x, Taken s pair ctxFaultsCmd → mget s.m.ctxs p.ctxNo = some x → After (.ctxFaults pair) s fun m => same m ∧
      mget m.ctxs p.ctxNo = some { x with faults := x.faults.filter fun r => decide (p.arg 0 4 ≤ r.num) }) ∧
    (∀ hint q k, Taken s pair subqCreateCmd → p.arg 0 8 % 64 = 0 → 4 ≤ k → k ≤ 16 → p.arg 8 4 = 2 ^ k →
      chooseKey s.m.queues hint 256 = some q → After (.subqCreate ⟨pair, false⟩ hint) s fun m => same m ∧
        rdN (m.espor.pair pair).resp 32 2 = leBytes 2 q ∧ mget m.queues q = some
          { ctx := p.ctxNo, ba := p.arg 0 8, nent := 2 ^ k, head := 0#32, tail := 0#32, err := false, cur := none, posts := []
            waits := none }) ∧
    (∀ x k, Taken s pair evringCreateCmd → mget s.m.ctxs p.ctxNo = some x → x.ring = none → p.arg 0 8 % 64 = 0 → 6 ≤ k → k ≤ 20 →
      p.arg 8 4 = 2 ^ k → (p.arg 12 1 = 0 ∨ (p.arg 12 1 = 1 ∧ s.m.moduleRing = none)) → After (.evringCreate ⟨pair, false⟩) s fun m =>
        same m ∧ mget m.ctxs p.ctxNo = some { x with ring := some ⟨p.arg 0 8, 2 ^ k, 0#32, 0#32, false, 0, 0⟩ } ∧
        m.moduleRing = (if p.arg 12 1 = 1 then some p.ctxNo else s.m.moduleRing)) ∧
    (Taken s pair intrBindCmd → 1 ≤ p.arg 0 1 → p.arg 0 1 ≤ 63 → p.arg 1 1 ≤ 3 → p.arg 4 2 ≤ 1000 → p.arg 6 1 = 0 →
      s.m.sourceExists (p.arg 1 1) (p.arg 2 2) = true → s.m.host.binds.length < 64 → After (.intrBind pair) s fun m => same m ∧
        m.host.vecOf (p.arg 1 1) (p.arg 2 2) = some (p.arg 0 1) ∧ (m.host.vec (p.arg 0 1)).holdoff = p.arg 4 2) ∧
    (Taken s pair apertureCmd → p.arg 8 8 % 2 ^ 30 = 0 → p.arg 0 2 < 2 ^ (s.m.host.bar2 - 30) →
      (∀ w, mget s.m.host.windows (p.arg 0 2) = some w → w.ctx = p.ctxNo) →
      (p.arg 2 1 = 1 → After (.aperture pair) s fun m => same m ∧
        mget m.host.windows (p.arg 0 2) = some ⟨p.ctxNo, p.arg 8 8⟩) ∧
      (p.arg 2 1 = 0 → After (.aperture pair) s fun m => same m ∧ m.host.windows = mdel s.m.host.windows (p.arg 0 2))) ∧
    (Taken s pair portCfgCmd → p.arg 1 1 ≤ 7 → p.arg 0 1 ≤ 3 → p.arg 0 1 < s.m.ports.length → p.arg 2 2 ≤ 4095 → p.arg 4 1 ≤ 32 →
      p.arg 5 1 ≤ 128 → After (.portCfg pair) s fun m => same m ∧
        (m.port (p.arg 0 1)).cfg = (if bitb (p.arg 1 1) 0 || bitb (p.arg 1 1) 1 then some
          { v4 := bitb (p.arg 1 1) 0, v6 := bitb (p.arg 1 1) 1, tagged := bitb (p.arg 1 1) 2, vlan := p.arg 2 2, pfx4 := p.arg 4 1
            pfx6 := p.arg 5 1, ip4 := p.arg 8 4, ip6 := p.arg 16 16 } else none)) ∧
    (Taken s pair scrubCfgCmd → 4 ≤ p.arg 0 2 → p.arg 0 2 ≤ 168 → p.arg 2 2 ≠ 0 → After (.scrubCfg pair) s fun m => same m ∧
      m.mem.scrubHours = p.arg 0 2 ∧ m.mem.scrubThresh = p.arg 2 2) ∧
    (Taken s pair capstanCfgCmd → 100 ≤ p.arg 0 4 → p.arg 0 4 ≤ 10000000 → After (.capstanCfg pair) s fun m => same m ∧
      m.power = { s.m.power with wakeBound := p.arg 0 4 }) ∧
    (Taken s pair powerLimitCmd → p.arg 0 2 % 25 = 0 → 400 ≤ p.arg 0 2 → p.arg 0 2 ≤ s.m.fuses.clk → s.m.topFrt ≤ p.arg 0 2 →
      12 ≤ p.arg 2 1 → p.arg 2 1 ≤ s.m.fuses.pwr → After (.powerLimit pair) s fun m => same m ∧
        m.power.clkLimit = p.arg 0 2 ∧ m.power.pwrLimit = p.arg 2 1 * 100) ∧
    (Taken s pair pstateCmd → (p.arg 0 1 = 1 ∨ p.arg 0 1 = 2) → s.m.streams = [] → s.m.jobs = [] → s.m.fixedPlan = false →
      s.m.quay.ps = .run → s.m.power.target = none → After (.pstate pair) s fun m => same m ∧ m.quay.ps = .run ∧
        m.power.target = some (if p.arg 0 1 = 1 then .hold else .anchor, pair, p.seq)) ∧
    (∀ b, Taken s pair fwStageCmd → (s.m.flash.trial = none ∨ s.m.flash.booted = true) → After (.fwStage pair (some b)) s fun m =>
      same m ∧ (imageFault s.m.fuses (fit p.xlen b) = none → m.flash.trial = some (!s.m.flash.activeB) ∧
        m.flash.booted = false ∧ m.flash.activeB = s.m.flash.activeB ∧
        m.flash.slot (!s.m.flash.activeB) = .image (fit p.xlen b) ∧
        m.flash.slot s.m.flash.activeB = s.m.flash.slot s.m.flash.activeB) ∧
      (imageFault s.m.fuses (fit p.xlen b) ≠ none → m.flash = s.m.flash)) ∧
    (Taken s pair healthClearCmd → After (.healthClear pair) s fun m => same m ∧
      m.island = (s.m.setHealth { s.m.island.health with valid := false }).island ∧ m.island.health.valid = false) ∧
    (∀ n, n = p.len → Taken s pair (echoCmd (min n 224)) → After (.echo pair) s fun m => same m ∧
      rdN (m.espor.pair pair).resp 32 n = p.argBytes 0 n)

/-- While the always-on island is powered: each sideband request changes nothing of the module but the island: it is held,
to be answered as time passes, and where another is held still the answer is ERROR_NOT_READY at once (a set endpoint
identifier is the island's own, and the version of a PLDM type is a free value). Readings are the quay fields the
table names, temperatures in half degrees Celsius, sensors 5 to 8 and 9 unavailable while their unit is off; the FRU
record holds the manufacturer "Cithaelle Systems", the part number, the stepping of QW_ID, serial number, date of
manufacture and MAC addresses; a PDR carries the table's thresholds; a command outside the table is unsupported.
Without power nothing is answered. Under these conditions each of these commands is stated to complete, exec answering
a next state: SET_ENDPOINT_ID, GET_ENDPOINT_ID, GET_MCTP_VERSION_SUPPORT, GET_MESSAGE_TYPE_SUPPORT, GET_TID,
GET_PLDM_VERSION, GET_PLDM_TYPES, GET_PLDM_COMMANDS, GET_PDR_REPOSITORY_INFO, GET_PDR, GET_SENSOR_READING,
GET_STATE_SENSOR_READINGS, GET_FRU_RECORD_TABLE_METADATA, GET_FRU_RECORD_TABLE, UNSUPPORTED_PLDM_COMMAND.
(19_electrical_and_mechanical.md (R480, R481, R482, R483); log 24 (numbers of the DMTF standards)) -/
def Obligations.SidebandAnswersItsTable : Prop :=
  ∀ (s : State), s.m.fuses.stepL < 16 → s.m.fuses.stepD < 16 →
    ((∀ e, 1 ≤ e → e ≤ 254 → (s.m.island.on = false → Idles (.setEndpointId e) s) ∧
        (s.m.island.on = true → s.m.island.asked = none → Leaves (.setEndpointId e) s
          { s.m with island := { s.m.island with eid := e, asked := some (.endpoint e) } }) ∧
        (s.m.island.on = true → s.m.island.asked.isSome = true → Leaves (.setEndpointId e) s
          { s.m with island := { s.m.island with answer := some .notReady } })) ∧
     (∀ e, (e = 0 ∨ 255 ≤ e) → Tells (.setEndpointId e) s .invalid) ∧
     Tells .getEndpointId s (.endpoint s.m.island.eid) ∧ Tells .getMctpVersionSupport s (.versions [0x0103]) ∧
     Tells .getMessageTypeSupport s (.types [1]) ∧ Tells .getTid s (.tid 0) ∧ Tells .getPldmTypes s (.types [0, 2, 4]) ∧
     (∀ t, t ∈ [0, 2, 4] → Tells (.getPldmCommands t) s (.commands (pldmCommands t)) ∧ (s.m.island.on = true →
        After (.getPldmVersion t) s fun m =>
          (s.m.island.asked = none → ∃ v, m.island = { s.m.island with asked := some (.versions [v]) }) ∧
          (s.m.island.asked.isSome = true → m.island = { s.m.island with answer := some .notReady }) ∧
          { m with island := s.m.island, mem := s.m.mem } = s.m ∧ m.mem = { s.m.mem with free := s.m.mem.free + 1 })) ∧
     (∀ t, t ∉ [0, 2, 4] → Tells (.getPldmCommands t) s .invalid ∧ Tells (.getPldmVersion t) s .invalid) ∧
     Tells .getPdrRepositoryInfo s (.repository 14) ∧ Tells .getFruRecordTableMetadata s (.fruMeta 1) ∧
     Tells (.getPdr 1) s (.pdr 1 5 10 [(0, 340000), (1, 300000), (2, 425000), (3, 440000)]) ∧
     Tells (.getPdr 5) s (.pdr 5 2 500 [(2, 105000), (3, 115000)]) ∧
     Tells (.getPdr 4) s (.pdr 4 7 1000 [(2, s.m.power.pwrLimit * 1000)]) ∧
     Tells (.getPdr 14) s (.pdr 23 0 0 []) ∧ (∀ h, (h = 0 ∨ 14 < h) → Tells (.getPdr h) s .invalid) ∧
     Tells (.getSensorReading 1) s (.reading s.m.quay.v400) ∧ Tells (.getSensorReading 2) s (.reading s.m.quay.v48) ∧
     Tells (.getSensorReading 3) s (.reading s.m.quay.v12) ∧ Tells (.getSensorReading 4) s (.reading s.m.quay.pIn) ∧
     (∀ q, q < 4 → Tells (.getSensorReading (5 + q)) s
        (if s.m.power.quartersUp.getLsbD q then .reading (halfDegrees (lget s.m.quay.tq q 0)) else .unavailable)) ∧
     Tells (.getSensorReading 9) s (if s.m.power.hubUp then .reading (halfDegrees s.m.quay.thub) else .unavailable) ∧
     Tells (.getSensorReading 10) s (.reading (halfDegrees s.m.quay.tcool)) ∧
     Tells (.getStateSensorReadings 20) s (.reading s.m.quay.st.code) ∧
     Tells (.getStateSensorReadings 21) s (.reading s.m.quay.ps.code) ∧
     Tells (.getStateSensorReadings 22) s (.reading (b2n s.m.quay.warn + 2 * b2n s.m.quay.throt)) ∧
     Tells (.getStateSensorReadings 23) s (.reading s.m.island.sync.code) ∧
     Tells .getFruRecordTable s (.fru (ascii "Cithaelle Systems") s.m.fuses.partName
        [BitVec.ofNat 8 (bits (quayWord s.m 0) 19 12)] s.m.fuses.serial s.m.fuses.made s.m.fuses.macs) ∧
     (∀ t c, (pldmCommands t).contains c = false → Tells (.unsupportedPldmCommand t c) s .unsupported))

/-- TIDE_CFG whose fields are in their ranges is refused with 0x0504 while any stream is enabled or any enabled plan
contains a TIDE_WAIT, and then changes nothing but the answer; else it becomes the configuration. JOB_ENABLE whose
other fields are in their ranges is accepted with MODE 0 for up to 3 consumer clusters and with MODE 1 for 3 or more,
where the consumer clusters are the clusters of its CONS cores; any other combination is refused with 0x0305. Under
these conditions each of these commands is stated to complete, exec answering a next state: JOB_ENABLE, TIDE_CFG.
(16_tide_and_power.md R415; 12_ingest_and_media.md R332) -/
def Obligations.TideAndJobModesAreGuarded : Prop :=
  (∀ (s : State) (pair : Nat), Taken s pair tideCfgCmd → let p := s.m.espor.pair pair
    p.arg 0 1 ≤ 1 → 1 ≤ p.arg 2 1 → p.arg 2 1 ≤ 15 → 1 ≤ p.arg 8 4 → p.arg 8 4 ≤ p.arg 4 4 → p.arg 4 4 ≤ 1000 * p.arg 8 4 →
    (∀ i, i < 4 → (p.arg 2 1).testBit i = true → (s.m.port i).cfg ≠ none) →
    ((s.m.streams ≠ [] ∨ s.m.tideWaits = true) → Leaves (.tideCfg pair) s (s.m.answer pair false 0x0504 0 [])) ∧
    (s.m.streams = [] → s.m.tideWaits = false → After (.tideCfg pair) s fun m =>
      m.island.tideCfg = some ⟨p.arg 0 1, p.arg 1 1, p.arg 2 1, p.arg 4 4, p.arg 8 4, p.arg 16 8⟩ ∧ m.mem.ram = s.m.mem.ram)) ∧
  (∀ (s : State) (pair num n : Nat) (b : List Byte) (x : Ctx), Taken s pair jobEnableCmd → let p := s.m.espor.pair pair
    let l := fit p.xlen b
    let j := Job.parse p.ctxNo l
    let clusters := (((List.range (numAt l 46 1)).map fun i => numAt l (48 + i) 1 / 8).eraseDups).length
    let mode := numAt l 15 1
    mget s.m.ctxs p.ctxNo = some x → chooseKey s.m.jobs num 64 = some n → jobReserved l = false → j.ba % 64 = 0 →
    j.maxima = true → mode ≤ 1 → tzReserved (l.drop 56) = false → encReserved (l.drop 120) = false →
    (¬((mode = 0 ∧ clusters ≤ 3) ∨ (mode = 1 ∧ 3 ≤ clusters)) →
      Leaves (.jobEnable pair num ⟨some b, false⟩) s (s.m.answer pair false 0x0305 (atField 15) [])) ∧
    (((mode = 0 ∧ clusters ≤ 3) ∨ (mode = 1 ∧ 3 ≤ clusters)) → 1 ≤ j.ndec → j.ndec ≤ s.m.engineFree 8 Job.ndec → 1 ≤ j.ntz →
      j.ntz ≤ s.m.engineFree 8 Job.ntz → j.nenc ≤ s.m.engineFree 4 Job.nenc → s.m.jobRanges x j = true → j.tz.ok = true →
      (∀ e, j.enc = some e → e.ok j.maxF = true) → After (.jobEnable pair num ⟨some b, false⟩) s fun m => mget m.jobs n = some j))

/-- SNAP_ARM is refused with 0x000A when no tick rate is set, when tick TICK has begun, or when PERIOD is not 0 and PERIOD
times the tick period is below 1 ms; else the arming becomes TICK and PERIOD, whatever arming there was, and the
response EPOCH is the number the next snapshot will carry. The module takes a snapshot at the armed tick, is armed for
the tick PERIOD later, or for none when PERIOD is 0, and the snapshot carries that number. SNAP_CANCEL ends the arming
and leaves a publication in progress, which still completes. Under these conditions each of these commands is stated
to complete, exec answering a next state: SNAPSHOT_TICK, SNAPSHOT_PUBLICATION, SNAP_ARM, SNAP_CANCEL.
(18_telemetry_and_faults.md R455) -/
def Obligations.SnapshotsAreArmedAndCancelled : Prop :=
  (∀ (s : State) (pair : Nat), Taken s pair snapArmCmd → let p := s.m.espor.pair pair
    let refused := ∃ d, Leaves (.snapArm pair) s (s.m.answer pair false 0x000A d [])
    (s.m.island.tideCfg = none → refused) ∧
    (∀ t, s.m.island.tideCfg = some t →
      let fast := p.arg 8 4 ≠ 0 ∧ p.arg 8 4 * (10 ^ 9 * t.den / t.num) < 10 ^ 6
      ((t.at (p.arg 0 8) ≤ s.m.now ∨ fast) → refused) ∧
      (s.m.now < t.at (p.arg 0 8) → ¬fast → After (.snapArm pair) s fun m =>
        m.snap = { s.m.snap with armTick := some (p.arg 0 8), period := p.arg 8 4 } ∧
        rdN (m.espor.pair pair).resp 32 4 = leBytes 4 (s.m.snap.epoch + 1) ∧ m.mem = s.m.mem ∧ m.cores = s.m.cores))) ∧
  (∀ (s : State) (n : Nat) (t : TideCfg), s.m.hubOn = true → s.m.snap.armTick = some n → s.m.island.tideCfg = some t →
    t.at n ≤ s.m.now → After .snapshotTick s fun m =>
      m.snap.armTick = (if s.m.snap.period = 0 then none else some (n + s.m.snap.period)) ∧
      (s.m.snap.publishing = false → m.snap.shadow = s.m.counters ∧ m.snap.shadowTick = n ∧
        m.snap.epoch = s.m.snap.epoch + 1 ∧ m.snap.epochB = s.m.snap.epoch + 1)) ∧
  (∀ (s : State) (pair : Nat), Taken s pair snapCancelCmd → After (.snapCancel pair) s fun m =>
    m.snap = { s.m.snap with armTick := none } ∧ m.mem = s.m.mem ∧ m.cores = s.m.cores) ∧
  (∀ (s : State), s.m.snap.publishing = true → s.m.hubOn = true → After .snapshotPublication s fun m =>
    m.snap.publishing = false ∧ m.snap.area = s.m.snap.shadow ∧ m.snap.epochE = s.m.snap.epoch)

/-- A packet that matches a valid flow entry and passes its sender lock, whose stream is not enabled in the entry's
context, changes nothing but counters (and posts the overflow event of one that wraps): the port's received frames and
bytes and its NO_STREAM counter; no sender lock, no stream, no quarantine and no byte of memory changes. After
STREAM_DISABLE is done the stream is not enabled, and a frame deadline of a stream that is not enabled changes nothing
either. Under these conditions each of these commands is stated to complete, exec answering a next state:
ETHERNET_FRAME_RECEIVE, FRAME_DL, STREAM_DISABLE. (12_ingest_and_media.md R312) -/
def Obligations.DisabledStreamsTakeNoPackets : Prop :=
  (∀ (s : State) (port n e : Nat) (p : Packet) (ends : List ReadEnd) (f : Flow), s.m.hubOn = true → s.m.island.on = true →
    frameLen n = true → (s.m.port port).up = true →
    sooner port s.pending = [] → (port, .rtp n p ends) ∉ s.m.early →
    (s.m.flows.find? fun f => f.2.hits port p) = some (e, f) → s.m.quarOf e p = none → f.judge p = .pass →
    (∀ x, mget s.m.streams f.stream = some x → x.ctx ≠ f.ctx ∨ x.entries.contains e = false) →
    Leaves (.ethernetFrameReceive port (.rtp n p ends)) s ((s.m.rxFrame port n).withEnds ends fun m => m.count 2 port 13 1) ∧
    After (.ethernetFrameReceive port (.rtp n p ends)) s fun m => m.flows = s.m.flows ∧ m.streams = s.m.streams ∧
      m.quars = s.m.quars ∧ m.mem.ram = s.m.mem.ram ∧ m.mem.marks = s.m.mem.marks ∧ m.cores = s.m.cores) ∧
  (∀ (s : State) (pair : Nat), Taken s pair streamDisableCmd → let n := (s.m.espor.pair pair).arg 0 2
    mhas s.m.streams n = true → (s.m.streams.map Prod.fst).Nodup → After (.streamDisable pair) s fun m =>
      mget m.streams n = none ∧ m.mem = s.m.mem) ∧
  (∀ (s : State) (n : Nat) (ends : List ReadEnd), mget s.m.streams n = none →
    Leaves (.frameDl ⟨n, ends⟩) s { s.m with mem := { s.m.mem with ends := [] } })
end

