-- ==== Sys2Proof/Laws/Memory.lean ====
section
/-! SUPPORT. Laws of the finite maps and of the memories: what a write changes, and that every memory operation keeps the
canonical form. -/

namespace Sys2Proof.Machine

/-! ### Finite maps -/

@[simp] theorem mget_mset_self {α : Type} (m : Map α) (k : Nat) (v : α) : mget (mset m k v) k = some v := by
  induction m with
  | nil => simp [mset, mget]
  | cons e t ih =>
    obtain ⟨j, w⟩ := e
    simp only [mset]
    split
    · simp [mget]
    · split
      · simp [mget]
      · simp [mget, *]

theorem mget_mset_ne {α : Type} (m : Map α) {k j : Nat} (v : α) (h : j ≠ k) : mget (mset m k v) j = mget m j := by
  induction m with
  | nil => simp [mset, mget, Ne.symm h]
  | cons e t ih =>
    obtain ⟨i, w⟩ := e
    simp only [mset]
    split
    · next hi => subst hi; simp [mget, Ne.symm h]
    · split
      · simp [mget, Ne.symm h]
      · simp [mget, ih]

theorem mget_mset {α : Type} (m : Map α) (k j : Nat) (v : α) :
    mget (mset m k v) j = if j = k then some v else mget m j := by
  split
  · next h => subst h; simp
  · next h => exact mget_mset_ne m v h

theorem mem_of_mget {α : Type} {m : Map α} {k : Nat} {v : α} (h : mget m k = some v) : (k, v) ∈ m := by
  induction m with
  | nil => simp [mget] at h
  | cons e t ih =>
    obtain ⟨j, w⟩ := e
    simp only [mget] at h
    split at h
    · next hj => cases h; subst hj; simp
    · exact List.mem_cons_of_mem _ (ih h)

/-- An entry of a map after an update is the new one or an old one. -/
theorem mem_mset {α : Type} {m : Map α} {k : Nat} {v : α} {e : Nat × α} (h : e ∈ mset m k v) : e = (k, v) ∨ e ∈ m := by
  induction m with
  | nil => simp [mset] at h; exact .inl h
  | cons f t ih =>
    obtain ⟨j, w⟩ := f
    simp only [mset] at h
    split at h
    · rcases List.mem_cons.1 h with h | h
      · exact .inl h
      · exact .inr (List.mem_cons_of_mem _ h)
    · split at h
      · rcases List.mem_cons.1 h with h | h
        · exact .inl h
        · exact .inr h
      · rcases List.mem_cons.1 h with h | h
        · exact .inr (h ▸ List.mem_cons_self)
        · rcases ih h with h | h
          · exact .inl h
          · exact .inr (List.mem_cons_of_mem _ h)

/-- A deletion leaves only old entries. -/
theorem mem_mdel {α : Type} {m : Map α} {k : Nat} {e : Nat × α} (h : e ∈ mdel m k) : e ∈ m := by
  induction m with
  | nil => simp [mdel] at h
  | cons f t ih =>
    obtain ⟨j, w⟩ := f
    simp only [mdel] at h
    split at h
    · exact List.mem_cons_of_mem _ h
    · rcases List.mem_cons.1 h with h | h
      · exact h ▸ List.mem_cons_self
      · exact List.mem_cons_of_mem _ (ih h)

/-! ### The canonical form -/

theorem wfFrom_mono {lo lo' : Nat} {m : Memory} (hl : lo' ≤ lo) (h : wfFrom lo m = true) : wfFrom lo' m = true := by
  cases m with
  | nil => rfl
  | cons e t =>
    obtain ⟨a, b⟩ := e
    simp only [wfFrom, Bool.and_eq_true, decide_eq_true_eq] at h ⊢
    exact ⟨⟨Nat.le_trans hl h.1.1, h.1.2⟩, h.2⟩

theorem wfFrom_cons {lo a : Nat} {b : Byte} {t : Memory} :
    wfFrom lo ((a, b) :: t) = true ↔ (lo ≤ a ∧ b ≠ 0) ∧ wfFrom (a + 1) t = true := by
  simp only [wfFrom, Bool.and_eq_true, decide_eq_true_eq]

/-- A write of one byte keeps the canonical form. -/
theorem wr_wfFrom {lo : Nat} {m : Memory} {a : Nat} {b : Byte} (ha : lo ≤ a) (h : wfFrom lo m = true) :
    wfFrom lo (wr m a b) = true := by
  induction m generalizing lo with
  | nil =>
    simp only [wr]
    split
    · rfl
    · next hb => exact wfFrom_cons.2 ⟨⟨ha, hb⟩, rfl⟩
  | cons e t ih =>
    obtain ⟨j, c⟩ := e
    have hc := wfFrom_cons.1 h
    simp only [wr]
    split
    · next hj =>
      subst hj
      split
      · exact wfFrom_mono (Nat.le_succ_of_le ha) hc.2
      · next hb => exact wfFrom_cons.2 ⟨⟨ha, hb⟩, hc.2⟩
    · next hj =>
      split
      · next hlt =>
        split
        · exact h
        · next hb => exact wfFrom_cons.2 ⟨⟨ha, hb⟩, wfFrom_cons.2 ⟨⟨hlt, hc.1.2⟩, hc.2⟩⟩
      · next hlt => exact wfFrom_cons.2 ⟨hc.1, ih (by omega) hc.2⟩

@[simp] theorem wr_wf {m : Memory} {a : Nat} {b : Byte} (h : m.wf = true) : (wr m a b).wf = true :=
  wr_wfFrom (Nat.zero_le a) h

/-- A write of a list of bytes keeps the canonical form. -/
@[simp] theorem wrN_wf {m : Memory} {a : Nat} {bs : List Byte} (h : m.wf = true) : (wrN m a bs).wf = true := by
  induction bs generalizing m a with
  | nil => exact h
  | cons b t ih => exact ih (wr_wf h)

theorem filter_wfFrom {lo : Nat} {m : Memory} (p : Host.Cell → Bool) (h : wfFrom lo m = true) :
    wfFrom lo (m.filter p) = true := by
  induction m generalizing lo with
  | nil => rfl
  | cons e t ih =>
    obtain ⟨a, b⟩ := e
    simp only [wfFrom, Bool.and_eq_true, decide_eq_true_eq] at h
    rw [List.filter_cons]
    split
    · simp only [wfFrom, Bool.and_eq_true, decide_eq_true_eq]
      exact ⟨h.1, ih h.2⟩
    · exact wfFrom_mono (by omega) (ih h.2)

@[simp] theorem filter_wf {m : Memory} {p : Host.Cell → Bool} (h : m.wf = true) : Memory.wf (m.filter p) = true :=
  filter_wfFrom p h

@[simp] theorem wipe_wf {m : Memory} {a n : Nat} (h : m.wf = true) : (wipe m a n).wf = true := filter_wf h

@[simp] theorem slice_wf {m : Memory} {a n : Nat} (h : m.wf = true) : (slice m a n).wf = true := filter_wf h

@[simp] theorem nil_wf : Memory.wf [] = true := rfl

/-! ### Reading after writing -/

/-- Below the least address of a canonical memory every byte reads 0. -/
theorem rd_below {lo a : Nat} {m : Memory} (h : wfFrom lo m = true) (ha : a < lo) : rd m a = 0 := by
  induction m generalizing lo with
  | nil => rfl
  | cons e t ih =>
    obtain ⟨j, b⟩ := e
    simp only [wfFrom, Bool.and_eq_true, decide_eq_true_eq] at h
    have hj : j ≠ a := by omega
    simp only [rd, hj, if_false]
    exact ih h.2 (by omega)

theorem rd_wr_from {lo : Nat} {m : Memory} {a k : Nat} {b : Byte} (h : wfFrom lo m = true) :
    rd (wr m a b) k = if k = a then b else rd m k := by
  induction m generalizing lo with
  | nil =>
    simp only [wr]
    split
    · next hb => subst hb; simp [rd]
    · simp only [rd]
      by_cases hk : a = k
      · simp [hk]
      · simp [hk, Ne.symm hk]
  | cons e t ih =>
    obtain ⟨j, c⟩ := e
    simp only [wfFrom, Bool.and_eq_true, decide_eq_true_eq] at h
    simp only [wr]
    by_cases hj : j = a
    · subst hj
      simp only [if_true]
      by_cases hb : b = 0
      · simp only [hb, if_true]
        by_cases hk : k = j
        · subst hk; simp [rd_below h.2 (Nat.lt_succ_self k)]
        · simp [rd, hk, Ne.symm hk]
      · simp only [hb, if_false, rd]
        by_cases hk : j = k
        · simp [hk]
        · simp [hk, Ne.symm hk]
    · simp only [hj, if_false]
      by_cases hlt : a < j
      · simp only [hlt, if_true]
        by_cases hb : b = 0
        · simp only [hb, if_true]
          by_cases hk : k = a
          · subst hk
            simp only [if_true, rd, hj, if_false]
            exact rd_below h.2 (by omega)
          · simp [hk]
        · simp only [hb, if_false, rd]
          by_cases hk : a = k
          · simp [hk]
          · simp [hk, Ne.symm hk]
      · simp only [hlt, if_false, rd]
        by_cases hk : j = k
        · subst hk; simp [hj]
        · simp [hk, ih h.2]

/-- After a write of one byte, its address reads the byte and every other address reads as before. -/
theorem rd_wr {m : Memory} {a k : Nat} {b : Byte} (h : m.wf = true) : rd (wr m a b) k = if k = a then b else rd m k :=
  rd_wr_from h

/-- A wiped range reads 0, every other address as before. -/
theorem rd_wipe {m : Memory} {a n k : Nat} : rd (wipe m a n) k = if a ≤ k ∧ k < a + n then 0 else rd m k := by
  induction m with
  | nil => simp [wipe, rd]
  | cons e t ih =>
    obtain ⟨j, c⟩ := e
    simp only [wipe, List.filter_cons] at ih ⊢
    split
    · next hp =>
      simp only [Bool.or_eq_true, decide_eq_true_eq] at hp
      simp only [rd]
      by_cases hj : j = k
      · subst hj
        have : ¬(a ≤ j ∧ j < a + n) := by omega
        simp [this]
      · simp only [hj, if_false, ih]
    · next hp =>
      simp only [Bool.or_eq_true, decide_eq_true_eq] at hp
      simp only [rd]
      by_cases hj : j = k
      · subst hj
        have : a ≤ j ∧ j < a + n := by omega
        rw [ih]; simp [this]
      · simp only [hj, if_false, ih]

end Sys2Proof.Machine
end

