-- ==== Sys2Proof/Laws/Kept.lean ====
section
/-! SUPPORT. `Sound` over the six fields it reads, and how updates of those fields keep it. -/

namespace Sys2Proof

open Machine

/-- `Sound` by the fields it reads. -/
def Kept (cause en : BitVec 64) (ram : Memory) (cores : Map Core) (saves : Map CoreSave) (pairs : Map Pair) : Prop :=
  (cause &&& 0xFFFFFFFFFFFFFF80#64 = 0#64 ∧ en &&& 0xFFFFFFFFFFFFFF80#64 = 0#64) ∧ ram.wf = true ∧
    (∀ c ∈ cores, c.2.hold.wf = true) ∧ (∀ c ∈ saves, c.2.hold.wf = true) ∧
    ∀ p ∈ pairs, p.2.req.wf = true ∧ p.2.resp.wf = true

/-- What a state keeps. -/
def Sd (m : Hw) : Prop := Kept m.quay.cause m.quay.causeEn m.mem.ram m.cores m.saves m.espor.pairs

@[simp] theorem kept_sd (m : Hw) :
    Kept m.quay.cause m.quay.causeEn m.mem.ram m.cores m.saves m.espor.pairs ↔ Sd m := Iff.rfl

@[simp] theorem sd_mk {boot coming fuses flash island quay host espor mem ctxs plans queues postNo cores saves loads nextLoad phys
    outOfService cycles quarterTlb late hostTlb ferries creditsInFlight links engines parts occasion ports early flows quars
    streams jobs moduleRing power counters snap idle unowned fwVer fwBuild found} :
    Sd ⟨boot, coming, fuses, flash, island, quay, host, espor, mem, ctxs, plans, queues, postNo, cores, saves, loads,
    nextLoad, phys, outOfService, cycles, quarterTlb, late, hostTlb, ferries, creditsInFlight, links, engines,
    parts, occasion, ports, early, flows, quars, streams, jobs, moduleRing, power, counters, snap, idle, unowned, fwVer, fwBuild,
    found⟩ ↔ Kept quay.cause quay.causeEn mem.ram cores saves espor.pairs := Iff.rfl

theorem sound_iff (m : Hw) : Sound m ↔ Sd m := by
  simp only [Sound, Sd, Kept, causesWf, memoriesWf, Bool.and_eq_true, beq_iff_eq, List.all_eq_true, and_assoc]

theorem foldl_sd {α : Type} {f : Hw → α → Hw} (hf : ∀ m x, Sd m → Sd (f m x)) :
    ∀ (l : List α) (m : Hw), Sd m → Sd (l.foldl f m)
  | [], _, h => h
  | _ :: t, _, h => foldl_sd hf t _ (hf _ _ h)

section

variable {cause en : BitVec 64} {ram : Memory} {cores : Map Core} {saves : Map CoreSave} {pairs : Map Pair}

@[simp] theorem kept_wrN {a : Nat} {bs : List Byte} (h : Kept cause en ram cores saves pairs) :
    Kept cause en (wrN ram a bs) cores saves pairs := ⟨h.1, wrN_wf h.2.1, h.2.2⟩

@[simp] theorem kept_wipe {a n : Nat} (h : Kept cause en ram cores saves pairs) :
    Kept cause en (wipe ram a n) cores saves pairs := ⟨h.1, wipe_wf h.2.1, h.2.2⟩

@[simp] theorem kept_ram_filter {p : Host.Cell → Bool} (h : Kept cause en ram cores saves pairs) :
    Kept cause en (ram.filter p) cores saves pairs := ⟨h.1, filter_wf h.2.1, h.2.2⟩

@[simp] theorem kept_ram_nil (h : Kept cause en ram cores saves pairs) : Kept cause en [] cores saves pairs :=
  ⟨h.1, rfl, h.2.2⟩

theorem kept_core {k : Nat} {c : Core} (h : Kept cause en ram cores saves pairs) (hc : mget cores k = some c) :
    c.hold.wf = true := h.2.2.1 (k, c) (mem_of_mget hc)

@[simp] theorem kept_mset_core {k : Nat} {c : Core} (h : Kept cause en ram cores saves pairs) (hc : c.hold.wf = true) :
    Kept cause en ram (mset cores k c) saves pairs :=
  ⟨h.1, h.2.1, fun e he => by rcases mem_mset he with he | he; · exact he ▸ hc
                              · exact h.2.2.1 e he, h.2.2.2⟩

@[simp] theorem kept_map_cores {f : Nat × Core → Nat × Core} (h : Kept cause en ram cores saves pairs)
    (hf : ∀ c, c.2.hold.wf = true → (f c).2.hold.wf = true) : Kept cause en ram (cores.map f) saves pairs :=
  ⟨h.1, h.2.1, fun e he => by
    obtain ⟨c, hc, rfl⟩ := List.mem_map.1 he
    exact hf c (h.2.2.1 c hc), h.2.2.2⟩

@[simp] theorem kept_filter_cores {p : Nat × Core → Bool} (h : Kept cause en ram cores saves pairs) :
    Kept cause en ram (cores.filter p) saves pairs :=
  ⟨h.1, h.2.1, fun e he => h.2.2.1 e (List.mem_filter.1 he).1, h.2.2.2⟩

@[simp] theorem kept_no_cores (h : Kept cause en ram cores saves pairs) : Kept cause en ram [] saves pairs :=
  ⟨h.1, h.2.1, by simp, h.2.2.2⟩

@[simp] theorem kept_mset_save {k : Nat} {c : CoreSave} (h : Kept cause en ram cores saves pairs) (hc : c.hold.wf = true) :
    Kept cause en ram cores (mset saves k c) pairs :=
  ⟨h.1, h.2.1, h.2.2.1, fun e he => by rcases mem_mset he with he | he; · exact he ▸ hc
                                       · exact h.2.2.2.1 e he, h.2.2.2.2⟩

@[simp] theorem kept_mdel_save {k : Nat} (h : Kept cause en ram cores saves pairs) :
    Kept cause en ram cores (mdel saves k) pairs :=
  ⟨h.1, h.2.1, h.2.2.1, fun e he => h.2.2.2.1 e (mem_mdel he), h.2.2.2.2⟩

@[simp] theorem kept_filter_saves {p : Nat × CoreSave → Bool} (h : Kept cause en ram cores saves pairs) :
    Kept cause en ram cores (saves.filter p) pairs :=
  ⟨h.1, h.2.1, h.2.2.1, fun e he => h.2.2.2.1 e (List.mem_filter.1 he).1, h.2.2.2.2⟩

@[simp] theorem kept_no_saves (h : Kept cause en ram cores saves pairs) : Kept cause en ram cores [] pairs :=
  ⟨h.1, h.2.1, h.2.2.1, by simp, h.2.2.2.2⟩

@[simp] theorem kept_mset_pair {k : Nat} {p : Pair} (h : Kept cause en ram cores saves pairs) (hq : p.req.wf = true)
    (hr : p.resp.wf = true) : Kept cause en ram cores saves (mset pairs k p) :=
  ⟨h.1, h.2.1, h.2.2.1, h.2.2.2.1, fun e he => by rcases mem_mset he with he | he; · exact he ▸ ⟨hq, hr⟩
                                                  · exact h.2.2.2.2 e he⟩

@[simp] theorem kept_map_pairs {f : Nat × Pair → Nat × Pair} (h : Kept cause en ram cores saves pairs)
    (hf : ∀ p, p.2.req.wf = true → p.2.resp.wf = true → (f p).2.req.wf = true ∧ (f p).2.resp.wf = true) :
    Kept cause en ram cores saves (pairs.map f) :=
  ⟨h.1, h.2.1, h.2.2.1, h.2.2.2.1, fun e he => by
    obtain ⟨c, hc, rfl⟩ := List.mem_map.1 he
    exact hf c (h.2.2.2.2 c hc).1 (h.2.2.2.2 c hc).2⟩

@[simp] theorem kept_no_pairs (h : Kept cause en ram cores saves pairs) : Kept cause en ram cores saves [] :=
  ⟨h.1, h.2.1, h.2.2.1, h.2.2.2.1, by simp⟩

end

/-! ### Cores, saves and pairs of a sound state -/

theorem core_hold_wf {m : Hw} {k : Nat} (h : Sd m) : (m.core k).hold.wf = true := by
  unfold Hw.core mgetD
  cases hc : mget m.cores k with
  | none => rfl
  | some c => exact kept_core h hc

theorem save_hold_wf {m : Hw} {k : Nat} {d : CoreSave} (h : Sd m) (hd : d.hold.wf = true) :
    (mgetD m.saves k d).hold.wf = true := by
  unfold mgetD
  cases hc : mget m.saves k with
  | none => exact hd
  | some c => exact h.2.2.2.1 (k, c) (mem_of_mget hc)

theorem pair_wf {m : Hw} {n : Nat} (h : Sd m) : (m.espor.pair n).req.wf = true ∧ (m.espor.pair n).resp.wf = true := by
  unfold Espor.pair mgetD
  cases hc : mget m.espor.pairs n with
  | none => exact ⟨rfl, rfl⟩
  | some p => exact h.2.2.2.2 (n, p) (mem_of_mget hc)

@[simp] theorem setCore_sd {m : Hw} {k : Nat} {c : Core} (h : Sd m) (hc : c.hold.wf = true) : Sd (m.setCore k c) :=
  kept_mset_core h hc

@[simp] theorem updCore_sd {m : Hw} {k : Nat} {f : Core → Core} (h : Sd m)
    (hf : ∀ c, c.hold.wf = true → (f c).hold.wf = true) : Sd (m.updCore k f) :=
  kept_mset_core h (hf _ (core_hold_wf h))

end Sys2Proof
end

