-- ==== Sys2Proof/Laws/KeptOps.lean ====
section
/-! SUPPORT. Which shared operations keep `Sound`: every one of Flags, Quay, Ops. -/

namespace Sys2Proof

open Machine

theorem cause_sd {m : Hw} {i : Nat} (hi : i < 7) (h : Sd m) : Sd (m.cause i) := by
  unfold Hw.cause
  split
  · exact h
  · refine ⟨⟨?_, h.1.2⟩, h.2⟩
    have e : (1#64 <<< i) &&& 0xFFFFFFFFFFFFFF80#64 = 0#64 := by
      match i, hi with
      | 0, _ | 1, _ | 2, _ | 3, _ | 4, _ | 5, _ | 6, _ => rfl
    show (m.quay.cause ||| 1#64 <<< i) &&& 0xFFFFFFFFFFFFFF80#64 = 0#64
    rw [BitVec.and_or_distrib_right, h.1.1, e]; rfl

@[simp] theorem cause0_sd {m : Hw} (h : Sd m) : Sd (m.cause 0) := cause_sd (by decide) h
@[simp] theorem cause1_sd {m : Hw} (h : Sd m) : Sd (m.cause 1) := cause_sd (by decide) h
@[simp] theorem cause2_sd {m : Hw} (h : Sd m) : Sd (m.cause 2) := cause_sd (by decide) h
@[simp] theorem cause3_sd {m : Hw} (h : Sd m) : Sd (m.cause 3) := cause_sd (by decide) h
@[simp] theorem cause4_sd {m : Hw} (h : Sd m) : Sd (m.cause 4) := cause_sd (by decide) h
@[simp] theorem cause5_sd {m : Hw} (h : Sd m) : Sd (m.cause 5) := cause_sd (by decide) h
@[simp] theorem cause6_sd {m : Hw} (h : Sd m) : Sd (m.cause 6) := cause_sd (by decide) h

@[simp] theorem store_ram (s : MemSys) (k : Nat) (bs : List Byte) : (s.store k bs).ram = wrN s.ram k bs := (rfl)
@[simp] theorem poison_ram (s : MemSys) (k n : Nat) : (s.poison k n).ram = s.ram := (rfl)
@[simp] theorem zeroFrames_ram (s : MemSys) (q t f n : Nat) :
    (s.zeroFrames q t f n).ram = wipe s.ram (ramKey q t (f * 65536)) (n * 65536) := (rfl)

@[simp] theorem holdWrite_wf {c : Core} {off : Nat} {bs : List Byte} (h : c.hold.wf = true) :
    (c.holdWrite off bs).hold.wf = true := wrN_wf h
@[simp] theorem setThread_hold (c : Core) (t : Nat) (x : Thread) : (c.setThread t x).hold = c.hold := (rfl)
@[simp] theorem setBol_hold (c : Core) (b : Nat) (v : Word32) : (c.setBol b v).hold = c.hold := (rfl)
@[simp] theorem clearedWith_hold (a b : Banks) : (Core.clearedWith a b).hold = [] := (rfl)
@[simp] theorem cleared_hold : Core.cleared.hold = [] := (rfl)
@[simp] theorem stopThread_hold (c : Core) (t : Nat) : (c.stopThread t).hold = c.hold := (rfl)

theorem foldl_hold {α : Type} {f : Core → α → Core} (hf : ∀ c x, (f c x).hold = c.hold) :
    ∀ (l : List α) (c : Core), (l.foldl f c).hold = c.hold
  | [], _ => rfl
  | _ :: t, c => (foldl_hold hf t _).trans (hf c _)

@[simp] theorem stopAll_hold (c : Core) : c.stopAll.hold = c.hold :=
  foldl_hold (f := Core.stopThread) (fun _ _ => rfl) _ c

@[simp] theorem core_hold_sd {m : Hw} {k : Nat} (h : Sd m) : (m.core k).hold.wf = true := core_hold_wf h

@[simp] theorem answer_req (p : Pair) (d : Bool) (a b : Nat) (o : List Byte) : (p.answer d a b o).req = p.req := by
  simp only [Pair.answer]
@[simp] theorem answer_resp_wf (p : Pair) (d : Bool) (a b : Nat) (o : List Byte) : (p.answer d a b o).resp.wf = true := by
  simp only [Pair.answer, wrN_wf nil_wf]
@[simp] theorem pair_req_wf {m : Hw} {n : Nat} (h : Sd m) : (m.espor.pair n).req.wf = true := (pair_wf h).1
@[simp] theorem pair_resp_wf {m : Hw} {n : Nat} (h : Sd m) : (m.espor.pair n).resp.wf = true := (pair_wf h).2

@[simp] theorem Hw_notify_sd {m : Hw} {kind : Nat} {index : Nat} (h : Sd m) : Sd (Hw.notify m kind index) := by
  unfold Hw.notify; (try dsimp only); repeat' split
  all_goals simp_all +contextual (maxDischargeDepth := 8)

@[simp] theorem Hw_unbind_sd {m : Hw} {kind : Nat} {index : Nat} (h : Sd m) : Sd (Hw.unbind m kind index) := by
  unfold Hw.unbind; (try dsimp only); repeat' split
  all_goals simp_all +contextual (maxDischargeDepth := 8)

@[simp] theorem Hw_setStatus_sd {m : Hw} {st : ModState} {reason : BitVec 16} (h : Sd m) : Sd (Hw.setStatus m st reason) := by
  unfold Hw.setStatus; (try dsimp only); repeat' split
  all_goals simp_all +contextual (maxDischargeDepth := 8)

@[simp] theorem Hw_setThrottle_sd {m : Hw} {b : Bool} (h : Sd m) : Sd (Hw.setThrottle m b) := by
  unfold Hw.setThrottle; (try dsimp only); repeat' split
  all_goals simp_all +contextual (maxDischargeDepth := 8)

@[simp] theorem Hw_hosterr_sd {m : Hw} {e : HostErr} (h : Sd m) : Sd (Hw.hosterr m e) := by
  unfold Hw.hosterr; (try dsimp only); repeat' split
  all_goals simp_all +contextual (maxDischargeDepth := 8)

@[simp] theorem Hw_setTopo_sd {m : Hw} {t : Topology} (h : Sd m) : Sd (Hw.setTopo m t) := by
  unfold Hw.setTopo; (try dsimp only); repeat' split
  all_goals simp_all +contextual (maxDischargeDepth := 8)

@[simp] theorem Hw_setHealth_sd {m : Hw} {x : Health} (h : Sd m) : Sd (m.setHealth x) := h

@[simp] theorem Hw_dirty_sd {m : Hw} (h : Sd m) : Sd (Hw.dirty m) := by
  unfold Hw.dirty; (try dsimp only); repeat' split
  all_goals simp_all +contextual (maxDischargeDepth := 8)

@[simp] theorem Hw_degrade_sd {m : Hw} (h : Sd m) : Sd (Hw.degrade m) := by
  unfold Hw.degrade; (try dsimp only); repeat' split
  all_goals simp_all +contextual (maxDischargeDepth := 8)

@[simp] theorem Hw_putRing_sd {m : Hw} {code : Nat} {ctx : Option Nat} {payload : Nat} (h : Sd m) : Sd (m.putRing code ctx payload).1 := by
  unfold Hw.putRing; (try dsimp only); repeat' split
  all_goals simp_all +contextual (maxDischargeDepth := 8)

@[simp] theorem Hw_toRing_sd {m : Hw} {code : Nat} {ctx : Option Nat} {payload : Nat} (h : Sd m) : Sd (Hw.toRing m code ctx payload) := by
  unfold Hw.toRing; (try dsimp only); repeat' split
  all_goals simp_all +contextual (maxDischargeDepth := 8)

@[simp] theorem Hw_count_sd {m : Hw} {block : Nat} {index : Nat} {word : Nat} {n : Nat} (h : Sd m) : Sd (Hw.count m block index word n) := by
  unfold Hw.count; (try dsimp only); repeat' split
  all_goals simp_all +contextual (maxDischargeDepth := 8)

@[simp] theorem Hw_countCore_sd {m : Hw} {core : Nat} {word : Nat} {n : Nat} (h : Sd m) : Sd (Hw.countCore m core word n) := by
  unfold Hw.countCore; (try dsimp only); repeat' split
  all_goals simp_all +contextual (maxDischargeDepth := 8)

@[simp] theorem Hw_logErrorAt_sd {m : Hw} {t : Nat} {code : Nat} {ctx : Option Nat} {recov : Bool} {loc : Nat} {aux : Nat} (h : Sd m) : Sd (Hw.logErrorAt m t code ctx recov loc aux) := by
  unfold Hw.logErrorAt; (try dsimp only); repeat' split
  all_goals simp_all +contextual (maxDischargeDepth := 8)

@[simp] theorem Hw_logError_sd {m : Hw} {code : Nat} {ctx : Option Nat} {recov : Bool} {loc : Nat} {aux : Nat} (h : Sd m) : Sd (Hw.logError m code ctx recov loc aux) := by
  unfold Hw.logError; (try dsimp only); repeat' split
  all_goals simp_all +contextual (maxDischargeDepth := 8)

@[simp] theorem Hw_eventAs_sd {m : Hw} {code : Nat} {ctx : Option Nat} {payload : List (Nat × Nat)} {recov : Bool} {aux : Nat} (h : Sd m) : Sd (Hw.eventAs m code ctx payload recov aux) := by
  unfold Hw.eventAs; (try dsimp only); repeat' split
  all_goals simp_all +contextual (maxDischargeDepth := 8)

@[simp] theorem Hw_eventAux_sd {m : Hw} {code : Nat} {ctx : Option Nat} {payload : List (Nat × Nat)} {aux : Nat} (h : Sd m) : Sd (Hw.eventAux m code ctx payload aux) := by
  unfold Hw.eventAux; (try dsimp only); repeat' split
  all_goals simp_all +contextual (maxDischargeDepth := 8)

@[simp] theorem Hw_event_sd {m : Hw} {code : Nat} {ctx : Option Nat} {payload : List (Nat × Nat)} (h : Sd m) : Sd (Hw.event m code ctx payload) := by
  unfold Hw.event; (try dsimp only); repeat' split
  all_goals simp_all +contextual (maxDischargeDepth := 8)

@[simp] theorem Hw_eventDone_sd {m : Hw} {ctx : Option Nat} {pair : Nat} {seq : Nat} {cmd : Nat} {status : Nat} {count0 : Nat} {count1 : Nat} (h : Sd m) : Sd (Hw.eventDone m ctx pair seq cmd status count0 count1) := by
  unfold Hw.eventDone; (try dsimp only); repeat' split
  all_goals simp_all +contextual (maxDischargeDepth := 8)



@[simp] theorem Hw_updCtx_sd {m : Hw} {c : Nat} {f : Ctx → Ctx} (h : Sd m) : Sd (Hw.updCtx m c f) := by
  unfold Hw.updCtx; (try dsimp only); repeat' split
  all_goals simp_all +contextual (maxDischargeDepth := 8)

@[simp] theorem Hw_putLoc_sd {m : Hw} {l : Loc} {bs : List Byte} (h : Sd m) : Sd (Hw.putLoc m l bs) := by
  unfold Hw.putLoc; (try dsimp only); repeat' split
  all_goals simp_all +contextual (maxDischargeDepth := 8)

@[simp] theorem Hw_hostFill_sd {m : Hw} {p : PageDesc} {o : Nat} (h : Sd m) : Sd (Hw.hostFill m p o) := by
  unfold Hw.hostFill; (try dsimp only); repeat' split
  all_goals simp_all +contextual (maxDischargeDepth := 8)

@[simp] theorem Hw_pokePiece_sd {m : Hw} {c va : Nat} {bs : List Byte} (h : Sd m) : Sd (m.pokePiece c va bs) := by
  unfold Hw.pokePiece
  split
  · exact Hw_putLoc_sd h
  · exact h

theorem poke_fold_sd (c : Nat) : ∀ (l : List (Nat × Nat)) (a : Hw × List Byte), Sd a.1 →
    Sd (l.foldl (fun (a : Hw × List Byte) p => (a.1.pokePiece c p.1 (a.2.take p.2), a.2.drop p.2)) a).1
  | [], _, h => h
  | _ :: t, _, h => poke_fold_sd c t _ (Hw_pokePiece_sd h)

@[simp] theorem Hw_poke_sd {m : Hw} {c va : Nat} {bs : List Byte} (h : Sd m) : Sd (m.poke c va bs) :=
  poke_fold_sd c _ _ h

@[simp] theorem Hw_pokeMark_sd {m : Hw} {c : Nat} {va : Nat} {bs : List Byte} {bad : Bool} (h : Sd m) : Sd (Hw.pokeMark m c va bs bad) := by
  unfold Hw.pokeMark; (try dsimp only); repeat' (first | split | (refine foldl_sd (fun _ _ _ => ?_) _ _ ?_))
  all_goals simp_all +contextual (maxDischargeDepth := 8)

@[simp] theorem Hw_invalidate_sd {m : Hw} {f : TlbEntry → Bool} (h : Sd m) : Sd (Hw.invalidate m f) := by
  unfold Hw.invalidate; (try dsimp only); repeat' split
  all_goals simp_all +contextual (maxDischargeDepth := 8)

@[simp] theorem Hw_invalidateRange_sd {m : Hw} {c : Nat} {va : Nat} {n : Nat} (h : Sd m) : Sd (Hw.invalidateRange m c va n) := by
  unfold Hw.invalidateRange; (try dsimp only); repeat' split
  all_goals simp_all +contextual (maxDischargeDepth := 8)

@[simp] theorem Hw_invalidatePdi_sd {m : Hw} {c : Nat} {pdi : Nat} (h : Sd m) : Sd (Hw.invalidatePdi m c pdi) := by
  unfold Hw.invalidatePdi; (try dsimp only); repeat' split
  all_goals simp_all +contextual (maxDischargeDepth := 8)

@[simp] theorem Hw_invalidateCtx_sd {m : Hw} {c : Nat} (h : Sd m) : Sd (Hw.invalidateCtx m c) := by
  unfold Hw.invalidateCtx; (try dsimp only); repeat' split
  all_goals simp_all +contextual (maxDischargeDepth := 8)

@[simp] theorem Hw_freePage_sd {m : Hw} {p : PageDesc} (h : Sd m) : Sd (Hw.freePage m p) := by
  unfold Hw.freePage; (try dsimp only); repeat' split
  all_goals simp_all +contextual (maxDischargeDepth := 8)

@[simp] theorem Hw_pageArrived_sd {m : Hw} {c pdi : Nat} (h : Sd m) : Sd (m.pageArrived c pdi) := by
  refine kept_map_cores h fun k hk => ?_
  dsimp only
  split
  · exact hk
  · exact hk

@[simp] theorem Hw_putDeferred_sd {m : Hw} {d : Deferred} (h : Sd m) : Sd (Hw.putDeferred m d) := by
  unfold Hw.putDeferred; (try dsimp only); repeat' split
  all_goals simp_all +contextual (maxDischargeDepth := 8)

@[simp] theorem Hw_pageDone_sd {m : Hw} {n : Nat} {moved : Bool} (h : Sd m) : Sd (Hw.pageDone m n moved) := by
  unfold Hw.pageDone; (try dsimp only); repeat' split
  all_goals simp_all +contextual (maxDischargeDepth := 8)

@[simp] theorem Hw_cutMove_sd {m : Hw} {c pdi va : Nat} (h : Sd m) : Sd (m.cutMove c pdi va) := by
  unfold Hw.cutMove
  refine Hw_pageArrived_sd (foldl_sd (fun m x hm => ?_) _ _ (foldl_sd (fun m x hm => ?_) _ _ ?_))
  · split <;> simp [hm]
  · simp (maxDischargeDepth := 8) [hm]
  · simpa using h

@[simp] theorem Hw_moveArea_sd {m : Hw} {q : Nat} {f : Nat} (h : Sd m) : Sd (m.moveArea q f) := by
  unfold Hw.moveArea; (try dsimp only); repeat' split
  all_goals simp_all +contextual (maxDischargeDepth := 8)

@[simp] theorem Hw_movePool_sd {m : Hw} {q : Nat} {f : Nat} (h : Sd m) : Sd (Hw.movePool m q f) := by
  unfold Hw.movePool; (try dsimp only); repeat' split
  all_goals simp_all +contextual (maxDischargeDepth := 8)

@[simp] theorem Hw_settleRetire_sd {m : Hw} {d : Deferred} (h : Sd m) : Sd (Hw.settleRetire m d) := by
  unfold Hw.settleRetire; (try dsimp only); repeat' split
  all_goals simp_all +contextual (maxDischargeDepth := 8)

@[simp] theorem Hw_settleRetires_sd {m : Hw} (h : Sd m) : Sd (Hw.settleRetires m) := by
  unfold Hw.settleRetires; simp +contextual (maxDischargeDepth := 8) [h, foldl_sd]

@[simp] theorem Hw_unref_sd {m : Hw} {c : Nat} {pdi : Nat} {va : Nat} (h : Sd m) : Sd (Hw.unref m c pdi va) := by
  unfold Hw.unref; (try dsimp only); repeat' split
  all_goals simp_all +contextual (maxDischargeDepth := 8)

@[simp] theorem Hw_unmapRange_sd {m : Hw} {c : Nat} {va : Nat} {n : Nat} (h : Sd m) : Sd (Hw.unmapRange m c va n) := by
  unfold Hw.unmapRange; (try dsimp only); repeat' (first | (refine foldl_sd (fun _ _ _ => ?_) _ _ ?_) | split)
  all_goals (first | assumption | simp_all +contextual (maxDischargeDepth := 8) [foldl_sd])

@[simp] theorem Hw_growPoolN_sd {n : Nat} {m : Hw} {c : Nat} (h : Sd m) : Sd (Hw.growPoolN n m c) := by
  induction n generalizing m with
  | zero => exact h
  | succ n ih =>
    unfold Hw.growPoolN
    repeat' split
    all_goals simp_all

@[simp] theorem Hw_growPool_sd {m : Hw} {c : Nat} (h : Sd m) : Sd (Hw.growPool m c) := by
  unfold Hw.growPool; (try dsimp only); repeat' split
  all_goals simp_all +contextual (maxDischargeDepth := 8)

@[simp] theorem Hw_traffic_sd {m : Hw} {ctx : Option Nat} {a : Nat} {b : Nat} {n : Nat} {key : Nat} (h : Sd m) : Sd (Hw.traffic m ctx a b n key) := by
  unfold Hw.traffic; (try dsimp only); repeat' split
  all_goals simp_all +contextual (maxDischargeDepth := 8)

@[simp] theorem Hw_account_sd {m : Hw} {c : Nat} {node : Nat} {l : Loc} {n : Nat} {store : Bool} {old : Memory} (h : Sd m) : Sd (Hw.account m c node l n store old) := by
  unfold Hw.account; (try dsimp only); repeat' split
  all_goals simp_all +contextual (maxDischargeDepth := 8)

@[simp] theorem Hw_walkTraffic_sd {m : Hw} {core : Nat} {ctx : Nat} {va : Nat} (h : Sd m) : Sd (Hw.walkTraffic m core ctx va) := by
  unfold Hw.walkTraffic; (try dsimp only); repeat' (first | split | (refine foldl_sd (fun _ _ _ => ?_) _ _ ?_))
  all_goals simp_all +contextual (maxDischargeDepth := 8)

@[simp] theorem Hw_signal_sd {m : Hw} {src : Nat} {ctx : Nat} {e : Nat} {tgt : Nat} {bol : Nat} {set : Bool} {val : Word32} (h : Sd m) : Sd (Hw.signal m src ctx e tgt bol set val) := by
  unfold Hw.signal; (try dsimp only); repeat' split
  all_goals simp_all +contextual (maxDischargeDepth := 8)

@[simp] theorem Hw_hubUpdateAs_sd {m : Hw} {src : Nat} {ctx : Nat} {core : Nat} {bol : Nat} {set : Bool} {val : Word32} (h : Sd m) : Sd (Hw.hubUpdateAs m src ctx core bol set val) := by
  unfold Hw.hubUpdateAs; (try dsimp only); repeat' split
  all_goals simp_all +contextual (maxDischargeDepth := 8)

@[simp] theorem Hw_hubUpdate_sd {m : Hw} {ctx : Nat} {core : Nat} {bol : Nat} {set : Bool} {val : Word32} (h : Sd m) : Sd (Hw.hubUpdate m ctx core bol set val) := by
  unfold Hw.hubUpdate; (try dsimp only); repeat' split
  all_goals simp_all +contextual (maxDischargeDepth := 8)

@[simp] theorem Hw_fault_sd {m : Hw} {core : Nat} {thread : Nat} {r : FaultRec} (h : Sd m) : Sd (Hw.fault m core thread r) := by
  unfold Hw.fault; (try dsimp only); repeat' split
  all_goals simp_all +contextual (maxDischargeDepth := 8)

@[simp] theorem Hw_recordFault_sd {m : Hw} {c : Nat} {r : FaultRec} (h : Sd m) : Sd (Hw.recordFault m c r) := by
  unfold Hw.recordFault; (try dsimp only); repeat' split
  all_goals simp_all +contextual (maxDischargeDepth := 8)

@[simp] theorem Hw_stopThreads_sd {m : Hw} {c : Nat} (h : Sd m) : Sd (Hw.stopThreads m c) := by
  unfold Hw.stopThreads; (try dsimp only); repeat' (first | split | (refine foldl_sd (fun _ _ _ => ?_) _ _ ?_))
  all_goals simp_all +contextual (maxDischargeDepth := 8)

@[simp] theorem Hw_clearCore_sd {m : Hw} {k : Nat} (h : Sd m) : Sd (Hw.clearCore m k) := by
  unfold Hw.clearCore; exact setCore_sd h rfl

@[simp] theorem Hw_clearKeep_sd {m : Hw} {k : Nat} (h : Sd m) : Sd (Hw.clearKeep m k) := by
  unfold Hw.clearKeep; exact setCore_sd h rfl

@[simp] theorem Hw_answer_sd {m : Hw} {n : Nat} {defer : Bool} {status : Nat} {detail : Nat} {out : List Byte} (h : Sd m) : Sd (Hw.answer m n defer status detail out) := by
  unfold Hw.answer; (try dsimp only); repeat' split
  all_goals simp_all +contextual (maxDischargeDepth := 8)

end Sys2Proof
end

