-- ==== Sys2Proof/Laws/KeptEngine.lean ====
section
/-! SUPPORT. Which shared operations keep `Sound`: every one of Engine, Matmul, Seq, Attn, Recur, Ferry, Sync. -/

namespace Sys2Proof

open Machine

theorem fillOne_hold : ∀ (n : Nat) (c : Core) (o : OpRec), (fillOne n c o).1.hold = c.hold
  | 0, _, _ => rfl
  | n + 1, c, o => by
    unfold fillOne
    split
    · rfl
    · split
      · rfl
      · split
        · rfl
        · exact fillOne_hold n _ _

theorem fillAll_hold : ∀ (l : List OpRec) (c : Core), (fillAll c l).1.hold = c.hold
  | [], _ => rfl
  | _ :: t, _ => (fillAll_hold t _).trans (fillOne_hold _ _ _)

@[simp] theorem merge_hold (c : Core) : c.merge.hold = c.hold :=
  foldl_hold (fun c r => by split <;> rfl) _ _
@[simp] theorem fill_hold (c : Core) : c.fill.hold = c.hold := (fillAll_hold _ _).trans (merge_hold c)
@[simp] theorem waitSatisfied_hold (c : Core) (b : Nat) : (c.waitSatisfied b).hold = c.hold := (rfl)
@[simp] theorem checkWaits_hold (c : Core) (b : Nat) : (c.checkWaits b).hold = c.hold := by
  unfold Core.checkWaits; dsimp only; split <;> simp
@[simp] theorem takeBol_hold (c : Core) (cyc b : Nat) (v : Word32) : (c.takeBol cyc b v).hold = c.hold := (rfl)
@[simp] theorem takePre_hold (c : Core) (cyc : Nat) (h : OpHdr) : (c.takePre cyc h).hold = c.hold := by
  unfold Core.takePre; split <;> simp
@[simp] theorem begin_hold (c : Core) (e : Env) (now cyc : Nat) (b : Body) (cond : Cond) (f : OpRec → OpRec) :
    (c.begin e now cyc b cond f).hold = c.hold := by
  unfold Core.begin; simp
@[simp] theorem stepRecord_hold (c : Core) : c.stepRecord.hold = c.hold := (rfl)
@[simp] theorem setAccs_hold (c : Core) (l : List (Nat × Word32)) : (c.setAccs l).hold = c.hold := (rfl)
@[simp] theorem setWeights_hold (c : Core) (a : Bool) (l : List (Nat × Word32)) : (c.setWeights a l).hold = c.hold := (rfl)
@[simp] theorem predict_hold (c : Core) (p : Option (Nat × List Bool)) : (c.predict p).hold = c.hold := by
  unfold Core.predict; split <;> rfl
@[simp] theorem threadEnd_hold (c : Core) (t : Nat) : (c.threadEnd t).hold = c.hold := by
  unfold Core.threadEnd; dsimp only; split <;> rfl
@[simp] theorem setLand_hold (c : Core) (l : Nat) (s : LandState) : (c.setLand l s).hold = c.hold := (rfl)
@[simp] theorem openVoyage_hold (e : Env) (c : Core) : (e.openVoyage c).hold = c.hold := (rfl)
@[simp] theorem bump_hold (c : Core) (b : Nat) : (c.bump b).hold = c.hold := by
  unfold Core.bump; dsimp only; repeat' split
  all_goals rfl
@[simp] theorem apply_hold (c : Core) (a : Nat) (s : Signal) : (c.apply a s).hold = c.hold := by
  unfold Core.apply; dsimp only; repeat' split
  all_goals simp
@[simp] theorem startRun_hold (c : Core) (now : Nat) (e : CoreEntry) : (c.startRun now e).hold = c.hold := (rfl)
@[simp] theorem untake_hold (c : Core) (h : OpHdr) : (c.untake h).hold = c.hold := by
  unfold Core.untake; split <;> rfl
@[simp] theorem unstart_hold (c : Core) : c.unstart.hold = c.hold :=
  foldl_hold (fun c o => by dsimp only; split <;> (try exact untake_hold _ _) <;> rfl) _ _
@[simp] theorem save_hold (c : Core) (acc : Map Word32) : (c.save acc).hold = c.hold := (rfl)
@[simp] theorem saveBare_hold (c : Core) : c.saveBare.hold = [] := (rfl)
@[simp] theorem emptySave_hold : CoreSave.empty.hold = [] := (rfl)
@[simp] theorem restore_hold (s : CoreSave) (a b d : Nat) : (s.restore a b d).hold = s.hold := (rfl)
@[simp] theorem rollTo_wf {c : Core} {now cyc e : Nat} {f : Map Word32 → Map Word32} :
    (c.rollTo now cyc e f).hold.wf = true := by
  unfold Core.rollTo; dsimp only; split <;> rfl
@[simp] theorem save_sd {m : Hw} {k : Nat} (h : Sd m) : (mgetD m.saves k CoreSave.empty).hold.wf = true :=
  save_hold_wf h rfl

@[simp] theorem Hw_noteWaits_sd {m : Hw} {core b : Nat} (h : Sd m) : Sd (m.noteWaits core b) :=
  foldl_sd (fun m t hm => by
    split
    · split
      · exact updCore_sd hm fun _ hc => by dsimp only; split <;> exact hc
      · exact hm
    · exact hm) _ _ h

@[simp] theorem Hw_holdTraffic_sd {m : Hw} {ctx : Nat} {core : Nat} {other : Nat} {n : Nat} (h : Sd m) : Sd (Hw.holdTraffic m ctx core other n) := by
  unfold Hw.holdTraffic; (try dsimp only); repeat' split
  all_goals simp_all +contextual (maxDischargeDepth := 8)

@[simp] theorem Hw_holdStores_sd {m : Hw} {ctx : Nat} {core : Nat} {l : List (Nat × Nat × List Byte)} (h : Sd m) : Sd (Hw.holdStores m ctx core l) := by
  unfold Hw.holdStores; (try dsimp only); repeat' (first | split | (refine foldl_sd (fun _ _ _ => ?_) _ _ ?_))
  all_goals simp_all +contextual (maxDischargeDepth := 8)

@[simp] theorem Hw_holdReads_sd {m : Hw} {ctx : Nat} {core : Nat} {l : List (Nat × Nat)} (h : Sd m) : Sd (Hw.holdReads m ctx core l) := by
  unfold Hw.holdReads; (try dsimp only); repeat' (first | split | (refine foldl_sd (fun _ _ _ => ?_) _ _ ?_))
  all_goals simp_all +contextual (maxDischargeDepth := 8)

@[simp] theorem Hw_partDone_sd {m : Hw} {ctx : Nat} {core : Nat} {f : OpEffect} (h : Sd m) : Sd (Hw.partDone m ctx core f) := by
  unfold Hw.partDone; (try dsimp only); repeat' (first | split | (refine foldl_sd (fun _ _ _ => ?_) _ _ ?_))
  all_goals simp_all +contextual (maxDischargeDepth := 8)

@[simp] theorem Env_noted_sd {e : Env} {m : Hw} (h : Sd m) : Sd (e.noted m) :=
  foldl_sd (fun _ _ hm => Hw_noteWaits_sd hm) _ _ h

@[simp] theorem Hw_settle_sd {m : Hw} {core : Nat} {no : Nat} (h : Sd m) : Sd (Hw.settle m core no) := by
  unfold Hw.settle; (try dsimp only); repeat' split
  all_goals simp_all +contextual (maxDischargeDepth := 8)

@[simp] theorem Hw_startWith_sd {m : Hw} {core thread : Nat} {kind : Env → Bool} {body : Env → Body} {cond : Env → Cond}
    {f : Env → OpRec → OpRec} {after : Env → Hw → Hw} (h : Sd m) (ha : ∀ e x, Sd x → Sd (after e x)) :
    Sd (m.startWith core thread kind body cond f after) := by
  unfold Hw.startWith
  split
  · exact h
  · split
    · exact ha _ _ (Hw_settle_sd (updCore_sd (Env_noted_sd h) fun c hc => by simpa using hc))
    · exact h

@[simp] theorem Hw_startOp_sd {m : Hw} {core thread : Nat} {kind : Env → Bool} {body : Env → Body} (h : Sd m) :
    Sd (m.startOp core thread kind body) := Hw_startWith_sd h fun _ _ hx => hx

@[simp] theorem Hw_threadEvent_sd {m : Hw} {core : Nat} {thread : Nat} {ctx : Nat} {code : Nat} {payload : List (Nat × Nat)} (h : Sd m) : Sd (Hw.threadEvent m core thread ctx code payload) := by
  unfold Hw.threadEvent; (try dsimp only); repeat' split
  all_goals simp_all +contextual (maxDischargeDepth := 8)

@[simp] theorem Hw_epochMark_sd {m : Hw} {ctx : Nat} (h : Sd m) : Sd (Hw.epochMark m ctx) := by
  unfold Hw.epochMark; (try dsimp only); repeat' split
  all_goals simp_all +contextual (maxDischargeDepth := 8)

@[simp] theorem Hw_chargeFetch_sd {m : Hw} {core : Nat} {thread : Nat} (h : Sd m) : Sd (Hw.chargeFetch m core thread) := by
  unfold Hw.chargeFetch; (try dsimp only); repeat' split
  all_goals simp_all +contextual (maxDischargeDepth := 8)

@[simp] theorem Hw_retire_sd {m : Hw} {core ctx : Nat} {o : OpRec} (h : Sd m) : Sd (m.retire core ctx o) := by
  unfold Hw.retire
  extract_lets m1 m2 m3 m4 m5 m6 m7 m8 m9
  have h1 : Sd m1 := updCore_sd h fun c hc => by simpa using hc
  have h2 : Sd m2 := updCore_sd h1 fun c hc => by simpa using hc
  have h3 : Sd m3 := foldl_sd (fun _ _ hm => Hw_countCore_sd hm) _ _ (Hw_countCore_sd h2)
  have h4 : Sd m4 := foldl_sd (fun _ _ hm => Hw_signal_sd hm) _ _ h3
  have h5 : Sd m5 := by
    dsimp only [m5]; split
    · exact Hw_signal_sd h4
    · exact h4
  have h6 : Sd m6 := by
    dsimp only [m6]; split
    · exact Hw_threadEvent_sd h5
    · exact h5
  have h7 : Sd m7 := by
    dsimp only [m7]; split
    · exact Hw_signal_sd h6
    · exact h6
  have h8 : Sd m8 := by
    dsimp only [m8]; split
    · exact Hw_threadEvent_sd h7
    · exact h7
  have h9 : Sd m9 := by
    dsimp only [m9]; split
    · exact Hw_epochMark_sd (Hw_countCore_sd (updCore_sd h8 fun c hc => by simpa using hc))
    · exact h8
  exact Hw_chargeFetch_sd (updCore_sd h9 fun c hc => by simpa using hc)

theorem foldl_hold_wf {α : Type} {f : Core → α → Core} (hf : ∀ c x, c.hold.wf = true → (f c x).hold.wf = true) :
    ∀ (l : List α) (c : Core), c.hold.wf = true → (l.foldl f c).hold.wf = true
  | [], _, h => h
  | _ :: t, _, h => foldl_hold_wf hf t _ (hf _ _ h)

@[simp] theorem Env_mshStart_sd {e : Env} {m : Hw} (h : Sd m) : Sd (e.mshStart m) :=
  updCore_sd h fun _ hc => foldl_hold_wf (fun _ _ h => holdWrite_wf h) _ _ (by simpa using hc)

@[simp] theorem Hw_mshDeadline_sd {m : Hw} {core : Nat} {thread : Nat} (h : Sd m) : Sd (Hw.mshDeadline m core thread) := by
  unfold Hw.mshDeadline; (try dsimp only); repeat' split
  all_goals simp_all +contextual (maxDischargeDepth := 8)

@[simp] theorem Hw_putSeq_sd {m : Hw} {c : Nat} {s : Nat} {d : SeqDesc} (h : Sd m) : Sd (Hw.putSeq m c s d) := by
  unfold Hw.putSeq; (try dsimp only); repeat' split
  all_goals simp_all +contextual (maxDischargeDepth := 8)

@[simp] theorem Hw_noteSeq_sd {m : Hw} {c e s n : Nat} (h : Sd m) : Sd (m.noteSeq c e s n) := Hw_updCtx_sd h

@[simp] theorem Hw_noteSeqs_sd {m : Hw} {c e n : Nat} {l : List Nat} (h : Sd m) : Sd (m.noteSeqs c e n l) :=
  foldl_sd (fun _ _ hm => Hw_noteSeq_sd hm) _ _ h

@[simp] theorem Hw_lockEntry_sd {m : Hw} {q : Nat} {c : Nat} {l : Leaf} {p : PageDesc} (h : Sd m) : Sd (Hw.lockEntry m q c l p) := by
  unfold Hw.lockEntry; (try dsimp only); repeat' split
  all_goals simp_all +contextual (maxDischargeDepth := 8)

@[simp] theorem Hw_setPd_sd {m : Hw} {c : Nat} {pdi : Nat} {p : PageDesc} (h : Sd m) : Sd (Hw.setPd m c pdi p) := by
  unfold Hw.setPd; (try dsimp only); repeat' split
  all_goals simp_all +contextual (maxDischargeDepth := 8)

@[simp] theorem Hw_fillTail_sd {m : Hw} {c : Nat} {s : Nat} {v : Nat} (h : Sd m) : Sd (Hw.fillTail m c s v) := by
  unfold Hw.fillTail; (try dsimp only); repeat' split
  all_goals simp_all +contextual (maxDischargeDepth := 8)

@[simp] theorem Hw_openPage_sd {m : Hw} {c : Nat} {o : Opened} (h : Sd m) : Sd (Hw.openPage m c o) := by
  unfold Hw.openPage; (try dsimp only); repeat' split
  all_goals simp_all +contextual (maxDischargeDepth := 8)

theorem append_fold_sd (c s spp : Nat) : ∀ (l : List Opened) (a : Hw × Nat), Sd a.1 →
    Sd (l.foldl (fun (a : Hw × Nat) o => ((a.1.openPage c o).fillTail c s (min a.2 spp), a.2 - min a.2 spp)) a).1
  | [], _, h => h
  | _ :: t, _, h => append_fold_sd c s spp t _ (Hw_fillTail_sd (Hw_openPage_sd h))

@[simp] theorem Hw_appendTo_sd {m : Hw} {c s n : Nat} {os : List Opened} (h : Sd m) : Sd (m.appendTo c s n os) := by
  unfold Hw.appendTo
  split
  · exact h
  · refine append_fold_sd c s _ _ _ ?_
    dsimp only
    split
    · exact h
    · exact Hw_fillTail_sd h

@[simp] theorem Env_zeroOpened_sd {e : Env} {m : Hw} (h : Sd m) : Sd (Env.zeroOpened e m) := by
  unfold Env.zeroOpened; (try dsimp only); repeat' (first | split | (refine foldl_sd (fun _ _ _ => ?_) _ _ ?_))
  all_goals simp_all +contextual (maxDischargeDepth := 8)

@[simp] theorem Hw_sealSeq_sd {m : Hw} {c : Nat} {s : Nat} (h : Sd m) : Sd (Hw.sealSeq m c s) := by
  unfold Hw.sealSeq; (try dsimp only); repeat' split
  all_goals simp_all +contextual (maxDischargeDepth := 8)

@[simp] theorem Hw_releaseSeq_sd {m : Hw} {c : Nat} {s : Nat} (h : Sd m) : Sd (Hw.releaseSeq m c s) := by
  unfold Hw.releaseSeq; (try dsimp only); repeat' split
  all_goals simp_all +contextual (maxDischargeDepth := 8)

@[simp] theorem Hw_forkLayer_sd {m : Hw} {c par : Nat} {brs : List Nat} (h : Sd m) : Sd (m.forkLayer c par brs) := by
  unfold Hw.forkLayer
  split
  · exact h
  · extract_lets m1 others pages m2
    have h1 : Sd m1 := by
      dsimp only [m1]
      repeat' split
      all_goals simp [h]
    have h2 : Sd m2 := foldl_sd (fun m b hm => by
      split
      · exact hm
      · exact Hw_putSeq_sd (Hw_growPool_sd (Hw_updCtx_sd hm))) _ _ h1
    split
    · exact h2
    · exact Hw_putSeq_sd h2

@[simp] theorem Hw_runSeqOp_sd {m : Hw} {c e : Nat} {o : SeqOp} {os : List Opened} (h : Sd m) : Sd (Hw.runSeqOp m c e o os) := by
  unfold Hw.runSeqOp; (try dsimp only); repeat' (first | split | (refine foldl_sd (fun _ _ _ => ?_) _ _ ?_))
  all_goals simp_all +contextual (maxDischargeDepth := 8)

@[simp] theorem Hw_emitBatch_sd {m : Hw} {ctx core land : Nat} {s : LandState} (h : Sd m) :
    Sd (m.emitBatch ctx core land s) :=
  Hw_signal_sd (updCore_sd h fun _ hc => foldl_hold_wf (fun _ _ h => holdWrite_wf h) _ _ hc)

@[simp] theorem Hw_launch_sd {m : Hw} {f : Ferry} (h : Sd m) : Sd (Hw.launch m f) := by
  unfold Hw.launch; (try dsimp only); repeat' split
  all_goals simp_all +contextual (maxDischargeDepth := 8)

@[simp] theorem Hw_setOp_sd {m : Hw} {core : Nat} {o : OpRec} (h : Sd m) : Sd (Hw.setOp m core o) := by
  unfold Hw.setOp; (try dsimp only); repeat' split
  all_goals simp_all +contextual (maxDischargeDepth := 8)

@[simp] theorem sendOut_sd {n : Nat} {m : Hw} {core ctx : Nat} {o : OpRec} (h : Sd m) : Sd (sendOut n m core ctx o) := by
  induction n generalizing m o with
  | zero => simp [sendOut, h]
  | succ n ih =>
    unfold sendOut; dsimp only
    split
    · split
      · simp [h]
      · exact foldl_sd (fun _ _ hm => by simp [hm]) _ _ (by simp [h])
    · split
      · simp [h]
      · exact ih (by simp [h])

@[simp] theorem Hw_releaseBuf_sd {m : Hw} {core : Nat} {ctx : Nat} {land : Nat} {rows : List SendRow} (h : Sd m) : Sd (Hw.releaseBuf m core ctx land rows) := by
  unfold Hw.releaseBuf; (try dsimp only); repeat' (first | split | (refine foldl_sd (fun _ _ _ => ?_) _ _ ?_))
  all_goals simp_all +contextual (maxDischargeDepth := 8)

@[simp] theorem Hw_pumpFerries_sd {m : Hw} {core : Nat} (h : Sd m) : Sd (m.pumpFerries core) := by
  unfold Hw.pumpFerries
  split
  · exact h
  · extract_lets m1
    have h1 : Sd m1 := by
      dsimp only [m1]; split
      · split
        · exact Hw_settle_sd (sendOut_sd h)
        · exact h
      · exact h
    clear_value m1
    split
    · split
      · extract_lets m2 m3
        have h2 : Sd m2 := foldl_sd (fun _ _ hm => Hw_launch_sd hm) _ _ h1
        have h3 : Sd m3 := by
          dsimp only [m3]; split
          · exact Hw_releaseBuf_sd h2
          · exact h2
        exact Hw_setOp_sd h3
      · exact h1
    · exact h1

@[simp] theorem Hw_acked_sd {m : Hw} {core : Nat} {lane : Nat} {n : Nat} (h : Sd m) : Sd (Hw.acked m core lane n) := by
  unfold Hw.acked; (try dsimp only); repeat' split
  all_goals simp_all +contextual (maxDischargeDepth := 8)

@[simp] theorem Hw_landRow_sd {m : Hw} {ctx : Nat} {core : Nat} {land : Nat} {src : Nat} {voy : Nat} {r : SendRow} (h : Sd m) : Sd (Hw.landRow m ctx core land src voy r) := by
  unfold Hw.landRow; (try dsimp only); repeat' split
  all_goals simp_all +contextual (maxDischargeDepth := 8)

@[simp] theorem Hw_landNotice_sd {m : Hw} {ctx : Nat} {core : Nat} {land : Nat} {src : Nat} {voy : Nat} (h : Sd m) : Sd (Hw.landNotice m ctx core land src voy) := by
  unfold Hw.landNotice; (try dsimp only); repeat' split
  all_goals simp_all +contextual (maxDischargeDepth := 8)

@[simp] theorem Hw_returnRow_sd {m : Hw} {ctx : Nat} {dst : Nat} {voy : Nat} {r : SendRow} (h : Sd m) : Sd (Hw.returnRow m ctx dst voy r) := by
  unfold Hw.returnRow; (try dsimp only); repeat' split
  all_goals simp_all +contextual (maxDischargeDepth := 8)

@[simp] theorem Hw_setLink_sd {m : Hw} {i : Nat} {l : Link} (h : Sd m) : Sd (Hw.setLink m i l) := by
  unfold Hw.setLink; (try dsimp only); repeat' split
  all_goals simp_all +contextual (maxDischargeDepth := 8)

@[simp] theorem Hw_topoLink_sd {m : Hw} {i : Nat} {code : Nat} (h : Sd m) : Sd (Hw.topoLink m i code) := by
  unfold Hw.topoLink; (try dsimp only); repeat' split
  all_goals simp_all +contextual (maxDischargeDepth := 8)

@[simp] theorem Hw_unitLost_sd {m : Hw} (h : Sd m) : Sd (Hw.unitLost m) := by
  unfold Hw.unitLost; (try dsimp only); repeat' split
  all_goals simp_all +contextual (maxDischargeDepth := 8)

@[simp] theorem Hw_retireLink_sd {m : Hw} {i : Nat} (h : Sd m) : Sd (Hw.retireLink m i) := by
  unfold Hw.retireLink; (try dsimp only); repeat' split
  all_goals simp_all +contextual (maxDischargeDepth := 8)

@[simp] theorem Hw_applySignal_sd {m : Hw} {core : Nat} {s : Signal} (h : Sd m) : Sd (Hw.applySignal m core s) := by
  unfold Hw.applySignal; (try dsimp only); repeat' split
  all_goals simp_all +contextual (maxDischargeDepth := 8)

@[simp] theorem Hw_portTake_sd {m : Hw} {core : Nat} {b : Nat} (h : Sd m) : Sd (Hw.portTake m core b) := by
  unfold Hw.portTake; (try dsimp only); repeat' split
  all_goals simp_all +contextual (maxDischargeDepth := 8)

@[simp] theorem Hw_retireIf_sd {m : Hw} {core : Nat} {o : OpRec} (h : Sd m) : Sd (Hw.retireIf m core o) := by
  unfold Hw.retireIf; (try dsimp only); repeat' split
  all_goals simp_all +contextual (maxDischargeDepth := 8)

@[simp] theorem Env_tideStart_sd {t : TideCfg} {e : Env} {m : Hw} (h : Sd m) : Sd (Env.tideStart t e m) := by
  unfold Env.tideStart
  extract_lets g no m1 m2 m3
  have h1 : Sd m1 := updCore_sd h fun _ hc => hc
  have h2 : Sd m2 := by
    dsimp only [m2]; split
    · split
      · exact Hw_event_sd (Hw_count_sd h1)
      · exact h1
    · exact h1
  split
  · split
    · exact Hw_retireIf_sd (Hw_countCore_sd h2)
    · exact Hw_countCore_sd h2
  · exact h2

end Sys2Proof
end

