-- ==== Sys2Proof/Laws/KeptRun.lean ====
section
/-! SUPPORT. Which shared operations keep `Sound`: every one of Migrate, Sched, Recover, Complete, Requests, Fetch, Rows, Swap. -/

namespace Sys2Proof

open Machine

@[simp] theorem closeVoyage_hold (c : Core) (v : Option Nat) : (c.closeVoyage v).hold = c.hold := by
  unfold Core.closeVoyage; repeat' split
  all_goals rfl
@[simp] theorem dropReq_hold (c : Core) (i : Nat) : (c.dropReq i).hold = c.hold := (rfl)

@[simp] theorem Hw_startRun_sd {m : Hw} {plan : Nat} (h : Sd m) : Sd (Hw.startRun m plan) := by
  unfold Hw.startRun; (try dsimp only); repeat' (first | (refine foldl_sd (fun _ _ _ => ?_) _ _ ?_) | split)
  all_goals (first | assumption | simp_all +contextual (maxDischargeDepth := 8) [foldl_sd])

@[simp] theorem Hw_startRuns_sd {m : Hw} {ctx : Nat} (h : Sd m) : Sd (Hw.startRuns m ctx) := by
  unfold Hw.startRuns; (try dsimp only); repeat' (first | split | (refine foldl_sd (fun _ _ _ => ?_) _ _ ?_))
  all_goals simp_all +contextual (maxDischargeDepth := 8)

@[simp] theorem Hw_mayDecide_sd {m : Hw} (h : Sd m) : Sd m.mayDecide := h

@[simp] theorem Hw_enterRunnable_sd {m : Hw} {ctx : Nat} (h : Sd m) : Sd (Hw.enterRunnable m ctx) := by
  unfold Hw.enterRunnable; (try dsimp only); repeat' split
  all_goals simp_all +contextual (maxDischargeDepth := 8)

@[simp] theorem Hw_gainWork_sd {m : Hw} {ctx : Nat} (h : Sd m) : Sd (Hw.gainWork m ctx) := by
  unfold Hw.gainWork; (try dsimp only); repeat' split
  all_goals simp_all +contextual (maxDischargeDepth := 8)

@[simp] theorem Hw_loseWork_sd {m : Hw} {ctx : Nat} (h : Sd m) : Sd (Hw.loseWork m ctx) := by
  unfold Hw.loseWork; (try dsimp only); repeat' split
  all_goals simp_all +contextual (maxDischargeDepth := 8)

@[simp] theorem Hw_beginOut_sd {m : Hw} {y : Nat} (h : Sd m) : Sd (Hw.beginOut m y) := by
  unfold Hw.beginOut; (try dsimp only); repeat' (first | split | (refine foldl_sd (fun _ _ _ => ?_) _ _ ?_))
  all_goals simp_all +contextual (maxDischargeDepth := 8)

@[simp] theorem Hw_consider_sd {m : Hw} {c : Nat} (h : Sd m) : Sd (m.consider c) := by
  unfold Hw.consider
  split
  · exact h
  · extract_lets way free ok
    split
    · exact Hw_updCtx_sd (foldl_sd (fun _ _ hm => Hw_beginOut_sd hm) _ _ h)
    · exact h

@[simp] theorem Hw_decide__sd {m : Hw} (h : Sd m) : Sd (Hw.decide_ m) := by
  unfold Hw.decide_
  split
  · exact foldl_sd (fun _ _ hm => Hw_consider_sd hm) _ _ (show Sd { m with occasion := false } from h)
  · exact h

@[simp] theorem Hw_outCore_sd {m : Hw} {ctx : Nat} {bare : Bool} {k : Nat} (h : Sd m) : Sd (Hw.outCore m ctx bare k) := by
  unfold Hw.outCore; (try dsimp only); repeat' split
  all_goals simp_all +contextual (maxDischargeDepth := 8)

@[simp] theorem Hw_applyHeld_sd {m : Hw} {ctx : Nat} (h : Sd m) : Sd (Hw.applyHeld m ctx) := by
  unfold Hw.applyHeld; (try dsimp only); repeat' (first | split | (refine foldl_sd (fun _ _ _ => ?_) _ _ ?_))
  all_goals simp_all +contextual (maxDischargeDepth := 8)

@[simp] theorem Hw_inCore_sd {m : Hw} {ctx : Nat} {k : Nat} (h : Sd m) : Sd (Hw.inCore m ctx k).1 := by
  unfold Hw.inCore; (try dsimp only); repeat' split
  all_goals simp_all +contextual (maxDischargeDepth := 8)

theorem foldl_pair_sd {α β : Type} {f : Hw × β → α → Hw × β} (hf : ∀ a x, Sd a.1 → Sd (f a x).1) :
    ∀ (l : List α) (a : Hw × β), Sd a.1 → Sd (l.foldl f a).1
  | [], _, h => h
  | _ :: t, _, h => foldl_pair_sd hf t _ (hf _ _ h)

@[simp] theorem Hw_switchIn_sd {m : Hw} {ctx : Nat} (h : Sd m) : Sd (m.switchIn ctx) := by
  unfold Hw.switchIn
  split
  · exact h
  · extract_lets r t
    have hr : Sd r.1 := foldl_pair_sd (fun a k ha => by dsimp only; exact Hw_inCore_sd ha) _ _ h
    exact Hw_applyHeld_sd (Hw_updCtx_sd hr)

@[simp] theorem Hw_entryDone_sd {m : Hw} {plan : Nat} (h : Sd m) : Sd (Hw.entryDone m plan) := by
  unfold Hw.entryDone; (try dsimp only); repeat' split
  all_goals simp_all +contextual (maxDischargeDepth := 8)

@[simp] theorem Hw_takeEntry_sd {m : Hw} {n : Nat} {q : SubQ} {e : Nat} (h : Sd m) : Sd (Hw.takeEntry m n q e) := by
  unfold Hw.takeEntry; (try dsimp only); repeat' split
  all_goals simp_all +contextual (maxDischargeDepth := 8)

@[simp] theorem Hw_nextRun_sd {m : Hw} {plan : Nat} {p : Plan} {r : Run} (h : Sd m) : Sd (Hw.nextRun m plan p r) := by
  unfold Hw.nextRun; (try dsimp only); repeat' split
  all_goals simp_all +contextual (maxDischargeDepth := 8)

@[simp] theorem Hw_dropSignals_sd {m : Hw} {gone : Signal → Bool} (h : Sd m) : Sd (Hw.dropSignals m gone) := by
  unfold Hw.dropSignals; (try dsimp only); repeat' (first | split | (refine foldl_sd (fun _ _ _ => ?_) _ _ ?_))
  all_goals simp_all +contextual (maxDischargeDepth := 8)

@[simp] theorem Hw_dropPlan_sd {m : Hw} {plan : Nat} (h : Sd m) : Sd (m.dropPlan plan) := by
  unfold Hw.dropPlan
  split
  · exact h
  · next p _ =>
    extract_lets idle m1
    have h1 : Sd m1 := foldl_sd (fun m e hm => by
      extract_lets m'
      have h' : Sd m' := by
        dsimp only [m']; split
        · exact updCore_sd hm fun _ hc => hc
        · exact hm
      split
      · next s hs => exact kept_mset_save (h' : Kept ..) (h'.2.2.2.1 _ (mem_of_mget hs))
      · exact h') _ _ h
    exact Hw_loseWork_sd (Hw_entryDone_sd h1)

@[simp] theorem Hw_runEnded_sd {m : Hw} {plan : Nat} {p : Plan} {r : Run} (h : Sd m) : Sd (Hw.runEnded m plan p r) := by
  unfold Hw.runEnded; (try dsimp only); repeat' (first | split | (refine foldl_sd (fun _ _ _ => ?_) _ _ ?_))
  all_goals simp_all +contextual (maxDischargeDepth := 8)

@[simp] theorem Hw_apportion_sd {m : Hw} {q : Nat} {idle : Nat} {n : Nat} (h : Sd m) : Sd (Hw.apportion m q idle n) := by
  unfold Hw.apportion; (try dsimp only); repeat' (first | split | (refine foldl_sd (fun _ _ _ => ?_) _ _ ?_))
  all_goals simp_all +contextual (maxDischargeDepth := 8)

@[simp] theorem Hw_breakCore_sd {m : Hw} {core : Nat} {array : Nat} {tag : Nat} {thread : Nat} (h : Sd m) : Sd (Hw.breakCore m core array tag thread) := by
  unfold Hw.breakCore; (try dsimp only); repeat' split
  all_goals simp_all +contextual (maxDischargeDepth := 8)

@[simp] theorem Hw_setFill_sd {m : Hw} {k : Nat} {f : Option Nat} (h : Sd m) : Sd (Hw.setFill m k f) := by
  unfold Hw.setFill; (try dsimp only); repeat' split
  all_goals simp_all +contextual (maxDischargeDepth := 8)

@[simp] theorem Hw_publishCores_sd {m : Hw} {q : Nat} (h : Sd m) : Sd (Hw.publishCores m q) := by
  unfold Hw.publishCores; (try dsimp only); repeat' split
  all_goals simp_all +contextual (maxDischargeDepth := 8)

@[simp] theorem Hw_badPhys_sd {m : Hw} {q : Nat} {i : Nat} (h : Sd m) : Sd (Hw.badPhys m q i) := by
  unfold Hw.badPhys; (try dsimp only); repeat' split
  all_goals simp_all +contextual (maxDischargeDepth := 8)

@[simp] theorem Hw_corePost_sd {m : Hw} {core : Nat} {phys : Nat} {recov : Bool} (h : Sd m) : Sd (Hw.corePost m core phys recov) := by
  unfold Hw.corePost; (try dsimp only); repeat' split
  all_goals simp_all +contextual (maxDischargeDepth := 8)

@[simp] theorem Hw_takeStandby_sd {m : Hw} {core : Nat} {part : Nat} {s : Nat} (h : Sd m) : Sd (Hw.takeStandby m core part s) := by
  unfold Hw.takeStandby; (try dsimp only); repeat' split
  all_goals simp_all +contextual (maxDischargeDepth := 8)

@[simp] theorem Hw_refillPosition_sd {m : Hw} {ctx : Nat} {core : Nat} {phys : Nat} {array : Nat} {tide : Nat} (h : Sd m) : Sd (Hw.refillPosition m ctx core phys array tide) := by
  unfold Hw.refillPosition; (try dsimp only); repeat' split
  all_goals simp_all +contextual (maxDischargeDepth := 8)

@[simp] theorem Hw_losePosition_sd {m : Hw} {ctx core phys array tide tag thread : Nat} (h : Sd m) :
    Sd (m.losePosition ctx core phys array tide tag thread) := by
  unfold Hw.losePosition
  extract_lets m1 m2 m3 m4 m5 r
  have h1 : Sd m1 := Hw_setFill_sd (Hw_badPhys_sd h)
  have h2 : Sd m2 := Hw_degrade_sd (m := { m1 with outOfService := _ }) h1
  have h3 : Sd m3 := Hw_publishCores_sd (updCore_sd h2 fun _ hc => hc)
  have h4 : Sd m4 := Hw_updCtx_sd h3
  exact Hw_corePost_sd (Hw_logErrorAt_sd (Hw_recordFault_sd (Hw_mayDecide_sd h4)))

theorem foldl_wr_wf (k : Nat) : ∀ (l : Memory) (a : Memory), a.wf = true →
    (l.foldl (fun (a : Memory) b => wr a (k + b.1) b.2) a).wf = true
  | [], _, h => h
  | _ :: t, _, h => foldl_wr_wf k t _ (wr_wf h)

theorem sd_ram {m : Hw} {s : MemSys} (h : Sd m) (hs : s.ram.wf = true) : Sd { m with mem := s } := ⟨h.1, hs, h.2.2⟩

theorem sd_ram_wf {m : Hw} (h : Sd m) : m.mem.ram.wf = true := h.2.1

@[simp] theorem Hw_reformPage_sd {m : Hw} {c : Nat} {s : List SeqSnap} {pdi : Nat} {p : PageDesc} (h : Sd m) :
    Sd (m.reformPage c s pdi p) := by
  unfold Hw.reformPage
  split
  · exact h
  · exact Hw_updCtx_sd (sd_ram h (foldl_wr_wf _ _ _ (sd_ram_wf h)))

@[simp] theorem Hw_recount_sd {m : Hw} {c : Nat} {s : List SeqSnap} {back : List Leaf} (h : Sd m) : Sd (Hw.recount m c s back) := by
  unfold Hw.recount; (try dsimp only); repeat' (first | split | (refine foldl_sd (fun _ _ _ => ?_) _ _ ?_))
  all_goals simp_all +contextual (maxDischargeDepth := 8)

@[simp] theorem Hw_restoreSeqs_sd {m : Hw} {c : Nat} {s : List SeqSnap} (h : Sd m) : Sd (m.restoreSeqs c s) := by
  unfold Hw.restoreSeqs
  extract_lets mine back m1 lost m2 m3
  split
  · exact h
  · have h1 : Sd m1 := Hw_updCtx_sd h
    have h2 : Sd m2 := foldl_sd (fun m i hm => by
      split
      · exact Hw_reformPage_sd hm
      · exact hm) _ _ h1
    exact foldl_sd (fun _ _ hm => Hw_putSeq_sd hm) _ _ (Hw_growPool_sd (Hw_invalidateCtx_sd (Hw_recount_sd h2)))

@[simp] theorem Hw_rollTo_sd {m : Hw} {c e : Nat} (h : Sd m) : Sd (m.rollTo c e) := by
  unfold Hw.rollTo
  extract_lets m1 m2 m3
  have h1 : Sd m1 := foldl_sd (fun _ _ hm => Hw_countCore_sd (updCore_sd hm fun _ _ => rollTo_wf)) _ _ h
  have h2 : Sd m2 := h1
  have h3 : Sd m3 := by
    dsimp only [m3]; split
    · exact Hw_restoreSeqs_sd h2
    · exact h2
  exact Hw_updCtx_sd h3

@[simp] theorem Hw_coreFaultLog_sd {m : Hw} {c e : Nat} {back : Bool} (h : Sd m) : Sd (m.coreFaultLog c e back) := by
  unfold Hw.coreFaultLog
  split
  · exact h
  · refine Hw_updCtx_sd (foldl_sd (fun m r hm => ?_) _ _ h)
    dsimp only
    split
    · exact Hw_corePost_sd (Hw_event_sd (Hw_logErrorAt_sd hm))
    · exact Hw_corePost_sd (Hw_logErrorAt_sd hm)

@[simp] theorem Hw_rollbackLog_sd {m : Hw} {c e : Nat} (h : Sd m) : Sd (m.rollbackLog c e) := by
  unfold Hw.rollbackLog
  extract_lets m1
  have h1 : Sd m1 := Hw_coreFaultLog_sd h
  clear_value m1
  split
  · exact h1
  · dsimp only
    split
    · exact Hw_updCtx_sd h1
    · exact Hw_updCtx_sd (Hw_logErrorAt_sd h1)

@[simp] theorem Hw_endCore_sd {m : Hw} {c k : Nat} (h : Sd m) : Sd (m.endCore c k) := by
  unfold Hw.endCore
  split
  · exact updCore_sd h fun _ hc => hc
  · split
    · next s hs => exact kept_mset_save (h : Kept ..) (h.2.2.2.1 _ (mem_of_mget hs))
    · exact h

@[simp] theorem Hw_abandonRuns_sd {m : Hw} {c : Nat} (h : Sd m) : Sd (Hw.abandonRuns m c) := by
  unfold Hw.abandonRuns; (try dsimp only); repeat' (first | (refine foldl_sd (fun _ _ _ => ?_) _ _ ?_) | split)
  all_goals (first | assumption | simp_all +contextual (maxDischargeDepth := 8) [foldl_sd])

@[simp] theorem Hw_resumeState_sd {m : Hw} {c : Nat} (h : Sd m) : Sd (Hw.resumeState m c) := by
  unfold Hw.resumeState; (try dsimp only); repeat' split
  all_goals simp_all +contextual (maxDischargeDepth := 8)

@[simp] theorem Hw_recover_sd {m : Hw} {c : Nat} (h : Sd m) : Sd (m.recover c) := by
  unfold Hw.recover
  dsimp only
  split
  · exact Hw_rollbackLog_sd (Hw_rollTo_sd h)
  · exact Hw_updCtx_sd (Hw_coreFaultLog_sd (Hw_abandonRuns_sd h))

@[simp] theorem Hw_batchDone_sd {m : Hw} {core : Nat} {ctx : Nat} {o : OpRec} (h : Sd m) : Sd (Hw.batchDone m core ctx o) := by
  unfold Hw.batchDone; (try dsimp only); repeat' split
  all_goals simp_all +contextual (maxDischargeDepth := 8)

@[simp] theorem Hw_complete_sd {m : Hw} {core : Nat} {ctx : Nat} {o : OpRec} (h : Sd m) : Sd (Hw.complete m core ctx o) := by
  unfold Hw.complete; (try dsimp only); repeat' split
  all_goals simp_all +contextual (maxDischargeDepth := 8)

@[simp] theorem Hw_setEngine_sd {m : Hw} {q : Nat} {e : MigEngine} (h : Sd m) : Sd (Hw.setEngine m q e) := by
  unfold Hw.setEngine; (try dsimp only); repeat' split
  all_goals simp_all +contextual (maxDischargeDepth := 8)

@[simp] theorem Hw_updPd_sd {m : Hw} {c : Nat} {pdi : Nat} {f : PageDesc → PageDesc} (h : Sd m) : Sd (Hw.updPd m c pdi f) := by
  unfold Hw.updPd; (try dsimp only); repeat' split
  all_goals simp_all +contextual (maxDischargeDepth := 8)

@[simp] theorem Hw_fillSlot_sd {m : Hw} {q : Nat} (h : Sd m) : Sd (Hw.fillSlot m q) := by
  unfold Hw.fillSlot; (try dsimp only); repeat' split
  all_goals simp_all +contextual (maxDischargeDepth := 8)

@[simp] theorem Hw_fillSlotsN_sd {n : Nat} {m : Hw} {q : Nat} (h : Sd m) : Sd (Hw.fillSlotsN n m q) := by
  induction n generalizing m with
  | zero => exact h
  | succ n ih => exact ih (Hw_fillSlot_sd h)

theorem Hw_requestMove_sd {m x : Hw} {c pdi home : Nat} {d : Option Nat} (h : Sd m)
    (hx : m.requestMove c pdi home d = some x) : Sd x := by
  unfold Hw.requestMove at hx
  dsimp only at hx
  split at hx
  · cases hx
  · cases hx
    exact Hw_fillSlot_sd (Hw_updPd_sd (Hw_setEngine_sd h))

@[simp] theorem Hw_queuePages_sd {core : Nat} {l : List Nat} {m : Hw} {c home : Nat} {acc : List Nat} (h : Sd m) :
    Sd (Hw.queuePages core l m c home acc).1 := by
  induction l generalizing m acc with
  | nil => exact h
  | cons p t ih =>
    unfold Hw.queuePages
    split
    · exact ih (Hw_countCore_sd h)
    · split
      · next hx => exact ih (Hw_requestMove_sd h hx)
      · exact h

@[simp] theorem Hw_pumpOp_sd {m : Hw} {core : Nat} {o : OpRec} (h : Sd m) : Sd (Hw.pumpOp m core o) := by
  unfold Hw.pumpOp; (try dsimp only); repeat' split
  all_goals simp_all +contextual (maxDischargeDepth := 8)

@[simp] theorem Hw_askPages_sd {l : List Nat} {m : Hw} {d : Deferred} (h : Sd m) : Sd (Hw.askPages l m d) := by
  induction l generalizing m d with
  | nil => exact Hw_putDeferred_sd h
  | cons p t ih =>
    unfold Hw.askPages
    extract_lets c skip
    split
    · exact ih h
    · split
      · next hx => exact ih (Hw_requestMove_sd h hx)
      · exact Hw_putDeferred_sd h

@[simp] theorem Hw_pumpMigrates_sd {m : Hw} (h : Sd m) : Sd (Hw.pumpMigrates m) := by
  unfold Hw.pumpMigrates; (try dsimp only); repeat' (first | split | (refine foldl_sd (fun _ _ _ => ?_) _ _ ?_))
  all_goals simp_all +contextual (maxDischargeDepth := 8)

@[simp] theorem Hw_pump_sd {m : Hw} (h : Sd m) : Sd (Hw.pump m) := by
  unfold Hw.pump; (try dsimp only); repeat' (first | split | (refine foldl_sd (fun _ _ _ => ?_) _ _ ?_))
  all_goals simp_all +contextual (maxDischargeDepth := 8)

@[simp] theorem Hw_askRetire_sd {m : Hw} {d : Deferred} (h : Sd m) : Sd (m.askRetire d) := by
  unfold Hw.askRetire
  extract_lets q t f covers
  refine foldl_sd (fun m w hm => ?_) _ _ h
  extract_lets a
  have ha : Sd a := Hw_updPd_sd hm
  split
  · exact ha
  · cases hx : a.requestMove w.1 w.2.1 (2 * q + t) none with
    | none => exact ha
    | some x => exact Hw_requestMove_sd ha hx

@[simp] theorem Hw_askRetires_sd {m : Hw} (h : Sd m) : Sd (Hw.askRetires m) := by
  unfold Hw.askRetires; simp +contextual (maxDischargeDepth := 8) [h, foldl_sd]

theorem foldl_poison_ram {f : MemSys → Nat → MemSys} (hf : ∀ s w, (f s w).ram = s.ram) :
    ∀ (l : List Nat) (s : MemSys), (l.foldl f s).ram = s.ram
  | [], _ => rfl
  | _ :: t, s => (foldl_poison_ram hf t _).trans (hf s _)

@[simp] theorem Hw_corrected_sd {m : Hw} {k : Nat} (h : Sd m) : Sd (Hw.corrected m k) := by
  unfold Hw.corrected; (try dsimp only); repeat' split
  all_goals simp_all +contextual (maxDischargeDepth := 8)

@[simp] theorem Hw_tally_sd {m : Hw} {ws : List (Nat × WordRead)} (h : Sd m) : Sd (m.tally ws) :=
  foldl_sd (fun m w hm => by split <;> simp (maxDischargeDepth := 8) [hm]) _ _ h

@[simp] theorem Hw_decoded_sd {m : Hw} {l : Loc} {n : Nat} {rb : ReadBack} (h : Sd m) : Sd (Hw.decoded m l n rb) := by
  unfold Hw.decoded
  split
  · exact Hw_tally_sd h
  · exact h

theorem foldl_wrN_wf {f : Nat → List Byte} : ∀ (l : List Nat) (a : Memory), a.wf = true →
    (l.foldl (fun (a : Memory) w => wrN a w (f w)) a).wf = true
  | [], _, h => h
  | _ :: t, _, h => foldl_wrN_wf t _ (wrN_wf h)

theorem storeAt_wf {s : MemSys} {k : Nat} {bs : List Byte} {rb : ReadBack} (h : s.ram.wf = true) :
    (s.storeAt k bs rb).ram.wf = true := by
  unfold MemSys.storeAt
  extract_lets lost s'
  rw [foldl_poison_ram (f := fun s w => s.poison w 1) (fun _ _ => rfl)]
  refine wrN_wf (m := s'.ram) ?_
  dsimp only [s']
  split
  · exact h
  · exact foldl_wrN_wf _ _ h

theorem rewrite_wf {s : MemSys} {k : Nat} {rb : ReadBack} (h : s.ram.wf = true) : (s.rewrite k rb).ram.wf = true := by
  unfold MemSys.rewrite
  split
  · exact h
  · exact wrN_wf h

@[simp] theorem Hw_landAt_sd {m : Hw} {l : Loc} {bs : List Byte} {rb : ReadBack} (h : Sd m) : Sd (m.landAt l bs rb) := by
  unfold Hw.landAt
  split
  · next k =>
    have ht := Hw_tally_sd (ws := m.mem.mergeWords k bs.length rb) h
    exact sd_ram ht (storeAt_wf (sd_ram_wf ht))
  · exact Hw_putLoc_sd h

@[simp] theorem Hw_lateStore_sd {m : Hw} {l : Loc} {n : Nat} (h : Sd m) : Sd (m.lateStore l n) := by
  unfold Hw.lateStore
  split <;> exact h

@[simp] theorem Hw_lateNote_sd {m : Hw} {src no : Nat} {l : Loc} (h : Sd m) : Sd (m.lateNote src no l) := h

@[simp] theorem Hw_hubLate_sd {m : Hw} {l : Loc} (h : Sd m) : Sd (m.hubLate l) := h

@[simp] theorem Hw_takeEnd_sd {m : Hw} (h : Sd m) : Sd m.takeEnd.2 := by
  unfold Hw.takeEnd
  split <;> exact h

theorem withEnds_sd {m : Hw} {ends : List ReadEnd} {f : Hw → Hw} (h : Sd m) (hf : ∀ x, Sd x → Sd (f x)) :
    Sd (m.withEnds ends f) := hf _ h

@[simp] theorem Hw_hubStore_sd {m : Hw} {c va : Nat} {bs : List Byte} {bad : Bool} (h : Sd m) : Sd (m.hubStore c va bs bad) := by
  unfold Hw.hubStore
  split
  · next l p loc _ =>
    split
    · exact h
    · generalize hx : (m.hostFill p (va - l.va)).takeEnd = x
      have hs : Sd x.2 := hx ▸ Hw_takeEnd_sd (Hw_hostFill_sd h)
      obtain ⟨e, n⟩ := x
      replace hs : Sd n := hs
      clear hx
      dsimp only
      refine Hw_account_sd ?_
      cases e with
      | answered rb =>
        have h2 : Sd (n.landAt loc bs rb) := Hw_landAt_sd hs
        cases loc <;> cases bad <;> exact h2
      | late =>
        have h2 : Sd ((n.lateStore loc bs.length).hubLate loc) := Hw_hubLate_sd (Hw_lateStore_sd hs)
        cases loc <;> cases bad <;> exact h2
  · exact h

theorem hubWrite_fold_sd (c : Nat) (bad : Bool) : ∀ (l : List (Nat × Nat)) (a : Hw × List Byte), Sd a.1 →
    Sd (l.foldl (fun (a : Hw × List Byte) p => (a.1.hubStore c p.1 (a.2.take p.2) bad, a.2.drop p.2)) a).1
  | [], _, h => h
  | _ :: t, _, h => hubWrite_fold_sd c bad t _ (Hw_hubStore_sd h)

@[simp] theorem Hw_hubWrite_sd {m : Hw} {c va : Nat} {bs : List Byte} {bad : Bool} (h : Sd m) : Sd (m.hubWrite c va bs bad) :=
  hubWrite_fold_sd c bad _ _ h

@[simp] theorem Hw_hubLoad_sd {m : Hw} {c va n : Nat} (h : Sd m) : Sd (m.hubLoad c va n).2 := by
  unfold Hw.hubLoad
  split
  · next l p loc _ =>
    generalize hx : (m.hostFill p (va - l.va)).takeEnd = x
    have hs : Sd x.2 := hx ▸ Hw_takeEnd_sd (Hw_hostFill_sd h)
    obtain ⟨e, n⟩ := x
    dsimp only
    split
    · exact Hw_account_sd (Hw_decoded_sd hs)
    · exact Hw_hubLate_sd hs
  · exact h

theorem hubRead_fold_sd (c : Nat) : ∀ (l : List (Nat × Nat)) (a : HubData × Hw), Sd a.2 →
    Sd (l.foldl (fun (a : HubData × Hw) p =>
      (⟨a.1.bytes ++ (a.2.hubLoad c p.1 p.2).1.bytes, a.1.words ++ (a.2.hubLoad c p.1 p.2).1.words⟩,
        (a.2.hubLoad c p.1 p.2).2)) a).2
  | [], _, h => h
  | _ :: t, _, h => hubRead_fold_sd c t _ (Hw_hubLoad_sd h)

@[simp] theorem Hw_hubRead_sd {m : Hw} {c va n : Nat} (h : Sd m) : Sd (m.hubRead c va n).2 := hubRead_fold_sd c _ _ h

theorem copyGranule_wf {s : MemSys} {a b : Nat} {rb : ReadBack} (h : s.ram.wf = true) :
    (s.copyGranule a b rb).ram.wf = true := by
  unfold MemSys.copyGranule
  extract_lets bs lost bad t
  rw [foldl_poison_ram (f := fun s w => s.poison (b + (w - a)) (markSize a)) (fun _ _ => rfl)]
  clear_value bs
  exact wrN_wf h

@[simp] theorem Hw_unlock_sd {m : Hw} {c pdi i : Nat} (h : Sd m) : Sd (m.unlock c pdi i) :=
  kept_map_cores h fun k hk => by dsimp only; split <;> exact hk

@[simp] theorem Hw_moveOne_sd {m : Hw} {g : Mig} {i : Nat} {fwd : Bool} {rb : ReadBack} (h : Sd m) :
    Sd (m.moveOne g i fwd rb) := by
  unfold Hw.moveOne
  extract_lets a b m1
  have h1 : Sd m1 := Hw_unlock_sd (Hw_decoded_sd h)
  exact Hw_traffic_sd (sd_ram h1 (copyGranule_wf (sd_ram_wf h1)))

@[simp] theorem Hw_granuleMove_sd {m : Hw} {q : Nat} {k : Nat} {rb : ReadBack} (h : Sd m) : Sd (Hw.granuleMove m q k rb) := by
  unfold Hw.granuleMove; (try dsimp only); repeat' split
  all_goals simp_all +contextual (maxDischargeDepth := 8)

@[simp] theorem Hw_granuleLate_sd {m : Hw} {q : Nat} {k : Nat} (h : Sd m) : Sd (Hw.granuleLate m q k) := by
  unfold Hw.granuleLate; (try dsimp only); repeat' split
  all_goals simp_all +contextual (maxDischargeDepth := 8)

@[simp] theorem Hw_migEnd_sd {m : Hw} {q k : Nat} (h : Sd m) : Sd (m.migEnd q k) := by
  unfold Hw.migEnd
  extract_lets e m1
  split
  · exact h
  · extract_lets ok va m2 m3 old m4 m5 m6 m7 m8
    split
    · have h3 : Sd m3 := Hw_invalidatePdi_sd (Hw_updPd_sd (Hw_setEngine_sd h))
      have h4 : Sd m4 := sd_ram h3 (wipe_wf (sd_ram_wf h3))
      have h5 : Sd m5 := Hw_event_sd h4
      have h6 : Sd m6 := by
        dsimp only [m6]; split
        · exact h5
        · exact Hw_count_sd h5
      have h7 : Sd m7 := Hw_pageArrived_sd h6
      have h8 : Sd m8 := by
        dsimp only [m8]; split
        · exact Hw_pageDone_sd h7
        · exact h7
      exact Hw_pump_sd (Hw_fillSlot_sd (Hw_askRetires_sd (Hw_settleRetires_sd h8)))
    · exact h

@[simp] theorem Hw_endWith_sd {m : Hw} {core : Nat} {ctx : Nat} {r : Req} {f : FaultRec} (h : Sd m) : Sd (Hw.endWith m core ctx r f) := by
  unfold Hw.endWith; (try dsimp only); repeat' split
  all_goals simp_all +contextual (maxDischargeDepth := 8)

@[simp] theorem Hw_issueOne_sd {m : Hw} {core : Nat} {ctx : Nat} {r : Req} (h : Sd m) : Sd (Hw.issueOne m core ctx r) := by
  unfold Hw.issueOne; (try dsimp only); repeat' (first | (refine foldl_sd (fun _ _ _ => ?_) _ _ ?_) | split)
  all_goals (first | assumption | simp_all +contextual (maxDischargeDepth := 8) [foldl_sd])

@[simp] theorem Hw_loadEnds_sd {m : Hw} {core : Nat} {ctx : Nat} {rb : ReadBack} {r : Req} (h : Sd m) : Sd (Hw.loadEnds m core ctx rb r) := by
  unfold Hw.loadEnds; (try dsimp only); repeat' split
  all_goals simp_all +contextual (maxDischargeDepth := 8)

@[simp] theorem Hw_noteRead_sd {m : Hw} {core : Nat} {l : Loc} {r : Req} {rb : ReadBack} {rs : List Req} (h : Sd m) :
    Sd (m.noteRead core l r rb rs) := by
  unfold Hw.noteRead
  split
  · exact updCore_sd h fun _ hc => hc
  · exact h

@[simp] theorem Hw_reform_sd {m : Hw} {core : Nat} {no : Nat} (h : Sd m) : Sd (Hw.reform m core no) := by
  unfold Hw.reform; (try dsimp only); repeat' split
  all_goals simp_all +contextual (maxDischargeDepth := 8)

@[simp] theorem Hw_respond_sd {m : Hw} {core : Nat} {ctx : Nat} {r : Req} {rb : ReadBack} (h : Sd m) :
    Sd (m.respond core ctx r rb) := by
  unfold Hw.respond
  split
  · exact h
  · extract_lets rs own old m1 m2 m3 m4 m5 m6 m7
    have h1 : Sd m1 := by
      dsimp only [m1]; split
      · exact Hw_landAt_sd h
      · exact Hw_decoded_sd h
    have h2 : Sd m2 := Hw_account_sd h1
    have h3 : Sd m3 := by
      dsimp only [m3]; split
      · exact h2
      · exact Hw_noteRead_sd h2
    have h4 : Sd m4 := updCore_sd h3 fun _ hc => hc
    have h5 : Sd m5 := by
      dsimp only [m5]; split
      · exact h4
      · exact foldl_sd (fun _ _ hm => Hw_loadEnds_sd hm) _ _ h4
    have h6 : Sd m6 := foldl_sd (fun _ _ hm => Hw_reform_sd hm) _ _ h5
    have h7 : Sd m7 := foldl_sd (fun _ _ hm => Hw_settle_sd hm) _ _ (Hw_pumpFerries_sd h6)
    exact updCore_sd h7 fun c hc => by simpa using hc

@[simp] theorem Hw_coreLate_sd {m : Hw} {core : Nat} {l : Loc} (h : Sd m) : Sd (m.coreLate core l) :=
  Hw_lateNote_sd (updCore_sd h fun _ hc => hc)

@[simp] theorem Hw_fetchReads_sd {m : Hw} {core : Nat} {ctx : Nat} {l : List (Nat × Nat × ReadEnd)} (h : Sd m) : Sd (Hw.fetchReads m core ctx l) := by
  unfold Hw.fetchReads; (try dsimp only); repeat' (first | split | (refine foldl_sd (fun _ _ _ => ?_) _ _ ?_))
  all_goals simp_all +contextual (maxDischargeDepth := 8)

@[simp] theorem Hw_walkDecoded_sd {m : Hw} {core : Nat} {l : List (Nat × Nat × ReadEnd)} (h : Sd m) : Sd (Hw.walkDecoded m core l) := by
  unfold Hw.walkDecoded; (try dsimp only); repeat' (first | split | (refine foldl_sd (fun _ _ _ => ?_) _ _ ?_))
  all_goals simp_all +contextual (maxDischargeDepth := 8)

@[simp] theorem Hw_walkFault_sd {m : Hw} {code : Nat} {core : Nat} {thread : Nat} {ctx : Nat} {va : Nat} {n : Need3} (h : Sd m) : Sd (Hw.walkFault m code core thread ctx va n) := by
  unfold Hw.walkFault; (try dsimp only); repeat' (first | (refine foldl_sd (fun _ _ _ => ?_) _ _ ?_) | split)
  all_goals (first | assumption | simp_all +contextual (maxDischargeDepth := 8) [foldl_sd])

@[simp] theorem Hw_translate_sd {m : Hw} {core : Nat} {ctx : Nat} {l : Leaf} {p : PageDesc} (h : Sd m) : Sd (Hw.translate m core ctx l p) := by
  unfold Hw.translate; (try dsimp only); repeat' split
  all_goals simp_all +contextual (maxDischargeDepth := 8)

@[simp] theorem Env_prefetchRun_sd {e : Env} {m : Hw} (h : Sd m) : Sd (e.prefetchRun m) := by
  unfold Env.prefetchRun
  extract_lets r no action dq q home m1 m2 pdis s drop
  have h1 : Sd m1 := Hw_countCore_sd h
  have h2 : Sd m2 := foldl_sd (fun _ _ hm => Hw_translate_sd hm) _ _ h1
  have hs : Sd s.1 := Hw_queuePages_sd h2
  split
  · refine foldl_sd (fun m p hm => ?_) _ _ h1
    split
    · exact Hw_countCore_sd hm
    · exact Hw_translate_sd hm
  · split
    · exact updCore_sd hs fun _ hc => hc
    · exact Hw_countCore_sd (Hw_countCore_sd hs)

@[simp] theorem Hw_swapped_sd {m : Hw} {core : Nat} {id : Nat} {code : Nat} (h : Sd m) : Sd (Hw.swapped m core id code) := by
  unfold Hw.swapped; (try dsimp only); repeat' split
  all_goals simp_all +contextual (maxDischargeDepth := 8)

end Sys2Proof
end

