-- ==== Sys2Proof/Laws/KeptModule.lean ====
section
/-! SUPPORT. Which shared operations keep `Sound`: every one of Tensorizer, Ingest, Tide, Telemetry, Teardown, Power, PowerState, Bringup, Clock, Media, HostPort, Sideband. -/

namespace Sys2Proof

open Machine


@[simp] theorem Hw_hubInt64_sd {m : Hw} {c va : Nat} (h : Sd m) : Sd (m.hubInt64 c va).2 := by
  simp only [Hw.hubInt64]
  exact Hw_hubRead_sd h

@[simp] theorem Hw_setPort_sd {m : Hw} {p : Nat} {x : Port} (h : Sd m) : Sd (Hw.setPort m p x) := by
  unfold Hw.setPort; (try dsimp only); repeat' split
  all_goals simp_all +contextual (maxDischargeDepth := 8)

@[simp] theorem Hw_stranger_sd {m : Hw} {p : Nat} (h : Sd m) : Sd (Hw.stranger m p) := by
  unfold Hw.stranger; (try dsimp only); repeat' split
  all_goals simp_all +contextual (maxDischargeDepth := 8)

@[simp] theorem Hw_rxFrame_sd {m : Hw} {p : Nat} {n : Nat} (h : Sd m) : Sd (Hw.rxFrame m p n) := by
  unfold Hw.rxFrame; (try dsimp only); repeat' split
  all_goals simp_all +contextual (maxDischargeDepth := 8)

@[simp] theorem Hw_collide_sd {m : Hw} {port : Nat} {e : Nat} {f : Flow} {p : Packet} (h : Sd m) : Sd (Hw.collide m port e f p) := by
  unfold Hw.collide; (try dsimp only); repeat' split
  all_goals simp_all +contextual (maxDischargeDepth := 8)

@[simp] theorem Hw_writeRow_sd {m : Hw} {s : Stream} {f i row off : Nat} {xs : List Nat} (h : Sd m) :
    Sd (m.writeRow s f i row off xs) := by
  unfold Hw.writeRow
  dsimp only
  split
  · exact Hw_hubWrite_sd h
  · exact h

@[simp] theorem Hw_writeSeg_sd {m : Hw} {s : Stream} {f : Nat} {g : Seg} (h : Sd m) : Sd (m.writeSeg s f g) :=
  Hw_writeRow_sd (Hw_writeRow_sd (Hw_writeRow_sd h))

@[simp] theorem Hw_writeWhole_sd {m : Hw} {s : Stream} {f : FrameAsm} (h : Sd m) :
    Sd (m.writeWhole s f).1 := foldl_sd (fun _ _ hm => Hw_writeSeg_sd hm) _ _ h

@[simp] theorem Hw_slotTensor_sd {m : Hw} {s : Stream} {f : Nat} (h : Sd m) : Sd (m.slotTensor s f).1 := by
  unfold Hw.slotTensor
  split
  · exact h
  · exact Hw_count_sd (Hw_hubWrite_sd (Hw_hubRead_sd h))

@[simp] theorem Hw_setStream_sd {m : Hw} {n : Nat} {s : Stream} (h : Sd m) : Sd (Hw.setStream m n s) := by
  unfold Hw.setStream; (try dsimp only); repeat' split
  all_goals simp_all +contextual (maxDischargeDepth := 8)

@[simp] theorem Hw_closeFrame_sd {m : Hw} {n : Nat} {s : Stream} {f : FrameAsm} (h : Sd m) : Sd (m.closeFrame n s f) := by
  unfold Hw.closeFrame
  extract_lets s1 m1 lost
  have h1 : Sd m1 := Hw_setStream_sd h
  split
  · exact h1
  · have h2 : Sd (m1.slotTensor s1 f.no).1 := Hw_slotTensor_sd h1
    split
    next m2 bad e =>
    rw [e] at h2
    dsimp only
    exact Hw_count_sd (Hw_count_sd (Hw_count_sd (foldl_sd (fun _ _ hm => Hw_hubUpdate_sd hm) _ _ (Hw_hubWrite_sd h2))))

@[simp] theorem Hw_frameFor_sd {m : Hw} {n : Nat} {s : Stream} {ts : Nat} (h : Sd m) : Sd (Hw.frameFor m n s ts).1 := by
  unfold Hw.frameFor
  split
  · exact h
  · have h1 : Sd (m.hubInt64 s.ctx s.relVa).2 := Hw_hubInt64_sd h
    split
    next rel m1 e =>
    rw [e] at h1
    extract_lets ok f1 s1
    split
    · exact h1
    · exact Hw_event_sd (Hw_count_sd h1)

@[simp] theorem Hw_streamPacket_sd {m : Hw} {port n : Nat} {s : Stream} {p : Packet} (h : Sd m) :
    Sd (m.streamPacket port n s p) := by
  unfold Hw.streamPacket
  split
  · exact Hw_count_sd h
  · extract_lets s1
    split
    · exact Hw_count_sd (Hw_setStream_sd h)
    · have hf : Sd (m.frameFor n s1 p.ts).1 := Hw_frameFor_sd h
      split
      next a b c e =>
      rw [e] at hf
      extract_lets f1
      split
      next m1 f2 e2 =>
      have h1 : Sd m1 := by
        split at e2
        · cases e2; exact hf
        · have hw := Hw_writeWhole_sd (s := b) (f := f1) hf
          rw [e2] at hw; exact hw
      extract_lets s2 m2
      have h2 : Sd m2 := Hw_setStream_sd h1
      split
      · exact Hw_closeFrame_sd h2
      · exact h2

@[simp] theorem Hw_flowPacket_sd {m : Hw} {port : Nat} {e : Nat} {f : Flow} {p : Packet} (h : Sd m) : Sd (Hw.flowPacket m port e f p) := by
  unfold Hw.flowPacket; (try dsimp only); repeat' split
  all_goals simp_all +contextual (maxDischargeDepth := 8)

@[simp] theorem Hw_rtp_sd {m : Hw} {port : Nat} {p : Packet} (h : Sd m) : Sd (Hw.rtp m port p) := by
  unfold Hw.rtp; (try dsimp only); repeat' split
  all_goals simp_all +contextual (maxDischargeDepth := 8)

@[simp] theorem Hw_receive_sd {m : Hw} {port : Nat} {frame : EthFrame} (h : Sd m) : Sd (Hw.receive m port frame) := by
  unfold Hw.receive
  split
  · exact h
  · split
    · exact Hw_count_sd h
    · exact Hw_stranger_sd (Hw_rxFrame_sd h)
    · split
      · exact withEnds_sd (Hw_rxFrame_sd h) fun _ hx => Hw_rtp_sd hx
      · exact Hw_stranger_sd (Hw_rxFrame_sd h)

@[simp] theorem Hw_receiveEarly_sd {m : Hw} {f : Nat × EthFrame} (h : Sd m) : Sd (m.receiveEarly f) := Hw_receive_sd h

@[simp] theorem Hw_reportGroups_sd {m : Hw} {v6 : Bool} {ports : BitVec 4} (h : Sd m) : Sd (m.reportGroups v6 ports) := by
  refine foldl_sd (fun m p hm => ?_) _ _ h
  dsimp only
  repeat' split
  all_goals first | exact hm | exact Hw_setPort_sd hm

@[simp] theorem Hw_portLink_sd {m : Hw} {port : Nat} {link : LinkReport} (h : Sd m) : Sd (Hw.portLink m port link) := by
  unfold Hw.portLink; (try dsimp only); repeat' split
  all_goals simp_all +contextual (maxDischargeDepth := 8)

@[simp] theorem Hw_updIsland_sd {m : Hw} {f : Island → Island} (h : Sd m) : Sd (Hw.updIsland m f) := by
  unfold Hw.updIsland; (try dsimp only); repeat' split
  all_goals simp_all +contextual (maxDischargeDepth := 8)

@[simp] theorem Hw_setSync_sd {m : Hw} {s : Sync} (h : Sd m) : Sd (Hw.setSync m s) := by
  unfold Hw.setSync; (try dsimp only); repeat' split
  all_goals simp_all +contextual (maxDischargeDepth := 8)

@[simp] theorem Hw_beginTicks_sd {m : Hw} (h : Sd m) : Sd (Hw.beginTicks m) := by
  unfold Hw.beginTicks; (try dsimp only); repeat' split
  all_goals simp_all +contextual (maxDischargeDepth := 8)

@[simp] theorem Hw_stepTide_sd {m : Hw} (h : Sd m) : Sd (Hw.stepTide m) := by
  unfold Hw.stepTide; (try dsimp only); repeat' split
  all_goals simp_all +contextual (maxDischargeDepth := 8)

@[simp] theorem Hw_ptpSync_sd {m : Hw} {offset : Int} (h : Sd m) : Sd (Hw.ptpSync m offset) := by
  unfold Hw.ptpSync; (try dsimp only); repeat' split
  all_goals simp_all +contextual (maxDischargeDepth := 8)

@[simp] theorem Hw_ptpAnnounce_sd {m : Hw} {port : Nat} {gm : Nat} {selected : Bool} (h : Sd m) : Sd (Hw.ptpAnnounce m port gm selected) := by
  unfold Hw.ptpAnnounce; (try dsimp only); repeat' split
  all_goals simp_all +contextual (maxDischargeDepth := 8)

@[simp] theorem Hw_freeFrames_sd {m : Hw} {x : Ctx} (h : Sd m) : Sd (Hw.freeFrames m x) := by
  unfold Hw.freeFrames; (try dsimp only); repeat' (first | split | (refine foldl_sd (fun _ _ _ => ?_) _ _ ?_))
  all_goals simp_all +contextual (maxDischargeDepth := 8)

@[simp] theorem Hw_destroyAll_sd {m : Hw} (h : Sd m) : Sd m.destroyAll := by
  unfold Hw.destroyAll
  extract_lets m1
  have h1 : Sd m1 := foldl_sd (fun _ _ hm => Hw_freeFrames_sd (Hw_coreFaultLog_sd hm)) _ _ h
  exact ⟨h1.1, h1.2.1, by simp, by simp, h1.2.2.2.2⟩

@[simp] theorem Hw_cutHostWrite_sd {m : Hw} {a : Nat} {r : Req} (h : Sd m) : Sd (m.cutHostWrite a r) := by
  unfold Hw.cutHostWrite
  extract_lets n
  have hn : Sd n := by
    dsimp only [n]; split
    · exact Hw_putLoc_sd h
    · exact h
  exact hn

@[simp] theorem Hw_finishReq_sd {m : Hw} {k c : Nat} {r : Req} (h : Sd m) : Sd (m.finishReq k c r) := by
  unfold Hw.finishReq
  split
  · split
    · exact updCore_sd (Hw_cutHostWrite_sd h) fun _ hc => hc
    · exact Hw_respond_sd h
  · exact Hw_respond_sd h
  · exact h

@[simp] theorem Hw_clearAll_sd {m : Hw} (h : Sd m) : Sd m.clearAll := by
  unfold Hw.clearAll
  extract_lets m1 m2 m3
  have h1 : Sd m1 := foldl_sd (fun _ _ hm => Hw_stopThreads_sd hm) _ _ h
  have h2 : Sd m2 := foldl_sd (fun m k hm => by
    split
    · exact foldl_sd (fun _ _ hx => Hw_finishReq_sd hx) _ _ hm
    · exact hm) _ _ h1
  exact Hw_dropSignals_sd (foldl_sd (fun m k hm => foldl_sd (fun _ _ hx => Hw_applySignal_sd hx) _ _ hm) _ _ h2)

@[simp] theorem Hw_resetFunction_sd {m : Hw} {cfg : PcieCfg → PcieCfg} (h : Sd m) : Sd (m.resetFunction cfg) := by
  have h1 := Hw_destroyAll_sd (Hw_clearAll_sd h)
  exact ⟨h1.1, h1.2.1, h1.2.2.1, h1.2.2.2.1, by simp [Hw.resetFunction]⟩

@[simp] theorem Hw_answerBusy_sd {m : Hw} {status : Nat} (h : Sd m) : Sd (Hw.answerBusy m status) := by
  unfold Hw.answerBusy; (try dsimp only); repeat' (first | split | (refine foldl_sd (fun _ _ _ => ?_) _ _ ?_))
  all_goals simp_all +contextual (maxDischargeDepth := 8)

@[simp] theorem Hw_updPower_sd {m : Hw} {f : Power → Power} (h : Sd m) : Sd (Hw.updPower m f) := by
  unfold Hw.updPower; (try dsimp only); repeat' split
  all_goals simp_all +contextual (maxDischargeDepth := 8)

@[simp] theorem Hw_showThrottle_sd {m : Hw} (h : Sd m) : Sd (Hw.showThrottle m) := by
  unfold Hw.showThrottle; (try dsimp only); repeat' split
  all_goals simp_all +contextual (maxDischargeDepth := 8)

@[simp] theorem Hw_guarantee_sd {m : Hw} {cause : Nat} {suspended : Bool} {part : Nat} (h : Sd m) : Sd (Hw.guarantee m cause suspended part) := by
  unfold Hw.guarantee; (try dsimp only); repeat' split
  all_goals simp_all +contextual (maxDischargeDepth := 8)

@[simp] theorem Hw_guaranteeAll_sd {m : Hw} {suspended : Bool} (h : Sd m) : Sd (Hw.guaranteeAll m suspended) := by
  unfold Hw.guaranteeAll; (try dsimp only); repeat' (first | split | (refine foldl_sd (fun _ _ _ => ?_) _ _ ?_))
  all_goals simp_all +contextual (maxDischargeDepth := 8)

@[simp] theorem Hw_thermalGuarantee_sd {m : Hw} (h : Sd m) : Sd (Hw.thermalGuarantee m) := by
  unfold Hw.thermalGuarantee; (try dsimp only); repeat' (first | split | (refine foldl_sd (fun _ _ _ => ?_) _ _ ?_))
  all_goals simp_all +contextual (maxDischargeDepth := 8)

@[simp] theorem Hw_thermalRestored_sd {m : Hw} (h : Sd m) : Sd (Hw.thermalRestored m) := by
  unfold Hw.thermalRestored; (try dsimp only); repeat' (first | split | (refine foldl_sd (fun _ _ _ => ?_) _ _ ?_))
  all_goals simp_all +contextual (maxDischargeDepth := 8)

@[simp] theorem Hw_finishRestore_sd {m : Hw} (h : Sd m) : Sd (Hw.finishRestore m) := by
  unfold Hw.finishRestore; (try dsimp only); repeat' split
  all_goals simp_all +contextual (maxDischargeDepth := 8)

@[simp] theorem Hw_retune_sd {m : Hw} (h : Sd m) : Sd (Hw.retune m) := by
  unfold Hw.retune; (try dsimp only); repeat' split
  all_goals simp_all +contextual (maxDischargeDepth := 8)

@[simp] theorem Hw_clockStep_sd {m : Hw} (h : Sd m) : Sd (Hw.clockStep m) := by
  unfold Hw.clockStep; (try dsimp only); repeat' split
  all_goals simp_all +contextual (maxDischargeDepth := 8)

@[simp] theorem Hw_capstanServe_sd {m : Hw} {r : CapReq} (h : Sd m) : Sd (Hw.capstanServe m r) := by
  unfold Hw.capstanServe; (try dsimp only); repeat' split
  all_goals simp_all +contextual (maxDischargeDepth := 8)

@[simp] theorem Hw_capLower_sd {m : Hw} (h : Sd m) : Sd (Hw.capLower m) := by
  unfold Hw.capLower; (try dsimp only); repeat' split
  all_goals simp_all +contextual (maxDischargeDepth := 8)

@[simp] theorem Hw_capRaise_sd {m : Hw} (h : Sd m) : Sd (Hw.capRaise m) := by
  unfold Hw.capRaise; (try dsimp only); repeat' split
  all_goals simp_all +contextual (maxDischargeDepth := 8)

@[simp] theorem Hw_setWarn_sd {m : Hw} {b : Bool} (h : Sd m) : Sd (Hw.setWarn m b) := by
  unfold Hw.setWarn; (try dsimp only); repeat' split
  all_goals simp_all +contextual (maxDischargeDepth := 8)

@[simp] theorem Hw_setV400_sd {m : Hw} {v : Nat} (h : Sd m) : Sd (Hw.setV400 m v) := by
  unfold Hw.setV400; (try dsimp only); repeat' split
  all_goals simp_all +contextual (maxDischargeDepth := 8)

@[simp] theorem Hw_setV48_sd {m : Hw} {v : Nat} (h : Sd m) : Sd (Hw.setV48 m v) := by
  unfold Hw.setV48; (try dsimp only); repeat' split
  all_goals simp_all +contextual (maxDischargeDepth := 8)

@[simp] theorem Hw_brownCross_sd {m : Hw} {v400 : Nat} {v48 : Nat} (h : Sd m) : Sd (Hw.brownCross m v400 v48) := by
  unfold Hw.brownCross; (try dsimp only); repeat' split
  all_goals simp_all +contextual (maxDischargeDepth := 12)

@[simp] theorem Hw_orderlyStop_sd {m : Hw} {reason : Nat} (h : Sd m) : Sd (Hw.orderlyStop m reason) := by
  unfold Hw.orderlyStop; (try dsimp only); repeat' split
  all_goals simp_all +contextual (maxDischargeDepth := 8)

@[simp] theorem Hw_thermalChange_sd {m : Hw} {site : Nat} {begun : Bool} {temp : Nat} {limit : Nat} (h : Sd m) : Sd (Hw.thermalChange m site begun temp limit) := by
  unfold Hw.thermalChange; (try dsimp only); repeat' split
  all_goals simp_all +contextual (maxDischargeDepth := 8)

@[simp] theorem Hw_setTq_sd {m : Hw} {q : Nat} {temp : Nat} (h : Sd m) : Sd (Hw.setTq m q temp) := by
  unfold Hw.setTq; (try dsimp only); repeat' split
  all_goals simp_all +contextual (maxDischargeDepth := 8)

@[simp] theorem Hw_thermalFall_sd {m : Hw} {q : Nat} (h : Sd m) : Sd (Hw.thermalFall m q) := by
  unfold Hw.thermalFall; (try dsimp only); repeat' split
  all_goals simp_all +contextual (maxDischargeDepth := 8)

@[simp] theorem Hw_setPs_sd {m : Hw} {p : PState} (h : Sd m) : Sd (Hw.setPs m p) := by
  unfold Hw.setPs; (try dsimp only); repeat' split
  all_goals simp_all +contextual (maxDischargeDepth := 8)

@[simp] theorem Hw_toRun_sd {m : Hw} (h : Sd m) : Sd (Hw.toRun m) := by
  unfold Hw.toRun; simp +contextual (maxDischargeDepth := 8) [h, foldl_sd]

@[simp] theorem Hw_unhold_sd {m : Hw} (h : Sd m) : Sd (Hw.unhold m) := by
  unfold Hw.unhold; (try dsimp only); repeat' split
  all_goals simp_all +contextual (maxDischargeDepth := 8)

@[simp] theorem Hw_outAll_sd {m : Hw} (h : Sd m) : Sd (Hw.outAll m) :=
  foldl_sd (fun m c hm => by
    extract_lets m1 x m2
    have h1 : Sd m1 := by
      dsimp only [m1]; split
      · exact Hw_recover_sd hm
      · exact hm
    exact Hw_updCtx_sd (foldl_sd (fun _ _ hx => Hw_outCore_sd hx) _ _ h1)) _ _ h

@[simp] theorem Hw_keepPtrs_sd {m : Hw} (h : Sd m) : Sd m.keepPtrs := h

@[simp] theorem Hw_pstateDone_sd {m : Hw} {pair : Nat} {seq : Nat} (h : Sd m) : Sd (Hw.pstateDone m pair seq) := by
  unfold Hw.pstateDone; (try dsimp only); repeat' split
  all_goals simp_all +contextual (maxDischargeDepth := 8)

@[simp] theorem Hw_showDegraded_sd {m : Hw} (h : Sd m) : Sd (Hw.showDegraded m) := by
  unfold Hw.showDegraded; (try dsimp only); repeat' split
  all_goals simp_all +contextual (maxDischargeDepth := 8)

@[simp] theorem Hw_stepNine_sd {m : Hw} {f : Found} {good : List (BitVec 68)} {hubOk : Bool} {x : Health} (h : Sd m) :
    Sd (m.stepNine f good hubOk x) := by
  unfold Hw.stepNine
  extract_lets r m1 m2 code gen m3 m4 fu fl m5
  have h1 : Sd m1 := h
  have h4 : Sd m4 := Hw_showDegraded_sd (Hw_setHealth_sd (Hw_setTopo_sd h1))
  have h5 : Sd m5 := by
    dsimp only [m5]; split
    · split
      · exact h4
      · exact h4
    · exact h4
  split
  · exact Hw_setStatus_sd h5
  · exact Hw_setStatus_sd h4

/-- The module after a reset is sound whatever it was before. -/
@[simp] theorem Hw_wiped_sd {m : Hw} {kind : Nat} : Sd (m.wiped kind) :=
  ⟨⟨by simp [Hw.wiped, Hw.reset, Quay.reset], by simp [Hw.wiped, Hw.reset, Quay.reset]⟩, rfl, by simp [Hw.wiped, Hw.reset],
    by simp [Hw.wiped, Hw.reset], by simp [Hw.wiped, Hw.reset]⟩

@[simp] theorem Hw_clearFirst_sd {m : Hw} (h : Sd m) : Sd m.clearFirst := by
  unfold Hw.clearFirst
  split
  · exact h
  · exact h

@[simp] theorem Hw_bringUp_sd {m : Hw} {kind : Nat} {found : Found} : Sd (m.bringUp kind found) :=
  Hw_wiped_sd (m := m.clearFirst) (kind := kind)

@[simp] theorem Hw_selfTest_sd {m : Hw} {c : Coming} (h : Sd m) : Sd (m.selfTest c) := by
  unfold Hw.selfTest
  split
  · exact Hw_setStatus_sd (Hw_updIsland_sd (m := { m with boot := .done, coming := none }) h)
  · extract_lets build m1 status full m2 m3
    have h3 : Sd m3 := Hw_updPower_sd (Hw_updIsland_sd (m := m1) h)
    exact Hw_setStatus_sd (m := { m3 with coming := _ }) h3

@[simp] theorem Hw_finishTest_sd {m : Hw} {c : Coming} {p : Picked} (h : Sd m) : Sd (m.finishTest c p) := by
  unfold Hw.finishTest
  extract_lets old fl m1 m2 x
  exact Hw_stepNine_sd (Hw_updIsland_sd (m := m1) h)

@[simp] theorem Hw_comeUp_sd {m : Hw} (h : Sd m) : Sd m.comeUp := by
  unfold Hw.comeUp
  split
  · exact h
  · split
    · exact Hw_selfTest_sd h
    · split
      · exact Hw_finishTest_sd h
      · exact h

@[simp] theorem Hw_resetWrite_sd {m : Hw} {v : BitVec 64} {k o n : Nat} {f : Found} (h : Sd m) : Sd (m.resetWrite v k o n f) := by
  unfold Hw.resetWrite
  repeat' split
  all_goals first | exact h | exact Hw_bringUp_sd | exact Hw_hosterr_sd h

@[simp] theorem chargeCore_sd {k : Nat} {n : Nat} {m : Hw} (h : Sd m) : Sd (chargeCore k n m) := by
  unfold chargeCore; (try dsimp only); repeat' split
  all_goals simp_all +contextual (maxDischargeDepth := 8)

@[simp] theorem chargeAll_sd {a b : List Nat} {l : List Nat} {m : Hw} (h : Sd m) : Sd (chargeAll a b l m) := by
  induction l generalizing m with
  | nil => exact h
  | cons k t ih =>
    unfold chargeAll
    extract_lets n
    refine ih ?_
    split
    · exact h
    · exact chargeCore_sd h

theorem passTime_sd {m : Hw} (h : Sd m) : Sd (passTime m) := by
  unfold passTime
  split
  · exact h
  · extract_lets m1 after
    have h1 : Sd m1 := Hw_comeUp_sd (m := { m with island := m.island.advance.reply }) h
    split
    · exact chargeAll_sd (m := { m1 with cycles := _ }) h1
    · exact h1

@[simp] theorem Hw_setJob_sd {m : Hw} {n : Nat} {j : Job} (h : Sd m) : Sd (Hw.setJob m n j) := by
  unfold Hw.setJob; (try dsimp only); repeat' split
  all_goals simp_all +contextual (maxDischargeDepth := 8)

@[simp] theorem Hw_writeSample_sd {m : Hw} {n : Nat} {j : Job} {seq : Nat} {s : Sample} (h : Sd m) :
    Sd (m.writeSample n j seq s) := by
  unfold Hw.writeSample
  extract_lets t k o s1 m1 s2 b j1 j2 m4
  have h1 : Sd m1 := Hw_hubWrite_sd (Hw_hubWrite_sd (Hw_hubWrite_sd h))
  have h4 : Sd m4 := by
    dsimp only [m4]; split
    · exact h1
    · exact Hw_count_sd h1
  exact Hw_count_sd (Hw_count_sd (Hw_count_sd (Hw_count_sd (Hw_setJob_sd h4))))

@[simp] theorem Hw_hostDecoded_sd {m : Hw} {j : Job} {s : Sample} (h : Sd m) : Sd (m.hostDecoded j s).1 := by
  unfold Hw.hostDecoded
  dsimp only
  split
  · exact h
  · split
    · exact h
    · exact Hw_hubRead_sd h

@[simp] theorem Hw_completeBatches_sd {k : Nat} {m : Hw} {n : Nat} (h : Sd m) : Sd (Hw.completeBatches k m n) := by
  induction k generalizing m with
  | zero => exact h
  | succ k ih =>
    unfold Hw.completeBatches
    split
    · exact h
    · extract_lets b full m1 m2
      split
      · exact ih (Hw_setJob_sd (foldl_sd (fun _ _ hm => Hw_hubUpdate_sd hm) _ _ (Hw_hubWrite_sd h)))
      · exact h

@[simp] theorem Hw_writeVoids_sd {m : Hw} {n : Nat} (h : Sd m) : Sd (m.writeVoids n) := by
  unfold Hw.writeVoids
  split
  · exact h
  · refine foldl_sd (fun m s hm => ?_) _ _ h
    split
    · exact Hw_writeSample_sd hm
    · exact hm

@[simp] theorem Hw_lowWater_sd {m : Hw} {n : Nat} (h : Sd m) : Sd (Hw.lowWater m n) := by
  unfold Hw.lowWater; (try dsimp only); repeat' split
  all_goals simp_all +contextual (maxDischargeDepth := 8)

@[simp] theorem Hw_finishJob_sd {m : Hw} {n : Nat} (h : Sd m) : Sd (Hw.finishJob m n) := by
  unfold Hw.finishJob; (try dsimp only); repeat' (first | split | (refine foldl_sd (fun _ _ _ => ?_) _ _ ?_))
  all_goals simp_all +contextual (maxDischargeDepth := 8)

@[simp] theorem Hw_jobPump_sd {m : Hw} {n : Nat} (h : Sd m) : Sd (m.jobPump n) :=
  Hw_finishJob_sd (Hw_lowWater_sd (Hw_completeBatches_sd (Hw_writeVoids_sd h)))

@[simp] theorem Hw_guideMiss_sd {m : Hw} {n : Nat} {j : Job} {seq : Nat} {s : Sample} (h : Sd m) : Sd (Hw.guideMiss m n j seq s).1 := by
  unfold Hw.guideMiss; (try dsimp only); repeat' split
  all_goals simp_all +contextual (maxDischargeDepth := 8)

@[simp] theorem Hw_restatus_sd {m : Hw} {j : Job} {seq : Nat} {s : Sample} (h : Sd m) : Sd (Hw.restatus m j seq s) := by
  unfold Hw.restatus; (try dsimp only); repeat' split
  all_goals simp_all +contextual (maxDischargeDepth := 8)

@[simp] theorem Hw_putSample_sd {m : Hw} {n : Nat} {j : Job} {seq : Nat} {old : Sample} {s : Sample} (h : Sd m) : Sd (Hw.putSample m n j seq old s) := by
  unfold Hw.putSample; (try dsimp only); repeat' split
  all_goals simp_all +contextual (maxDischargeDepth := 8)

@[simp] theorem Hw_readDone_sd {m : Hw} {bs : List Byte} {ep : List Bool} (h : Sd m) : Sd (m.readDone bs ep) := h

@[simp] theorem Hw_readHosterr_sd {m : Hw} {half : Option Bool} (h : Sd m) : Sd (m.readHosterr half) := by
  unfold Hw.readHosterr
  dsimp only
  split <;> exact h

@[simp] theorem Hw_resizeBar2_sd {m : Hw} {n : Nat} (h : Sd m) : Sd (m.resizeBar2 n) := by
  unfold Hw.resizeBar2
  split <;> exact h

@[simp] theorem Hw_setMask_sd {m : Hw} {n : Nat} {b : Bool} (h : Sd m) : Sd (m.setMask n b) := h

@[simp] theorem Hw_tableDword_sd {m : Hw} {off v : Nat} (h : Sd m) : Sd (m.tableDword off v) := by
  unfold Hw.tableDword
  dsimp only
  split <;> exact h

@[simp] theorem Hw_bar4Write_sd {m : Hw} {off : Nat} {bs : List Byte} (h : Sd m) : Sd (m.bar4Write off bs) := by
  unfold Hw.bar4Write
  dsimp only
  split
  · exact foldl_sd (fun _ _ hm => Hw_tableDword_sd hm) _ _ h
  · exact h

theorem sd_host {m : Hw} {x : HostLink} (h : Sd m) : Sd { m with host := x } := h

@[simp] theorem Hw_setConfig_sd {m : Hw} {off v w : Nat} (h : Sd m) : Sd (m.setConfig off v w) := by
  unfold Hw.setConfig
  extract_lets c old put bar clear aer
  have hp (x : PcieCfg) : Sd (put x) := sd_host h
  clear_value put
  have hb (i x : Nat) : Sd (bar i x) := hp _
  have hc (i : Nat) : Sd (clear i) := hp _
  have ha (i : Nat) : Sd (aer i) := hp _
  clear_value bar clear aer
  split
  all_goals first
    | exact hp _
    | exact hb _ _
    | exact hc _
    | exact ha _
    | exact h
    | exact Hw_resizeBar2_sd h
    | skip
  · repeat' split
    all_goals first | exact hp _ | exact h
  · split
    · exact Hw_resetFunction_sd (hp _)
    · exact hp _

@[simp] theorem Hw_configWrite_sd {m : Hw} {off : Nat} {bs : List Byte} (h : Sd m) : Sd (m.configWrite off bs) := by
  unfold Hw.configWrite
  dsimp only
  split
  · exact Hw_setConfig_sd h
  · exact h

theorem and_mask {a b : BitVec 64} (h : a &&& 0xFFFFFFFFFFFFFF80#64 = 0#64) :
    (a &&& b) &&& 0xFFFFFFFFFFFFFF80#64 = 0#64 := by
  rw [BitVec.and_assoc, BitVec.and_comm b, ← BitVec.and_assoc, h]
  simp

@[simp] theorem Hw_clearCause_sd {m : Hw} {v : BitVec 64} (h : Sd m) : Sd (m.clearCause v) :=
  ⟨⟨and_mask h.1.1, h.1.2⟩, h.2⟩

theorem low7_mask (v : BitVec 64) : (v &&& 0x7F#64) &&& 0xFFFFFFFFFFFFFF80#64 = 0#64 := by
  rw [BitVec.and_assoc]
  simp

@[simp] theorem Hw_setCauseEn_sd {m : Hw} {v : BitVec 64} (h : Sd m) : Sd (m.setCauseEn v) := by
  have h1 : Sd { m with quay := { m.quay with causeEn := v &&& 0x7F#64 } } := ⟨⟨h.1.1, low7_mask v⟩, h.2⟩
  unfold Hw.setCauseEn
  extract_lets e m1
  split
  · exact h1
  · exact h1

@[simp] theorem Hw_intakeTail_sd {m : Hw} {ring : Nat} {v : BitVec 32} (h : Sd m) : Sd (Hw.intakeTail m ring v) := by
  unfold Hw.intakeTail; (try dsimp only); repeat' split
  all_goals simp_all +contextual (maxDischargeDepth := 8)

@[simp] theorem Hw_submitTail_sd {m : Hw} {queue : Nat} {v : BitVec 32} (h : Sd m) : Sd (Hw.submitTail m queue v) := by
  unfold Hw.submitTail; (try dsimp only); repeat' split
  all_goals simp_all +contextual (maxDischargeDepth := 8)

@[simp] theorem Hw_dropped_sd {m : Hw} {c : Nat} {x : Ctx} {r : Ring} (h : Sd m) : Sd (Hw.dropped m c x r) := by
  unfold Hw.dropped; (try dsimp only); repeat' split
  all_goals simp_all +contextual (maxDischargeDepth := 8)

@[simp] theorem Hw_eventHead_sd {m : Hw} {c : Nat} {v : BitVec 32} (h : Sd m) : Sd (Hw.eventHead m c v) := by
  unfold Hw.eventHead; (try dsimp only); repeat' split
  all_goals simp_all +contextual (maxDischargeDepth := 8)

@[simp] theorem Hw_clearErr_sd {m : Hw} {off : Nat} (h : Sd m) : Sd (Hw.clearErr m off) := by
  unfold Hw.clearErr; (try dsimp only); repeat' split
  all_goals simp_all +contextual (maxDischargeDepth := 8)

@[simp] theorem Hw_bollardBell_sd {m : Hw} {core : Nat} {value : BitVec 64} (h : Sd m) : Sd (Hw.bollardBell m core value) := by
  unfold Hw.bollardBell; (try dsimp only); repeat' split
  all_goals simp_all +contextual (maxDischargeDepth := 8)

@[simp] theorem Hw_unknownCmd_sd {m : Hw} {pair : Nat} (h : Sd m) : Sd (Hw.unknownCmd m pair) := by
  unfold Hw.unknownCmd; (try dsimp only); repeat' split
  all_goals simp_all +contextual (maxDischargeDepth := 8)

@[simp] theorem Hw_mailBell_sd {m : Hw} {pair : Nat} {value : BitVec 64} (h : Sd m) : Sd (m.mailBell pair value) := by
  unfold Hw.mailBell
  extract_lets p v
  split
  · refine Hw_unknownCmd_sd ?_
    exact ⟨h.1, h.2.1, h.2.2.1, h.2.2.2.1, fun e he => by
      rcases mem_mset he with he | he
      · exact he ▸ ⟨(pair_wf h).1, rfl⟩
      · exact h.2.2.2.2 e he⟩
  · exact Hw_hosterr_sd h

@[simp] theorem Hw_hold_sd {m : Hw} {w : HeldWrite} (h : Sd m) : Sd (Hw.hold m w) := by
  unfold Hw.hold; (try dsimp only); repeat' split
  all_goals simp_all +contextual (maxDischargeDepth := 8)

@[simp] theorem Hw_applyWrite_sd {m : Hw} {w : HeldWrite} (h : Sd m) : Sd (m.applyWrite w) := by
  cases w with
  | bollard => exact Hw_bollardBell_sd h
  | mailbox => exact Hw_mailBell_sd h
  | submitTail => exact Hw_submitTail_sd h
  | intakeTail => exact Hw_intakeTail_sd h

@[simp] theorem Hw_hostWrite_sd {m : Hw} {w : HeldWrite} (h : Sd m) : Sd (m.hostWrite w) := by
  unfold Hw.hostWrite
  split
  · exact h
  · split
    · exact Hw_hold_sd h
    · exact Hw_applyWrite_sd h

@[simp] theorem Hw_pairWrite_sd {m : Hw} {off : Nat} {bs : List Byte} (h : Sd m) : Sd (Hw.pairWrite m off bs) := by
  unfold Hw.pairWrite; (try dsimp only); repeat' split
  all_goals simp_all +contextual (maxDischargeDepth := 8)

@[simp] theorem Hw_pointerWrite_sd {m : Hw} {off v : Nat} {wide : Bool} (h : Sd m) : Sd (m.pointerWrite off v wide) := by
  unfold Hw.pointerWrite
  extract_lets frozen low err isErr m1
  have h1 : Sd m1 := by
    dsimp only [m1]; split
    · exact Hw_clearErr_sd h
    · exact h
  clear_value m1 isErr frozen
  split
  · exact h
  · split
    · exact h
    · split
      · exact Hw_hostWrite_sd h
      · split
        · exact Hw_hosterr_sd h
        · split
          · exact Hw_eventHead_sd h1
          · exact h1

@[simp] theorem Hw_bellWrite_sd {m : Hw} {off : Nat} {v : BitVec 64} (h : Sd m) : Sd (Hw.bellWrite m off v) := by
  unfold Hw.bellWrite; (try dsimp only); repeat' split
  all_goals simp_all +contextual (maxDischargeDepth := 8)

@[simp] theorem Hw_sb_sd {m : Hw} {a : SbAnswer} (h : Sd m) : Sd (Hw.sb m a) := by
  unfold Hw.sb; (try dsimp only); repeat' split
  all_goals simp_all +contextual (maxDischargeDepth := 8)

end Sys2Proof
end

