-- ==== Sys2Proof/Laws/KeptEspor.lean ====
section
/-! SUPPORT. Which shared operations keep `Sound`: every one of EsporBase, EsporCtx, EsporMem, EsporSys, EsporMedia, OpTable, PlanTensor, PlanChain, PlanBody, PlanSpan, EsporPlan. -/

namespace Sys2Proof

open Machine

/-- A reply that changes the state keeps it sound. -/
inductive Reply.Ok : Reply → Prop where
  | refuse (c d : Nat) : Reply.Ok (.refuse c d)
  | done {m : Hw} {o : List Byte} (h : Sd m) : Reply.Ok (.done m o)
  | defer {m : Hw} (h : Sd m) : Reply.Ok (.defer m)

@[simp] theorem ok_refuse (c d : Nat) : Reply.Ok (.refuse c d) := .refuse c d

@[simp] theorem ok_done {m : Hw} {o : List Byte} : Reply.Ok (.done m o) ↔ Sd m :=
  ⟨fun h => by cases h with | done h => exact h, .done⟩

@[simp] theorem ok_defer {m : Hw} : Reply.Ok (.defer m) ↔ Sd m := ⟨fun h => by cases h with | defer h => exact h, .defer⟩

theorem judge_ok {l : List Check} {f : Unit → Reply} (h : Reply.Ok (f ())) : Reply.Ok (judge l f) := by
  unfold judge
  split
  · exact .refuse _ _
  · exact h

/-- Serving a pair keeps the state sound when the reply does. -/
theorem serve_sd {m : Hw} {n : Nat} {s : CmdSpec} {f : Pair → Reply} (h : Sd m) (hf : ∀ p, Reply.Ok (f p)) :
    Sd (m.serve n s f) := by
  unfold Hw.serve
  split
  · extract_lets p
    split
    · exact Hw_answer_sd h
    · have hp := hf p
      split
      · exact Hw_answer_sd h
      · next e => rw [e] at hp; exact Hw_answer_sd (by simpa using hp)
      · next e => rw [e] at hp; exact Hw_answer_sd (by simpa using hp)
  · exact h

/-- A reply that a read may turn into 0x0008 keeps the state sound when the reply itself does. -/
theorem replyOver_ok {m : Hw} {bad : Option Nat} {f : Hw → Pair → Reply} {p : Pair} (hf : Reply.Ok (f m p)) :
    Reply.Ok (m.replyOver bad f p) := by
  unfold Hw.replyOver
  split
  · exact .refuse _ _
  · exact hf

theorem serveBlock_sd {m : Hw} {n : Nat} {s : CmdSpec} {block : Option (List Byte)} {f : Pair → List Byte → Reply} (h : Sd m)
    (hf : ∀ p b, Reply.Ok (f p b)) : Sd (m.serveBlock n s block f) := by
  unfold Hw.serveBlock
  refine serve_sd h fun p => ?_
  split
  · exact .refuse _ _
  · exact hf _ _

@[simp] theorem deferWork_sd {m : Hw} {n : Nat} {p : Pair} {obj : Nat} (h : Sd m) : Sd (m.deferWork n p obj).1 := h




@[simp] theorem Hw_ctlRead_sd {m : Hw} {c va n : Nat} (h : Sd m) : Sd (m.ctlRead c va n) := by
  unfold Hw.ctlRead
  refine foldl_sd (fun m p hm => ?_) _ _ h
  split
  · exact Hw_traffic_sd hm
  · exact hm

@[simp] theorem Hw_ctlWrite_sd {m : Hw} {c q n : Nat} (h : Sd m) : Sd (m.ctlWrite c q n) := Hw_traffic_sd h

/-- Taking a context's areas changes the contexts only. -/
theorem Hw_takeAreas_sd {l : List (Nat × Nat)} : ∀ {m n : Hw} {c : Nat}, m.takeAreas c l = some n → Sd m → Sd n := by
  induction l with
  | nil => intro m n c e h; cases e; exact h
  | cons a t ih =>
    intro m n c e h
    unfold Hw.takeAreas at e
    split at e
    · exact ih e h
    · cases e

@[simp] theorem Hw_ctxCreateReply_sd {m : Hw} {num : Nat} {tableQ : Nat} {p : Pair} (h : Sd m) : Reply.Ok (Hw.ctxCreateReply m num tableQ p) := by
  unfold Hw.ctxCreateReply; (try dsimp only); repeat' (first | (refine judge_ok ?_) | split)
  all_goals first
    | exact .refuse _ _
    | next hq => exact ok_done.2 (Hw_takeAreas_sd hq (Hw_growPool_sd h))

@[simp] theorem Hw_endPlanNow_sd {m : Hw} {plan : Nat} (h : Sd m) : Sd (m.endPlanNow plan) := by
  unfold Hw.endPlanNow
  split
  · exact h
  · extract_lets m1 m2 m3
    have h1 : Sd m1 := foldl_sd (fun m e hm => by
      split
      · exact updCore_sd hm fun c hc => by simpa using hc
      · exact hm) _ _ h
    have h2 : Sd m2 := by
      dsimp only [m2]; split
      · split
        · exact Hw_event_sd h1
        · exact h1
      · exact h1
    exact foldl_sd (fun _ _ hm => Hw_eventDone_sd hm) _ _ (Hw_dropPlan_sd h2)

@[simp] theorem Hw_dropJob_sd {m : Hw} {n : Nat} (h : Sd m) : Sd (Hw.dropJob m n) := by
  unfold Hw.dropJob; (try dsimp only); repeat' (first | split | (refine foldl_sd (fun _ _ _ => ?_) _ _ ?_))
  all_goals simp_all +contextual (maxDischargeDepth := 8)

@[simp] theorem Hw_dropMigs_sd {m : Hw} {c : Nat} (h : Sd m) : Sd (Hw.dropMigs m c) := by
  unfold Hw.dropMigs; (try dsimp only); repeat' (first | split | (refine foldl_sd (fun _ _ _ => ?_) _ _ ?_))
  all_goals simp_all +contextual (maxDischargeDepth := 8)

@[simp] theorem Hw_dropCtx_sd {m : Hw} {c : Nat} {x : Ctx} (h : Sd m) : Sd (m.dropCtx c x) := by
  unfold Hw.dropCtx
  extract_lets ks m0 m1 m2 m3 m4 cl m5 m6
  have h0 : Sd m0 := Hw_coreFaultLog_sd h
  clear_value m0
  have h1 : Sd m1 := foldl_sd (fun _ _ hm => Hw_endPlanNow_sd hm) _ _ h0
  clear_value m1
  have h2 : Sd m2 := foldl_sd (fun _ _ hm => Hw_dropJob_sd hm) _ _ h1
  clear_value m2
  have h3 : Sd m3 := foldl_sd (f := fun (m : Hw) (q : Nat × SubQ) => { m with queues := mdel m.queues q.1 }.unbind 3 q.1)
    (fun m q hm => hm) _ _ h2
  clear_value m3
  have h4 : Sd m4 := Hw_dropMigs_sd (Hw_unbind_sd h3)
  clear_value m4
  have h5 : Sd m5 := foldl_sd (fun m k hm => by
    split
    · exact kept_mset_core hm rfl
    · exact hm) _ _ h4
  clear_value m5
  have h6 : Sd m6 := Hw_invalidateCtx_sd (Hw_freeFrames_sd (Hw_dropSignals_sd h5))
  clear_value m6
  exact ⟨h6.1, h6.2.1, h6.2.2.1, fun e he => h6.2.2.2.1 e (List.mem_filter.1 he).1, h6.2.2.2.2⟩

@[simp] theorem Hw_refill_sd {m : Hw} (h : Sd m) : Sd (Hw.refill m) := by
  unfold Hw.refill; simp +contextual (maxDischargeDepth := 8) [h, foldl_sd]

@[simp] theorem Hw_ctxDestroyReply_sd {m : Hw} {p : Pair} (h : Sd m) : Reply.Ok (Hw.ctxDestroyReply m p) := by
  unfold Hw.ctxDestroyReply; (try dsimp only); repeat' (first | (refine judge_ok ?_) | split)
  all_goals simp_all +contextual (maxDischargeDepth := 8)

@[simp] theorem Hw_ctxSetReply_sd {m : Hw} {p : Pair} (h : Sd m) : Reply.Ok (Hw.ctxSetReply m p) := by
  unfold Hw.ctxSetReply; (try dsimp only); repeat' (first | (refine judge_ok ?_) | split)
  all_goals simp_all +contextual (maxDischargeDepth := 8)

@[simp] theorem Hw_ctxFaultsReply_sd {m : Hw} {p : Pair} (h : Sd m) : Reply.Ok (Hw.ctxFaultsReply m p) := by
  unfold Hw.ctxFaultsReply; (try dsimp only); repeat' (first | (refine judge_ok ?_) | split)
  all_goals simp_all +contextual (maxDischargeDepth := 8)

@[simp] theorem Hw_subqCreateReply_sd {m : Hw} {bad : Bool} {queue : Nat} {p : Pair} (h : Sd m) : Reply.Ok (Hw.subqCreateReply m bad queue p) := by
  unfold Hw.subqCreateReply; (try dsimp only); repeat' (first | (refine judge_ok ?_) | split)
  all_goals simp_all +contextual (maxDischargeDepth := 8)

@[simp] theorem Hw_subqDestroyReply_sd {m : Hw} {p : Pair} (h : Sd m) : Reply.Ok (Hw.subqDestroyReply m p) := by
  unfold Hw.subqDestroyReply; (try dsimp only); repeat' (first | (refine judge_ok ?_) | split)
  all_goals simp_all +contextual (maxDischargeDepth := 8)

@[simp] theorem Hw_evringCreateReply_sd {m : Hw} {bad : Bool} {p : Pair} (h : Sd m) : Reply.Ok (Hw.evringCreateReply m bad p) := by
  unfold Hw.evringCreateReply; (try dsimp only); repeat' (first | (refine judge_ok ?_) | split)
  all_goals simp_all +contextual (maxDischargeDepth := 8)

@[simp] theorem Hw_evringDestroyReply_sd {m : Hw} {p : Pair} (h : Sd m) : Reply.Ok (Hw.evringDestroyReply m p) := by
  unfold Hw.evringDestroyReply; (try dsimp only); repeat' (first | (refine judge_ok ?_) | split)
  all_goals simp_all +contextual (maxDischargeDepth := 8)

@[simp] theorem Hw_intrBindReply_sd {m : Hw} {p : Pair} (h : Sd m) : Reply.Ok (Hw.intrBindReply m p) := by
  unfold Hw.intrBindReply; (try dsimp only); repeat' (first | (refine judge_ok ?_) | split)
  all_goals simp_all +contextual (maxDischargeDepth := 8)

@[simp] theorem Hw_snapArmReply_sd {m : Hw} {p : Pair} (h : Sd m) : Reply.Ok (Hw.snapArmReply m p) := by
  unfold Hw.snapArmReply; (try dsimp only); repeat' (first | (refine judge_ok ?_) | split)
  all_goals simp_all +contextual (maxDischargeDepth := 8)

@[simp] theorem Hw_snapCancelReply_sd {m : Hw} {x : Pair} (h : Sd m) : Reply.Ok (Hw.snapCancelReply m x) := by
  unfold Hw.snapCancelReply; (try dsimp only); repeat' (first | (refine judge_ok ?_) | split)
  all_goals simp_all +contextual (maxDischargeDepth := 8)

@[simp] theorem Hw_infoReply_sd {m : Hw} {x : Pair} (h : Sd m) : Reply.Ok (Hw.infoReply m x) := by
  unfold Hw.infoReply; (try dsimp only); repeat' (first | (refine judge_ok ?_) | split)
  all_goals simp_all +contextual (maxDischargeDepth := 8)

@[simp] theorem Hw_addPages_sd {m : Hw} {c : Nat} {x : Ctx} {ls : List Leaf} {pds : Map PageDesc} (h : Sd m) : Sd (Hw.addPages m c x ls pds) := by
  unfold Hw.addPages; (try dsimp only); repeat' split
  all_goals simp_all +contextual (maxDischargeDepth := 8)

@[simp] theorem Hw_mapShared_sd {m : Hw} {c : Nat} {x : Ctx} {r : MapReq} (h : Sd m) : Reply.Ok (Hw.mapShared m c x r) := by
  unfold Hw.mapShared; (try dsimp only); repeat' (first | (refine judge_ok ?_) | split)
  all_goals simp_all +contextual (maxDischargeDepth := 8)

theorem zero_fold_sd {q t n : Nat} {l : List Nat} {m : Hw} (h : Sd m) :
    Sd (l.foldl (fun (m : Hw) f => { m with mem := m.mem.zeroFrames q t f n }) m) :=
  foldl_sd (fun _ _ hm => sd_ram hm (wipe_wf (sd_ram_wf hm))) _ _ h

@[simp] theorem Hw_mapNew_sd {m : Hw} {c : Nat} {x : Ctx} {r : MapReq} {hint : Nat} (h : Sd m) : Reply.Ok (Hw.mapNew m c x r hint) := by
  unfold Hw.mapNew; dsimp only
  refine judge_ok ?_
  split
  · simp
  · refine ok_done.2 (Hw_addPages_sd ?_)
    split
    · exact zero_fold_sd h
    · exact h

@[simp] theorem Hw_mapReply_sd {m : Hw} {frame : Nat} {p : Pair} (h : Sd m) : Reply.Ok (m.mapReply frame p) := by
  unfold Hw.mapReply
  extract_lets r
  split
  · exact .refuse _ _
  · refine judge_ok ?_
    split
    · exact Hw_mapShared_sd h
    · exact Hw_mapNew_sd h

@[simp] theorem Hw_unmapReply_sd {m : Hw} {p : Pair} (h : Sd m) : Reply.Ok (Hw.unmapReply m p) := by
  unfold Hw.unmapReply; (try dsimp only); repeat' (first | (refine judge_ok ?_) | split)
  all_goals simp_all +contextual (maxDischargeDepth := 8)

@[simp] theorem Hw_mapAttrReply_sd {m : Hw} {p : Pair} (h : Sd m) : Reply.Ok (m.mapAttrReply p) := by
  unfold Hw.mapAttrReply
  extract_lets va n set clr
  split
  · exact .refuse _ _
  · extract_lets ds add full leaves pds m1
    exact judge_ok (.done (foldl_sd (fun _ _ hm => Hw_invalidatePdi_sd hm) _ _ h))

@[simp] theorem Hw_migrateReply_sd {m : Hw} {pair : Nat} {p : Pair} (h : Sd m) : Reply.Ok (Hw.migrateReply m pair p) := by
  unfold Hw.migrateReply; (try dsimp only); repeat' (first | (refine judge_ok ?_) | split)
  all_goals simp_all +contextual (maxDischargeDepth := 8)

@[simp] theorem Hw_retireFrameReply_sd {m : Hw} {pair : Nat} {p : Pair} (h : Sd m) : Reply.Ok (Hw.retireFrameReply m pair p) := by
  unfold Hw.retireFrameReply; (try dsimp only); repeat' (first | (refine judge_ok ?_) | split)
  all_goals simp_all +contextual (maxDischargeDepth := 8)

@[simp] theorem Hw_retireUnitReply_sd {m : Hw} {p : Pair} (h : Sd m) : Reply.Ok (Hw.retireUnitReply m p) := by
  unfold Hw.retireUnitReply; (try dsimp only); repeat' (first | (refine judge_ok ?_) | split)
  all_goals simp_all +contextual (maxDischargeDepth := 8)

@[simp] theorem Hw_scrubCfgReply_sd {m : Hw} {p : Pair} (h : Sd m) : Reply.Ok (Hw.scrubCfgReply m p) := by
  unfold Hw.scrubCfgReply; (try dsimp only); repeat' (first | (refine judge_ok ?_) | split)
  all_goals simp_all +contextual (maxDischargeDepth := 8)

@[simp] theorem Hw_apertureReply_sd {m : Hw} {p : Pair} (h : Sd m) : Reply.Ok (Hw.apertureReply m p) := by
  unfold Hw.apertureReply; (try dsimp only); repeat' (first | (refine judge_ok ?_) | split)
  all_goals simp_all +contextual (maxDischargeDepth := 8)

@[simp] theorem Hw_makeSeqTable_sd {m : Hw} {c : Nat} {x : Ctx} {va : Nat} {n : Nat} {fs : List Nat} (h : Sd m) : Sd (Hw.makeSeqTable m c x va n fs) := by
  unfold Hw.makeSeqTable
  extract_lets ps ls desc pds m1 m2
  have h1 : Sd m1 := zero_fold_sd h
  clear_value m1
  have h2 : Sd m2 := Hw_addPages_sd h1
  exact foldl_sd (fun _ _ hm => Hw_poke_sd hm) _ _ (Hw_ctlWrite_sd h2)

@[simp] theorem Hw_seqTableReply_sd {m : Hw} {p : Pair} (h : Sd m) : Reply.Ok (m.seqTableReply p) := by
  unfold Hw.seqTableReply
  extract_lets va n bytes
  clear_value bytes
  split
  · exact .refuse _ _
  · extract_lets busy m1
    have h1 : Sd m1 := by
      dsimp only [m1]; split
      · exact h
      · exact Hw_unmapRange_sd h
    clear_value m1
    refine judge_ok ?_
    split
    · exact .refuse _ _
    · refine judge_ok ?_
      split
      · exact .refuse _ _
      · exact .done (Hw_makeSeqTable_sd h1)

@[simp] theorem Hw_seqDefineReply_sd {m : Hw} {p : Pair} (h : Sd m) : Reply.Ok (Hw.seqDefineReply m p) := by
  unfold Hw.seqDefineReply; (try dsimp only); repeat' (first | (refine judge_ok ?_) | split)
  all_goals simp_all +contextual (maxDischargeDepth := 8)

@[simp] theorem Hw_seqReleaseReply_sd {m : Hw} {p : Pair} (h : Sd m) : Reply.Ok (m.seqReleaseReply p) := by
  unfold Hw.seqReleaseReply
  extract_lets c s n
  split
  · exact .refuse _ _
  · exact judge_ok (.done <| Hw_refill_sd (foldl_sd (fun _ _ hm => Hw_releaseSeq_sd (Hw_noteSeq_sd hm)) _ _ h))

@[simp] theorem Hw_partCreateReply_sd {m : Hw} {p : Pair} (h : Sd m) : Reply.Ok (Hw.partCreateReply m p) := by
  unfold Hw.partCreateReply; (try dsimp only); repeat' (first | (refine judge_ok ?_) | split)
  all_goals simp_all +contextual (maxDischargeDepth := 8)

@[simp] theorem Hw_partDestroyReply_sd {m : Hw} {p : Pair} (h : Sd m) : Reply.Ok (Hw.partDestroyReply m p) := by
  unfold Hw.partDestroyReply; (try dsimp only); repeat' (first | (refine judge_ok ?_) | split)
  all_goals simp_all +contextual (maxDischargeDepth := 8)

@[simp] theorem Hw_dropTarget_sd {m : Hw} (h : Sd m) : Sd (Hw.dropTarget m) := by
  unfold Hw.dropTarget; (try dsimp only); repeat' split
  all_goals simp_all +contextual (maxDischargeDepth := 8)

@[simp] theorem Hw_pstateReply_sd {m : Hw} {pair : Nat} {p : Pair} (h : Sd m) : Reply.Ok (Hw.pstateReply m pair p) := by
  unfold Hw.pstateReply; (try dsimp only); repeat' (first | (refine judge_ok ?_) | split)
  all_goals simp_all +contextual (maxDischargeDepth := 8)

@[simp] theorem Hw_powerLimitReply_sd {m : Hw} {p : Pair} (h : Sd m) : Reply.Ok (Hw.powerLimitReply m p) := by
  unfold Hw.powerLimitReply; (try dsimp only); repeat' (first | (refine judge_ok ?_) | split)
  all_goals simp_all +contextual (maxDischargeDepth := 8)

@[simp] theorem Hw_capstanCfgReply_sd {m : Hw} {p : Pair} (h : Sd m) : Reply.Ok (Hw.capstanCfgReply m p) := by
  unfold Hw.capstanCfgReply; (try dsimp only); repeat' (first | (refine judge_ok ?_) | split)
  all_goals simp_all +contextual (maxDischargeDepth := 8)

@[simp] theorem Hw_tideCfgReply_sd {m : Hw} {p : Pair} (h : Sd m) : Reply.Ok (Hw.tideCfgReply m p) := by
  unfold Hw.tideCfgReply; (try dsimp only); repeat' (first | (refine judge_ok ?_) | split)
  all_goals simp_all +contextual (maxDischargeDepth := 8)

@[simp] theorem Hw_healthReadReply_sd {m : Hw} {x : Pair} (h : Sd m) : Reply.Ok (Hw.healthReadReply m x) := by
  unfold Hw.healthReadReply; (try dsimp only); repeat' (first | (refine judge_ok ?_) | split)
  all_goals simp_all +contextual (maxDischargeDepth := 8)

@[simp] theorem Hw_healthClearReply_sd {m : Hw} {x : Pair} (h : Sd m) : Reply.Ok (Hw.healthClearReply m x) := by
  unfold Hw.healthClearReply; (try dsimp only); repeat' (first | (refine judge_ok ?_) | split)
  all_goals simp_all +contextual (maxDischargeDepth := 8)

@[simp] theorem Hw_fwStageReply_sd {m : Hw} {pair : Nat} {p : Pair} {img : List Byte} (h : Sd m) : Reply.Ok (Hw.fwStageReply m pair p img) := by
  unfold Hw.fwStageReply; (try dsimp only); repeat' (first | (refine judge_ok ?_) | split)
  all_goals simp_all +contextual (maxDischargeDepth := 8)

@[simp] theorem Hw_topoAcceptReply_sd {m : Hw} {x : Pair} (h : Sd m) : Reply.Ok (m.topoAcceptReply x) := by
  unfold Hw.topoAcceptReply
  extract_lets why may
  split
  · exact .refuse _ _
  · exact judge_ok (.done (Hw_stepNine_sd h))

@[simp] theorem Hw_errlogReadReply_sd {m : Hw} {p : Pair} (h : Sd m) : Reply.Ok (Hw.errlogReadReply m p) := by
  unfold Hw.errlogReadReply; (try dsimp only); repeat' (first | (refine judge_ok ?_) | split)
  all_goals simp_all +contextual (maxDischargeDepth := 8)

@[simp] theorem Hw_portCfgReply_sd {m : Hw} {p : Pair} (h : Sd m) : Reply.Ok (Hw.portCfgReply m p) := by
  unfold Hw.portCfgReply; (try dsimp only); repeat' (first | (refine judge_ok ?_) | split)
  all_goals simp_all +contextual (maxDischargeDepth := 8)

@[simp] theorem Hw_flowWriteReply_sd {m : Hw} {p : Pair} (h : Sd m) : Reply.Ok (Hw.flowWriteReply m p) := by
  unfold Hw.flowWriteReply; (try dsimp only); repeat' (first | (refine judge_ok ?_) | split)
  all_goals simp_all +contextual (maxDischargeDepth := 8)

@[simp] theorem Hw_quarClearReply_sd {m : Hw} {p : Pair} (h : Sd m) : Reply.Ok (Hw.quarClearReply m p) := by
  unfold Hw.quarClearReply; (try dsimp only); repeat' (first | (refine judge_ok ?_) | split)
  all_goals simp_all +contextual (maxDischargeDepth := 8)

@[simp] theorem Hw_quarListReply_sd {m : Hw} {p : Pair} (h : Sd m) : Reply.Ok (Hw.quarListReply m p) := by
  unfold Hw.quarListReply; (try dsimp only); repeat' (first | (refine judge_ok ?_) | split)
  all_goals simp_all +contextual (maxDischargeDepth := 8)

@[simp] theorem Hw_streamEnableReply_sd {m : Hw} {p : Pair} (h : Sd m) : Reply.Ok (Hw.streamEnableReply m p) := by
  unfold Hw.streamEnableReply; (try dsimp only); repeat' (first | (refine judge_ok ?_) | split)
  all_goals simp_all +contextual (maxDischargeDepth := 8)

@[simp] theorem Hw_streamDisableReply_sd {m : Hw} {p : Pair} (h : Sd m) : Reply.Ok (Hw.streamDisableReply m p) := by
  unfold Hw.streamDisableReply; (try dsimp only); repeat' (first | (refine judge_ok ?_) | split)
  all_goals simp_all +contextual (maxDischargeDepth := 8)

@[simp] theorem Hw_jobEnableReply_sd {m : Hw} {bad : Bool} {job : Nat} {p : Pair} {l : List Byte} (h : Sd m) : Reply.Ok (Hw.jobEnableReply m bad job p l) := by
  unfold Hw.jobEnableReply; (try dsimp only); repeat' (first | (refine judge_ok ?_) | split)
  all_goals simp_all +contextual (maxDischargeDepth := 8)

@[simp] theorem Hw_jobDisableReply_sd {m : Hw} {pair : Nat} {p : Pair} (h : Sd m) : Reply.Ok (Hw.jobDisableReply m pair p) := by
  unfold Hw.jobDisableReply; (try dsimp only); repeat' (first | (refine judge_ok ?_) | split)
  all_goals simp_all +contextual (maxDischargeDepth := 8)

theorem updBanks_sd {m : Hw} {ctx k : Nat} {f : Core → Core} {g : CoreSave → CoreSave} (h : Sd m)
    (hf : ∀ c, c.hold.wf = true → (f c).hold.wf = true) (hg : ∀ c, c.hold.wf = true → (g c).hold.wf = true) :
    Sd (m.updBanks ctx k f g) := by
  unfold Hw.updBanks
  split
  · exact updCore_sd h hf
  · exact kept_mset_save (h : Kept ..) (hg _ (save_hold_wf h rfl))

@[simp] theorem PlanReq_install_sd {r : PlanReq} {m : Hw} {k : Nat} (h : Sd m) : Sd (r.install m k) := by
  unfold PlanReq.install
  extract_lets mine arrs keep idle
  refine updBanks_sd h (fun c hc => ?_) fun c hc => ?_
  · dsimp only
    split <;> exact hc
  · dsimp only
    split <;> exact hc

@[simp] theorem PlanReq_lockAll_sd {r : PlanReq} {m : Hw} (h : Sd m) : Sd (PlanReq.lockAll r m) := by
  unfold PlanReq.lockAll; (try dsimp only); repeat' (first | split | (refine foldl_sd (fun _ _ _ => ?_) _ _ ?_))
  all_goals simp_all +contextual (maxDischargeDepth := 8)

@[simp] theorem PlanReq_enable_sd {r : PlanReq} {m : Hw} {handle : Nat} (h : Sd m) : Sd (r.enable m handle) := by
  unfold PlanReq.enable
  extract_lets m1 m2 m3 m4
  have h1 : Sd m1 := h
  have h2 : Sd m2 := foldl_sd (fun _ _ hm => PlanReq_install_sd hm) _ _ h1
  have h3 : Sd m3 := by
    dsimp only [m3]; split
    · exact PlanReq_lockAll_sd h2
    · exact h2
  have h4 : Sd m4 := Hw_updCtx_sd h3
  split
  · split
    · exact Hw_switchIn_sd h4
    · exact h4
  · exact h4

@[simp] theorem Hw_planEnableReply_sd {m : Hw} {handle : Nat} {p : Pair} (h : Sd m) :
    Reply.Ok (m.planEnableReply handle p) := by
  unfold Hw.planEnableReply
  extract_lets c tbl n ten nten nch ch image
  refine judge_ok ?_
  split
  · exact .refuse _ _
  · split
    · exact .refuse _ _
    · exact .refuse _ _
    · exact .done (PlanReq_enable_sd (foldl_sd (fun _ _ hm => Hw_ctlRead_sd hm) _ _ h))

@[simp] theorem Hw_planDisableReply_sd {m : Hw} {pair : Nat} {p : Pair} (h : Sd m) : Reply.Ok (Hw.planDisableReply m pair p) := by
  unfold Hw.planDisableReply; (try dsimp only); repeat' (first | (refine judge_ok ?_) | split)
  all_goals simp_all +contextual (maxDischargeDepth := 8)

@[simp] theorem Hw_writeShadow_sd {m : Hw} {ctx k : Nat} {route sync : Bool} {bol id : Nat} {img : List Byte} (h : Sd m) :
    Sd (m.writeShadow ctx k route sync bol id img) := by
  unfold Hw.writeShadow
  extract_lets b b' m1
  have h1 : Sd m1 := updBanks_sd (Hw_ctlWrite_sd h) (fun c hc => by split <;> exact hc) fun c hc => by split <;> exact hc
  split
  · exact Hw_hubUpdateAs_sd h1
  · exact h1

@[simp] theorem Hw_load_sd {m : Hw} {pair : Nat} {p : Pair} {route : Bool} {busy late size : Nat}
    {imgBad : List Byte → Option (Nat × Nat)} (h : Sd m) : Reply.Ok (m.load pair p route busy late size imgBad) := by
  unfold Hw.load
  extract_lets c md bol cores ks ours img id m1
  have h1 : Sd m1 := foldl_sd (fun _ _ hm => Hw_writeShadow_sd hm) _ _ (Hw_ctlRead_sd h)
  clear_value m1 id
  split
  · exact .refuse _ _
  · split
    · exact .refuse _ _
    · split
      · exact .refuse _ _
      · split
        · exact .refuse _ _
        · split
          · exact .refuse _ _
          · split
            · exact .refuse _ _
            · split
              · exact .defer (Hw_event_sd h1)
              · exact .defer h1

@[simp] theorem Hw_fsetLoadReply_sd {m : Hw} {pair : Nat} {p : Pair} (h : Sd m) : Reply.Ok (Hw.fsetLoadReply m pair p) := by
  unfold Hw.fsetLoadReply; (try dsimp only); repeat' (first | (refine judge_ok ?_) | split)
  all_goals simp_all +contextual (maxDischargeDepth := 8)

@[simp] theorem Hw_routeLoadReply_sd {m : Hw} {pair : Nat} {p : Pair} (h : Sd m) : Reply.Ok (Hw.routeLoadReply m pair p) := by
  unfold Hw.routeLoadReply; (try dsimp only); repeat' (first | (refine judge_ok ?_) | split)
  all_goals simp_all +contextual (maxDischargeDepth := 8)

end Sys2Proof
end

