-- ==== Sys2Proof/Laws/State.lean ====
section
/-! SUPPORT. What each named update of the module changes: its own field; every other field is as it was. -/

namespace Sys2Proof

open Machine

/-! ### Hw.setCore -/

@[simp] theorem setCore_cores (m : Hw) (k : Nat) (c : Core) : (m.setCore k c).cores = mset m.cores k c := (rfl)
@[simp] theorem setCore_boot (m : Hw) (k : Nat) (c : Core) : (m.setCore k c).boot = m.boot := (rfl)
@[simp] theorem setCore_coming (m : Hw) (k : Nat) (c : Core) : (m.setCore k c).coming = m.coming := (rfl)
@[simp] theorem setCore_fuses (m : Hw) (k : Nat) (c : Core) : (m.setCore k c).fuses = m.fuses := (rfl)
@[simp] theorem setCore_flash (m : Hw) (k : Nat) (c : Core) : (m.setCore k c).flash = m.flash := (rfl)
@[simp] theorem setCore_island (m : Hw) (k : Nat) (c : Core) : (m.setCore k c).island = m.island := (rfl)
@[simp] theorem setCore_quay (m : Hw) (k : Nat) (c : Core) : (m.setCore k c).quay = m.quay := (rfl)
@[simp] theorem setCore_host (m : Hw) (k : Nat) (c : Core) : (m.setCore k c).host = m.host := (rfl)
@[simp] theorem setCore_espor (m : Hw) (k : Nat) (c : Core) : (m.setCore k c).espor = m.espor := (rfl)
@[simp] theorem setCore_mem (m : Hw) (k : Nat) (c : Core) : (m.setCore k c).mem = m.mem := (rfl)
@[simp] theorem setCore_ctxs (m : Hw) (k : Nat) (c : Core) : (m.setCore k c).ctxs = m.ctxs := (rfl)
@[simp] theorem setCore_plans (m : Hw) (k : Nat) (c : Core) : (m.setCore k c).plans = m.plans := (rfl)
@[simp] theorem setCore_queues (m : Hw) (k : Nat) (c : Core) : (m.setCore k c).queues = m.queues := (rfl)
@[simp] theorem setCore_postNo (m : Hw) (k : Nat) (c : Core) : (m.setCore k c).postNo = m.postNo := (rfl)
@[simp] theorem setCore_saves (m : Hw) (k : Nat) (c : Core) : (m.setCore k c).saves = m.saves := (rfl)
@[simp] theorem setCore_loads (m : Hw) (k : Nat) (c : Core) : (m.setCore k c).loads = m.loads := (rfl)
@[simp] theorem setCore_nextLoad (m : Hw) (k : Nat) (c : Core) : (m.setCore k c).nextLoad = m.nextLoad := (rfl)
@[simp] theorem setCore_phys (m : Hw) (k : Nat) (c : Core) : (m.setCore k c).phys = m.phys := (rfl)
@[simp] theorem setCore_outOfService (m : Hw) (k : Nat) (c : Core) : (m.setCore k c).outOfService = m.outOfService := (rfl)
@[simp] theorem setCore_cycles (m : Hw) (k : Nat) (c : Core) : (m.setCore k c).cycles = m.cycles := (rfl)
@[simp] theorem setCore_quarterTlb (m : Hw) (k : Nat) (c : Core) : (m.setCore k c).quarterTlb = m.quarterTlb := (rfl)
@[simp] theorem setCore_late (m : Hw) (k : Nat) (c : Core) : (m.setCore k c).late = m.late := (rfl)
@[simp] theorem setCore_hostTlb (m : Hw) (k : Nat) (c : Core) : (m.setCore k c).hostTlb = m.hostTlb := (rfl)
@[simp] theorem setCore_ferries (m : Hw) (k : Nat) (c : Core) : (m.setCore k c).ferries = m.ferries := (rfl)
@[simp] theorem setCore_creditsInFlight (m : Hw) (k : Nat) (c : Core) : (m.setCore k c).creditsInFlight = m.creditsInFlight := (rfl)
@[simp] theorem setCore_links (m : Hw) (k : Nat) (c : Core) : (m.setCore k c).links = m.links := (rfl)
@[simp] theorem setCore_engines (m : Hw) (k : Nat) (c : Core) : (m.setCore k c).engines = m.engines := (rfl)
@[simp] theorem setCore_parts (m : Hw) (k : Nat) (c : Core) : (m.setCore k c).parts = m.parts := (rfl)
@[simp] theorem setCore_occasion (m : Hw) (k : Nat) (c : Core) : (m.setCore k c).occasion = m.occasion := (rfl)
@[simp] theorem setCore_ports (m : Hw) (k : Nat) (c : Core) : (m.setCore k c).ports = m.ports := (rfl)
@[simp] theorem setCore_flows (m : Hw) (k : Nat) (c : Core) : (m.setCore k c).flows = m.flows := (rfl)
@[simp] theorem setCore_early (m : Hw) (k : Nat) (c : Core) : (m.setCore k c).early = m.early := (rfl)
@[simp] theorem setCore_quars (m : Hw) (k : Nat) (c : Core) : (m.setCore k c).quars = m.quars := (rfl)
@[simp] theorem setCore_streams (m : Hw) (k : Nat) (c : Core) : (m.setCore k c).streams = m.streams := (rfl)
@[simp] theorem setCore_jobs (m : Hw) (k : Nat) (c : Core) : (m.setCore k c).jobs = m.jobs := (rfl)
@[simp] theorem setCore_moduleRing (m : Hw) (k : Nat) (c : Core) : (m.setCore k c).moduleRing = m.moduleRing := (rfl)
@[simp] theorem setCore_power (m : Hw) (k : Nat) (c : Core) : (m.setCore k c).power = m.power := (rfl)
@[simp] theorem setCore_counters (m : Hw) (k : Nat) (c : Core) : (m.setCore k c).counters = m.counters := (rfl)
@[simp] theorem setCore_snap (m : Hw) (k : Nat) (c : Core) : (m.setCore k c).snap = m.snap := (rfl)
@[simp] theorem setCore_idle (m : Hw) (k : Nat) (c : Core) : (m.setCore k c).idle = m.idle := (rfl)
@[simp] theorem setCore_unowned (m : Hw) (k : Nat) (c : Core) : (m.setCore k c).unowned = m.unowned := (rfl)
@[simp] theorem setCore_fwVer (m : Hw) (k : Nat) (c : Core) : (m.setCore k c).fwVer = m.fwVer := (rfl)
@[simp] theorem setCore_fwBuild (m : Hw) (k : Nat) (c : Core) : (m.setCore k c).fwBuild = m.fwBuild := (rfl)
@[simp] theorem setCore_found (m : Hw) (k : Nat) (c : Core) : (m.setCore k c).found = m.found := (rfl)

/-! ### Hw.updCore -/

@[simp] theorem updCore_cores (m : Hw) (k : Nat) (f : Core → Core) : (m.updCore k f).cores = mset m.cores k (f (m.core k)) := (rfl)
@[simp] theorem updCore_boot (m : Hw) (k : Nat) (f : Core → Core) : (m.updCore k f).boot = m.boot := (rfl)
@[simp] theorem updCore_coming (m : Hw) (k : Nat) (f : Core → Core) : (m.updCore k f).coming = m.coming := (rfl)
@[simp] theorem updCore_fuses (m : Hw) (k : Nat) (f : Core → Core) : (m.updCore k f).fuses = m.fuses := (rfl)
@[simp] theorem updCore_flash (m : Hw) (k : Nat) (f : Core → Core) : (m.updCore k f).flash = m.flash := (rfl)
@[simp] theorem updCore_island (m : Hw) (k : Nat) (f : Core → Core) : (m.updCore k f).island = m.island := (rfl)
@[simp] theorem updCore_quay (m : Hw) (k : Nat) (f : Core → Core) : (m.updCore k f).quay = m.quay := (rfl)
@[simp] theorem updCore_host (m : Hw) (k : Nat) (f : Core → Core) : (m.updCore k f).host = m.host := (rfl)
@[simp] theorem updCore_espor (m : Hw) (k : Nat) (f : Core → Core) : (m.updCore k f).espor = m.espor := (rfl)
@[simp] theorem updCore_mem (m : Hw) (k : Nat) (f : Core → Core) : (m.updCore k f).mem = m.mem := (rfl)
@[simp] theorem updCore_ctxs (m : Hw) (k : Nat) (f : Core → Core) : (m.updCore k f).ctxs = m.ctxs := (rfl)
@[simp] theorem updCore_plans (m : Hw) (k : Nat) (f : Core → Core) : (m.updCore k f).plans = m.plans := (rfl)
@[simp] theorem updCore_queues (m : Hw) (k : Nat) (f : Core → Core) : (m.updCore k f).queues = m.queues := (rfl)
@[simp] theorem updCore_postNo (m : Hw) (k : Nat) (f : Core → Core) : (m.updCore k f).postNo = m.postNo := (rfl)
@[simp] theorem updCore_saves (m : Hw) (k : Nat) (f : Core → Core) : (m.updCore k f).saves = m.saves := (rfl)
@[simp] theorem updCore_loads (m : Hw) (k : Nat) (f : Core → Core) : (m.updCore k f).loads = m.loads := (rfl)
@[simp] theorem updCore_nextLoad (m : Hw) (k : Nat) (f : Core → Core) : (m.updCore k f).nextLoad = m.nextLoad := (rfl)
@[simp] theorem updCore_phys (m : Hw) (k : Nat) (f : Core → Core) : (m.updCore k f).phys = m.phys := (rfl)
@[simp] theorem updCore_outOfService (m : Hw) (k : Nat) (f : Core → Core) : (m.updCore k f).outOfService = m.outOfService := (rfl)
@[simp] theorem updCore_cycles (m : Hw) (k : Nat) (f : Core → Core) : (m.updCore k f).cycles = m.cycles := (rfl)
@[simp] theorem updCore_quarterTlb (m : Hw) (k : Nat) (f : Core → Core) : (m.updCore k f).quarterTlb = m.quarterTlb := (rfl)
@[simp] theorem updCore_late (m : Hw) (k : Nat) (f : Core → Core) : (m.updCore k f).late = m.late := (rfl)
@[simp] theorem updCore_hostTlb (m : Hw) (k : Nat) (f : Core → Core) : (m.updCore k f).hostTlb = m.hostTlb := (rfl)
@[simp] theorem updCore_ferries (m : Hw) (k : Nat) (f : Core → Core) : (m.updCore k f).ferries = m.ferries := (rfl)
@[simp] theorem updCore_creditsInFlight (m : Hw) (k : Nat) (f : Core → Core) : (m.updCore k f).creditsInFlight = m.creditsInFlight := (rfl)
@[simp] theorem updCore_links (m : Hw) (k : Nat) (f : Core → Core) : (m.updCore k f).links = m.links := (rfl)
@[simp] theorem updCore_engines (m : Hw) (k : Nat) (f : Core → Core) : (m.updCore k f).engines = m.engines := (rfl)
@[simp] theorem updCore_parts (m : Hw) (k : Nat) (f : Core → Core) : (m.updCore k f).parts = m.parts := (rfl)
@[simp] theorem updCore_occasion (m : Hw) (k : Nat) (f : Core → Core) : (m.updCore k f).occasion = m.occasion := (rfl)
@[simp] theorem updCore_ports (m : Hw) (k : Nat) (f : Core → Core) : (m.updCore k f).ports = m.ports := (rfl)
@[simp] theorem updCore_flows (m : Hw) (k : Nat) (f : Core → Core) : (m.updCore k f).flows = m.flows := (rfl)
@[simp] theorem updCore_early (m : Hw) (k : Nat) (f : Core → Core) : (m.updCore k f).early = m.early := (rfl)
@[simp] theorem updCore_quars (m : Hw) (k : Nat) (f : Core → Core) : (m.updCore k f).quars = m.quars := (rfl)
@[simp] theorem updCore_streams (m : Hw) (k : Nat) (f : Core → Core) : (m.updCore k f).streams = m.streams := (rfl)
@[simp] theorem updCore_jobs (m : Hw) (k : Nat) (f : Core → Core) : (m.updCore k f).jobs = m.jobs := (rfl)
@[simp] theorem updCore_moduleRing (m : Hw) (k : Nat) (f : Core → Core) : (m.updCore k f).moduleRing = m.moduleRing := (rfl)
@[simp] theorem updCore_power (m : Hw) (k : Nat) (f : Core → Core) : (m.updCore k f).power = m.power := (rfl)
@[simp] theorem updCore_counters (m : Hw) (k : Nat) (f : Core → Core) : (m.updCore k f).counters = m.counters := (rfl)
@[simp] theorem updCore_snap (m : Hw) (k : Nat) (f : Core → Core) : (m.updCore k f).snap = m.snap := (rfl)
@[simp] theorem updCore_idle (m : Hw) (k : Nat) (f : Core → Core) : (m.updCore k f).idle = m.idle := (rfl)
@[simp] theorem updCore_unowned (m : Hw) (k : Nat) (f : Core → Core) : (m.updCore k f).unowned = m.unowned := (rfl)
@[simp] theorem updCore_fwVer (m : Hw) (k : Nat) (f : Core → Core) : (m.updCore k f).fwVer = m.fwVer := (rfl)
@[simp] theorem updCore_fwBuild (m : Hw) (k : Nat) (f : Core → Core) : (m.updCore k f).fwBuild = m.fwBuild := (rfl)
@[simp] theorem updCore_found (m : Hw) (k : Nat) (f : Core → Core) : (m.updCore k f).found = m.found := (rfl)

/-! ### Hw.setLink -/

@[simp] theorem setLink_links (m : Hw) (i : Nat) (l : Link) : (m.setLink i l).links = mset m.links i l := (rfl)
@[simp] theorem setLink_boot (m : Hw) (i : Nat) (l : Link) : (m.setLink i l).boot = m.boot := (rfl)
@[simp] theorem setLink_coming (m : Hw) (i : Nat) (l : Link) : (m.setLink i l).coming = m.coming := (rfl)
@[simp] theorem setLink_fuses (m : Hw) (i : Nat) (l : Link) : (m.setLink i l).fuses = m.fuses := (rfl)
@[simp] theorem setLink_flash (m : Hw) (i : Nat) (l : Link) : (m.setLink i l).flash = m.flash := (rfl)
@[simp] theorem setLink_island (m : Hw) (i : Nat) (l : Link) : (m.setLink i l).island = m.island := (rfl)
@[simp] theorem setLink_quay (m : Hw) (i : Nat) (l : Link) : (m.setLink i l).quay = m.quay := (rfl)
@[simp] theorem setLink_host (m : Hw) (i : Nat) (l : Link) : (m.setLink i l).host = m.host := (rfl)
@[simp] theorem setLink_espor (m : Hw) (i : Nat) (l : Link) : (m.setLink i l).espor = m.espor := (rfl)
@[simp] theorem setLink_mem (m : Hw) (i : Nat) (l : Link) : (m.setLink i l).mem = m.mem := (rfl)
@[simp] theorem setLink_ctxs (m : Hw) (i : Nat) (l : Link) : (m.setLink i l).ctxs = m.ctxs := (rfl)
@[simp] theorem setLink_plans (m : Hw) (i : Nat) (l : Link) : (m.setLink i l).plans = m.plans := (rfl)
@[simp] theorem setLink_queues (m : Hw) (i : Nat) (l : Link) : (m.setLink i l).queues = m.queues := (rfl)
@[simp] theorem setLink_postNo (m : Hw) (i : Nat) (l : Link) : (m.setLink i l).postNo = m.postNo := (rfl)
@[simp] theorem setLink_cores (m : Hw) (i : Nat) (l : Link) : (m.setLink i l).cores = m.cores := (rfl)
@[simp] theorem setLink_saves (m : Hw) (i : Nat) (l : Link) : (m.setLink i l).saves = m.saves := (rfl)
@[simp] theorem setLink_loads (m : Hw) (i : Nat) (l : Link) : (m.setLink i l).loads = m.loads := (rfl)
@[simp] theorem setLink_nextLoad (m : Hw) (i : Nat) (l : Link) : (m.setLink i l).nextLoad = m.nextLoad := (rfl)
@[simp] theorem setLink_phys (m : Hw) (i : Nat) (l : Link) : (m.setLink i l).phys = m.phys := (rfl)
@[simp] theorem setLink_outOfService (m : Hw) (i : Nat) (l : Link) : (m.setLink i l).outOfService = m.outOfService := (rfl)
@[simp] theorem setLink_cycles (m : Hw) (i : Nat) (l : Link) : (m.setLink i l).cycles = m.cycles := (rfl)
@[simp] theorem setLink_quarterTlb (m : Hw) (i : Nat) (l : Link) : (m.setLink i l).quarterTlb = m.quarterTlb := (rfl)
@[simp] theorem setLink_late (m : Hw) (i : Nat) (l : Link) : (m.setLink i l).late = m.late := (rfl)
@[simp] theorem setLink_hostTlb (m : Hw) (i : Nat) (l : Link) : (m.setLink i l).hostTlb = m.hostTlb := (rfl)
@[simp] theorem setLink_ferries (m : Hw) (i : Nat) (l : Link) : (m.setLink i l).ferries = m.ferries := (rfl)
@[simp] theorem setLink_creditsInFlight (m : Hw) (i : Nat) (l : Link) : (m.setLink i l).creditsInFlight = m.creditsInFlight := (rfl)
@[simp] theorem setLink_engines (m : Hw) (i : Nat) (l : Link) : (m.setLink i l).engines = m.engines := (rfl)
@[simp] theorem setLink_parts (m : Hw) (i : Nat) (l : Link) : (m.setLink i l).parts = m.parts := (rfl)
@[simp] theorem setLink_occasion (m : Hw) (i : Nat) (l : Link) : (m.setLink i l).occasion = m.occasion := (rfl)
@[simp] theorem setLink_ports (m : Hw) (i : Nat) (l : Link) : (m.setLink i l).ports = m.ports := (rfl)
@[simp] theorem setLink_flows (m : Hw) (i : Nat) (l : Link) : (m.setLink i l).flows = m.flows := (rfl)
@[simp] theorem setLink_early (m : Hw) (i : Nat) (l : Link) : (m.setLink i l).early = m.early := (rfl)
@[simp] theorem setLink_quars (m : Hw) (i : Nat) (l : Link) : (m.setLink i l).quars = m.quars := (rfl)
@[simp] theorem setLink_streams (m : Hw) (i : Nat) (l : Link) : (m.setLink i l).streams = m.streams := (rfl)
@[simp] theorem setLink_jobs (m : Hw) (i : Nat) (l : Link) : (m.setLink i l).jobs = m.jobs := (rfl)
@[simp] theorem setLink_moduleRing (m : Hw) (i : Nat) (l : Link) : (m.setLink i l).moduleRing = m.moduleRing := (rfl)
@[simp] theorem setLink_power (m : Hw) (i : Nat) (l : Link) : (m.setLink i l).power = m.power := (rfl)
@[simp] theorem setLink_counters (m : Hw) (i : Nat) (l : Link) : (m.setLink i l).counters = m.counters := (rfl)
@[simp] theorem setLink_snap (m : Hw) (i : Nat) (l : Link) : (m.setLink i l).snap = m.snap := (rfl)
@[simp] theorem setLink_idle (m : Hw) (i : Nat) (l : Link) : (m.setLink i l).idle = m.idle := (rfl)
@[simp] theorem setLink_unowned (m : Hw) (i : Nat) (l : Link) : (m.setLink i l).unowned = m.unowned := (rfl)
@[simp] theorem setLink_fwVer (m : Hw) (i : Nat) (l : Link) : (m.setLink i l).fwVer = m.fwVer := (rfl)
@[simp] theorem setLink_fwBuild (m : Hw) (i : Nat) (l : Link) : (m.setLink i l).fwBuild = m.fwBuild := (rfl)
@[simp] theorem setLink_found (m : Hw) (i : Nat) (l : Link) : (m.setLink i l).found = m.found := (rfl)

/-! ### Hw.setPort -/

@[simp] theorem setPort_ports (m : Hw) (p : Nat) (x : Port) : (m.setPort p x).ports = lset m.ports p x := (rfl)
@[simp] theorem setPort_boot (m : Hw) (p : Nat) (x : Port) : (m.setPort p x).boot = m.boot := (rfl)
@[simp] theorem setPort_coming (m : Hw) (p : Nat) (x : Port) : (m.setPort p x).coming = m.coming := (rfl)
@[simp] theorem setPort_fuses (m : Hw) (p : Nat) (x : Port) : (m.setPort p x).fuses = m.fuses := (rfl)
@[simp] theorem setPort_flash (m : Hw) (p : Nat) (x : Port) : (m.setPort p x).flash = m.flash := (rfl)
@[simp] theorem setPort_island (m : Hw) (p : Nat) (x : Port) : (m.setPort p x).island = m.island := (rfl)
@[simp] theorem setPort_quay (m : Hw) (p : Nat) (x : Port) : (m.setPort p x).quay = m.quay := (rfl)
@[simp] theorem setPort_host (m : Hw) (p : Nat) (x : Port) : (m.setPort p x).host = m.host := (rfl)
@[simp] theorem setPort_espor (m : Hw) (p : Nat) (x : Port) : (m.setPort p x).espor = m.espor := (rfl)
@[simp] theorem setPort_mem (m : Hw) (p : Nat) (x : Port) : (m.setPort p x).mem = m.mem := (rfl)
@[simp] theorem setPort_ctxs (m : Hw) (p : Nat) (x : Port) : (m.setPort p x).ctxs = m.ctxs := (rfl)
@[simp] theorem setPort_plans (m : Hw) (p : Nat) (x : Port) : (m.setPort p x).plans = m.plans := (rfl)
@[simp] theorem setPort_queues (m : Hw) (p : Nat) (x : Port) : (m.setPort p x).queues = m.queues := (rfl)
@[simp] theorem setPort_postNo (m : Hw) (p : Nat) (x : Port) : (m.setPort p x).postNo = m.postNo := (rfl)
@[simp] theorem setPort_cores (m : Hw) (p : Nat) (x : Port) : (m.setPort p x).cores = m.cores := (rfl)
@[simp] theorem setPort_saves (m : Hw) (p : Nat) (x : Port) : (m.setPort p x).saves = m.saves := (rfl)
@[simp] theorem setPort_loads (m : Hw) (p : Nat) (x : Port) : (m.setPort p x).loads = m.loads := (rfl)
@[simp] theorem setPort_nextLoad (m : Hw) (p : Nat) (x : Port) : (m.setPort p x).nextLoad = m.nextLoad := (rfl)
@[simp] theorem setPort_phys (m : Hw) (p : Nat) (x : Port) : (m.setPort p x).phys = m.phys := (rfl)
@[simp] theorem setPort_outOfService (m : Hw) (p : Nat) (x : Port) : (m.setPort p x).outOfService = m.outOfService := (rfl)
@[simp] theorem setPort_cycles (m : Hw) (p : Nat) (x : Port) : (m.setPort p x).cycles = m.cycles := (rfl)
@[simp] theorem setPort_quarterTlb (m : Hw) (p : Nat) (x : Port) : (m.setPort p x).quarterTlb = m.quarterTlb := (rfl)
@[simp] theorem setPort_late (m : Hw) (p : Nat) (x : Port) : (m.setPort p x).late = m.late := (rfl)
@[simp] theorem setPort_hostTlb (m : Hw) (p : Nat) (x : Port) : (m.setPort p x).hostTlb = m.hostTlb := (rfl)
@[simp] theorem setPort_ferries (m : Hw) (p : Nat) (x : Port) : (m.setPort p x).ferries = m.ferries := (rfl)
@[simp] theorem setPort_creditsInFlight (m : Hw) (p : Nat) (x : Port) : (m.setPort p x).creditsInFlight = m.creditsInFlight := (rfl)
@[simp] theorem setPort_links (m : Hw) (p : Nat) (x : Port) : (m.setPort p x).links = m.links := (rfl)
@[simp] theorem setPort_engines (m : Hw) (p : Nat) (x : Port) : (m.setPort p x).engines = m.engines := (rfl)
@[simp] theorem setPort_parts (m : Hw) (p : Nat) (x : Port) : (m.setPort p x).parts = m.parts := (rfl)
@[simp] theorem setPort_occasion (m : Hw) (p : Nat) (x : Port) : (m.setPort p x).occasion = m.occasion := (rfl)
@[simp] theorem setPort_flows (m : Hw) (p : Nat) (x : Port) : (m.setPort p x).flows = m.flows := (rfl)
@[simp] theorem setPort_early (m : Hw) (p : Nat) (x : Port) : (m.setPort p x).early = m.early := (rfl)
@[simp] theorem setPort_quars (m : Hw) (p : Nat) (x : Port) : (m.setPort p x).quars = m.quars := (rfl)
@[simp] theorem setPort_streams (m : Hw) (p : Nat) (x : Port) : (m.setPort p x).streams = m.streams := (rfl)
@[simp] theorem setPort_jobs (m : Hw) (p : Nat) (x : Port) : (m.setPort p x).jobs = m.jobs := (rfl)
@[simp] theorem setPort_moduleRing (m : Hw) (p : Nat) (x : Port) : (m.setPort p x).moduleRing = m.moduleRing := (rfl)
@[simp] theorem setPort_power (m : Hw) (p : Nat) (x : Port) : (m.setPort p x).power = m.power := (rfl)
@[simp] theorem setPort_counters (m : Hw) (p : Nat) (x : Port) : (m.setPort p x).counters = m.counters := (rfl)
@[simp] theorem setPort_snap (m : Hw) (p : Nat) (x : Port) : (m.setPort p x).snap = m.snap := (rfl)
@[simp] theorem setPort_idle (m : Hw) (p : Nat) (x : Port) : (m.setPort p x).idle = m.idle := (rfl)
@[simp] theorem setPort_unowned (m : Hw) (p : Nat) (x : Port) : (m.setPort p x).unowned = m.unowned := (rfl)
@[simp] theorem setPort_fwVer (m : Hw) (p : Nat) (x : Port) : (m.setPort p x).fwVer = m.fwVer := (rfl)
@[simp] theorem setPort_fwBuild (m : Hw) (p : Nat) (x : Port) : (m.setPort p x).fwBuild = m.fwBuild := (rfl)
@[simp] theorem setPort_found (m : Hw) (p : Nat) (x : Port) : (m.setPort p x).found = m.found := (rfl)

/-! ### Hw.setStream -/

@[simp] theorem setStream_streams (m : Hw) (n : Nat) (s : Stream) : (m.setStream n s).streams = mset m.streams n s := (rfl)
@[simp] theorem setStream_boot (m : Hw) (n : Nat) (s : Stream) : (m.setStream n s).boot = m.boot := (rfl)
@[simp] theorem setStream_coming (m : Hw) (n : Nat) (s : Stream) : (m.setStream n s).coming = m.coming := (rfl)
@[simp] theorem setStream_fuses (m : Hw) (n : Nat) (s : Stream) : (m.setStream n s).fuses = m.fuses := (rfl)
@[simp] theorem setStream_flash (m : Hw) (n : Nat) (s : Stream) : (m.setStream n s).flash = m.flash := (rfl)
@[simp] theorem setStream_island (m : Hw) (n : Nat) (s : Stream) : (m.setStream n s).island = m.island := (rfl)
@[simp] theorem setStream_quay (m : Hw) (n : Nat) (s : Stream) : (m.setStream n s).quay = m.quay := (rfl)
@[simp] theorem setStream_host (m : Hw) (n : Nat) (s : Stream) : (m.setStream n s).host = m.host := (rfl)
@[simp] theorem setStream_espor (m : Hw) (n : Nat) (s : Stream) : (m.setStream n s).espor = m.espor := (rfl)
@[simp] theorem setStream_mem (m : Hw) (n : Nat) (s : Stream) : (m.setStream n s).mem = m.mem := (rfl)
@[simp] theorem setStream_ctxs (m : Hw) (n : Nat) (s : Stream) : (m.setStream n s).ctxs = m.ctxs := (rfl)
@[simp] theorem setStream_plans (m : Hw) (n : Nat) (s : Stream) : (m.setStream n s).plans = m.plans := (rfl)
@[simp] theorem setStream_queues (m : Hw) (n : Nat) (s : Stream) : (m.setStream n s).queues = m.queues := (rfl)
@[simp] theorem setStream_postNo (m : Hw) (n : Nat) (s : Stream) : (m.setStream n s).postNo = m.postNo := (rfl)
@[simp] theorem setStream_cores (m : Hw) (n : Nat) (s : Stream) : (m.setStream n s).cores = m.cores := (rfl)
@[simp] theorem setStream_saves (m : Hw) (n : Nat) (s : Stream) : (m.setStream n s).saves = m.saves := (rfl)
@[simp] theorem setStream_loads (m : Hw) (n : Nat) (s : Stream) : (m.setStream n s).loads = m.loads := (rfl)
@[simp] theorem setStream_nextLoad (m : Hw) (n : Nat) (s : Stream) : (m.setStream n s).nextLoad = m.nextLoad := (rfl)
@[simp] theorem setStream_phys (m : Hw) (n : Nat) (s : Stream) : (m.setStream n s).phys = m.phys := (rfl)
@[simp] theorem setStream_outOfService (m : Hw) (n : Nat) (s : Stream) : (m.setStream n s).outOfService = m.outOfService := (rfl)
@[simp] theorem setStream_cycles (m : Hw) (n : Nat) (s : Stream) : (m.setStream n s).cycles = m.cycles := (rfl)
@[simp] theorem setStream_quarterTlb (m : Hw) (n : Nat) (s : Stream) : (m.setStream n s).quarterTlb = m.quarterTlb := (rfl)
@[simp] theorem setStream_late (m : Hw) (n : Nat) (s : Stream) : (m.setStream n s).late = m.late := (rfl)
@[simp] theorem setStream_hostTlb (m : Hw) (n : Nat) (s : Stream) : (m.setStream n s).hostTlb = m.hostTlb := (rfl)
@[simp] theorem setStream_ferries (m : Hw) (n : Nat) (s : Stream) : (m.setStream n s).ferries = m.ferries := (rfl)
@[simp] theorem setStream_creditsInFlight (m : Hw) (n : Nat) (s : Stream) : (m.setStream n s).creditsInFlight = m.creditsInFlight := (rfl)
@[simp] theorem setStream_links (m : Hw) (n : Nat) (s : Stream) : (m.setStream n s).links = m.links := (rfl)
@[simp] theorem setStream_engines (m : Hw) (n : Nat) (s : Stream) : (m.setStream n s).engines = m.engines := (rfl)
@[simp] theorem setStream_parts (m : Hw) (n : Nat) (s : Stream) : (m.setStream n s).parts = m.parts := (rfl)
@[simp] theorem setStream_occasion (m : Hw) (n : Nat) (s : Stream) : (m.setStream n s).occasion = m.occasion := (rfl)
@[simp] theorem setStream_ports (m : Hw) (n : Nat) (s : Stream) : (m.setStream n s).ports = m.ports := (rfl)
@[simp] theorem setStream_flows (m : Hw) (n : Nat) (s : Stream) : (m.setStream n s).flows = m.flows := (rfl)
@[simp] theorem setStream_early (m : Hw) (n : Nat) (s : Stream) : (m.setStream n s).early = m.early := (rfl)
@[simp] theorem setStream_quars (m : Hw) (n : Nat) (s : Stream) : (m.setStream n s).quars = m.quars := (rfl)
@[simp] theorem setStream_jobs (m : Hw) (n : Nat) (s : Stream) : (m.setStream n s).jobs = m.jobs := (rfl)
@[simp] theorem setStream_moduleRing (m : Hw) (n : Nat) (s : Stream) : (m.setStream n s).moduleRing = m.moduleRing := (rfl)
@[simp] theorem setStream_power (m : Hw) (n : Nat) (s : Stream) : (m.setStream n s).power = m.power := (rfl)
@[simp] theorem setStream_counters (m : Hw) (n : Nat) (s : Stream) : (m.setStream n s).counters = m.counters := (rfl)
@[simp] theorem setStream_snap (m : Hw) (n : Nat) (s : Stream) : (m.setStream n s).snap = m.snap := (rfl)
@[simp] theorem setStream_idle (m : Hw) (n : Nat) (s : Stream) : (m.setStream n s).idle = m.idle := (rfl)
@[simp] theorem setStream_unowned (m : Hw) (n : Nat) (s : Stream) : (m.setStream n s).unowned = m.unowned := (rfl)
@[simp] theorem setStream_fwVer (m : Hw) (n : Nat) (s : Stream) : (m.setStream n s).fwVer = m.fwVer := (rfl)
@[simp] theorem setStream_fwBuild (m : Hw) (n : Nat) (s : Stream) : (m.setStream n s).fwBuild = m.fwBuild := (rfl)
@[simp] theorem setStream_found (m : Hw) (n : Nat) (s : Stream) : (m.setStream n s).found = m.found := (rfl)

/-! ### Hw.setJob -/

@[simp] theorem setJob_jobs (m : Hw) (n : Nat) (j : Job) : (m.setJob n j).jobs = mset m.jobs n j := (rfl)
@[simp] theorem setJob_boot (m : Hw) (n : Nat) (j : Job) : (m.setJob n j).boot = m.boot := (rfl)
@[simp] theorem setJob_coming (m : Hw) (n : Nat) (j : Job) : (m.setJob n j).coming = m.coming := (rfl)
@[simp] theorem setJob_fuses (m : Hw) (n : Nat) (j : Job) : (m.setJob n j).fuses = m.fuses := (rfl)
@[simp] theorem setJob_flash (m : Hw) (n : Nat) (j : Job) : (m.setJob n j).flash = m.flash := (rfl)
@[simp] theorem setJob_island (m : Hw) (n : Nat) (j : Job) : (m.setJob n j).island = m.island := (rfl)
@[simp] theorem setJob_quay (m : Hw) (n : Nat) (j : Job) : (m.setJob n j).quay = m.quay := (rfl)
@[simp] theorem setJob_host (m : Hw) (n : Nat) (j : Job) : (m.setJob n j).host = m.host := (rfl)
@[simp] theorem setJob_espor (m : Hw) (n : Nat) (j : Job) : (m.setJob n j).espor = m.espor := (rfl)
@[simp] theorem setJob_mem (m : Hw) (n : Nat) (j : Job) : (m.setJob n j).mem = m.mem := (rfl)
@[simp] theorem setJob_ctxs (m : Hw) (n : Nat) (j : Job) : (m.setJob n j).ctxs = m.ctxs := (rfl)
@[simp] theorem setJob_plans (m : Hw) (n : Nat) (j : Job) : (m.setJob n j).plans = m.plans := (rfl)
@[simp] theorem setJob_queues (m : Hw) (n : Nat) (j : Job) : (m.setJob n j).queues = m.queues := (rfl)
@[simp] theorem setJob_postNo (m : Hw) (n : Nat) (j : Job) : (m.setJob n j).postNo = m.postNo := (rfl)
@[simp] theorem setJob_cores (m : Hw) (n : Nat) (j : Job) : (m.setJob n j).cores = m.cores := (rfl)
@[simp] theorem setJob_saves (m : Hw) (n : Nat) (j : Job) : (m.setJob n j).saves = m.saves := (rfl)
@[simp] theorem setJob_loads (m : Hw) (n : Nat) (j : Job) : (m.setJob n j).loads = m.loads := (rfl)
@[simp] theorem setJob_nextLoad (m : Hw) (n : Nat) (j : Job) : (m.setJob n j).nextLoad = m.nextLoad := (rfl)
@[simp] theorem setJob_phys (m : Hw) (n : Nat) (j : Job) : (m.setJob n j).phys = m.phys := (rfl)
@[simp] theorem setJob_outOfService (m : Hw) (n : Nat) (j : Job) : (m.setJob n j).outOfService = m.outOfService := (rfl)
@[simp] theorem setJob_cycles (m : Hw) (n : Nat) (j : Job) : (m.setJob n j).cycles = m.cycles := (rfl)
@[simp] theorem setJob_quarterTlb (m : Hw) (n : Nat) (j : Job) : (m.setJob n j).quarterTlb = m.quarterTlb := (rfl)
@[simp] theorem setJob_late (m : Hw) (n : Nat) (j : Job) : (m.setJob n j).late = m.late := (rfl)
@[simp] theorem setJob_hostTlb (m : Hw) (n : Nat) (j : Job) : (m.setJob n j).hostTlb = m.hostTlb := (rfl)
@[simp] theorem setJob_ferries (m : Hw) (n : Nat) (j : Job) : (m.setJob n j).ferries = m.ferries := (rfl)
@[simp] theorem setJob_creditsInFlight (m : Hw) (n : Nat) (j : Job) : (m.setJob n j).creditsInFlight = m.creditsInFlight := (rfl)
@[simp] theorem setJob_links (m : Hw) (n : Nat) (j : Job) : (m.setJob n j).links = m.links := (rfl)
@[simp] theorem setJob_engines (m : Hw) (n : Nat) (j : Job) : (m.setJob n j).engines = m.engines := (rfl)
@[simp] theorem setJob_parts (m : Hw) (n : Nat) (j : Job) : (m.setJob n j).parts = m.parts := (rfl)
@[simp] theorem setJob_occasion (m : Hw) (n : Nat) (j : Job) : (m.setJob n j).occasion = m.occasion := (rfl)
@[simp] theorem setJob_ports (m : Hw) (n : Nat) (j : Job) : (m.setJob n j).ports = m.ports := (rfl)
@[simp] theorem setJob_flows (m : Hw) (n : Nat) (j : Job) : (m.setJob n j).flows = m.flows := (rfl)
@[simp] theorem setJob_early (m : Hw) (n : Nat) (j : Job) : (m.setJob n j).early = m.early := (rfl)
@[simp] theorem setJob_quars (m : Hw) (n : Nat) (j : Job) : (m.setJob n j).quars = m.quars := (rfl)
@[simp] theorem setJob_streams (m : Hw) (n : Nat) (j : Job) : (m.setJob n j).streams = m.streams := (rfl)
@[simp] theorem setJob_moduleRing (m : Hw) (n : Nat) (j : Job) : (m.setJob n j).moduleRing = m.moduleRing := (rfl)
@[simp] theorem setJob_power (m : Hw) (n : Nat) (j : Job) : (m.setJob n j).power = m.power := (rfl)
@[simp] theorem setJob_counters (m : Hw) (n : Nat) (j : Job) : (m.setJob n j).counters = m.counters := (rfl)
@[simp] theorem setJob_snap (m : Hw) (n : Nat) (j : Job) : (m.setJob n j).snap = m.snap := (rfl)
@[simp] theorem setJob_idle (m : Hw) (n : Nat) (j : Job) : (m.setJob n j).idle = m.idle := (rfl)
@[simp] theorem setJob_unowned (m : Hw) (n : Nat) (j : Job) : (m.setJob n j).unowned = m.unowned := (rfl)
@[simp] theorem setJob_fwVer (m : Hw) (n : Nat) (j : Job) : (m.setJob n j).fwVer = m.fwVer := (rfl)
@[simp] theorem setJob_fwBuild (m : Hw) (n : Nat) (j : Job) : (m.setJob n j).fwBuild = m.fwBuild := (rfl)
@[simp] theorem setJob_found (m : Hw) (n : Nat) (j : Job) : (m.setJob n j).found = m.found := (rfl)

/-! ### Hw.setEngine -/

@[simp] theorem setEngine_engines (m : Hw) (q : Nat) (e : MigEngine) : (m.setEngine q e).engines = lset m.engines q e := (rfl)
@[simp] theorem setEngine_boot (m : Hw) (q : Nat) (e : MigEngine) : (m.setEngine q e).boot = m.boot := (rfl)
@[simp] theorem setEngine_coming (m : Hw) (q : Nat) (e : MigEngine) : (m.setEngine q e).coming = m.coming := (rfl)
@[simp] theorem setEngine_fuses (m : Hw) (q : Nat) (e : MigEngine) : (m.setEngine q e).fuses = m.fuses := (rfl)
@[simp] theorem setEngine_flash (m : Hw) (q : Nat) (e : MigEngine) : (m.setEngine q e).flash = m.flash := (rfl)
@[simp] theorem setEngine_island (m : Hw) (q : Nat) (e : MigEngine) : (m.setEngine q e).island = m.island := (rfl)
@[simp] theorem setEngine_quay (m : Hw) (q : Nat) (e : MigEngine) : (m.setEngine q e).quay = m.quay := (rfl)
@[simp] theorem setEngine_host (m : Hw) (q : Nat) (e : MigEngine) : (m.setEngine q e).host = m.host := (rfl)
@[simp] theorem setEngine_espor (m : Hw) (q : Nat) (e : MigEngine) : (m.setEngine q e).espor = m.espor := (rfl)
@[simp] theorem setEngine_mem (m : Hw) (q : Nat) (e : MigEngine) : (m.setEngine q e).mem = m.mem := (rfl)
@[simp] theorem setEngine_ctxs (m : Hw) (q : Nat) (e : MigEngine) : (m.setEngine q e).ctxs = m.ctxs := (rfl)
@[simp] theorem setEngine_plans (m : Hw) (q : Nat) (e : MigEngine) : (m.setEngine q e).plans = m.plans := (rfl)
@[simp] theorem setEngine_queues (m : Hw) (q : Nat) (e : MigEngine) : (m.setEngine q e).queues = m.queues := (rfl)
@[simp] theorem setEngine_postNo (m : Hw) (q : Nat) (e : MigEngine) : (m.setEngine q e).postNo = m.postNo := (rfl)
@[simp] theorem setEngine_cores (m : Hw) (q : Nat) (e : MigEngine) : (m.setEngine q e).cores = m.cores := (rfl)
@[simp] theorem setEngine_saves (m : Hw) (q : Nat) (e : MigEngine) : (m.setEngine q e).saves = m.saves := (rfl)
@[simp] theorem setEngine_loads (m : Hw) (q : Nat) (e : MigEngine) : (m.setEngine q e).loads = m.loads := (rfl)
@[simp] theorem setEngine_nextLoad (m : Hw) (q : Nat) (e : MigEngine) : (m.setEngine q e).nextLoad = m.nextLoad := (rfl)
@[simp] theorem setEngine_phys (m : Hw) (q : Nat) (e : MigEngine) : (m.setEngine q e).phys = m.phys := (rfl)
@[simp] theorem setEngine_outOfService (m : Hw) (q : Nat) (e : MigEngine) : (m.setEngine q e).outOfService = m.outOfService := (rfl)
@[simp] theorem setEngine_cycles (m : Hw) (q : Nat) (e : MigEngine) : (m.setEngine q e).cycles = m.cycles := (rfl)
@[simp] theorem setEngine_quarterTlb (m : Hw) (q : Nat) (e : MigEngine) : (m.setEngine q e).quarterTlb = m.quarterTlb := (rfl)
@[simp] theorem setEngine_late (m : Hw) (q : Nat) (e : MigEngine) : (m.setEngine q e).late = m.late := (rfl)
@[simp] theorem setEngine_hostTlb (m : Hw) (q : Nat) (e : MigEngine) : (m.setEngine q e).hostTlb = m.hostTlb := (rfl)
@[simp] theorem setEngine_ferries (m : Hw) (q : Nat) (e : MigEngine) : (m.setEngine q e).ferries = m.ferries := (rfl)
@[simp] theorem setEngine_creditsInFlight (m : Hw) (q : Nat) (e : MigEngine) : (m.setEngine q e).creditsInFlight = m.creditsInFlight := (rfl)
@[simp] theorem setEngine_links (m : Hw) (q : Nat) (e : MigEngine) : (m.setEngine q e).links = m.links := (rfl)
@[simp] theorem setEngine_parts (m : Hw) (q : Nat) (e : MigEngine) : (m.setEngine q e).parts = m.parts := (rfl)
@[simp] theorem setEngine_occasion (m : Hw) (q : Nat) (e : MigEngine) : (m.setEngine q e).occasion = m.occasion := (rfl)
@[simp] theorem setEngine_ports (m : Hw) (q : Nat) (e : MigEngine) : (m.setEngine q e).ports = m.ports := (rfl)
@[simp] theorem setEngine_flows (m : Hw) (q : Nat) (e : MigEngine) : (m.setEngine q e).flows = m.flows := (rfl)
@[simp] theorem setEngine_early (m : Hw) (q : Nat) (e : MigEngine) : (m.setEngine q e).early = m.early := (rfl)
@[simp] theorem setEngine_quars (m : Hw) (q : Nat) (e : MigEngine) : (m.setEngine q e).quars = m.quars := (rfl)
@[simp] theorem setEngine_streams (m : Hw) (q : Nat) (e : MigEngine) : (m.setEngine q e).streams = m.streams := (rfl)
@[simp] theorem setEngine_jobs (m : Hw) (q : Nat) (e : MigEngine) : (m.setEngine q e).jobs = m.jobs := (rfl)
@[simp] theorem setEngine_moduleRing (m : Hw) (q : Nat) (e : MigEngine) : (m.setEngine q e).moduleRing = m.moduleRing := (rfl)
@[simp] theorem setEngine_power (m : Hw) (q : Nat) (e : MigEngine) : (m.setEngine q e).power = m.power := (rfl)
@[simp] theorem setEngine_counters (m : Hw) (q : Nat) (e : MigEngine) : (m.setEngine q e).counters = m.counters := (rfl)
@[simp] theorem setEngine_snap (m : Hw) (q : Nat) (e : MigEngine) : (m.setEngine q e).snap = m.snap := (rfl)
@[simp] theorem setEngine_idle (m : Hw) (q : Nat) (e : MigEngine) : (m.setEngine q e).idle = m.idle := (rfl)
@[simp] theorem setEngine_unowned (m : Hw) (q : Nat) (e : MigEngine) : (m.setEngine q e).unowned = m.unowned := (rfl)
@[simp] theorem setEngine_fwVer (m : Hw) (q : Nat) (e : MigEngine) : (m.setEngine q e).fwVer = m.fwVer := (rfl)
@[simp] theorem setEngine_fwBuild (m : Hw) (q : Nat) (e : MigEngine) : (m.setEngine q e).fwBuild = m.fwBuild := (rfl)
@[simp] theorem setEngine_found (m : Hw) (q : Nat) (e : MigEngine) : (m.setEngine q e).found = m.found := (rfl)

/-! ### Hw.updPower -/

@[simp] theorem updPower_power (m : Hw) (f : Power → Power) : (m.updPower f).power = f m.power := (rfl)
@[simp] theorem updPower_boot (m : Hw) (f : Power → Power) : (m.updPower f).boot = m.boot := (rfl)
@[simp] theorem updPower_coming (m : Hw) (f : Power → Power) : (m.updPower f).coming = m.coming := (rfl)
@[simp] theorem updPower_fuses (m : Hw) (f : Power → Power) : (m.updPower f).fuses = m.fuses := (rfl)
@[simp] theorem updPower_flash (m : Hw) (f : Power → Power) : (m.updPower f).flash = m.flash := (rfl)
@[simp] theorem updPower_island (m : Hw) (f : Power → Power) : (m.updPower f).island = m.island := (rfl)
@[simp] theorem updPower_quay (m : Hw) (f : Power → Power) : (m.updPower f).quay = m.quay := (rfl)
@[simp] theorem updPower_host (m : Hw) (f : Power → Power) : (m.updPower f).host = m.host := (rfl)
@[simp] theorem updPower_espor (m : Hw) (f : Power → Power) : (m.updPower f).espor = m.espor := (rfl)
@[simp] theorem updPower_mem (m : Hw) (f : Power → Power) : (m.updPower f).mem = m.mem := (rfl)
@[simp] theorem updPower_ctxs (m : Hw) (f : Power → Power) : (m.updPower f).ctxs = m.ctxs := (rfl)
@[simp] theorem updPower_plans (m : Hw) (f : Power → Power) : (m.updPower f).plans = m.plans := (rfl)
@[simp] theorem updPower_queues (m : Hw) (f : Power → Power) : (m.updPower f).queues = m.queues := (rfl)
@[simp] theorem updPower_postNo (m : Hw) (f : Power → Power) : (m.updPower f).postNo = m.postNo := (rfl)
@[simp] theorem updPower_cores (m : Hw) (f : Power → Power) : (m.updPower f).cores = m.cores := (rfl)
@[simp] theorem updPower_saves (m : Hw) (f : Power → Power) : (m.updPower f).saves = m.saves := (rfl)
@[simp] theorem updPower_loads (m : Hw) (f : Power → Power) : (m.updPower f).loads = m.loads := (rfl)
@[simp] theorem updPower_nextLoad (m : Hw) (f : Power → Power) : (m.updPower f).nextLoad = m.nextLoad := (rfl)
@[simp] theorem updPower_phys (m : Hw) (f : Power → Power) : (m.updPower f).phys = m.phys := (rfl)
@[simp] theorem updPower_outOfService (m : Hw) (f : Power → Power) : (m.updPower f).outOfService = m.outOfService := (rfl)
@[simp] theorem updPower_cycles (m : Hw) (f : Power → Power) : (m.updPower f).cycles = m.cycles := (rfl)
@[simp] theorem updPower_quarterTlb (m : Hw) (f : Power → Power) : (m.updPower f).quarterTlb = m.quarterTlb := (rfl)
@[simp] theorem updPower_late (m : Hw) (f : Power → Power) : (m.updPower f).late = m.late := (rfl)
@[simp] theorem updPower_hostTlb (m : Hw) (f : Power → Power) : (m.updPower f).hostTlb = m.hostTlb := (rfl)
@[simp] theorem updPower_ferries (m : Hw) (f : Power → Power) : (m.updPower f).ferries = m.ferries := (rfl)
@[simp] theorem updPower_creditsInFlight (m : Hw) (f : Power → Power) : (m.updPower f).creditsInFlight = m.creditsInFlight := (rfl)
@[simp] theorem updPower_links (m : Hw) (f : Power → Power) : (m.updPower f).links = m.links := (rfl)
@[simp] theorem updPower_engines (m : Hw) (f : Power → Power) : (m.updPower f).engines = m.engines := (rfl)
@[simp] theorem updPower_parts (m : Hw) (f : Power → Power) : (m.updPower f).parts = m.parts := (rfl)
@[simp] theorem updPower_occasion (m : Hw) (f : Power → Power) : (m.updPower f).occasion = m.occasion := (rfl)
@[simp] theorem updPower_ports (m : Hw) (f : Power → Power) : (m.updPower f).ports = m.ports := (rfl)
@[simp] theorem updPower_flows (m : Hw) (f : Power → Power) : (m.updPower f).flows = m.flows := (rfl)
@[simp] theorem updPower_early (m : Hw) (f : Power → Power) : (m.updPower f).early = m.early := (rfl)
@[simp] theorem updPower_quars (m : Hw) (f : Power → Power) : (m.updPower f).quars = m.quars := (rfl)
@[simp] theorem updPower_streams (m : Hw) (f : Power → Power) : (m.updPower f).streams = m.streams := (rfl)
@[simp] theorem updPower_jobs (m : Hw) (f : Power → Power) : (m.updPower f).jobs = m.jobs := (rfl)
@[simp] theorem updPower_moduleRing (m : Hw) (f : Power → Power) : (m.updPower f).moduleRing = m.moduleRing := (rfl)
@[simp] theorem updPower_counters (m : Hw) (f : Power → Power) : (m.updPower f).counters = m.counters := (rfl)
@[simp] theorem updPower_snap (m : Hw) (f : Power → Power) : (m.updPower f).snap = m.snap := (rfl)
@[simp] theorem updPower_idle (m : Hw) (f : Power → Power) : (m.updPower f).idle = m.idle := (rfl)
@[simp] theorem updPower_unowned (m : Hw) (f : Power → Power) : (m.updPower f).unowned = m.unowned := (rfl)
@[simp] theorem updPower_fwVer (m : Hw) (f : Power → Power) : (m.updPower f).fwVer = m.fwVer := (rfl)
@[simp] theorem updPower_fwBuild (m : Hw) (f : Power → Power) : (m.updPower f).fwBuild = m.fwBuild := (rfl)
@[simp] theorem updPower_found (m : Hw) (f : Power → Power) : (m.updPower f).found = m.found := (rfl)

/-! ### Hw.updIsland -/

@[simp] theorem updIsland_island (m : Hw) (f : Island → Island) : (m.updIsland f).island = f m.island := (rfl)
@[simp] theorem updIsland_boot (m : Hw) (f : Island → Island) : (m.updIsland f).boot = m.boot := (rfl)
@[simp] theorem updIsland_coming (m : Hw) (f : Island → Island) : (m.updIsland f).coming = m.coming := (rfl)
@[simp] theorem updIsland_fuses (m : Hw) (f : Island → Island) : (m.updIsland f).fuses = m.fuses := (rfl)
@[simp] theorem updIsland_flash (m : Hw) (f : Island → Island) : (m.updIsland f).flash = m.flash := (rfl)
@[simp] theorem updIsland_quay (m : Hw) (f : Island → Island) : (m.updIsland f).quay = m.quay := (rfl)
@[simp] theorem updIsland_host (m : Hw) (f : Island → Island) : (m.updIsland f).host = m.host := (rfl)
@[simp] theorem updIsland_espor (m : Hw) (f : Island → Island) : (m.updIsland f).espor = m.espor := (rfl)
@[simp] theorem updIsland_mem (m : Hw) (f : Island → Island) : (m.updIsland f).mem = m.mem := (rfl)
@[simp] theorem updIsland_ctxs (m : Hw) (f : Island → Island) : (m.updIsland f).ctxs = m.ctxs := (rfl)
@[simp] theorem updIsland_plans (m : Hw) (f : Island → Island) : (m.updIsland f).plans = m.plans := (rfl)
@[simp] theorem updIsland_queues (m : Hw) (f : Island → Island) : (m.updIsland f).queues = m.queues := (rfl)
@[simp] theorem updIsland_postNo (m : Hw) (f : Island → Island) : (m.updIsland f).postNo = m.postNo := (rfl)
@[simp] theorem updIsland_cores (m : Hw) (f : Island → Island) : (m.updIsland f).cores = m.cores := (rfl)
@[simp] theorem updIsland_saves (m : Hw) (f : Island → Island) : (m.updIsland f).saves = m.saves := (rfl)
@[simp] theorem updIsland_loads (m : Hw) (f : Island → Island) : (m.updIsland f).loads = m.loads := (rfl)
@[simp] theorem updIsland_nextLoad (m : Hw) (f : Island → Island) : (m.updIsland f).nextLoad = m.nextLoad := (rfl)
@[simp] theorem updIsland_phys (m : Hw) (f : Island → Island) : (m.updIsland f).phys = m.phys := (rfl)
@[simp] theorem updIsland_outOfService (m : Hw) (f : Island → Island) : (m.updIsland f).outOfService = m.outOfService := (rfl)
@[simp] theorem updIsland_cycles (m : Hw) (f : Island → Island) : (m.updIsland f).cycles = m.cycles := (rfl)
@[simp] theorem updIsland_quarterTlb (m : Hw) (f : Island → Island) : (m.updIsland f).quarterTlb = m.quarterTlb := (rfl)
@[simp] theorem updIsland_late (m : Hw) (f : Island → Island) : (m.updIsland f).late = m.late := (rfl)
@[simp] theorem updIsland_hostTlb (m : Hw) (f : Island → Island) : (m.updIsland f).hostTlb = m.hostTlb := (rfl)
@[simp] theorem updIsland_ferries (m : Hw) (f : Island → Island) : (m.updIsland f).ferries = m.ferries := (rfl)
@[simp] theorem updIsland_creditsInFlight (m : Hw) (f : Island → Island) : (m.updIsland f).creditsInFlight = m.creditsInFlight := (rfl)
@[simp] theorem updIsland_links (m : Hw) (f : Island → Island) : (m.updIsland f).links = m.links := (rfl)
@[simp] theorem updIsland_engines (m : Hw) (f : Island → Island) : (m.updIsland f).engines = m.engines := (rfl)
@[simp] theorem updIsland_parts (m : Hw) (f : Island → Island) : (m.updIsland f).parts = m.parts := (rfl)
@[simp] theorem updIsland_occasion (m : Hw) (f : Island → Island) : (m.updIsland f).occasion = m.occasion := (rfl)
@[simp] theorem updIsland_ports (m : Hw) (f : Island → Island) : (m.updIsland f).ports = m.ports := (rfl)
@[simp] theorem updIsland_flows (m : Hw) (f : Island → Island) : (m.updIsland f).flows = m.flows := (rfl)
@[simp] theorem updIsland_early (m : Hw) (f : Island → Island) : (m.updIsland f).early = m.early := (rfl)
@[simp] theorem updIsland_quars (m : Hw) (f : Island → Island) : (m.updIsland f).quars = m.quars := (rfl)
@[simp] theorem updIsland_streams (m : Hw) (f : Island → Island) : (m.updIsland f).streams = m.streams := (rfl)
@[simp] theorem updIsland_jobs (m : Hw) (f : Island → Island) : (m.updIsland f).jobs = m.jobs := (rfl)
@[simp] theorem updIsland_moduleRing (m : Hw) (f : Island → Island) : (m.updIsland f).moduleRing = m.moduleRing := (rfl)
@[simp] theorem updIsland_power (m : Hw) (f : Island → Island) : (m.updIsland f).power = m.power := (rfl)
@[simp] theorem updIsland_counters (m : Hw) (f : Island → Island) : (m.updIsland f).counters = m.counters := (rfl)
@[simp] theorem updIsland_snap (m : Hw) (f : Island → Island) : (m.updIsland f).snap = m.snap := (rfl)
@[simp] theorem updIsland_idle (m : Hw) (f : Island → Island) : (m.updIsland f).idle = m.idle := (rfl)
@[simp] theorem updIsland_unowned (m : Hw) (f : Island → Island) : (m.updIsland f).unowned = m.unowned := (rfl)
@[simp] theorem updIsland_fwVer (m : Hw) (f : Island → Island) : (m.updIsland f).fwVer = m.fwVer := (rfl)
@[simp] theorem updIsland_fwBuild (m : Hw) (f : Island → Island) : (m.updIsland f).fwBuild = m.fwBuild := (rfl)
@[simp] theorem updIsland_found (m : Hw) (f : Island → Island) : (m.updIsland f).found = m.found := (rfl)

/-! ### Hw.readDone -/

@[simp] theorem readDone_host (m : Hw) (bs : List Byte) (ep : List Bool) : (m.readDone bs ep).host = { m.host with rdata := bs, rep := ep } := (rfl)
@[simp] theorem readDone_boot (m : Hw) (bs : List Byte) (ep : List Bool) : (m.readDone bs ep).boot = m.boot := (rfl)
@[simp] theorem readDone_coming (m : Hw) (bs : List Byte) (ep : List Bool) : (m.readDone bs ep).coming = m.coming := (rfl)
@[simp] theorem readDone_fuses (m : Hw) (bs : List Byte) (ep : List Bool) : (m.readDone bs ep).fuses = m.fuses := (rfl)
@[simp] theorem readDone_flash (m : Hw) (bs : List Byte) (ep : List Bool) : (m.readDone bs ep).flash = m.flash := (rfl)
@[simp] theorem readDone_island (m : Hw) (bs : List Byte) (ep : List Bool) : (m.readDone bs ep).island = m.island := (rfl)
@[simp] theorem readDone_quay (m : Hw) (bs : List Byte) (ep : List Bool) : (m.readDone bs ep).quay = m.quay := (rfl)
@[simp] theorem readDone_espor (m : Hw) (bs : List Byte) (ep : List Bool) : (m.readDone bs ep).espor = m.espor := (rfl)
@[simp] theorem readDone_mem (m : Hw) (bs : List Byte) (ep : List Bool) : (m.readDone bs ep).mem = m.mem := (rfl)
@[simp] theorem readDone_ctxs (m : Hw) (bs : List Byte) (ep : List Bool) : (m.readDone bs ep).ctxs = m.ctxs := (rfl)
@[simp] theorem readDone_plans (m : Hw) (bs : List Byte) (ep : List Bool) : (m.readDone bs ep).plans = m.plans := (rfl)
@[simp] theorem readDone_queues (m : Hw) (bs : List Byte) (ep : List Bool) : (m.readDone bs ep).queues = m.queues := (rfl)
@[simp] theorem readDone_postNo (m : Hw) (bs : List Byte) (ep : List Bool) : (m.readDone bs ep).postNo = m.postNo := (rfl)
@[simp] theorem readDone_cores (m : Hw) (bs : List Byte) (ep : List Bool) : (m.readDone bs ep).cores = m.cores := (rfl)
@[simp] theorem readDone_saves (m : Hw) (bs : List Byte) (ep : List Bool) : (m.readDone bs ep).saves = m.saves := (rfl)
@[simp] theorem readDone_loads (m : Hw) (bs : List Byte) (ep : List Bool) : (m.readDone bs ep).loads = m.loads := (rfl)
@[simp] theorem readDone_nextLoad (m : Hw) (bs : List Byte) (ep : List Bool) : (m.readDone bs ep).nextLoad = m.nextLoad := (rfl)
@[simp] theorem readDone_phys (m : Hw) (bs : List Byte) (ep : List Bool) : (m.readDone bs ep).phys = m.phys := (rfl)
@[simp] theorem readDone_outOfService (m : Hw) (bs : List Byte) (ep : List Bool) : (m.readDone bs ep).outOfService = m.outOfService := (rfl)
@[simp] theorem readDone_cycles (m : Hw) (bs : List Byte) (ep : List Bool) : (m.readDone bs ep).cycles = m.cycles := (rfl)
@[simp] theorem readDone_quarterTlb (m : Hw) (bs : List Byte) (ep : List Bool) : (m.readDone bs ep).quarterTlb = m.quarterTlb := (rfl)
@[simp] theorem readDone_late (m : Hw) (bs : List Byte) (ep : List Bool) : (m.readDone bs ep).late = m.late := (rfl)
@[simp] theorem readDone_hostTlb (m : Hw) (bs : List Byte) (ep : List Bool) : (m.readDone bs ep).hostTlb = m.hostTlb := (rfl)
@[simp] theorem readDone_ferries (m : Hw) (bs : List Byte) (ep : List Bool) : (m.readDone bs ep).ferries = m.ferries := (rfl)
@[simp] theorem readDone_creditsInFlight (m : Hw) (bs : List Byte) (ep : List Bool) : (m.readDone bs ep).creditsInFlight = m.creditsInFlight := (rfl)
@[simp] theorem readDone_links (m : Hw) (bs : List Byte) (ep : List Bool) : (m.readDone bs ep).links = m.links := (rfl)
@[simp] theorem readDone_engines (m : Hw) (bs : List Byte) (ep : List Bool) : (m.readDone bs ep).engines = m.engines := (rfl)
@[simp] theorem readDone_parts (m : Hw) (bs : List Byte) (ep : List Bool) : (m.readDone bs ep).parts = m.parts := (rfl)
@[simp] theorem readDone_occasion (m : Hw) (bs : List Byte) (ep : List Bool) : (m.readDone bs ep).occasion = m.occasion := (rfl)
@[simp] theorem readDone_ports (m : Hw) (bs : List Byte) (ep : List Bool) : (m.readDone bs ep).ports = m.ports := (rfl)
@[simp] theorem readDone_flows (m : Hw) (bs : List Byte) (ep : List Bool) : (m.readDone bs ep).flows = m.flows := (rfl)
@[simp] theorem readDone_early (m : Hw) (bs : List Byte) (ep : List Bool) : (m.readDone bs ep).early = m.early := (rfl)
@[simp] theorem readDone_quars (m : Hw) (bs : List Byte) (ep : List Bool) : (m.readDone bs ep).quars = m.quars := (rfl)
@[simp] theorem readDone_streams (m : Hw) (bs : List Byte) (ep : List Bool) : (m.readDone bs ep).streams = m.streams := (rfl)
@[simp] theorem readDone_jobs (m : Hw) (bs : List Byte) (ep : List Bool) : (m.readDone bs ep).jobs = m.jobs := (rfl)
@[simp] theorem readDone_moduleRing (m : Hw) (bs : List Byte) (ep : List Bool) : (m.readDone bs ep).moduleRing = m.moduleRing := (rfl)
@[simp] theorem readDone_power (m : Hw) (bs : List Byte) (ep : List Bool) : (m.readDone bs ep).power = m.power := (rfl)
@[simp] theorem readDone_counters (m : Hw) (bs : List Byte) (ep : List Bool) : (m.readDone bs ep).counters = m.counters := (rfl)
@[simp] theorem readDone_snap (m : Hw) (bs : List Byte) (ep : List Bool) : (m.readDone bs ep).snap = m.snap := (rfl)
@[simp] theorem readDone_idle (m : Hw) (bs : List Byte) (ep : List Bool) : (m.readDone bs ep).idle = m.idle := (rfl)
@[simp] theorem readDone_unowned (m : Hw) (bs : List Byte) (ep : List Bool) : (m.readDone bs ep).unowned = m.unowned := (rfl)
@[simp] theorem readDone_fwVer (m : Hw) (bs : List Byte) (ep : List Bool) : (m.readDone bs ep).fwVer = m.fwVer := (rfl)
@[simp] theorem readDone_fwBuild (m : Hw) (bs : List Byte) (ep : List Bool) : (m.readDone bs ep).fwBuild = m.fwBuild := (rfl)
@[simp] theorem readDone_found (m : Hw) (bs : List Byte) (ep : List Bool) : (m.readDone bs ep).found = m.found := (rfl)

/-! ### Hw.notify -/

@[simp] theorem notify_host (m : Hw) (kind index : Nat) : (m.notify kind index).host = m.host.notify m.now kind index := (rfl)
@[simp] theorem notify_boot (m : Hw) (kind index : Nat) : (m.notify kind index).boot = m.boot := (rfl)
@[simp] theorem notify_coming (m : Hw) (kind index : Nat) : (m.notify kind index).coming = m.coming := (rfl)
@[simp] theorem notify_fuses (m : Hw) (kind index : Nat) : (m.notify kind index).fuses = m.fuses := (rfl)
@[simp] theorem notify_flash (m : Hw) (kind index : Nat) : (m.notify kind index).flash = m.flash := (rfl)
@[simp] theorem notify_island (m : Hw) (kind index : Nat) : (m.notify kind index).island = m.island := (rfl)
@[simp] theorem notify_quay (m : Hw) (kind index : Nat) : (m.notify kind index).quay = m.quay := (rfl)
@[simp] theorem notify_espor (m : Hw) (kind index : Nat) : (m.notify kind index).espor = m.espor := (rfl)
@[simp] theorem notify_mem (m : Hw) (kind index : Nat) : (m.notify kind index).mem = m.mem := (rfl)
@[simp] theorem notify_ctxs (m : Hw) (kind index : Nat) : (m.notify kind index).ctxs = m.ctxs := (rfl)
@[simp] theorem notify_plans (m : Hw) (kind index : Nat) : (m.notify kind index).plans = m.plans := (rfl)
@[simp] theorem notify_queues (m : Hw) (kind index : Nat) : (m.notify kind index).queues = m.queues := (rfl)
@[simp] theorem notify_postNo (m : Hw) (kind index : Nat) : (m.notify kind index).postNo = m.postNo := (rfl)
@[simp] theorem notify_cores (m : Hw) (kind index : Nat) : (m.notify kind index).cores = m.cores := (rfl)
@[simp] theorem notify_saves (m : Hw) (kind index : Nat) : (m.notify kind index).saves = m.saves := (rfl)
@[simp] theorem notify_loads (m : Hw) (kind index : Nat) : (m.notify kind index).loads = m.loads := (rfl)
@[simp] theorem notify_nextLoad (m : Hw) (kind index : Nat) : (m.notify kind index).nextLoad = m.nextLoad := (rfl)
@[simp] theorem notify_phys (m : Hw) (kind index : Nat) : (m.notify kind index).phys = m.phys := (rfl)
@[simp] theorem notify_outOfService (m : Hw) (kind index : Nat) : (m.notify kind index).outOfService = m.outOfService := (rfl)
@[simp] theorem notify_cycles (m : Hw) (kind index : Nat) : (m.notify kind index).cycles = m.cycles := (rfl)
@[simp] theorem notify_quarterTlb (m : Hw) (kind index : Nat) : (m.notify kind index).quarterTlb = m.quarterTlb := (rfl)
@[simp] theorem notify_late (m : Hw) (kind index : Nat) : (m.notify kind index).late = m.late := (rfl)
@[simp] theorem notify_hostTlb (m : Hw) (kind index : Nat) : (m.notify kind index).hostTlb = m.hostTlb := (rfl)
@[simp] theorem notify_ferries (m : Hw) (kind index : Nat) : (m.notify kind index).ferries = m.ferries := (rfl)
@[simp] theorem notify_creditsInFlight (m : Hw) (kind index : Nat) : (m.notify kind index).creditsInFlight = m.creditsInFlight := (rfl)
@[simp] theorem notify_links (m : Hw) (kind index : Nat) : (m.notify kind index).links = m.links := (rfl)
@[simp] theorem notify_engines (m : Hw) (kind index : Nat) : (m.notify kind index).engines = m.engines := (rfl)
@[simp] theorem notify_parts (m : Hw) (kind index : Nat) : (m.notify kind index).parts = m.parts := (rfl)
@[simp] theorem notify_occasion (m : Hw) (kind index : Nat) : (m.notify kind index).occasion = m.occasion := (rfl)
@[simp] theorem notify_ports (m : Hw) (kind index : Nat) : (m.notify kind index).ports = m.ports := (rfl)
@[simp] theorem notify_flows (m : Hw) (kind index : Nat) : (m.notify kind index).flows = m.flows := (rfl)
@[simp] theorem notify_early (m : Hw) (kind index : Nat) : (m.notify kind index).early = m.early := (rfl)
@[simp] theorem notify_quars (m : Hw) (kind index : Nat) : (m.notify kind index).quars = m.quars := (rfl)
@[simp] theorem notify_streams (m : Hw) (kind index : Nat) : (m.notify kind index).streams = m.streams := (rfl)
@[simp] theorem notify_jobs (m : Hw) (kind index : Nat) : (m.notify kind index).jobs = m.jobs := (rfl)
@[simp] theorem notify_moduleRing (m : Hw) (kind index : Nat) : (m.notify kind index).moduleRing = m.moduleRing := (rfl)
@[simp] theorem notify_power (m : Hw) (kind index : Nat) : (m.notify kind index).power = m.power := (rfl)
@[simp] theorem notify_counters (m : Hw) (kind index : Nat) : (m.notify kind index).counters = m.counters := (rfl)
@[simp] theorem notify_snap (m : Hw) (kind index : Nat) : (m.notify kind index).snap = m.snap := (rfl)
@[simp] theorem notify_idle (m : Hw) (kind index : Nat) : (m.notify kind index).idle = m.idle := (rfl)
@[simp] theorem notify_unowned (m : Hw) (kind index : Nat) : (m.notify kind index).unowned = m.unowned := (rfl)
@[simp] theorem notify_fwVer (m : Hw) (kind index : Nat) : (m.notify kind index).fwVer = m.fwVer := (rfl)
@[simp] theorem notify_fwBuild (m : Hw) (kind index : Nat) : (m.notify kind index).fwBuild = m.fwBuild := (rfl)
@[simp] theorem notify_found (m : Hw) (kind index : Nat) : (m.notify kind index).found = m.found := (rfl)

end Sys2Proof
end

