-- ==== Sys2Proof/Laws/Ops.lean ====
section
/-! SUPPORT. What the shared operations can change: one frame lemma for each, and the fields it leaves as they were. -/

namespace Sys2Proof

open Machine

/-- All that `cause` may change: quay, host. -/
theorem cause_frame (m : Hw) (i : Nat) : { m.cause i with quay := m.quay, host := m.host } = m := by
  unfold Hw.cause; split <;> rfl

@[simp] theorem cause_boot (m : Hw) (i : Nat) : (m.cause i).boot = m.boot := (congrArg Hw.boot (cause_frame m i) :)
@[simp] theorem cause_fuses (m : Hw) (i : Nat) : (m.cause i).fuses = m.fuses := (congrArg Hw.fuses (cause_frame m i) :)
@[simp] theorem cause_flash (m : Hw) (i : Nat) : (m.cause i).flash = m.flash := (congrArg Hw.flash (cause_frame m i) :)
@[simp] theorem cause_island (m : Hw) (i : Nat) : (m.cause i).island = m.island := (congrArg Hw.island (cause_frame m i) :)
@[simp] theorem cause_espor (m : Hw) (i : Nat) : (m.cause i).espor = m.espor := (congrArg Hw.espor (cause_frame m i) :)
@[simp] theorem cause_ctxs (m : Hw) (i : Nat) : (m.cause i).ctxs = m.ctxs := (congrArg Hw.ctxs (cause_frame m i) :)
@[simp] theorem cause_plans (m : Hw) (i : Nat) : (m.cause i).plans = m.plans := (congrArg Hw.plans (cause_frame m i) :)
@[simp] theorem cause_queues (m : Hw) (i : Nat) : (m.cause i).queues = m.queues := (congrArg Hw.queues (cause_frame m i) :)
@[simp] theorem cause_cores (m : Hw) (i : Nat) : (m.cause i).cores = m.cores := (congrArg Hw.cores (cause_frame m i) :)
@[simp] theorem cause_saves (m : Hw) (i : Nat) : (m.cause i).saves = m.saves := (congrArg Hw.saves (cause_frame m i) :)
@[simp] theorem cause_loads (m : Hw) (i : Nat) : (m.cause i).loads = m.loads := (congrArg Hw.loads (cause_frame m i) :)
@[simp] theorem cause_phys (m : Hw) (i : Nat) : (m.cause i).phys = m.phys := (congrArg Hw.phys (cause_frame m i) :)
@[simp] theorem cause_ferries (m : Hw) (i : Nat) : (m.cause i).ferries = m.ferries := (congrArg Hw.ferries (cause_frame m i) :)
@[simp] theorem cause_links (m : Hw) (i : Nat) : (m.cause i).links = m.links := (congrArg Hw.links (cause_frame m i) :)
@[simp] theorem cause_engines (m : Hw) (i : Nat) : (m.cause i).engines = m.engines := (congrArg Hw.engines (cause_frame m i) :)
@[simp] theorem cause_parts (m : Hw) (i : Nat) : (m.cause i).parts = m.parts := (congrArg Hw.parts (cause_frame m i) :)
@[simp] theorem cause_ports (m : Hw) (i : Nat) : (m.cause i).ports = m.ports := (congrArg Hw.ports (cause_frame m i) :)
@[simp] theorem cause_flows (m : Hw) (i : Nat) : (m.cause i).flows = m.flows := (congrArg Hw.flows (cause_frame m i) :)
@[simp] theorem cause_early (m : Hw) (i : Nat) : (m.cause i).early = m.early := (congrArg Hw.early (cause_frame m i) :)
@[simp] theorem cause_quars (m : Hw) (i : Nat) : (m.cause i).quars = m.quars := (congrArg Hw.quars (cause_frame m i) :)
@[simp] theorem cause_streams (m : Hw) (i : Nat) : (m.cause i).streams = m.streams := (congrArg Hw.streams (cause_frame m i) :)
@[simp] theorem cause_jobs (m : Hw) (i : Nat) : (m.cause i).jobs = m.jobs := (congrArg Hw.jobs (cause_frame m i) :)
@[simp] theorem cause_moduleRing (m : Hw) (i : Nat) : (m.cause i).moduleRing = m.moduleRing := (congrArg Hw.moduleRing (cause_frame m i) :)
@[simp] theorem cause_power (m : Hw) (i : Nat) : (m.cause i).power = m.power := (congrArg Hw.power (cause_frame m i) :)
@[simp] theorem cause_counters (m : Hw) (i : Nat) : (m.cause i).counters = m.counters := (congrArg Hw.counters (cause_frame m i) :)
@[simp] theorem cause_snap (m : Hw) (i : Nat) : (m.cause i).snap = m.snap := (congrArg Hw.snap (cause_frame m i) :)
@[simp] theorem cause_mem (m : Hw) (i : Nat) : (m.cause i).mem = m.mem := (congrArg Hw.mem (cause_frame m i) :)

/-- All that `setStatus` may change: quay, host. -/
theorem setStatus_frame (m : Hw) (st : ModState) (r : BitVec 16) : { m.setStatus st r with quay := m.quay, host := m.host } = m := by
  simp only [Hw.setStatus, Hw.cause]; split <;> (try split) <;> rfl

@[simp] theorem setStatus_boot (m : Hw) (st : ModState) (r : BitVec 16) : (m.setStatus st r).boot = m.boot := (congrArg Hw.boot (setStatus_frame m st r) :)
@[simp] theorem setStatus_fuses (m : Hw) (st : ModState) (r : BitVec 16) : (m.setStatus st r).fuses = m.fuses := (congrArg Hw.fuses (setStatus_frame m st r) :)
@[simp] theorem setStatus_flash (m : Hw) (st : ModState) (r : BitVec 16) : (m.setStatus st r).flash = m.flash := (congrArg Hw.flash (setStatus_frame m st r) :)
@[simp] theorem setStatus_island (m : Hw) (st : ModState) (r : BitVec 16) : (m.setStatus st r).island = m.island := (congrArg Hw.island (setStatus_frame m st r) :)
@[simp] theorem setStatus_espor (m : Hw) (st : ModState) (r : BitVec 16) : (m.setStatus st r).espor = m.espor := (congrArg Hw.espor (setStatus_frame m st r) :)
@[simp] theorem setStatus_ctxs (m : Hw) (st : ModState) (r : BitVec 16) : (m.setStatus st r).ctxs = m.ctxs := (congrArg Hw.ctxs (setStatus_frame m st r) :)
@[simp] theorem setStatus_plans (m : Hw) (st : ModState) (r : BitVec 16) : (m.setStatus st r).plans = m.plans := (congrArg Hw.plans (setStatus_frame m st r) :)
@[simp] theorem setStatus_queues (m : Hw) (st : ModState) (r : BitVec 16) : (m.setStatus st r).queues = m.queues := (congrArg Hw.queues (setStatus_frame m st r) :)
@[simp] theorem setStatus_cores (m : Hw) (st : ModState) (r : BitVec 16) : (m.setStatus st r).cores = m.cores := (congrArg Hw.cores (setStatus_frame m st r) :)
@[simp] theorem setStatus_saves (m : Hw) (st : ModState) (r : BitVec 16) : (m.setStatus st r).saves = m.saves := (congrArg Hw.saves (setStatus_frame m st r) :)
@[simp] theorem setStatus_loads (m : Hw) (st : ModState) (r : BitVec 16) : (m.setStatus st r).loads = m.loads := (congrArg Hw.loads (setStatus_frame m st r) :)
@[simp] theorem setStatus_phys (m : Hw) (st : ModState) (r : BitVec 16) : (m.setStatus st r).phys = m.phys := (congrArg Hw.phys (setStatus_frame m st r) :)
@[simp] theorem setStatus_ferries (m : Hw) (st : ModState) (r : BitVec 16) : (m.setStatus st r).ferries = m.ferries := (congrArg Hw.ferries (setStatus_frame m st r) :)
@[simp] theorem setStatus_links (m : Hw) (st : ModState) (r : BitVec 16) : (m.setStatus st r).links = m.links := (congrArg Hw.links (setStatus_frame m st r) :)
@[simp] theorem setStatus_engines (m : Hw) (st : ModState) (r : BitVec 16) : (m.setStatus st r).engines = m.engines := (congrArg Hw.engines (setStatus_frame m st r) :)
@[simp] theorem setStatus_parts (m : Hw) (st : ModState) (r : BitVec 16) : (m.setStatus st r).parts = m.parts := (congrArg Hw.parts (setStatus_frame m st r) :)
@[simp] theorem setStatus_ports (m : Hw) (st : ModState) (r : BitVec 16) : (m.setStatus st r).ports = m.ports := (congrArg Hw.ports (setStatus_frame m st r) :)
@[simp] theorem setStatus_flows (m : Hw) (st : ModState) (r : BitVec 16) : (m.setStatus st r).flows = m.flows := (congrArg Hw.flows (setStatus_frame m st r) :)
@[simp] theorem setStatus_early (m : Hw) (st : ModState) (r : BitVec 16) : (m.setStatus st r).early = m.early := (congrArg Hw.early (setStatus_frame m st r) :)
@[simp] theorem setStatus_quars (m : Hw) (st : ModState) (r : BitVec 16) : (m.setStatus st r).quars = m.quars := (congrArg Hw.quars (setStatus_frame m st r) :)
@[simp] theorem setStatus_streams (m : Hw) (st : ModState) (r : BitVec 16) : (m.setStatus st r).streams = m.streams := (congrArg Hw.streams (setStatus_frame m st r) :)
@[simp] theorem setStatus_jobs (m : Hw) (st : ModState) (r : BitVec 16) : (m.setStatus st r).jobs = m.jobs := (congrArg Hw.jobs (setStatus_frame m st r) :)
@[simp] theorem setStatus_moduleRing (m : Hw) (st : ModState) (r : BitVec 16) : (m.setStatus st r).moduleRing = m.moduleRing := (congrArg Hw.moduleRing (setStatus_frame m st r) :)
@[simp] theorem setStatus_power (m : Hw) (st : ModState) (r : BitVec 16) : (m.setStatus st r).power = m.power := (congrArg Hw.power (setStatus_frame m st r) :)
@[simp] theorem setStatus_counters (m : Hw) (st : ModState) (r : BitVec 16) : (m.setStatus st r).counters = m.counters := (congrArg Hw.counters (setStatus_frame m st r) :)
@[simp] theorem setStatus_snap (m : Hw) (st : ModState) (r : BitVec 16) : (m.setStatus st r).snap = m.snap := (congrArg Hw.snap (setStatus_frame m st r) :)
@[simp] theorem setStatus_mem (m : Hw) (st : ModState) (r : BitVec 16) : (m.setStatus st r).mem = m.mem := (congrArg Hw.mem (setStatus_frame m st r) :)

/-- All that `setThrottle` may change: quay, host. -/
theorem setThrottle_frame (m : Hw) (b : Bool) : { m.setThrottle b with quay := m.quay, host := m.host } = m := by
  simp only [Hw.setThrottle, Hw.cause]; split <;> (try split) <;> rfl

@[simp] theorem setThrottle_boot (m : Hw) (b : Bool) : (m.setThrottle b).boot = m.boot := (congrArg Hw.boot (setThrottle_frame m b) :)
@[simp] theorem setThrottle_fuses (m : Hw) (b : Bool) : (m.setThrottle b).fuses = m.fuses := (congrArg Hw.fuses (setThrottle_frame m b) :)
@[simp] theorem setThrottle_flash (m : Hw) (b : Bool) : (m.setThrottle b).flash = m.flash := (congrArg Hw.flash (setThrottle_frame m b) :)
@[simp] theorem setThrottle_island (m : Hw) (b : Bool) : (m.setThrottle b).island = m.island := (congrArg Hw.island (setThrottle_frame m b) :)
@[simp] theorem setThrottle_espor (m : Hw) (b : Bool) : (m.setThrottle b).espor = m.espor := (congrArg Hw.espor (setThrottle_frame m b) :)
@[simp] theorem setThrottle_ctxs (m : Hw) (b : Bool) : (m.setThrottle b).ctxs = m.ctxs := (congrArg Hw.ctxs (setThrottle_frame m b) :)
@[simp] theorem setThrottle_plans (m : Hw) (b : Bool) : (m.setThrottle b).plans = m.plans := (congrArg Hw.plans (setThrottle_frame m b) :)
@[simp] theorem setThrottle_queues (m : Hw) (b : Bool) : (m.setThrottle b).queues = m.queues := (congrArg Hw.queues (setThrottle_frame m b) :)
@[simp] theorem setThrottle_cores (m : Hw) (b : Bool) : (m.setThrottle b).cores = m.cores := (congrArg Hw.cores (setThrottle_frame m b) :)
@[simp] theorem setThrottle_saves (m : Hw) (b : Bool) : (m.setThrottle b).saves = m.saves := (congrArg Hw.saves (setThrottle_frame m b) :)
@[simp] theorem setThrottle_loads (m : Hw) (b : Bool) : (m.setThrottle b).loads = m.loads := (congrArg Hw.loads (setThrottle_frame m b) :)
@[simp] theorem setThrottle_phys (m : Hw) (b : Bool) : (m.setThrottle b).phys = m.phys := (congrArg Hw.phys (setThrottle_frame m b) :)
@[simp] theorem setThrottle_ferries (m : Hw) (b : Bool) : (m.setThrottle b).ferries = m.ferries := (congrArg Hw.ferries (setThrottle_frame m b) :)
@[simp] theorem setThrottle_links (m : Hw) (b : Bool) : (m.setThrottle b).links = m.links := (congrArg Hw.links (setThrottle_frame m b) :)
@[simp] theorem setThrottle_engines (m : Hw) (b : Bool) : (m.setThrottle b).engines = m.engines := (congrArg Hw.engines (setThrottle_frame m b) :)
@[simp] theorem setThrottle_parts (m : Hw) (b : Bool) : (m.setThrottle b).parts = m.parts := (congrArg Hw.parts (setThrottle_frame m b) :)
@[simp] theorem setThrottle_ports (m : Hw) (b : Bool) : (m.setThrottle b).ports = m.ports := (congrArg Hw.ports (setThrottle_frame m b) :)
@[simp] theorem setThrottle_flows (m : Hw) (b : Bool) : (m.setThrottle b).flows = m.flows := (congrArg Hw.flows (setThrottle_frame m b) :)
@[simp] theorem setThrottle_early (m : Hw) (b : Bool) : (m.setThrottle b).early = m.early := (congrArg Hw.early (setThrottle_frame m b) :)
@[simp] theorem setThrottle_quars (m : Hw) (b : Bool) : (m.setThrottle b).quars = m.quars := (congrArg Hw.quars (setThrottle_frame m b) :)
@[simp] theorem setThrottle_streams (m : Hw) (b : Bool) : (m.setThrottle b).streams = m.streams := (congrArg Hw.streams (setThrottle_frame m b) :)
@[simp] theorem setThrottle_jobs (m : Hw) (b : Bool) : (m.setThrottle b).jobs = m.jobs := (congrArg Hw.jobs (setThrottle_frame m b) :)
@[simp] theorem setThrottle_moduleRing (m : Hw) (b : Bool) : (m.setThrottle b).moduleRing = m.moduleRing := (congrArg Hw.moduleRing (setThrottle_frame m b) :)
@[simp] theorem setThrottle_power (m : Hw) (b : Bool) : (m.setThrottle b).power = m.power := (congrArg Hw.power (setThrottle_frame m b) :)
@[simp] theorem setThrottle_counters (m : Hw) (b : Bool) : (m.setThrottle b).counters = m.counters := (congrArg Hw.counters (setThrottle_frame m b) :)
@[simp] theorem setThrottle_snap (m : Hw) (b : Bool) : (m.setThrottle b).snap = m.snap := (congrArg Hw.snap (setThrottle_frame m b) :)
@[simp] theorem setThrottle_mem (m : Hw) (b : Bool) : (m.setThrottle b).mem = m.mem := (congrArg Hw.mem (setThrottle_frame m b) :)

/-- All that `hosterr` may change: quay, host. -/
theorem hosterr_frame (m : Hw) (e : HostErr) : { m.hosterr e with quay := m.quay, host := m.host } = m := by
  cases e <;> simp only [Hw.hosterr, Hw.cause] <;> split <;> (try split) <;> rfl

@[simp] theorem hosterr_boot (m : Hw) (e : HostErr) : (m.hosterr e).boot = m.boot := (congrArg Hw.boot (hosterr_frame m e) :)
@[simp] theorem hosterr_fuses (m : Hw) (e : HostErr) : (m.hosterr e).fuses = m.fuses := (congrArg Hw.fuses (hosterr_frame m e) :)
@[simp] theorem hosterr_flash (m : Hw) (e : HostErr) : (m.hosterr e).flash = m.flash := (congrArg Hw.flash (hosterr_frame m e) :)
@[simp] theorem hosterr_island (m : Hw) (e : HostErr) : (m.hosterr e).island = m.island := (congrArg Hw.island (hosterr_frame m e) :)
@[simp] theorem hosterr_espor (m : Hw) (e : HostErr) : (m.hosterr e).espor = m.espor := (congrArg Hw.espor (hosterr_frame m e) :)
@[simp] theorem hosterr_ctxs (m : Hw) (e : HostErr) : (m.hosterr e).ctxs = m.ctxs := (congrArg Hw.ctxs (hosterr_frame m e) :)
@[simp] theorem hosterr_plans (m : Hw) (e : HostErr) : (m.hosterr e).plans = m.plans := (congrArg Hw.plans (hosterr_frame m e) :)
@[simp] theorem hosterr_queues (m : Hw) (e : HostErr) : (m.hosterr e).queues = m.queues := (congrArg Hw.queues (hosterr_frame m e) :)
@[simp] theorem hosterr_cores (m : Hw) (e : HostErr) : (m.hosterr e).cores = m.cores := (congrArg Hw.cores (hosterr_frame m e) :)
@[simp] theorem hosterr_saves (m : Hw) (e : HostErr) : (m.hosterr e).saves = m.saves := (congrArg Hw.saves (hosterr_frame m e) :)
@[simp] theorem hosterr_loads (m : Hw) (e : HostErr) : (m.hosterr e).loads = m.loads := (congrArg Hw.loads (hosterr_frame m e) :)
@[simp] theorem hosterr_phys (m : Hw) (e : HostErr) : (m.hosterr e).phys = m.phys := (congrArg Hw.phys (hosterr_frame m e) :)
@[simp] theorem hosterr_ferries (m : Hw) (e : HostErr) : (m.hosterr e).ferries = m.ferries := (congrArg Hw.ferries (hosterr_frame m e) :)
@[simp] theorem hosterr_links (m : Hw) (e : HostErr) : (m.hosterr e).links = m.links := (congrArg Hw.links (hosterr_frame m e) :)
@[simp] theorem hosterr_engines (m : Hw) (e : HostErr) : (m.hosterr e).engines = m.engines := (congrArg Hw.engines (hosterr_frame m e) :)
@[simp] theorem hosterr_parts (m : Hw) (e : HostErr) : (m.hosterr e).parts = m.parts := (congrArg Hw.parts (hosterr_frame m e) :)
@[simp] theorem hosterr_ports (m : Hw) (e : HostErr) : (m.hosterr e).ports = m.ports := (congrArg Hw.ports (hosterr_frame m e) :)
@[simp] theorem hosterr_flows (m : Hw) (e : HostErr) : (m.hosterr e).flows = m.flows := (congrArg Hw.flows (hosterr_frame m e) :)
@[simp] theorem hosterr_early (m : Hw) (e : HostErr) : (m.hosterr e).early = m.early := (congrArg Hw.early (hosterr_frame m e) :)
@[simp] theorem hosterr_quars (m : Hw) (e : HostErr) : (m.hosterr e).quars = m.quars := (congrArg Hw.quars (hosterr_frame m e) :)
@[simp] theorem hosterr_streams (m : Hw) (e : HostErr) : (m.hosterr e).streams = m.streams := (congrArg Hw.streams (hosterr_frame m e) :)
@[simp] theorem hosterr_jobs (m : Hw) (e : HostErr) : (m.hosterr e).jobs = m.jobs := (congrArg Hw.jobs (hosterr_frame m e) :)
@[simp] theorem hosterr_moduleRing (m : Hw) (e : HostErr) : (m.hosterr e).moduleRing = m.moduleRing := (congrArg Hw.moduleRing (hosterr_frame m e) :)
@[simp] theorem hosterr_power (m : Hw) (e : HostErr) : (m.hosterr e).power = m.power := (congrArg Hw.power (hosterr_frame m e) :)
@[simp] theorem hosterr_counters (m : Hw) (e : HostErr) : (m.hosterr e).counters = m.counters := (congrArg Hw.counters (hosterr_frame m e) :)
@[simp] theorem hosterr_snap (m : Hw) (e : HostErr) : (m.hosterr e).snap = m.snap := (congrArg Hw.snap (hosterr_frame m e) :)
@[simp] theorem hosterr_mem (m : Hw) (e : HostErr) : (m.hosterr e).mem = m.mem := (congrArg Hw.mem (hosterr_frame m e) :)

/-- All that `putRing` may change: ctxs, mem, host, counters. -/
theorem putRing_frame (m : Hw) (code : Nat) (ctx : Option Nat) (p : Nat) :
    { (m.putRing code ctx p).1 with ctxs := m.ctxs, mem := m.mem, host := m.host, counters := m.counters } = m := by
  unfold Hw.putRing; split <;> (try split) <;> rfl

@[simp] theorem putRing_ram (m : Hw) (code : Nat) (ctx : Option Nat) (p : Nat) :
    (m.putRing code ctx p).1.mem.ram = m.mem.ram := by
  unfold Hw.putRing; split <;> (try split) <;> rfl

@[simp] theorem putRing_marks (m : Hw) (code : Nat) (ctx : Option Nat) (p : Nat) :
    (m.putRing code ctx p).1.mem.marks = m.mem.marks := by
  unfold Hw.putRing; split <;> (try split) <;> rfl

/-- All that `toRing` may change: ctxs, mem, host, counters. -/
theorem toRing_frame (m : Hw) (code : Nat) (ctx : Option Nat) (p : Nat) : { m.toRing code ctx p with ctxs := m.ctxs, mem := m.mem, host := m.host, counters := m.counters } = m := by
  simp only [Hw.toRing]; split
  · exact (congrArg (fun t : Hw => { t with ctxs := m.ctxs, mem := m.mem, host := m.host, counters := m.counters })
      (putRing_frame (m.putRing code ctx p).1 0x0681 none _)).trans (putRing_frame m code ctx p)
  · exact putRing_frame m code ctx p

@[simp] theorem toRing_boot (m : Hw) (code : Nat) (ctx : Option Nat) (p : Nat) : (m.toRing code ctx p).boot = m.boot := (congrArg Hw.boot (toRing_frame m code ctx p) :)
@[simp] theorem toRing_fuses (m : Hw) (code : Nat) (ctx : Option Nat) (p : Nat) : (m.toRing code ctx p).fuses = m.fuses := (congrArg Hw.fuses (toRing_frame m code ctx p) :)
@[simp] theorem toRing_flash (m : Hw) (code : Nat) (ctx : Option Nat) (p : Nat) : (m.toRing code ctx p).flash = m.flash := (congrArg Hw.flash (toRing_frame m code ctx p) :)
@[simp] theorem toRing_island (m : Hw) (code : Nat) (ctx : Option Nat) (p : Nat) : (m.toRing code ctx p).island = m.island := (congrArg Hw.island (toRing_frame m code ctx p) :)
@[simp] theorem toRing_quay (m : Hw) (code : Nat) (ctx : Option Nat) (p : Nat) : (m.toRing code ctx p).quay = m.quay := (congrArg Hw.quay (toRing_frame m code ctx p) :)
@[simp] theorem toRing_espor (m : Hw) (code : Nat) (ctx : Option Nat) (p : Nat) : (m.toRing code ctx p).espor = m.espor := (congrArg Hw.espor (toRing_frame m code ctx p) :)
@[simp] theorem toRing_plans (m : Hw) (code : Nat) (ctx : Option Nat) (p : Nat) : (m.toRing code ctx p).plans = m.plans := (congrArg Hw.plans (toRing_frame m code ctx p) :)
@[simp] theorem toRing_queues (m : Hw) (code : Nat) (ctx : Option Nat) (p : Nat) : (m.toRing code ctx p).queues = m.queues := (congrArg Hw.queues (toRing_frame m code ctx p) :)
@[simp] theorem toRing_cores (m : Hw) (code : Nat) (ctx : Option Nat) (p : Nat) : (m.toRing code ctx p).cores = m.cores := (congrArg Hw.cores (toRing_frame m code ctx p) :)
@[simp] theorem toRing_saves (m : Hw) (code : Nat) (ctx : Option Nat) (p : Nat) : (m.toRing code ctx p).saves = m.saves := (congrArg Hw.saves (toRing_frame m code ctx p) :)
@[simp] theorem toRing_loads (m : Hw) (code : Nat) (ctx : Option Nat) (p : Nat) : (m.toRing code ctx p).loads = m.loads := (congrArg Hw.loads (toRing_frame m code ctx p) :)
@[simp] theorem toRing_phys (m : Hw) (code : Nat) (ctx : Option Nat) (p : Nat) : (m.toRing code ctx p).phys = m.phys := (congrArg Hw.phys (toRing_frame m code ctx p) :)
@[simp] theorem toRing_ferries (m : Hw) (code : Nat) (ctx : Option Nat) (p : Nat) : (m.toRing code ctx p).ferries = m.ferries := (congrArg Hw.ferries (toRing_frame m code ctx p) :)
@[simp] theorem toRing_links (m : Hw) (code : Nat) (ctx : Option Nat) (p : Nat) : (m.toRing code ctx p).links = m.links := (congrArg Hw.links (toRing_frame m code ctx p) :)
@[simp] theorem toRing_engines (m : Hw) (code : Nat) (ctx : Option Nat) (p : Nat) : (m.toRing code ctx p).engines = m.engines := (congrArg Hw.engines (toRing_frame m code ctx p) :)
@[simp] theorem toRing_parts (m : Hw) (code : Nat) (ctx : Option Nat) (p : Nat) : (m.toRing code ctx p).parts = m.parts := (congrArg Hw.parts (toRing_frame m code ctx p) :)
@[simp] theorem toRing_ports (m : Hw) (code : Nat) (ctx : Option Nat) (p : Nat) : (m.toRing code ctx p).ports = m.ports := (congrArg Hw.ports (toRing_frame m code ctx p) :)
@[simp] theorem toRing_flows (m : Hw) (code : Nat) (ctx : Option Nat) (p : Nat) : (m.toRing code ctx p).flows = m.flows := (congrArg Hw.flows (toRing_frame m code ctx p) :)
@[simp] theorem toRing_early (m : Hw) (code : Nat) (ctx : Option Nat) (p : Nat) : (m.toRing code ctx p).early = m.early := (congrArg Hw.early (toRing_frame m code ctx p) :)
@[simp] theorem toRing_quars (m : Hw) (code : Nat) (ctx : Option Nat) (p : Nat) : (m.toRing code ctx p).quars = m.quars := (congrArg Hw.quars (toRing_frame m code ctx p) :)
@[simp] theorem toRing_streams (m : Hw) (code : Nat) (ctx : Option Nat) (p : Nat) : (m.toRing code ctx p).streams = m.streams := (congrArg Hw.streams (toRing_frame m code ctx p) :)
@[simp] theorem toRing_jobs (m : Hw) (code : Nat) (ctx : Option Nat) (p : Nat) : (m.toRing code ctx p).jobs = m.jobs := (congrArg Hw.jobs (toRing_frame m code ctx p) :)
@[simp] theorem toRing_moduleRing (m : Hw) (code : Nat) (ctx : Option Nat) (p : Nat) : (m.toRing code ctx p).moduleRing = m.moduleRing := (congrArg Hw.moduleRing (toRing_frame m code ctx p) :)
@[simp] theorem toRing_power (m : Hw) (code : Nat) (ctx : Option Nat) (p : Nat) : (m.toRing code ctx p).power = m.power := (congrArg Hw.power (toRing_frame m code ctx p) :)
@[simp] theorem toRing_snap (m : Hw) (code : Nat) (ctx : Option Nat) (p : Nat) : (m.toRing code ctx p).snap = m.snap := (congrArg Hw.snap (toRing_frame m code ctx p) :)
@[simp] theorem toRing_ram (m : Hw) (code : Nat) (ctx : Option Nat) (p : Nat) : (m.toRing code ctx p).mem.ram = m.mem.ram := by
  simp only [Hw.toRing]; split <;> simp
@[simp] theorem toRing_marks (m : Hw) (code : Nat) (ctx : Option Nat) (p : Nat) : (m.toRing code ctx p).mem.marks = m.mem.marks := by
  simp only [Hw.toRing]; split <;> simp

/-- All that `count` may change: ctxs, mem, host, counters. -/
theorem count_frame (m : Hw) (b i w n : Nat) : { m.count b i w n with ctxs := m.ctxs, mem := m.mem, host := m.host, counters := m.counters } = m := by
  simp only [Hw.count]; split
  · exact (congrArg (fun t : Hw => { t with counters := m.counters })
      (toRing_frame { m with counters := (countAdd m.counters b i w n).1 } 0x0681 none _))
  · rfl

@[simp] theorem count_boot (m : Hw) (b i w n : Nat) : (m.count b i w n).boot = m.boot := (congrArg Hw.boot (count_frame m b i w n) :)
@[simp] theorem count_fuses (m : Hw) (b i w n : Nat) : (m.count b i w n).fuses = m.fuses := (congrArg Hw.fuses (count_frame m b i w n) :)
@[simp] theorem count_flash (m : Hw) (b i w n : Nat) : (m.count b i w n).flash = m.flash := (congrArg Hw.flash (count_frame m b i w n) :)
@[simp] theorem count_island (m : Hw) (b i w n : Nat) : (m.count b i w n).island = m.island := (congrArg Hw.island (count_frame m b i w n) :)
@[simp] theorem count_quay (m : Hw) (b i w n : Nat) : (m.count b i w n).quay = m.quay := (congrArg Hw.quay (count_frame m b i w n) :)
@[simp] theorem count_espor (m : Hw) (b i w n : Nat) : (m.count b i w n).espor = m.espor := (congrArg Hw.espor (count_frame m b i w n) :)
@[simp] theorem count_plans (m : Hw) (b i w n : Nat) : (m.count b i w n).plans = m.plans := (congrArg Hw.plans (count_frame m b i w n) :)
@[simp] theorem count_queues (m : Hw) (b i w n : Nat) : (m.count b i w n).queues = m.queues := (congrArg Hw.queues (count_frame m b i w n) :)
@[simp] theorem count_cores (m : Hw) (b i w n : Nat) : (m.count b i w n).cores = m.cores := (congrArg Hw.cores (count_frame m b i w n) :)
@[simp] theorem count_saves (m : Hw) (b i w n : Nat) : (m.count b i w n).saves = m.saves := (congrArg Hw.saves (count_frame m b i w n) :)
@[simp] theorem count_loads (m : Hw) (b i w n : Nat) : (m.count b i w n).loads = m.loads := (congrArg Hw.loads (count_frame m b i w n) :)
@[simp] theorem count_phys (m : Hw) (b i w n : Nat) : (m.count b i w n).phys = m.phys := (congrArg Hw.phys (count_frame m b i w n) :)
@[simp] theorem count_ferries (m : Hw) (b i w n : Nat) : (m.count b i w n).ferries = m.ferries := (congrArg Hw.ferries (count_frame m b i w n) :)
@[simp] theorem count_links (m : Hw) (b i w n : Nat) : (m.count b i w n).links = m.links := (congrArg Hw.links (count_frame m b i w n) :)
@[simp] theorem count_engines (m : Hw) (b i w n : Nat) : (m.count b i w n).engines = m.engines := (congrArg Hw.engines (count_frame m b i w n) :)
@[simp] theorem count_parts (m : Hw) (b i w n : Nat) : (m.count b i w n).parts = m.parts := (congrArg Hw.parts (count_frame m b i w n) :)
@[simp] theorem count_ports (m : Hw) (b i w n : Nat) : (m.count b i w n).ports = m.ports := (congrArg Hw.ports (count_frame m b i w n) :)
@[simp] theorem count_flows (m : Hw) (b i w n : Nat) : (m.count b i w n).flows = m.flows := (congrArg Hw.flows (count_frame m b i w n) :)
@[simp] theorem count_early (m : Hw) (b i w n : Nat) : (m.count b i w n).early = m.early := (congrArg Hw.early (count_frame m b i w n) :)
@[simp] theorem count_quars (m : Hw) (b i w n : Nat) : (m.count b i w n).quars = m.quars := (congrArg Hw.quars (count_frame m b i w n) :)
@[simp] theorem count_streams (m : Hw) (b i w n : Nat) : (m.count b i w n).streams = m.streams := (congrArg Hw.streams (count_frame m b i w n) :)
@[simp] theorem count_jobs (m : Hw) (b i w n : Nat) : (m.count b i w n).jobs = m.jobs := (congrArg Hw.jobs (count_frame m b i w n) :)
@[simp] theorem count_moduleRing (m : Hw) (b i w n : Nat) : (m.count b i w n).moduleRing = m.moduleRing := (congrArg Hw.moduleRing (count_frame m b i w n) :)
@[simp] theorem count_power (m : Hw) (b i w n : Nat) : (m.count b i w n).power = m.power := (congrArg Hw.power (count_frame m b i w n) :)
@[simp] theorem count_snap (m : Hw) (b i w n : Nat) : (m.count b i w n).snap = m.snap := (congrArg Hw.snap (count_frame m b i w n) :)
@[simp] theorem count_ram (m : Hw) (b i w n : Nat) : (m.count b i w n).mem.ram = m.mem.ram := by
  simp only [Hw.count]; split <;> simp
@[simp] theorem count_marks (m : Hw) (b i w n : Nat) : (m.count b i w n).mem.marks = m.mem.marks := by
  simp only [Hw.count]; split <;> simp

/-- All that `logErrorAt` may change: ctxs, mem, host, counters, island. -/
theorem logErrorAt_frame (m : Hw) (t code : Nat) (ctx : Option Nat) (recov : Bool) (loc aux : Nat) : { m.logErrorAt t code ctx recov loc aux with ctxs := m.ctxs, mem := m.mem, host := m.host, counters := m.counters, island := m.island } = m := by
  exact congrArg (fun t : Hw => { t with island := m.island }) (count_frame _ 1 0 5 _)

@[simp] theorem logErrorAt_boot (m : Hw) (t code : Nat) (ctx : Option Nat) (recov : Bool) (loc aux : Nat) : (m.logErrorAt t code ctx recov loc aux).boot = m.boot := (congrArg Hw.boot (logErrorAt_frame m t code ctx recov loc aux) :)
@[simp] theorem logErrorAt_fuses (m : Hw) (t code : Nat) (ctx : Option Nat) (recov : Bool) (loc aux : Nat) : (m.logErrorAt t code ctx recov loc aux).fuses = m.fuses := (congrArg Hw.fuses (logErrorAt_frame m t code ctx recov loc aux) :)
@[simp] theorem logErrorAt_flash (m : Hw) (t code : Nat) (ctx : Option Nat) (recov : Bool) (loc aux : Nat) : (m.logErrorAt t code ctx recov loc aux).flash = m.flash := (congrArg Hw.flash (logErrorAt_frame m t code ctx recov loc aux) :)
@[simp] theorem logErrorAt_quay (m : Hw) (t code : Nat) (ctx : Option Nat) (recov : Bool) (loc aux : Nat) : (m.logErrorAt t code ctx recov loc aux).quay = m.quay := (congrArg Hw.quay (logErrorAt_frame m t code ctx recov loc aux) :)
@[simp] theorem logErrorAt_espor (m : Hw) (t code : Nat) (ctx : Option Nat) (recov : Bool) (loc aux : Nat) : (m.logErrorAt t code ctx recov loc aux).espor = m.espor := (congrArg Hw.espor (logErrorAt_frame m t code ctx recov loc aux) :)
@[simp] theorem logErrorAt_plans (m : Hw) (t code : Nat) (ctx : Option Nat) (recov : Bool) (loc aux : Nat) : (m.logErrorAt t code ctx recov loc aux).plans = m.plans := (congrArg Hw.plans (logErrorAt_frame m t code ctx recov loc aux) :)
@[simp] theorem logErrorAt_queues (m : Hw) (t code : Nat) (ctx : Option Nat) (recov : Bool) (loc aux : Nat) : (m.logErrorAt t code ctx recov loc aux).queues = m.queues := (congrArg Hw.queues (logErrorAt_frame m t code ctx recov loc aux) :)
@[simp] theorem logErrorAt_cores (m : Hw) (t code : Nat) (ctx : Option Nat) (recov : Bool) (loc aux : Nat) : (m.logErrorAt t code ctx recov loc aux).cores = m.cores := (congrArg Hw.cores (logErrorAt_frame m t code ctx recov loc aux) :)
@[simp] theorem logErrorAt_saves (m : Hw) (t code : Nat) (ctx : Option Nat) (recov : Bool) (loc aux : Nat) : (m.logErrorAt t code ctx recov loc aux).saves = m.saves := (congrArg Hw.saves (logErrorAt_frame m t code ctx recov loc aux) :)
@[simp] theorem logErrorAt_loads (m : Hw) (t code : Nat) (ctx : Option Nat) (recov : Bool) (loc aux : Nat) : (m.logErrorAt t code ctx recov loc aux).loads = m.loads := (congrArg Hw.loads (logErrorAt_frame m t code ctx recov loc aux) :)
@[simp] theorem logErrorAt_phys (m : Hw) (t code : Nat) (ctx : Option Nat) (recov : Bool) (loc aux : Nat) : (m.logErrorAt t code ctx recov loc aux).phys = m.phys := (congrArg Hw.phys (logErrorAt_frame m t code ctx recov loc aux) :)
@[simp] theorem logErrorAt_ferries (m : Hw) (t code : Nat) (ctx : Option Nat) (recov : Bool) (loc aux : Nat) : (m.logErrorAt t code ctx recov loc aux).ferries = m.ferries := (congrArg Hw.ferries (logErrorAt_frame m t code ctx recov loc aux) :)
@[simp] theorem logErrorAt_links (m : Hw) (t code : Nat) (ctx : Option Nat) (recov : Bool) (loc aux : Nat) : (m.logErrorAt t code ctx recov loc aux).links = m.links := (congrArg Hw.links (logErrorAt_frame m t code ctx recov loc aux) :)
@[simp] theorem logErrorAt_engines (m : Hw) (t code : Nat) (ctx : Option Nat) (recov : Bool) (loc aux : Nat) : (m.logErrorAt t code ctx recov loc aux).engines = m.engines := (congrArg Hw.engines (logErrorAt_frame m t code ctx recov loc aux) :)
@[simp] theorem logErrorAt_parts (m : Hw) (t code : Nat) (ctx : Option Nat) (recov : Bool) (loc aux : Nat) : (m.logErrorAt t code ctx recov loc aux).parts = m.parts := (congrArg Hw.parts (logErrorAt_frame m t code ctx recov loc aux) :)
@[simp] theorem logErrorAt_ports (m : Hw) (t code : Nat) (ctx : Option Nat) (recov : Bool) (loc aux : Nat) : (m.logErrorAt t code ctx recov loc aux).ports = m.ports := (congrArg Hw.ports (logErrorAt_frame m t code ctx recov loc aux) :)
@[simp] theorem logErrorAt_flows (m : Hw) (t code : Nat) (ctx : Option Nat) (recov : Bool) (loc aux : Nat) : (m.logErrorAt t code ctx recov loc aux).flows = m.flows := (congrArg Hw.flows (logErrorAt_frame m t code ctx recov loc aux) :)
@[simp] theorem logErrorAt_early (m : Hw) (t code : Nat) (ctx : Option Nat) (recov : Bool) (loc aux : Nat) : (m.logErrorAt t code ctx recov loc aux).early = m.early := (congrArg Hw.early (logErrorAt_frame m t code ctx recov loc aux) :)
@[simp] theorem logErrorAt_quars (m : Hw) (t code : Nat) (ctx : Option Nat) (recov : Bool) (loc aux : Nat) : (m.logErrorAt t code ctx recov loc aux).quars = m.quars := (congrArg Hw.quars (logErrorAt_frame m t code ctx recov loc aux) :)
@[simp] theorem logErrorAt_streams (m : Hw) (t code : Nat) (ctx : Option Nat) (recov : Bool) (loc aux : Nat) : (m.logErrorAt t code ctx recov loc aux).streams = m.streams := (congrArg Hw.streams (logErrorAt_frame m t code ctx recov loc aux) :)
@[simp] theorem logErrorAt_jobs (m : Hw) (t code : Nat) (ctx : Option Nat) (recov : Bool) (loc aux : Nat) : (m.logErrorAt t code ctx recov loc aux).jobs = m.jobs := (congrArg Hw.jobs (logErrorAt_frame m t code ctx recov loc aux) :)
@[simp] theorem logErrorAt_moduleRing (m : Hw) (t code : Nat) (ctx : Option Nat) (recov : Bool) (loc aux : Nat) : (m.logErrorAt t code ctx recov loc aux).moduleRing = m.moduleRing := (congrArg Hw.moduleRing (logErrorAt_frame m t code ctx recov loc aux) :)
@[simp] theorem logErrorAt_power (m : Hw) (t code : Nat) (ctx : Option Nat) (recov : Bool) (loc aux : Nat) : (m.logErrorAt t code ctx recov loc aux).power = m.power := (congrArg Hw.power (logErrorAt_frame m t code ctx recov loc aux) :)
@[simp] theorem logErrorAt_snap (m : Hw) (t code : Nat) (ctx : Option Nat) (recov : Bool) (loc aux : Nat) : (m.logErrorAt t code ctx recov loc aux).snap = m.snap := (congrArg Hw.snap (logErrorAt_frame m t code ctx recov loc aux) :)
@[simp] theorem logErrorAt_ram (m : Hw) (t code : Nat) (ctx : Option Nat) (recov : Bool) (loc aux : Nat) : (m.logErrorAt t code ctx recov loc aux).mem.ram = m.mem.ram := by
  simp [Hw.logErrorAt]
@[simp] theorem logErrorAt_marks (m : Hw) (t code : Nat) (ctx : Option Nat) (recov : Bool) (loc aux : Nat) : (m.logErrorAt t code ctx recov loc aux).mem.marks = m.mem.marks := by
  simp [Hw.logErrorAt]

/-- All that `event` may change: ctxs, mem, host, counters, island. -/
theorem event_frame (m : Hw) (code : Nat) (ctx : Option Nat) (p : List (Nat × Nat)) : { m.event code ctx p with ctxs := m.ctxs, mem := m.mem, host := m.host, counters := m.counters, island := m.island } = m := by
  simp only [Hw.event, Hw.eventAux, Hw.eventAs, Hw.logError]; split
  · exact (congrArg (fun t : Hw => { t with ctxs := m.ctxs, mem := m.mem, host := m.host, counters := m.counters, island := m.island })
      (logErrorAt_frame (m.toRing code ctx (packFields p)) _ code ctx _ _ _)).trans
      (congrArg (fun t : Hw => { t with island := m.island }) (toRing_frame m code ctx _))
  · exact congrArg (fun t : Hw => { t with island := m.island }) (toRing_frame m code ctx _)

@[simp] theorem event_boot (m : Hw) (code : Nat) (ctx : Option Nat) (p : List (Nat × Nat)) : (m.event code ctx p).boot = m.boot := (congrArg Hw.boot (event_frame m code ctx p) :)
@[simp] theorem event_fuses (m : Hw) (code : Nat) (ctx : Option Nat) (p : List (Nat × Nat)) : (m.event code ctx p).fuses = m.fuses := (congrArg Hw.fuses (event_frame m code ctx p) :)
@[simp] theorem event_flash (m : Hw) (code : Nat) (ctx : Option Nat) (p : List (Nat × Nat)) : (m.event code ctx p).flash = m.flash := (congrArg Hw.flash (event_frame m code ctx p) :)
@[simp] theorem event_quay (m : Hw) (code : Nat) (ctx : Option Nat) (p : List (Nat × Nat)) : (m.event code ctx p).quay = m.quay := (congrArg Hw.quay (event_frame m code ctx p) :)
@[simp] theorem event_espor (m : Hw) (code : Nat) (ctx : Option Nat) (p : List (Nat × Nat)) : (m.event code ctx p).espor = m.espor := (congrArg Hw.espor (event_frame m code ctx p) :)
@[simp] theorem event_plans (m : Hw) (code : Nat) (ctx : Option Nat) (p : List (Nat × Nat)) : (m.event code ctx p).plans = m.plans := (congrArg Hw.plans (event_frame m code ctx p) :)
@[simp] theorem event_queues (m : Hw) (code : Nat) (ctx : Option Nat) (p : List (Nat × Nat)) : (m.event code ctx p).queues = m.queues := (congrArg Hw.queues (event_frame m code ctx p) :)
@[simp] theorem event_cores (m : Hw) (code : Nat) (ctx : Option Nat) (p : List (Nat × Nat)) : (m.event code ctx p).cores = m.cores := (congrArg Hw.cores (event_frame m code ctx p) :)
@[simp] theorem event_saves (m : Hw) (code : Nat) (ctx : Option Nat) (p : List (Nat × Nat)) : (m.event code ctx p).saves = m.saves := (congrArg Hw.saves (event_frame m code ctx p) :)
@[simp] theorem event_loads (m : Hw) (code : Nat) (ctx : Option Nat) (p : List (Nat × Nat)) : (m.event code ctx p).loads = m.loads := (congrArg Hw.loads (event_frame m code ctx p) :)
@[simp] theorem event_phys (m : Hw) (code : Nat) (ctx : Option Nat) (p : List (Nat × Nat)) : (m.event code ctx p).phys = m.phys := (congrArg Hw.phys (event_frame m code ctx p) :)
@[simp] theorem event_ferries (m : Hw) (code : Nat) (ctx : Option Nat) (p : List (Nat × Nat)) : (m.event code ctx p).ferries = m.ferries := (congrArg Hw.ferries (event_frame m code ctx p) :)
@[simp] theorem event_links (m : Hw) (code : Nat) (ctx : Option Nat) (p : List (Nat × Nat)) : (m.event code ctx p).links = m.links := (congrArg Hw.links (event_frame m code ctx p) :)
@[simp] theorem event_engines (m : Hw) (code : Nat) (ctx : Option Nat) (p : List (Nat × Nat)) : (m.event code ctx p).engines = m.engines := (congrArg Hw.engines (event_frame m code ctx p) :)
@[simp] theorem event_parts (m : Hw) (code : Nat) (ctx : Option Nat) (p : List (Nat × Nat)) : (m.event code ctx p).parts = m.parts := (congrArg Hw.parts (event_frame m code ctx p) :)
@[simp] theorem event_ports (m : Hw) (code : Nat) (ctx : Option Nat) (p : List (Nat × Nat)) : (m.event code ctx p).ports = m.ports := (congrArg Hw.ports (event_frame m code ctx p) :)
@[simp] theorem event_flows (m : Hw) (code : Nat) (ctx : Option Nat) (p : List (Nat × Nat)) : (m.event code ctx p).flows = m.flows := (congrArg Hw.flows (event_frame m code ctx p) :)
@[simp] theorem event_early (m : Hw) (code : Nat) (ctx : Option Nat) (p : List (Nat × Nat)) : (m.event code ctx p).early = m.early := (congrArg Hw.early (event_frame m code ctx p) :)
@[simp] theorem event_quars (m : Hw) (code : Nat) (ctx : Option Nat) (p : List (Nat × Nat)) : (m.event code ctx p).quars = m.quars := (congrArg Hw.quars (event_frame m code ctx p) :)
@[simp] theorem event_streams (m : Hw) (code : Nat) (ctx : Option Nat) (p : List (Nat × Nat)) : (m.event code ctx p).streams = m.streams := (congrArg Hw.streams (event_frame m code ctx p) :)
@[simp] theorem event_jobs (m : Hw) (code : Nat) (ctx : Option Nat) (p : List (Nat × Nat)) : (m.event code ctx p).jobs = m.jobs := (congrArg Hw.jobs (event_frame m code ctx p) :)
@[simp] theorem event_moduleRing (m : Hw) (code : Nat) (ctx : Option Nat) (p : List (Nat × Nat)) : (m.event code ctx p).moduleRing = m.moduleRing := (congrArg Hw.moduleRing (event_frame m code ctx p) :)
@[simp] theorem event_power (m : Hw) (code : Nat) (ctx : Option Nat) (p : List (Nat × Nat)) : (m.event code ctx p).power = m.power := (congrArg Hw.power (event_frame m code ctx p) :)
@[simp] theorem event_snap (m : Hw) (code : Nat) (ctx : Option Nat) (p : List (Nat × Nat)) : (m.event code ctx p).snap = m.snap := (congrArg Hw.snap (event_frame m code ctx p) :)
@[simp] theorem event_ram (m : Hw) (code : Nat) (ctx : Option Nat) (p : List (Nat × Nat)) : (m.event code ctx p).mem.ram = m.mem.ram := by
  simp only [Hw.event, Hw.eventAux, Hw.eventAs, Hw.logError]; split <;> simp
@[simp] theorem event_marks (m : Hw) (code : Nat) (ctx : Option Nat) (p : List (Nat × Nat)) : (m.event code ctx p).mem.marks = m.mem.marks := by
  simp only [Hw.event, Hw.eventAux, Hw.eventAs, Hw.logError]; split <;> simp

/-- All that `answer` may change: espor, host. -/
theorem answer_frame (m : Hw) (n : Nat) (d : Bool) (st dt : Nat) (out : List Byte) : { m.answer n d st dt out with espor := m.espor, host := m.host } = m := by
  rfl

@[simp] theorem answer_boot (m : Hw) (n : Nat) (d : Bool) (st dt : Nat) (out : List Byte) : (m.answer n d st dt out).boot = m.boot := (congrArg Hw.boot (answer_frame m n d st dt out) :)
@[simp] theorem answer_fuses (m : Hw) (n : Nat) (d : Bool) (st dt : Nat) (out : List Byte) : (m.answer n d st dt out).fuses = m.fuses := (congrArg Hw.fuses (answer_frame m n d st dt out) :)
@[simp] theorem answer_flash (m : Hw) (n : Nat) (d : Bool) (st dt : Nat) (out : List Byte) : (m.answer n d st dt out).flash = m.flash := (congrArg Hw.flash (answer_frame m n d st dt out) :)
@[simp] theorem answer_island (m : Hw) (n : Nat) (d : Bool) (st dt : Nat) (out : List Byte) : (m.answer n d st dt out).island = m.island := (congrArg Hw.island (answer_frame m n d st dt out) :)
@[simp] theorem answer_quay (m : Hw) (n : Nat) (d : Bool) (st dt : Nat) (out : List Byte) : (m.answer n d st dt out).quay = m.quay := (congrArg Hw.quay (answer_frame m n d st dt out) :)
@[simp] theorem answer_ctxs (m : Hw) (n : Nat) (d : Bool) (st dt : Nat) (out : List Byte) : (m.answer n d st dt out).ctxs = m.ctxs := (congrArg Hw.ctxs (answer_frame m n d st dt out) :)
@[simp] theorem answer_plans (m : Hw) (n : Nat) (d : Bool) (st dt : Nat) (out : List Byte) : (m.answer n d st dt out).plans = m.plans := (congrArg Hw.plans (answer_frame m n d st dt out) :)
@[simp] theorem answer_queues (m : Hw) (n : Nat) (d : Bool) (st dt : Nat) (out : List Byte) : (m.answer n d st dt out).queues = m.queues := (congrArg Hw.queues (answer_frame m n d st dt out) :)
@[simp] theorem answer_cores (m : Hw) (n : Nat) (d : Bool) (st dt : Nat) (out : List Byte) : (m.answer n d st dt out).cores = m.cores := (congrArg Hw.cores (answer_frame m n d st dt out) :)
@[simp] theorem answer_saves (m : Hw) (n : Nat) (d : Bool) (st dt : Nat) (out : List Byte) : (m.answer n d st dt out).saves = m.saves := (congrArg Hw.saves (answer_frame m n d st dt out) :)
@[simp] theorem answer_loads (m : Hw) (n : Nat) (d : Bool) (st dt : Nat) (out : List Byte) : (m.answer n d st dt out).loads = m.loads := (congrArg Hw.loads (answer_frame m n d st dt out) :)
@[simp] theorem answer_phys (m : Hw) (n : Nat) (d : Bool) (st dt : Nat) (out : List Byte) : (m.answer n d st dt out).phys = m.phys := (congrArg Hw.phys (answer_frame m n d st dt out) :)
@[simp] theorem answer_ferries (m : Hw) (n : Nat) (d : Bool) (st dt : Nat) (out : List Byte) : (m.answer n d st dt out).ferries = m.ferries := (congrArg Hw.ferries (answer_frame m n d st dt out) :)
@[simp] theorem answer_links (m : Hw) (n : Nat) (d : Bool) (st dt : Nat) (out : List Byte) : (m.answer n d st dt out).links = m.links := (congrArg Hw.links (answer_frame m n d st dt out) :)
@[simp] theorem answer_engines (m : Hw) (n : Nat) (d : Bool) (st dt : Nat) (out : List Byte) : (m.answer n d st dt out).engines = m.engines := (congrArg Hw.engines (answer_frame m n d st dt out) :)
@[simp] theorem answer_parts (m : Hw) (n : Nat) (d : Bool) (st dt : Nat) (out : List Byte) : (m.answer n d st dt out).parts = m.parts := (congrArg Hw.parts (answer_frame m n d st dt out) :)
@[simp] theorem answer_ports (m : Hw) (n : Nat) (d : Bool) (st dt : Nat) (out : List Byte) : (m.answer n d st dt out).ports = m.ports := (congrArg Hw.ports (answer_frame m n d st dt out) :)
@[simp] theorem answer_flows (m : Hw) (n : Nat) (d : Bool) (st dt : Nat) (out : List Byte) : (m.answer n d st dt out).flows = m.flows := (congrArg Hw.flows (answer_frame m n d st dt out) :)
@[simp] theorem answer_early (m : Hw) (n : Nat) (d : Bool) (st dt : Nat) (out : List Byte) : (m.answer n d st dt out).early = m.early := (congrArg Hw.early (answer_frame m n d st dt out) :)
@[simp] theorem answer_quars (m : Hw) (n : Nat) (d : Bool) (st dt : Nat) (out : List Byte) : (m.answer n d st dt out).quars = m.quars := (congrArg Hw.quars (answer_frame m n d st dt out) :)
@[simp] theorem answer_streams (m : Hw) (n : Nat) (d : Bool) (st dt : Nat) (out : List Byte) : (m.answer n d st dt out).streams = m.streams := (congrArg Hw.streams (answer_frame m n d st dt out) :)
@[simp] theorem answer_jobs (m : Hw) (n : Nat) (d : Bool) (st dt : Nat) (out : List Byte) : (m.answer n d st dt out).jobs = m.jobs := (congrArg Hw.jobs (answer_frame m n d st dt out) :)
@[simp] theorem answer_moduleRing (m : Hw) (n : Nat) (d : Bool) (st dt : Nat) (out : List Byte) : (m.answer n d st dt out).moduleRing = m.moduleRing := (congrArg Hw.moduleRing (answer_frame m n d st dt out) :)
@[simp] theorem answer_power (m : Hw) (n : Nat) (d : Bool) (st dt : Nat) (out : List Byte) : (m.answer n d st dt out).power = m.power := (congrArg Hw.power (answer_frame m n d st dt out) :)
@[simp] theorem answer_counters (m : Hw) (n : Nat) (d : Bool) (st dt : Nat) (out : List Byte) : (m.answer n d st dt out).counters = m.counters := (congrArg Hw.counters (answer_frame m n d st dt out) :)
@[simp] theorem answer_snap (m : Hw) (n : Nat) (d : Bool) (st dt : Nat) (out : List Byte) : (m.answer n d st dt out).snap = m.snap := (congrArg Hw.snap (answer_frame m n d st dt out) :)
@[simp] theorem answer_mem (m : Hw) (n : Nat) (d : Bool) (st dt : Nat) (out : List Byte) : (m.answer n d st dt out).mem = m.mem := (congrArg Hw.mem (answer_frame m n d st dt out) :)

/-- One response at a time: the other pairs keep theirs. -/
theorem answer_pair_ne (m : Hw) {n k : Nat} (d : Bool) (st dt : Nat) (out : List Byte) (h : k ≠ n) :
    (m.answer n d st dt out).espor.pair k = m.espor.pair k := by
  simp [Hw.answer, Hw.notify, Espor.pair, mgetD, mget_mset_ne _ _ h]

/-- Serving a pair: not at all, a refusal, or the effect with its answer. -/
theorem serve_cases (m : Hw) (n : Nat) (c : CmdSpec) (f : Pair → Reply) :
    (m.maybeServed n c.code = false ∧ m.serve n c f = m) ∨
    (m.maybeServed n c.code = true ∧
      ((∃ code d, m.serve n c f = m.answer n false code d [] ∧
          (m.headCheck (m.espor.pair n) c = some (code, d) ∨ f (m.espor.pair n) = .refuse code d)) ∨
       (m.headCheck (m.espor.pair n) c = none ∧ ∃ t out, f (m.espor.pair n) = .done t out ∧
          m.serve n c f = t.answer n false 0 0 out) ∨
       (m.headCheck (m.espor.pair n) c = none ∧ ∃ t, f (m.espor.pair n) = .defer t ∧
          m.serve n c f = t.answer n true 0 0 []))) := by
  unfold Hw.serve
  split
  · rename_i h
    refine .inr ⟨h, ?_⟩
    dsimp only
    split
    · rename_i e he
      exact .inl ⟨_, _, rfl, .inl he⟩
    · rename_i he
      split
      · rename_i code d hf
        exact .inl ⟨_, _, rfl, .inr hf⟩
      · rename_i t out hf
        exact .inr (.inl ⟨he, t, out, hf, rfl⟩)
      · rename_i t hf
        exact .inr (.inr ⟨he, t, hf, rfl⟩)
  · rename_i h
    exact .inl ⟨by simpa using h, rfl⟩

/-- Starting an op: nothing where the thread may start none of its kind, else its record, the requests and what follows. -/
theorem startWith_cases (m : Hw) (core thread : Nat) (kind : Env → Bool) (body : Env → Body) (cond : Env → Cond)
    (f : Env → OpRec → OpRec) (after : Env → Hw → Hw) :
    m.startWith core thread kind body cond f after = m ∨
    ∃ e, m.startable core thread = some e ∧ kind e = true ∧ m.startWith core thread kind body cond f after =
      after e (((e.noted m).updCore core fun c => c.begin e m.now (m.cyc core) (body e) (cond e) (f e)).settle core
        (m.core core).nextOp) := by
  unfold Hw.startWith
  split
  · exact .inl rfl
  · rename_i e he
    split
    · rename_i hk
      exact .inr ⟨e, he, hk, rfl⟩
    · exact .inl rfl

/-- A command on the module answers a next state with the queue as it was. -/
@[simp] theorem onHw_next (f : Hw → Hw) (s : State) : onHw f s = .next { s with m := f s.m } := rfl

end Sys2Proof
end

