-- ==== Sys2Proof/WellFormed.lean ====
section
/-! DEFINITION. Well-formed commands: each operand names something of the range the spec gives its kind (cores 01 R12,
threads 02 R33, bollards 02 R59, contexts 15 R386, links 18 R458, pairs 14 R363, queues 13 R357, vectors 13 R347).
A command that is not well formed names nothing the module has. -/

namespace Sys2Proof

def lt (n lim : Nat) : Bool := decide (n < lim)

def len (l : List Byte) (n : Nat) : Bool := decide (l.length = n)

/-- A read back names codewords of a granule and symbols of a codeword (06 R164). -/
def ReadBack.wf (rb : ReadBack) : Bool := rb.words.all fun w => lt w.word 32 && w.errs.all fun e => lt e.1 36

def ReadEnd.wf : ReadEnd → Bool
  | .answered rb => rb.wf
  | .late => true

/-- A received frame of 64 to 9,216 bytes (12 R307). -/
def EthFrame.wf : EthFrame → Bool
  | .badFcs => true
  | .other n => decide (64 ≤ n) && decide (n ≤ 9216)
  | .rtp n _ ends => decide (64 ≤ n) && decide (n ≤ 9216) && ends.all ReadEnd.wf

def Instr.wf : Instr → Bool
  | .matmul core thread => lt core 256 && lt thread 4
  | .marshallingStage core thread => lt core 256 && lt thread 4
  | .marshallingDeadline core thread => lt core 256 && lt thread 4
  | .matvec core thread => lt core 256 && lt thread 4
  | .conv core thread => lt core 256 && lt thread 4
  | .convArgmax core thread => lt core 256 && lt thread 4
  | .cropresize core thread => lt core 256 && lt thread 4
  | .attnMatFwd core thread => lt core 256 && lt thread 4
  | .attnMatBwd core thread => lt core 256 && lt thread 4
  | .attnStream core thread => lt core 256 && lt thread 4
  | .chainProduct core thread => lt core 256 && lt thread 4
  | .recurStep core thread => lt core 256 && lt thread 4
  | .stateXferExport core thread => lt core 256 && lt thread 4
  | .stateXferImport core thread => lt core 256 && lt thread 4
  | .stateXferZero core thread => lt core 256 && lt thread 4
  | .elemwise core thread => lt core 256 && lt thread 4
  | .normApply core thread => lt core 256 && lt thread 4
  | .move core thread => lt core 256 && lt thread 4
  | .gather core thread => lt core 256 && lt thread 4
  | .prefetch core thread => lt core 256 && lt thread 4
  | .signalAdd core thread => lt core 256 && lt thread 4
  | .signalSet core thread => lt core 256 && lt thread 4
  | .signalHost core thread => lt core 256 && lt thread 4
  | .wait core thread => lt core 256 && lt thread 4
  | .tideWait core thread => lt core 256 && lt thread 4
  | .tideWaitTarget core thread => lt core 256 && lt thread 4
  | .ferrySend core thread => lt core 256 && lt thread 4
  | .ferrySendReturn core thread => lt core 256 && lt thread 4
  | .ferryCombine core thread => lt core 256 && lt thread 4
  | .forkSeq core thread => lt core 256 && lt thread 4
  | .sealPageAppend core thread => lt core 256 && lt thread 4
  | .sealPageSeal core thread => lt core 256 && lt thread 4
  | .sealPageRelease core thread => lt core 256 && lt thread 4
  | .nop core thread => lt core 256 && lt thread 4
  | .opComplete core thread => lt core 256 && lt thread 4
  | .descriptorRunAheadFetch core run => lt core 256 && lt run.thread 4 && run.ends.all ReadEnd.wf
  | .requestIssue core => lt core 256
  | .requestComplete core _ rb => lt core 256 && rb.wf
  | .lateResponseBound core _ => lt core 256
  | .lateArrival core _ => lt core 257
  | .contextFaultStop ctx => lt ctx 1024
  | .tlbWalk core thread va ends => lt core 256 && lt thread 4 && lt va (2 ^ 57) && ends.all ReadEnd.wf
  | .bollardUpdate core bol => lt core 256 && lt bol 64
  | .waitBoundExpiry core thread => lt core 256 && lt thread 4
  | .residueMismatch core thread at_ => lt core 256 && lt thread 4 && lt at_.array 11 && (!at_.pontoon || lt at_.array 8)
  | .holdError core err => lt core 256 && (match err.thread with | none => true | some t => lt t 4)
  | .coreFaultHandling core => lt core 256
  | .rollback ctx => lt ctx 1024
  | .standbyRefill part quarter => lt part 8 && lt quarter 4
  | .functionSetSwap core => lt core 256
  | .routeTableSwap core => lt core 256
  | .ferryArrival src dst land => lt src 256 && lt dst 256 && lt land 16
  | .returnArrival src dst => lt src 256 && lt dst 256
  | .creditReturn src dst land => lt src 256 && lt dst 256 && lt land 16
  | .batchEmission core land => lt core 256 && lt land 16
  | .flushDl core land => lt core 256 && lt land 16
  | .stallNotice core => lt core 256
  | .flitRetry link => lt link 16
  | .laneReplacement link lane => lt link 16 && lt lane 72
  | .linkRetirement link => lt link 16
  | .halfLinkRetirement quarter half => lt quarter 4 && lt half 2
  | .migrationGranuleMove quarter run => lt quarter 4 && lt run.slot 16 && run.rb.wf
  | .migrationStepLate quarter slot => lt quarter 4 && lt slot 16
  | .migrationEnd quarter slot => lt quarter 4 && lt slot 16
  | .patrolScrub quarter tier word rb => lt quarter 4 && lt tier 2 && lt word (2 ^ 36) && rb.wf
  | .schedulingDecision => true
  | .quantumExpiry ctx => lt ctx 1024
  | .switchOut ctx => lt ctx 1024
  | .switchIn ctx => lt ctx 1024
  | .submitEntryTake queue entry => lt queue 256 && len entry 64
  | .runEnd plan => lt plan 65536
  | .energyApportionment _ _ => true
  | .ethernetFrameReceive port frame => lt port 4 && frame.wf
  | .frameDl run => lt run.no 512 && run.ends.all ReadEnd.wf
  | .senderLockRelease entry => lt entry 65536
  | .ptpMessage port _ => lt port 4
  | .announceTimeout => true
  | .controlProtocolMessage port frame => lt port 4 && (match frame.vlan with | none => true | some v => lt v 4096)
  | .portLinkStateChange port _ => lt port 4
  | .tideTick => true
  | .intakeEntryFetch job run => lt job 64 && len run.entry 64 && run.ends.all ReadEnd.wf
  | .decodeStart job _ run => lt job 64 && run.ends.all ReadEnd.wf
  | .decodeComplete job _ done => lt job 64 && done.ends.all ReadEnd.wf
  | .tensorizerWrite job run => lt job 64 && run.ends.all ReadEnd.wf
  | .batchDl run => lt run.no 64 && run.ends.all ReadEnd.wf
  | .releaseWordPoll run => lt run.no 64 && run.ends.all ReadEnd.wf
  | .decoderOccupancySample job _ => lt job 64
  | .encodeFrame job _ _ ends => lt job 64 && ends.all ReadEnd.wf
  | .guideDl job _ _ => lt job 64
  | .snapshotTick => true
  | .snapshotPublication => true
  | .fwBeat => true
  | .fwDead => true
  | .capstanAdmission => true
  | .wakeBoundExpiry => true
  | .powerCapEvaluation _ => true
  | .powerLimitNotMet => true
  | .brownWarning _ _ => true
  | .brownWarningClear _ _ => true
  | .recoveryTimer => true
  | .inputUndervoltageStop _ => true
  | .orderlyStopComplete => true
  | .inputOvervoltageWarning _ => true
  | .inputOvervoltageClear _ => true
  | .inputOvervoltageStop _ => true
  | .inputPowerLoss => true
  | .bus48Throttle _ _ => true
  | .bus48Clear _ _ => true
  | .bus48Stop _ => true
  | .rail12Stop _ => true
  | .conversionUnitLoss group unit => lt group 5 && lt unit 64
  | .quarterThermalThrottle quarter temp => lt quarter 4 && lt temp 1024
  | .thermalLimitStep quarter temp => lt quarter 4 && lt temp 1024
  | .thermalRecovery quarter temp => lt quarter 4 && lt temp 1024
  | .coolantInletLimit temp => lt temp 1024
  | .coolantInletClear temp => lt temp 1024
  | .criticalTemperature site temp => lt site 5 && lt temp 1024
  | .anchorWake _ => true
  | .wakeComplete => true
  | .holdEntryComplete => true
  | .automaticReset _ => true
  | .powerOnReset _ => true
  | .trialImageTimeout _ => true
  | .functionLevelReset => true
  | .hotReset => true
  | .linkDown => true
  | .pcieLinkTraining speed width => lt speed 7 && lt width 17
  | .bar2Read _ read => read.len ≤ 4096 && read.ends.all ReadEnd.wf
  | .bar2Write _ bytes store => decide (bytes.length ≤ 4096) && store.ends.all ReadEnd.wf
  | .quayRefusedAccess _ _ _ => true
  | .registerWrite _ _ => true
  | .qwCauseWrite _ => true
  | .qwCauseEnWrite _ => true
  | .qwHosterrRead => true
  | .intakeTailWrite ring _ => lt ring 64
  | .submitTailWrite queue _ => lt queue 256
  | .eventHeadWrite ctx _ => lt ctx 1024
  | .bollardDoorbellAdd core _ => lt core 256
  | .bollardDoorbellSet core _ => lt core 256
  | .qwResetWarm _ _ => true
  | .qwResetCold _ _ => true
  | .msixVectorUnmask vec => lt vec 64
  | .msixHoldoffExpiry vec => lt vec 64
  | .ctxCreate pair _ _ => lt pair 64
  | .ctxDestroy pair => lt pair 64
  | .ctxSet pair => lt pair 64
  | .ctxFaults pair => lt pair 64
  | .planEnable pair _ => lt pair 64
  | .planDisable pair => lt pair 64
  | .fsetLoad run => lt run.pair 64
  | .routeLoad run => lt run.pair 64
  | .subqCreate run queue => lt run.pair 64 && lt queue 256
  | .subqDestroy pair => lt pair 64
  | .map pair _ => lt pair 64
  | .unmap pair => lt pair 64
  | .mapAttr pair => lt pair 64
  | .migrate pair => lt pair 64
  | .retireFrame pair => lt pair 64
  | .retireUnit pair => lt pair 64
  | .scrubCfg pair => lt pair 64
  | .aperture pair => lt pair 64
  | .seqTable pair => lt pair 64
  | .seqDefine pair => lt pair 64
  | .seqRelease pair => lt pair 64
  | .portCfg pair => lt pair 64
  | .flowWrite pair => lt pair 64
  | .streamEnable pair => lt pair 64
  | .streamDisable pair => lt pair 64
  | .quarClear pair => lt pair 64
  | .jobEnable pair job _ => lt pair 64 && lt job 64
  | .jobDisable pair => lt pair 64
  | .quarList pair => lt pair 64
  | .partCreate pair => lt pair 64
  | .partDestroy pair => lt pair 64
  | .pstate pair => lt pair 64
  | .powerLimit pair => lt pair 64
  | .tideCfg pair => lt pair 64
  | .capstanCfg pair => lt pair 64
  | .healthRead pair => lt pair 64
  | .fwStage pair _ => lt pair 64
  | .topoAccept pair => lt pair 64
  | .healthClear pair => lt pair 64
  | .errlogRead pair => lt pair 64
  | .evringCreate run => lt run.pair 64
  | .evringDestroy pair => lt pair 64
  | .intrBind pair => lt pair 64
  | .snapArm pair => lt pair 64
  | .snapCancel pair => lt pair 64
  | .echo pair => lt pair 64
  | .info pair => lt pair 64
  | .setEndpointId eid => lt eid 256
  | .getEndpointId => true
  | .getMctpVersionSupport => true
  | .getMessageTypeSupport => true
  | .getTid => true
  | .getPldmVersion type => lt type 256
  | .getPldmTypes => true
  | .getPldmCommands type => lt type 256
  | .getPdrRepositoryInfo => true
  | .getPdr _ => true
  | .getSensorReading sensor => lt sensor 256
  | .getStateSensorReadings sensor => lt sensor 256
  | .getFruRecordTableMetadata => true
  | .getFruRecordTable => true
  | .mailboxDoorbell pair _ => lt pair 64
  | .bar2Resize log2 => lt log2 64
  | .unsupportedPldmCommand type cmd => lt type 256 && lt cmd 256

end Sys2Proof
end

