-- ==== Sys2Proof/Tests/Slice0.lean ====
section
/-! SUPPORT. Tests of the model on small states, with expected results from the spec's own numbers, and a concrete state
that meets the hypotheses of each statement. -/

set_option Elab.async false

namespace Sys2Proof.Tests

open Machine

/-! ### Small states -/

/-- A page of 64 KiB in the fast tier of quarter 0. -/
def page : PageDesc :=
  { home := 0, homeQ := 0, size := 0, moored := true, nopf := false, ret := false, mig := false, sealed := false, refs := 1
    vslots := 0, addr := 1 }

/-- Context 5: resident on core 0, with one page mapped at 0x10000. -/
def ctx : Ctx :=
  { Ctx.new false none 1 10000 0 0 1#256 0 with
    st := .resident, leaves := [⟨0x10000, 0, false, true, false, 1⟩], pds := [(1, page)], pool := [10, 11, 12, 13]
    nodes := [⟨2, 0, 0x20000⟩, ⟨1, 0, 0x30000⟩, ⟨0, 0, 0x31000⟩], descFrames := [(0, 14)] }

def leaf : Leaf := ⟨0x10000, 0, false, true, false, 1⟩

def tide : TideCfg := ⟨0, 0, 1, 60000, 1001, 1000⟩

/-- A live module in Run with every core in place, port 0 up and configured, and time 10 ms. -/
def live : Hw :=
  { Hw.reset with
    boot := .done
    island := { Island.reset with tide := 10000000, tideCfg := some tide }
    quay := { Quay.reset with st := .ready, fwAlive := true }
    host := { HostLink.reset with up := true, cfg := { PcieCfg.reset with memEn := true, busMaster := true, msixEn := true } }
    phys := List.replicate 4 ⟨BitVec.allOnes 68, (List.range 64).map some⟩
    power := { Power.reset with quartersUp := 0xF#4, hubUp := true, clocks := List.replicate 32 1600 }
    links := (List.range 16).map fun i => (i, ⟨1, false⟩)
    ports := ⟨true, some ⟨true, false, false, 0, 24, 0, 7, 0⟩, none⟩ :: List.replicate 3 ⟨false, none, none⟩ }

/-- Live, with context 5 and a plan of it on core 0. -/
def work : Hw :=
  { live with
    ctxs := [(5, ctx)]
    plans := [(9, { ctx := 5, cores := [⟨0, [0x10000, 0, 0, 0], [0x10000, 0, 0, 0], []⟩], tenTbl := 0x11000, nten := 0
                    chainTbl := 0x12000, nchain := 0, fixed := none, run := some ⟨0, 0, false, 0, none, true⟩
                    disabling := [] })] }

/-- Thread 0 has reached a descriptor at 0x10000. -/
def thread : Thread := { Thread.idle with st := .running, entry := 0x10000, loop := 0x10000, next := some 0x10000, staged := [0x10000] }

def core : Core := { Core.cleared with ctx := some 5, threads := thread :: List.replicate 3 Thread.idle }

/-- Core 0 has reached the descriptor `d`, a number of 1024 bits. -/
def at_ (d : Nat) : Hw :=
  { work with cores := [(0, core)], mem := { MemSys.reset with ram := wrN [] (ramKey 0 0 0x10000) (leBytes 128 d) } }

/-- Pair 3 asks for command `c` with the parameter bytes `bs`. -/
def ask (m : Hw) (c : CmdSpec) (bs : List Byte) : Hw :=
  let bs := fit c.len bs
  let head := leBytes 2 c.code ++ leBytes 1 bs.length ++ leBytes 3 0 ++ leBytes 2 (if c.ctxv then 5 + 1024 else 0)
    ++ leBytes 8 (if c.xmin = 0 then 0 else 64) ++ leBytes 4 c.xmin ++ leBytes 12 0
  { m with espor := ⟨[(3, ⟨wrN [] 0 (head ++ bs), [], .busy⟩)], [3], [], 0⟩ }

def st (m : Hw) : State := ⟨[], m⟩

/-- The module a command leaves. -/
def after (i : Instr) (m : Hw) : Hw := match exec i (st m) with | .next s => s.m | _ => m

/-! ### Ill-formed terms are refused by each check -/

theorem test_ill_formed :
    (Instr.matmul 256 0).wf = false ∧ (Instr.matmul 255 4).wf = false ∧ (Instr.contextFaultStop 1024).wf = false ∧
    (Instr.tlbWalk 0 0 (2 ^ 57) []).wf = false ∧ (Instr.bollardUpdate 0 64).wf = false ∧
    (Instr.residueMismatch 0 0 ⟨12, false⟩).wf = false ∧ (Instr.holdError 0 ⟨true, some 4⟩).wf = false ∧
    (Instr.standbyRefill 8 0).wf = false ∧ (Instr.standbyRefill 7 4).wf = false ∧ (Instr.ferryArrival 0 0 16).wf = false ∧
    (Instr.flitRetry 16).wf = false ∧ (Instr.patrolScrub 0 2 0 ⟨[]⟩).wf = false ∧
    (Instr.requestComplete 0 0 ⟨[⟨32, []⟩]⟩).wf = false ∧ (Instr.requestComplete 0 0 ⟨[⟨31, [(36, 1)]⟩]⟩).wf = false ∧
    (Instr.tlbWalk 0 0 0 [.answered ⟨[⟨32, []⟩]⟩]).wf = false ∧ (Instr.controlProtocolMessage 0 ⟨some 4096, .rtcp⟩).wf = false ∧
    (Instr.submitEntryTake 0 []).wf = false ∧ (Instr.submitEntryTake 256 (zeros 64)).wf = false ∧
    (Instr.frameDl ⟨512, []⟩).wf = false ∧ (Instr.ethernetFrameReceive 4 .badFcs).wf = false ∧
    (Instr.batchDl ⟨64, []⟩).wf = false ∧ (Instr.conversionUnitLoss 5 0).wf = false ∧ (Instr.coolantInletLimit 1024).wf = false ∧
    (Instr.pcieLinkTraining 7 16).wf = false ∧ (Instr.eventHeadWrite 1024 0).wf = false ∧
    (Instr.matmul 255 3).wf = true := by decide +kernel

/-! ### Structure, reset, memory -/

/-- The check value of the CRC-64 of 03 R98, over the digits 1 to 9. -/
theorem test_crc64 : crc64 [0x31, 0x32, 0x33, 0x34, 0x35, 0x36, 0x37, 0x38, 0x39] = 0x9d13a61c0e5b0ff5#64 := by decide +kernel

/-- x^16 is x^12 + x^3 + x + 1, and one wrong symbol is corrected (06 R164, R165). -/
theorem test_error_code : gfDouble 0x8000#16 = 0x100B#16 ∧ decodeWord [(5, 0x1234#16)] = .corrected ∧ decodeWord [] = .good := by
  decide +kernel

/-- Class code 0x12_0000 stands above the revision identifier (13 R340). -/
theorem test_class_code : configDword Hw.reset 0x08 / 256 = 0x120000 := by decide +kernel

/-- QW_STATUS and QW_TIDE_STAT at reset release, and QW_CAUSE_EN (13 R354, R356). -/
theorem test_reset_status : quayWord Hw.reset 0x1000 = 0 ∧ quayWord Hw.reset 0x1010 = 0 ∧ quayWord Hw.reset 0x1040 = 0x7F := by decide +kernel

theorem witness_IdleStepLetsTimePass :
    (st live).pending = [] ∧ live.island.on = true ∧ live.coming = none ∧ live.island.rate = 0 ∧ live.island.frac = 0 ∧
    live.island.asked = none ∧ { live.island with asked := some .invalid }.asked = some .invalid ∧
    { live.island with on := false }.on = false := by decide +kernel

theorem witness_StopsOnlyBeyondTheBars :
    beyond (.registerWrite 0x411000 []) live = true ∧ beyond (.registerWrite 0x410FFF []) live = false ∧
    beyond (.bar2Read (2 ^ 34 - 1) ⟨2, []⟩) live = true ∧ beyond (.bar2Read (2 ^ 34 - 1) ⟨1, []⟩) live = false ∧
    beyond (.bar2Write (2 ^ 34) [0] ⟨false, []⟩) live = true ∧ beyond (.bar2Write (2 ^ 34) [] ⟨false, []⟩) live = false ∧
    beyond (.quayRefusedAccess 0x400000 8 true) live = true := by decide +kernel

theorem witness_StepKeepsSound : Sound live ∧ ∃ t, step (st live) = .next t :=
  ⟨⟨by decide +kernel, by decide +kernel⟩, _, rfl⟩

theorem witness_StoredBytesReadBack : (MemSys.reset.ram).wf = true ∧ (at_ 0x3F).mem.ram.wf = true := by decide +kernel

theorem witness_PoisonMarksTouchedUnits : 0 < 1 ∧ marksIn 0 1 = [0] := by decide +kernel

/-! ### Ops -/

/-- The op `d` may start on core 0, thread 0, and its surroundings satisfy `f`. -/
def reaches (d : Nat) (f : Env → Bool) : Bool := ((at_ d).startable 0 0).any f

theorem witness_ProductOpsStart :
    (reaches 0x01 fun e => e.h.opcode == 0x01 && !bitb e.d 404) = true ∧ (reaches 0x02 fun e => e.h.opcode == 0x02) = true ∧
    (reaches 0x03 fun e => e.h.opcode == 0x03 && !bitb e.d 400) = true ∧
    (reaches (0x03 + 2 ^ 400) fun e => e.h.opcode == 0x03 && bitb e.d 400) = true ∧
    (reaches 0x04 fun e => e.h.opcode == 0x04) = true ∧
    (reaches 0x05 fun e => e.h.opcode == 0x05 && e.field 465 464 == 0) = true ∧
    (reaches (0x05 + 2 ^ 464) fun e => e.h.opcode == 0x05 && e.field 465 464 == 1) = true ∧
    (reaches 0x06 fun e => e.h.opcode == 0x06) = true ∧ (reaches 0x07 fun e => e.h.opcode == 0x07) = true ∧
    (reaches 0x08 fun e => e.h.opcode == 0x08) = true ∧
    (reaches 0x09 fun e => e.h.opcode == 0x09 && e.field 280 279 == 0) = true ∧
    (reaches (0x09 + 2 ^ 279) fun e => e.h.opcode == 0x09 && e.field 280 279 == 1) = true ∧
    (reaches (0x09 + 2 ^ 280) fun e => e.h.opcode == 0x09 && e.field 280 279 == 2) = true := by decide +kernel

theorem witness_RowAndSequenceOpsStart :
    (reaches 0x0A fun e => e.h.opcode == 0x0A) = true ∧ (reaches 0x0B fun e => e.h.opcode == 0x0B) = true ∧
    (reaches 0x10 fun e => e.h.opcode == 0x10) = true ∧ (reaches 0x11 fun e => e.h.opcode == 0x11) = true ∧
    ([0, 1, 2].all fun k => reaches (0x29 + k * 2 ^ 280) fun e => e.h.opcode == 0x29 && e.sealMode == k) = true ∧
    (reaches 0x28 fun e => e.h.opcode == 0x28) = true ∧
    ([0, 1, 2].all fun k => reaches (0x18 + k * 2 ^ 270) fun e => e.h.opcode == 0x18 && e.field 271 270 == k) = true ∧
    (reaches 0x3F fun e => e.h.opcode == 0x3F) = true := by decide +kernel

theorem witness_WaitingAndFerryOpsStart :
    (reaches 0x19 fun e => e.h.opcode == 0x19) = true ∧
    (reaches 0x1A fun e => e.h.opcode == 0x1A && (e.m.island.tideCfg == some tide)) = true ∧
    (reaches (0x01 + 2 ^ 404) fun e => e.h.opcode == 0x01 && bitb e.d 404) = true ∧
    (reaches 0x12 fun e => e.h.opcode == 0x12) = true ∧
    (reaches 0x20 fun e => e.h.opcode == 0x20 && e.field 321 320 == 0) = true ∧
    (reaches (0x20 + 2 ^ 320) fun e => e.h.opcode == 0x20 && e.field 321 320 == 1 && !e.bufOk) = true ∧
    (reaches 0x21 fun e => e.h.opcode == 0x21) = true ∧ Hw.reset.island.tideCfg = none := by decide +kernel

/-- Core 0 with buffer 0 of landing 0 emitted. -/
def emitted : Hw :=
  (at_ (0x20 + 2 ^ 320)).updCore 0 fun c => { c with lands := [(0, ⟨⟨0, 0, 64, 4, 2, 3, 0, true, 4, 0⟩, 0, 0, 0, false, [], [0]⟩)] }

theorem witness_a_return_of_the_oldest_buffer :
    ((emitted.startable 0 0).any fun e => e.h.opcode == 0x20 && e.field 321 320 == 1 && e.bufOk) = true := by decide +kernel

/-- A pre-wait in reach mode at its value, and one below it, which does not start. -/
theorem witness_OpStartsOnlyWhenItMay :
    (reaches (0x3F + 2 ^ 70) fun e => e.h.preEn && !e.h.preTake) = true ∧
    (reaches (0x3F + 2 ^ 70 + 2 ^ 71) fun e => e.h.preEn && e.h.preTake) = true ∧
    (reaches (0x3F + 2 ^ 70 + 2 ^ 96) fun _ => true) = false := by decide +kernel

theorem witness_NoStartChangesNothing : (live.startable 0 0).isNone = true ∧ (work.startable 3 3).isNone = true := by
  decide +kernel

theorem witness_OpStartFrame :
    (∃ t, exec (.nop 0 0) (st (at_ 0x3F)) = .next t) ∧ ((at_ 0x3F).startable 0 0).isSome = true ∧
    after (.nop 0 0) (at_ 0x3F) ≠ at_ 0x3F := ⟨⟨_, rfl⟩, by decide +kernel, by decide +kernel⟩

/-- A NOP completes no earlier than 4 cycles after it starts (02 R53). -/
theorem test_nop_takes_four_cycles :
    ((after (.nop 0 0) (at_ 0x3F)).core 0).ops.map (·.due) = [4] ∧
    ((after (.nop 0 0) (at_ 0x3F)).core 0).nextDone 3 0 = none := by decide +kernel

theorem witness_StartedOpStandsInProgress :
    (∀ o : OpRec, (id o).no = o.no) ∧ 0 < core.threads.length ∧
    ([0, 1, 2].all fun k => reaches (0x3F + k * 2 ^ 18) fun e => e.h.flow == k) = true :=
  ⟨fun _ => rfl, by decide +kernel, by decide +kernel⟩

/-- A NOP with post-signal to bollard 7 of core 0, started, 4 cycles later. -/
def done (d : Nat) : Hw := { after (.nop 0 0) (at_ d) with cycles := List.replicate 32 4000 }

theorem witness_CompletedOpLeaves :
    ([0x3F, 0x3F + 2 ^ 136 * 7 + 2 ^ 142 + 2 ^ 144].all fun d => ((done d).core 0).ctx == some 5 &&
      (((done d).core 0).nextDone ((done d).cyc 0) 0).any fun o => o.eff.seq == none && !o.hdr.step && !o.hdr.evt
        && o.eff.hostVal == none && o.eff.signal == none && o.eff.rets == [] && o.hdr.postEn == (d != 0x3F)) = true := by
  decide +kernel

/-- POST_INC for POST_BOL waits at POST_CORE (02 R46). -/
theorem test_post_signal :
    ((after (.opComplete 0 0) (done (0x3F + 2 ^ 136 * 7 + 2 ^ 142 + 2 ^ 144 * 9))).core 0).inbox.map
      (fun u => (u.bol, u.set, u.val)) = [(7, false, 9#32)] := by decide +kernel

/-! ### Requests, waits, faults -/

/-- Core 0 at a NOP, changed by `f`. -/
def tuned (f : Core → Core) : Hw := (at_ 0x3F).updCore 0 f

/-- A store of two bytes that the window holds, issued or not. -/
def put (t : Option Nat) : Req :=
  { id := 0, thread := 0, op := 7, tag := 0, va := 0x10040, len := 2, store := true, data := [1, 2], shared := false
    issued := t, passed := 0, into := none, quiet := false, append := false, place := none }

def holds (r : Req) : Hw := tuned fun c => { c with reqs := [r], tlb := [⟨5, leaf, page, false⟩] }

/-- An op of thread 0 in progress that waits for `w`. -/
def waiting (w : Cond) : OpRec :=
  { no := 7, thread := 0, addr := 0x10000, hdr := OpHdr.parse (0x3F + 2 ^ 20), claims := 0#10, start := 0, due := 0, cond := w
    eff := OpEffect.none, todo := [], send := [], sealTo := [], sentTo := [], voy := 0, creditWait := 0, acks := 0, seen := [], found := ⟨[], [], []⟩ }

/-- The thread has its NOP still to fetch, with and without its translation. -/
def unfetched (tlb : List TlbEntry) : Hw :=
  tuned fun c => ({ c with tlb := tlb }).setThread 0 { thread with staged := [] }

theorem witness_DescriptorsAndTranslationsAreFetched :
    ((let m := unfetched [⟨5, leaf, page, false⟩]
      match m.fetchPlan 0 0 with
      | some (x, p, t) => (m.toFetch x t == some (0x10000, true)) && (m.core 0).fetchHits x (m.fetchList x p 0x10000)
          && m.fetchEnd x (withEnds (m.fetchList x p 0x10000) []) == none
          && m.fetchEnd x (withEnds (m.fetchList x p 0x10000) [.late]) == some (0x10000, 0x0281, 0) && t.bad.isEmpty
      | none => false) = true) ∧
    (let m := unfetched []
     (m.core 0).ctx = some 5 ∧ m.clocked = true ∧ (m.core 0).tlbOf 5 0x10000 = none ∧
     (m.walkNeed 0 0 5 0x10000 (ctx.leafAt 0x10000)).isSome = true ∧ (ctx.walk 0x10000).isSome = true ∧ m.quarterTlb = [] ∧
     m.walkBad (walkEnds ctx 0x10000 []) = false ∧ m.walkBad (walkEnds ctx 0x10000 [.late]) = true) ∧
    (let m := tuned fun c => { c with reqs := [{ put none with va := 0x50000 }] }
     (m.core 0).tlbOf 5 0x50000 = none ∧ (m.walkNeed 0 0 5 0x50000 (ctx.leafAt 0x50000)).isSome = true ∧
     m.walkBad (walkEnds ctx 0x50000 []) = false ∧ ctx.walk 0x50000 = none) := by decide +kernel

theorem witness_a_descriptor_ahead :
    (let m := tuned fun c => { c with tlb := [⟨5, leaf, page, false⟩] }
     match m.fetchPlan 0 0 with
     | some (x, p, t) => (m.toFetch x t == some (0x10080, false)) && (m.core 0).fetchHits x (m.fetchList x p 0x10080)
         && (m.core 0).aheadOk x ((t.next.map (m.fetchList x p)).getD []) (m.fetchList x p 0x10080)
         && m.fetchEnd x (withEnds (m.fetchList x p 0x10080) [.late]) == some (0x10080, 0x0281, 0)
     | none => false) = true := by decide +kernel

/-- One mapping of each kind: read-only, in a fixed-timing context, of an absent host page, and a good one. -/
theorem witness_IssueFaultsByMapping :
    work.locOf 5 0xFFFF = none ∧ (work.locOf 5 0x10000).isSome = true ∧ (work.locOf 5 0x1FFFF).isSome = true ∧
    (let m := { work with ctxs := [(5, { ctx with leaves := [{ leaf with ro := true }] })] }
     (m.locOf 5 0x10040).any (fun l => l.1.ro) = true ∧ m.issueFault 0 5 (put none) = some 0x02C1 ∧
     m.issueFault 0 5 { put none with append := true } = none ∧ m.issueFault 0 5 { put none with place := some 0 } = none ∧ keyTier (ramKey 1 0 0) = 0 ∧ keyQ (ramKey 1 0 0) = 1) ∧
    (let m := { work with ctxs := [(5, { ctx with leaves := [leaf, { leaf with va := 0x40000, seq := true }] })] }
     m.seqPdi 5 1 = true ∧ m.issueFault 0 5 (put none) = some 0x02C1) ∧
    (let m := { work with ctxs := [(5, { ctx with part := some 2, pds := [(1, { page with moored := false })] })]
                          parts := [(2, ⟨true, 1#32, [], [], false⟩)] }
     m.isFixed 5 = true ∧ m.issueFault 0 5 (put none) = some 0x0283) ∧
    (let m := { work with ctxs := [(5, { ctx with pds := [(1, { page with home := 2, addr := 0 })] })]
                          mem := { work.mem with host := (List.range 8).map fun i => (i, 0#8) } }
     (m.locOf 5 0x10040).any (fun l => l.2.1.home == 2 && l.2.2.isNone) = true) ∧
    (work.locOf 5 0x10040).any (fun l => l.2.2.isSome) = true ∧ work.isFixed 5 = false := by decide +kernel

/-- A response at exactly 50 µs is in time. -/
theorem witness_RequestsIssueAndComplete :
    ((holds (put none)).core 0).ctx = some 5 ∧ (holds (put none)).clocked = true ∧
    ((holds (put none)).core 0).issueFree ((holds (put none)).cyc 0) = true ∧
    (holds (put none)).nextIssue 0 5 = some (put none) ∧ (holds (put none)).issueFault 0 5 (put none) = none ∧
    (holds (put (some 9950000))).now = 9950000 + 50000 ∧
    (let r := put (some 9950000)
     (((holds r).core 0).reqs.find? fun q => q.id == 0) = some r ∧ ((holds r).core 0).ordered r = true ∧
     (holds r).locked 5 r = false ∧ (holds r).reqLoc 5 r = some (.ram (ramKey 0 0 0x10040))) ∧
    (let r := { put (some 9950000) with store := false, data := [] }
     (((holds r).core 0).reqs.find? fun q => q.id == 0) = some r ∧ ((holds r).core 0).ordered r = true) := by decide +kernel

theorem witness_LateRequestsEnd :
    (let r := put (some 9950000)
     (((holds r).core 0).reqs.find? fun q => q.id == 0) = some r ∧ 9950000 + 50000 ≤ (holds r).now ∧ (holds r).locked 5 r = false ∧
     (holds r).reqLoc 5 r = some (.ram (ramKey 0 0 0x10040))) ∧
    (({ live with late := [(0, 3, some 8)] }.late.find? fun e => e.1 == 0 && e.2.1 == 3) = some (0, 3, some 8)) := by
  decide +kernel

def detected : Hw := (at_ 0x3F).updCtx 5 fun x => { x with detected := [FaultRec.base work 0x0180 0 0 3 5] }

theorem witness_FaultedContextStops :
    (mget detected.ctxs 5).any (fun x => !x.detected.isEmpty && x.st != .switching) = true ∧ detected.ctxCores 5 = [0] ∧
    (detected.core 0).ctx = some 5 := by decide +kernel

/-- An addition at the top of the range, and a set for a context that the core does not run. -/
theorem witness_BollardPortAppliesOneUpdate :
    ([⟨0, 256, 5, 0, 59, false, 1#32⟩, ⟨0, 256, 6, 0, 59, true, 7#32⟩] : List Signal).all (fun u =>
      let m := tuned fun c => { c with inbox := [u], bols := [(59, 0xFFFFFFFF#32)] }
      ((m.core 0).inbox.filter fun v => v.bol == 59) == [u] && (m.runs 0 u.ctx == (u.ctx == 5)) && (m.core 0).ops.isEmpty &&
        m.arrived 0 u) = true ∧
    (let u : Signal := ⟨1, 3, 5, 0, 59, false, 1#32⟩
     let m := tuned fun c => { c with inbox := [⟨0, 3, 5, 0, 58, false, 1#32⟩, u] }
     ((m.core 0).inbox.filter fun v => v.bol == 59) = [u] ∧ m.arrived 0 u = false) := by decide +kernel

/-- 2^32 − 1 plus 1 is 0 (02 R59). -/
theorem test_bollard_wraps :
    ((after (.bollardUpdate 0 59) (tuned fun c => { c with inbox := [⟨0, 256, 5, 0, 59, false, 1#32⟩]
                                                           bols := [(59, 0xFFFFFFFF#32)] })).core 0).bol 59 = 0#32 := by
  decide +kernel

/-- Reach mode compares modulo 2^32, take mode as unsigned numbers (02 R60). -/
theorem test_wait_modes :
    waitHolds 0 0xFFFFFFFF#32 0#32 = true ∧ waitHolds 0 1#32 0#32 = false ∧ waitHolds 1 1#32 2#32 = false ∧
    waitHolds 2 0xFFFFFFFF#32 0#32 = false ∧ waitHolds 2 3#32 3#32 = true := by decide +kernel

def overdue : Hw :=
  { tuned (fun c => { c with ops := [waiting (.bollard 4 0 1#32 0)] }) with
    island := { live.island with tide := 10000000001 } }

theorem witness_WaitBoundEndsAWait :
    (overdue.core 0).ctx = some 5 ∧ (mget overdue.ctxs 5).isSome = true ∧ 0 < (overdue.core 0).threads.length ∧
    ((overdue.core 0).thread 0).st = .running ∧
    (((overdue.core 0).ops.find? fun p => p.thread == 0 && (match p.cond with
      | .bollard b _ _ since => !overdue.landingBol 5 0 b && decide (since + overdue.waitBound 5 < overdue.now)
      | _ => false)) = some (waiting (.bollard 4 0 1#32 0))) := by decide +kernel

/-- A MATMUL with MARSHAL 1, MSH_DL 100 cycles and MSH_BOL 0, a row at its bollard, and its deadline come exactly. -/
theorem witness_TideAndMarshallingWaits :
    ((((tuned fun c => { c with ops := [waiting (.tide 10000000 none)] }).core 0).ops.find? fun p => p.thread == 0 &&
      (match p.cond with | .tide g _ => decide (g ≤ (tuned id).now) | _ => false)) = some (waiting (.tide 10000000 none))) ∧
    (let m := (at_ (0x01 + 2 ^ 404 + 2 ^ 448 * 100)).updCore 0 fun c => { c with bols := [(0, 1#32)] }
     let m := { m with cycles := List.replicate 32 100000 }
     (m.envOf 0 0).any (fun e => e.h.opcode == 0x01 && e.matmul.marshal && e.predOk && e.matmul.mshDl == 100 &&
       e.matmul.mshBol == 0) = true ∧
     max (mgetD (m.core 0).rise 0 0) ((m.core 0).thread 0).mshDone + 100 ≤ m.cyc 0) := by decide +kernel

theorem witness_CoreFaultsStopTheCore :
    (let m := tuned fun c => { c with ops := [waiting .done] }
     m.clocked = true ∧ (m.core 0).ctx = some 5 ∧ (m.core 0).broken = none ∧ ((m.core 0).ops.any fun o => o.thread == 0) = true)
    := by decide +kernel

/-- Core 0 failed at 9 ms, with its first step record complete, and a spare in the quarter. -/
def rec1 : StepRec :=
  { no := 1, nexts := [some 0x10000, none, none, none], ticks := [none, none, none, none], bols := [], acc := [], aIn := []
    aLate := [], journal := [], posted := [0, 0, 0, 0], setBefore := false }

def failed (rs : List StepRec) : Hw :=
  (tuned fun c => { c with broken := some (10, 9000000, 3, 0), steps := rs, recs := rs.length }).updCtx 5 fun x =>
    { x with snaps := [⟨1, 3, SeqDesc.blank, [], [], 1, []⟩] }

theorem witness_CoreFaultIsRecoveredOrStopsTheContext :
    (∀ m ∈ [failed [rec1], failed []], (m.core 0).ctx = some 5 ∧ (m.core 0).broken = some (10, 9000000, 3, 0) ∧
      m.physOf 0 = some 0 ∧ m.cores.map (·.1) = [0]) ∧
    (let m := (failed [rec1]).stopThreads 5
     m.canRollBack 5 (m.epochOf 5) = true ∧ (m.physQ 0).spare ≠ none) ∧
    (let m := (failed []).stopThreads 5
     m.canRollBack 5 (m.epochOf 5) = false) ∧
    (let y : Part := ⟨true, 1#32, [some 7, none, none, none], [some (7, 0), none, none, none], false⟩
     mget { live with parts := [(2, y)] }.parts 2 = some y ∧ lget y.refill 0 none = some (7, 0)) := by decide +kernel

def healed : Hw :=
  (tuned fun c => { c with steps := [rec1], recs := 1 }).updCtx 5 fun x => { x with recov := [⟨0, 64, 10, 9000000, none⟩] }

theorem witness_RollbackRestoresTheRecord :
    ((healed.core 0).steps.find? fun r => r.no == 1) = some rec1 ∧
    (mget healed.ctxs 5).any (fun x => x.st == .resident && !x.recov.isEmpty && x.detected.isEmpty) = true ∧
    healed.settled 5 = true ∧ healed.placed 5 = true ∧ healed.plansOf 5 ≠ [] ∧ healed.onCores 5 = true ∧
    healed.epochOf 5 ≠ 0 ∧
    (mget (healed.updCtx 5 fun x => { x with st := .stopped, recov := [] }).ctxs 5).any (fun x =>
      x.st == .stopped && x.faults.isEmpty) = true := by decide +kernel

theorem witness_BanksSwapWhole :
    (let m := tuned fun c => { c with fset := { c.fset with shadow := some [1] }, route := { c.route with shadow := some [2] } }
     m.mayswap 0 3 (m.core 0).fset = true ∧ m.mayswap 0 7 (m.core 0).route = true ∧ (m.core 0).fset.shadow = some [1] ∧
     (m.core 0).route.shadow = some [2]) := by decide +kernel

/-- Landing 0 of core 0 with a buffer of 128 rows, `slot` of them filled. -/
def landed (slot first : Nat) : Hw :=
  { tuned (fun c => { c with lands := [(0, ⟨⟨0, 0, 64, 2, 2, 3, 0, true, 4, 100⟩, 0, slot, first, false, [], []⟩)] }) with
    cycles := List.replicate 32 100000 }

def ferry (k : Nat) (c : Nat) (rows : List SendRow) : Ferry := ⟨1, 0, 2, 0, k, c, 64, rows⟩

theorem witness_FerriesArriveAndBatchesAreEmitted :
    ([ferry 0 5 [⟨0, 2, 0, 0, 0, []⟩], ferry 1 5 [], ferry 2 5 [], ferry 0 6 []].all fun f =>
      ({ tuned id with ferries := [f] }.nextFerry fun f => f.src == 1 && f.dst == 0 && f.land == 2 && f.kind != 3) == some f)
      = true ∧
    ([ferry 3 5 [], ferry 3 5 [⟨0, 2, 0, 0, 0, []⟩]].all fun f =>
      ({ tuned id with ferries := [f] }.nextFerry fun f => f.src == 1 && f.dst == 0 && f.kind == 3) == some f) = true ∧
    ({ tuned id with creditsInFlight := [⟨0, 0, 1, 2, 4⟩] }).nextCredit 1 0 2 = some ⟨0, 0, 1, 2, 4⟩ ∧
    (let s := (landed 128 0).landState 5 0 0
     s.cfg.rows = 128 ∧ s.cfg.valid = true ∧ s.emitted.length < s.cfg.nb ∧ (landed 128 0).emit123 5 0 s = true) ∧
    (let s := (landed 3 0).landState 5 0 0
     0 < s.slot ∧ s.cfg.flushDl ≠ 0 ∧ s.firstAt + s.cfg.flushDl ≤ (landed 3 0).cyc 0) ∧
    (let o : OpRec := { waiting .done with claims := 0x80#10, send := [⟨1, 2, 0, 0, 0, []⟩], creditWait := 36 }
     let m := { tuned (fun c => { c with ops := [o] }) with cycles := List.replicate 32 100000 }
     ((m.core 0).ops.find? fun o => o.claims.getLsbD 7 && !o.send.isEmpty) = some o ∧ (m.core 0).loadsIn o = true ∧
     o.creditWait + 64 ≤ m.cyc 0) := by decide +kernel

theorem witness_LinksWearOut :
    live.boot = .done ∧ (live.link 0).retired = false ∧ (live.link 0).spares = 0 + 1 ∧ (live.link 5).retired = false ∧
    (live.link 8).retired = false ∧ (live.link 15).retired = false ∧ linkOk 0 = true ∧ linkOk 15 = true := by decide +kernel

/-- Page 1 on its way from the fast to the slow tier: `n` of 32 granules have moved. -/
def mig (n : Nat) (back : Bool) : Mig := ⟨5, 1, 0, 1, 1, 4, 32, n, 2, 9970000, back, none⟩
def moving (n : Nat) (back : Bool) : Hw :=
  { work with engines := ⟨[(0, mig n back)], []⟩ :: List.replicate 3 ⟨[], []⟩
              ctxs := [(5, { ctx with pds := [(1, { page with mig := true })] })] }

theorem witness_MigrationMovesGranules :
    ([(0, false), (31, false), (32, false), (0, true), (7, true)].all fun (k : Nat × Bool) =>
      (mget ((moving k.1 k.2).engine 0).slots 0 == some (mig k.1 k.2)) && ((moving k.1 k.2).engine 0).queue.isEmpty) = true ∧
    0 < (moving 0 false).engines.length ∧ (mig 0 false).since + 20000 ≤ (moving 0 false).now ∧
    (moving 0 false).now ≤ (mig 0 false).since + 40000 ∧ (mig 0 false).since + 40000 < (moving 0 false).now + 10001 ∧
    (moving 32 false).boot = .done ∧ (moving 32 false).espor.deferred = [] ∧
    (moving 32 false).cores = [] ∧
    ((mget (moving 32 false).ctxs 5).bind fun x => mget x.pds 1) = some { page with mig := true } := by decide +kernel

theorem witness_PatrolScrubMarksBadWords :
    (let m := { live with quay := { live.quay with topo := { Topology.zero with pkgs := [1, 0, 0, 0] } } }
     m.boot = .done ∧ m.scrubStart.scrubs 0 1 1073741823 = true ∧ m.scrubStart.scrubs 0 1 1073741824 = false ∧
     ({ m.mem with marks := [0] }.readWord 0 (wordErrs ⟨[⟨31, [(0, 1)]⟩]⟩ 31)).uncorrectable = true ∧
     (m.mem.readWord 0 (wordErrs ⟨[⟨31, [(0, 1)]⟩]⟩ 31)).uncorrectable = false) := by decide +kernel

/-! ### Scheduling and runs -/

theorem witness_DecisionsOnlyBeginSwitches :
    Hw.reset.quay.st ≠ .ready ∧ { live.quay with ps := PState.hold }.ps ≠ .run ∧ work.occasion = false ∧ { work with occasion := true }.occasion = true ∧
    mget work.ctxs 5 = some ctx ∧
    ctx.st = .resident ∧ ctx.part = none ∧
    ctx.residentAt + max 20000000 (10 * ctx.lastSwitchIn) ≤ { work with island := { live.island with tide := 20000000 } }.now := by
  decide +kernel

def switching (back : CtxState) : Hw :=
  (tuned fun c => { c with bols := [(3, 1#32)] }).updCtx 5 fun x => { x with st := .switching, back := back }

theorem witness_SwitchOutSavesThenClears :
    ([CtxState.runnable, .stopped].all fun b => let m := switching b
      (mget m.ctxs 5).any (fun x => x.st == .switching && x.detected.isEmpty && x.back == b && !x.rollbackDue) && m.clocked && m.drained 5 &&
      (m.ctxCores 5 == [0]) && (m.core 0).broken.isNone) = true := by decide +kernel

def chosen (due : Bool) : Hw :=
  { work with ctxs := [(5, { ctx with st := .runnable, chosen := true, rollbackDue := due })]
              saves := [(saveKey 5 0, { CoreSave.empty with bols := [(3, 9#32)] })] }

theorem witness_SwitchInRestores :
    ([false, true].all fun d => let m := chosen d
      (mget m.ctxs 5).any (fun x => x.chosen && x.st == .runnable && x.rollbackDue == d && x.held.isEmpty) && m.clocked &&
      (m.ctxCores 5 == [0]) && (m.core 0).ctx.isNone) = true := by decide +kernel

/-- A queue of context 5 with one entry, at the wrap of HEAD, and plan 9 idle or busy. -/
def queued (r : Option Run) : Hw :=
  { work with queues := [(2, ⟨5, 0x1000, 16, 0xFFFFFFFF#32, 0#32, false, none, [(0, 1)], none⟩)]
              plans := work.plans.map fun p => (p.1, { p.2 with run := r }) }

/-- An entry that names a plan: PLAN, EVT, TAG and RUNS at their places (14 R375). -/
def entry (plan evt tag runs : Nat) : List Byte := leBytes 64 (plan + 2 ^ 16 * evt + 2 ^ 32 * tag + 2 ^ 64 * runs)

theorem witness_SubmitEntriesStartRuns :
    ([none, some ⟨0, 0, false, 0, none, true⟩].all fun r => let m := queued r
      (mget m.queues 2).any (fun q => q.cur.isNone && q.head != q.tail && q.ctx == 5 && !(m.otherFirst 2 9 q)) &&
      (mget m.ctxs 5).any (fun x => x.st == .resident && x.recov.isEmpty) && m.quay.st == .ready && m.mayStart) = true ∧
    leNat ((entry 9 1 0xFFFFFFFF 0).take 64) = 9 + 2 ^ 16 + 2 ^ 32 * 0xFFFFFFFF ∧
    bits (leNat ((entry 9 2 0 1).take 64)) 31 17 = 1 ∧ mget work.plans 10 = none := by decide +kernel

theorem test_submit_entry :
    (let m := after (.submitEntryTake 2 (entry 9 1 7 3)) (queued none)
     (mget m.queues 2).map (fun q => (q.head, q.cur)) = some (0#32, some 9) ∧
     ((mget m.plans 9).bind Plan.run).map (fun r => (r.queue, r.tag, r.evt, r.no, r.left)) = some (2, 7, true, 0, some 2)) := by
  decide +kernel

def ended (left : Option Nat) (dis : List (Nat × Nat)) : Hw :=
  { tuned (fun c => { c with threads := { thread with st := .ended } :: List.replicate 3 Thread.idle }) with
    plans := work.plans.map fun p => (p.1, { p.2 with run := some ⟨2, 7, false, 4, left, true⟩, disabling := dis }) }

theorem witness_RunsEnd :
    ([(some 0, []), (some 3, []), (none, []), (none, [(0, 8)])].all fun k => let m := ended k.1 k.2
      (mget m.plans 9).any fun p => p.run == some ⟨2, 7, false, 4, k.1, true⟩ && p.disabling == k.2 && m.runOver p) = true := by
  decide +kernel

theorem witness_EnergyIsSplitNotInvented : live.boot = .done := by decide +kernel

/-! ### Ingest -/

def pkt : Packet := ⟨none, false, 7, 5004, 8, 6000, 96, 1, 0, 0, [⟨0, 0, [1, 2], [3, 4], [5, 6]⟩]⟩

/-- Flow entry 0 for `pkt`, with a lock, and what the quarantines hold. -/
def flowing (l : Option (Nat × Nat × Nat)) (qs : Map Quar) : Hw :=
  { work with flows := [(0, ⟨false, 1#4, false, false, false, 0, 96, 0, 5004, 7, 0, 0, 0, 5, 3, l, 0, false⟩)], quars := qs }

def quar : Quar := ⟨1, 0, false, 1, 1, 1, 1⟩

/-- Frames of one instant are taken by ascending port (12 R308). -/
theorem witness_frames_that_come_sooner :
    sooner 0 [.ethernetFrameReceive 0 .badFcs] = [] ∧ sooner 3 [.fwBeat, .ethernetFrameReceive 2 (.other 64)] = [(2, .other 64)] ∧
    live.early = [] ∧ (0, EthFrame.badFcs) ∈ { live with early := [(0, .badFcs)] }.early := by decide +kernel

theorem witness_PacketsPassOnlyTheirLock :
    live.island.on = true ∧ (live.port 0).up = true ∧ live.hubOn = true ∧ live.flows = [] ∧ frameLen 64 = true ∧ frameLen 9216 = true ∧
    frameLen 63 = false ∧ frameLen 9217 = false ∧ live.quay.ps ≠ .anchor ∧
    { live with quay := { live.quay with ps := .anchor } }.hubOn = false ∧
    ([none, some (8, 6000, 1), some (8, 6000, 2), some (9, 6000, 1), some (8, 6001, 1)].map fun l =>
      ((flowing l []).flows.find? fun f => f.2.hits 0 pkt).map fun f => f.2.judge pkt) =
        [some .pass, some .pass, some .stranger, some .collision, some .collision] ∧
    ((flowing none []).quarOf 0 pkt).isNone = true ∧
    ((flowing none [(0, { quar with entry := 0, srcIp := 8, srcUdp := 6000 })]).quarOf 0 pkt).isSome = true ∧
    chooseKey [(0, quar)] 256 256 = some 1 ∧
    chooseKey ((List.range 256).map fun i => (i, quar)) 256 256 = none ∧
    (live.port 0).cfg.any (fun c => c.answers (.arp 7) && c.answers (.echo4 7 []) && !c.answers (.echo4 8 []) && c.tagOk none) = true ∧ ctlInAnchor (.arp 7) = true ∧
    0 < live.ports.length := by decide +kernel

def stream : Stream :=
  { ctx := 5, w := 2, h := 2, samp := 2, depth := 8, colr := 0, legs := 1, nslot := 2, bol := 60, entries := [0], ringVa := 0x10000
    relVa := 0x18000, cores := [0], frameDl := 1000, lockIdle := 10, tzVa := 0, tz := none, frameSeq := 1, frames := [], seen := []
    closed := [] }

/-- A frame of tick 0, whose deadline is 1000 ns after t(1) = 1000 + 16683333 ns (16 R414). -/
def late (dropped : Bool) : Hw :=
  { flowing (some (8, 6000, 1)) [] with
    streams := [(3, { stream with frames := [⟨0, 0, 0, some 0, [], [], false, dropped⟩] })]
    island := { live.island with tide := 16685333 } }

theorem witness_FramesCloseAndLocksEnd :
    ([false, true].all fun d => (mget (late d).streams 3).any fun x => (x.frames.find? fun f =>
      decide (tide.at (match f.tick with | none => 0 | some k => k + 1) + x.frameDl ≤ (late d).now)) == some ⟨0, 0, 0, some 0, [], [], false, d⟩)
      = true ∧
    (late true).hubOn = true ∧ tide.at 1 + 1000 = (late true).now ∧
    (mget (late true).flows 0).any (fun f => f.lock.isSome && !f.pinned &&
      decide (f.lockAt + (late true).lockIdleNs f ≤ (late true).now)) = true := by decide +kernel

/-! ### Tide -/

def synced (s : Machine.Sync) : Hw := { live with island := { live.island with sync := s, gm := some (77, 0) } }

theorem witness_TideFollowsItsTimeTransmitter :
    ([Machine.Sync.free, .acquiring, .locked, .holdover].all fun s => let m := synced s
      m.island.on && (m.port 0).up && m.island.sync == s && m.island.gm == some (77, 0)) = true ∧
    tide.ports.testBit 0 = true ∧ live.island.tideCfg = some tide ∧ some (77, 0) ≠ some (78, 0) := by decide +kernel

theorem witness_CurrentTickIsTheLastBegun :
    live.island.on = true ∧ live.island.tideCfg = some tide ∧ tide.num ≤ 10 ^ 9 * tide.den ∧ tide.tickAt 1000 = some 0 ∧ tide.tickAt 999 = none ∧
    tide.tickAt 16684332 = some 0 ∧ tide.tickAt 16684333 = some 1 := by decide +kernel

/-- At 60000/1001 Hz, t(3) = TICK0 + 50050000 ns (16 R414). -/
theorem test_tick_instants : tide.at 3 = 1000 + 50050000 := by decide +kernel

/-! ### Upload jobs -/

def tz : TzCfg := ⟨0, 0, 2, 2, 2, 2, 1, 0, 0, 0, 0, 0, [0#32, 0#32, 0#32], [0#32, 0#32, 0#32]⟩

def sample : Sample := { Sample.none with inVa := 0x10000, inLen := 64, codec := 0, frames := 1, outVa := 0x11000, outMax := 4 }

def job : Job :=
  { ctx := 5, ba := 0x2000, nent := 16, head := 0xFFFFFFFF#32, tail := 0#32, err := false, ndec := 1, ntz := 1, nenc := 1
    division := true, maxW := 64, maxH := 64, maxF := 2, budget := 100, nqb := 2, lowWater := 1, batch := 4, qbol := 60, divHi := 0
    divTarget := 0, divLo := 0, qVa := 0x12000, batchDl := 10, cons := [0], tz := tz, enc := none, nextSeq := 1, samples := []
    batches := 0, released := -1, firstAt := [(0, 0)], lastSeq := 0, alarmArmed := false, occ := [], lastP := 0, lowSince := none
    disabling := [] }

def working (j : Job) : Hw := { work with jobs := [(1, j)] }

theorem witness_UploadsAreTakenAndDecoded :
    (working job).hubOn = true ∧ (working job).quay.st = .ready ∧ job.disabling = [] ∧ job.head ≠ job.tail ∧
    job.slotFree (job.nextSeq / job.batch) = true ∧ job.slotFree 1 = true ∧ { job with nextSeq := 8 }.slotFree (8 / 4) = false ∧
    job.slotFree 2 = false ∧
    (let j := { job with samples := [(0, sample)] }
     j.startable 0 = true ∧ j.guard sample ⟨64, 64, false, 0⟩ = none ∧ j.guard sample ⟨65, 64, false, 0⟩ = some 0x0340 ∧
     j.guard { sample with inLen := 0 } ⟨2, 2, false, 0⟩ = some 0x0341) ∧
    sample.st = .taken ∧ sample.codec ≠ 5 ∧ { sample with codec := 5 }.codec = 5 ∧
    (working job).mapped 5 0x10000 64 = true ∧ (working job).mapped 5 0x20000 64 = false ∧ (working job).marked 5 0x10000 64 = false ∧
    { working job with mem := { MemSys.reset with marks := [ramKey 0 0 0x10000] } }.marked 5 0x10000 64 = true := by
  decide +kernel

/-- HEAD counts modulo 2^32 and each sample takes the next sequence number (12 R322, 13 R358). -/
theorem test_intake :
    (mget (after (.intakeEntryFetch 1 ⟨leBytes 64 (0x10000 + 2 ^ 64 * 64 + 2 ^ 128), []⟩) (working job)).jobs 1).map
      (fun j => (j.head, j.lastSeq, j.nextSeq)) = some (0#32, 1, 2) := by decide +kernel

theorem witness_BatchesFillAndRelease :
    (working job).hubOn = true ∧ job.slotFree (0 / job.batch) = true ∧ mget job.firstAt (job.nextSeq / job.batch) = some 0 ∧
    job.batchDl ≠ 0 ∧ 0 + job.batchDl * 1000 ≤ (working job).now ∧ (working job).mapped 5 job.qVa 8 = true ∧
    (working job).mem.ends = [] ∧ job.qVa % 64 = 0 ∧ (let k := ramKey 0 0 0x12000
     ((working job).locOf 5 job.qVa).any (fun l => l.2.2 == some (.ram k)) = true ∧ k % 64 = 0 ∧ (working job).mem.poisoned k 8 = false) ∧
    (working { job with qVa := 0x20000 }).mapped 5 0x20000 8 = false ∧
    job.division = true ∧ job.batch ≠ 0 ∧ job.closeBatch.nextSeq = 4 ∧ job.nextSeq ≤ 1 ∧ 1 < job.closeBatch.nextSeq ∧
    { sample with st := .decoded }.void = false := by decide +kernel

def enc : EncCfg := ⟨0, 0, 20, 64, 30, 0, 0, 10, 0x14000, 2, 1⟩

def encoding (up : Bool) (nf : Nat) : Hw :=
  working { job with enc := some { enc with guideNf := nf }
                     samples := [(0, { sample with st := .decoded, noenc := false, pics := [⟨2, 2, []⟩], guideUp := up })] }

theorem witness_EncodersFollowGuidance :
    ([(true, 1), (false, 0), (false, 1)].all fun k => let m := encoding k.1 k.2
      m.hubOn && (mget m.jobs 1).any fun j => j.disabling.isEmpty && decide (j.batches ≤ 0 / j.batch) &&
        (mget j.samples 0).any fun x => j.encoding x 0 && (x.guideUp == k.1) && decide (x.encLen + 4 ≤ x.outMax) &&
          decide (x.outMax < x.encLen + 5) && decide (x.readyAt + enc.guideDl * 1000 ≤ m.now)) = true ∧
    (mget (encoding false 1).jobs 1).any (fun j => !((encoding false 1).guided j { enc with guideNf := 1 } 1 0)) = true ∧
    (mget (encoding false 1).jobs 1).any (fun j =>
      (encoding false 1).guided j { enc with guideNf := 1 } 0 0) = true := by decide +kernel

/-- A sample whose record has not arrived, at its deadline. -/
theorem witness_a_missing_record :
    (let j := { job with enc := some enc, batch := 2, batches := 0
                         samples := [(1, { sample with st := .decoded, noenc := false, pics := [⟨2, 2, []⟩] })] }
     let m := working j
     m.hubOn = true ∧ (mget j.samples 1).any (fun x => j.encoding x 0 && !x.guideUp) = true ∧ j.disabling = [] ∧
     j.batches ≤ 1 / j.batch ∧ enc.guideDl ≠ 0 ∧ 0 < enc.guideNf ∧ sample.readyAt + enc.guideDl * 1000 ≤ m.now ∧
     m.guided j enc 1 0 = false) := by decide +kernel

/-! ### Telemetry, power -/

def armed (pub : Bool) (period : Nat) : Hw :=
  { live with snap := { Snap.reset with armTick := some 0, period := period, publishing := pub, skipped := 0xFFFFFFFF }
              quay := { live.quay with fwBeatAt := 0 }, island := { live.island with tide := 1000000000 } }

theorem witness_SnapshotsAreTakenWhole :
    ([(false, 0), (false, 5), (true, 0), (true, 5)].all fun k => let m := armed k.1 k.2
      m.snapDue == some (0, 1000) && m.hubOn && (m.snap.publishing == k.1) && m.fwRuns && m.quay.fwAlive &&
      decide (m.quay.fwBeatAt + 1000000000 ≤ m.now)) = true ∧ live.snapDue = none := by decide +kernel

theorem witness_SupplyWarningsThrottle :
    live.island.on = true ∧ live.quay.warn = false ∧ live.power.bus48Warn = false ∧ live.power.overWarn = false ∧
    (let m := after (.brownWarning 33999 48000) live
     m.island.on = true ∧ m.quay.warn = true ∧ m.power.brown = true ∧ m.power.restoring = false) ∧
    (let m := { live with power := { live.power with bus48 := true, riseAt := some 0, rise48At := some 9000000, overWarn := true } }
     m.power.restoring = false ∧ m.capstanShut = false ∧ timerDone m.now m.power.brown m.power.riseAt = true ∧
     timerDone m.now m.power.bus48 m.power.rise48At = true) := by decide +kernel

theorem witness_StopsAreOrderly :
    live.island.on = true ∧ live.quay.st ≠ .stopped ∧ live.quay.st ≠ .stopping ∧
    (let m := after (.inputUndervoltageStop 29999) live
     m.live = true ∧ m.quay.st = .stopping) ∧
    (after (.inputUndervoltageStop 30000) live).quay.st = .ready ∧
    (after (.criticalTemperature 3 269) live).quay.st = .ready ∧ (after (.criticalTemperature 3 270) live).quay.st = .stopping ∧
    (after (.criticalTemperature 4 260) live).quay.st = .stopping := by decide +kernel

def asked (warned : Bool) : Hw := { live with power := { live.power with queue := [⟨1, 0, 0, warned⟩], wakeBound := 9999 } }

theorem witness_CapstanAndPowerCap :
    (asked false).island.on = true ∧ (asked false).quay.st ≠ .stopped ∧ (asked false).capstanShut = false ∧
    (asked false).power.queue = [⟨1, 0, 0, false⟩] ∧
    ((asked false).power.queue.find? fun r => !r.warned && decide (r.at_ + (asked false).power.wakeBound * 1000 < (asked false).now)) =
      some ⟨1, 0, 0, false⟩ ∧
    live.hubOn = true ∧ live.poolClusters.contains 32 = false ∧
    (let m := { live with power := { live.power with overSince := some 0, clocks := List.replicate 32 400 } }
     m.power.noted = false ∧ 0 + 10000000 ≤ m.now ∧ m.poolClusters.all (fun i => decide (lget m.power.clocks i 0 ≤ 400)) = true) ∧
    0 < live.power.lost.length := by decide +kernel

/-- With nothing admitted in the last millisecond every request is within its 100 A. -/
theorem witness_an_admissible_request : (asked false).capstanAdmits ⟨1, 0, 0, false⟩ = true := by
  have h : reqCurrent 1 ≤ 100000 := Nat.le_of_lt_succ (Nat.mod_lt _ (by decide))
  simpa [Hw.capstanAdmits, asked, live, Power.reset] using h

def hot : Hw := { live with power := { live.power with hot := 8#4, inlet := true } }

theorem witness_ThermalLimitsAct :
    live.island.on = true ∧ 3 < live.power.thermal.length ∧ live.power.quartersUp.getLsbD 3 = true ∧ live.power.hot.getLsbD 3 = false ∧
    hot.power.hot.getLsbD 3 = true ∧ lget hot.power.lastThermal 3 0 + 100000 ≤ hot.now ∧ live.power.inlet = false ∧
    hot.power.inlet = true := by decide +kernel

/-- A quarter at 105 °C runs at 1500 MHz at most from a maximum of 1600 MHz (16 R432). -/
theorem test_thermal_throttle :
    lget (after (.quarterThermalThrottle 3 250) live).power.thermal 3 0 = 1500 ∧
    lget (after (.quarterThermalThrottle 3 249) live).power.thermal 3 0 = 1600 := by decide +kernel

/-! ### Resets and power states -/

/-- What the tests of a bring-up find where every unit is good. -/
def allGood : Found :=
  ⟨0xF#4, List.replicate 4 (BitVec.allOnes 68), 0xFFFF#16, List.replicate 4 0#128, List.replicate 4 0#16, List.replicate 6 36,
   List.replicate 8 36, true, true, [], [0, 0, 0, 0]⟩

/-- A power-on reset that comes up, before or after its first two steps. -/
def rising (p : Option Picked) : Hw := { Hw.reset with coming := some ⟨0, allGood, false, p⟩ }

theorem witness_ResetsEndWhatTheySay :
    live.boot = .done ∧ live.host.up = true ∧ live.hostOn = true ∧ live.inReset = false ∧ live.quay.st ≠ .stopping ∧
    (0xC17E0003#64 : BitVec 64) ≠ 0xC17E0001#64 ∧ live.cores = [] ∧ live.ctxs = [] ∧
    (let m := { live with quay := { live.quay with st := ModState.stopped } }
     m.island.on = true ∧ m.quay.st = .stopped ∧ m.power.steadyFrom + 10 ^ 9 > m.now ∧
     { m with island := { m.island with tide := 10 ^ 9 } }.power.steadyFrom + 10 ^ 9 ≤ 10 ^ 9) ∧
    Hw.reset.boot ≠ .done ∧ Hw.reset.boot ≠ .off ∧ Hw.reset.coming = none ∧ Hw.reset.island.on = true ∧
    { Hw.reset.island with on := false }.on = false ∧ { Flash.manufacture with trial := some true }.trial ≠ none := by decide +kernel

theorem witness_a_bring_up :
    (rising none).boot = .pending ∧ (rising none).coming.any (fun c => c.picked.isNone && !c.hung) = true ∧
    (rising none).bootSlot false = some (false, false, 0) ∧
    (let m := rising none
     { m with flash := { m.flash with slotA := .empty } }.bootSlot false = none) ∧
    (let m := rising (some ⟨false, false, 0, 0, true⟩)
     m.power.quartersUp ≠ 0xF#4 ∧ { m with power := { m.power with quartersUp := 0xF#4, hubUp := true } }.power.hubUp = true) := by
  decide +kernel

def targeted (p : PState) : Hw :=
  { live with ctxs := [(5, { ctx with st := .enabled })], power := { live.power with target := some (p, 3, 0) } }

def anchored (h : List HeldWrite) : Hw :=
  { live with quay := { live.quay with ps := .anchor, held := h }, power := { live.power with quartersUp := 0#4, hubUp := false } }

theorem witness_PowerStatesChange :
    ([PState.hold, .anchor].all fun p => let m := targeted p
      (m.power.target == some (p, 3, 0)) && !m.runsLeft && m.hubOn && (m.quay.ps == .run) && m.drained 5) = true ∧
    (anchored [.mailbox 3 0x10000#64]).live = true ∧ (anchored []).quay.ps = .anchor ∧ ((anchored []).port 0).cfg ≠ none ∧
    ((anchored []).port 0).up = true ∧ (anchored [.mailbox 3 0x10000#64]).quay.held ≠ [] ∧ (anchored []).quay.held = [] ∧
    (let m := { live with quay := { live.quay with ps := .waking } }
     m.live = true ∧ m.power.quartersUp = 0xF#4 ∧ m.power.hubUp = true) := by decide +kernel

/-! ### The host's accesses -/

/-- Window 0 shows context 5 from VA 0, with its page writable or not. -/
def windowed (ro : Bool) : Hw :=
  { work with host := { live.host with windows := [(0, ⟨5, 0⟩)] }, ctxs := [(5, { ctx with leaves := [{ leaf with ro := ro }] })] }

theorem witness_HostAccessesAreServedOrCounted :
    (windowed false).hostOn = true ∧ (windowed false).bar2Target 0x10000 8 = some (5, 0x10000) ∧
    (windowed false).bar2Target 0x1FFF8 8 = some (5, 0x1FFF8) ∧ (windowed false).bar2Target 0x1FFF9 8 = none ∧
    (windowed false).bar2Target (2 ^ 34 - 8) 8 = none ∧ (windowed false).someRO 5 0x10000 8 = false ∧
    (windowed true).bar2Target 0x10000 8 = some (5, 0x10000) ∧ (windowed true).someRO 5 0x10000 8 = true ∧
    quayShape 0x3FFFF9 8 false = false ∧ quayShape 0x1000 8 false = true ∧
    (let v : Vec := ⟨0, 0, true, true, [(1, 3)], 0, none⟩
     let h := { live.host with vecs := [(2, v)] }
     (h.vec 2).pend = true ∧ h.cfg.silent = false ∧ (h.vec 2).ready live.now = true ∧ (h.vec 1).pend = false) := by decide +kernel

def ringed : Hw := { queued none with jobs := [(1, job)], ctxs := [(5, { ctx with ring := some ⟨0, 64, 3#32, 0xFFFFFFFF#32, false, 0, 0⟩ })] }

/-- Pair 3 has a request with sequence number 0 and is idle. -/
def idlePair (c : CmdSpec) : Hw :=
  let m := ask work c []
  { m with espor := { m.espor with pairs := m.espor.pairs.map fun p => (p.1, { p.2 with st := .idle }), order := [] } }

theorem witness_PointersAndDoorbells :
    ringed.hostOn = true ∧ ringed.inReset = false ∧ ringed.quay.ps = .run ∧ mget ringed.jobs 0 = none ∧
    mget ringed.jobs 1 = some job ∧ (job.head + 16 - job.head).toNat ≤ job.nent ∧
    (job.head + 16 - job.tail).toNat ≤ (job.head + 16 - job.head).toNat ∧ ¬(job.head + 17 - job.head).toNat ≤ job.nent ∧
    mget ringed.queues 0 = none ∧ (mget ringed.queues 2).isSome = true ∧ (mget ringed.ctxs 6).bind Ctx.ring = none ∧
    ((mget ringed.ctxs 5).bind Ctx.ring).any (fun r => decide ((r.tail - 3#32).toNat ≤ r.nent) &&
      decide ((3#32 - r.head).toNat ≤ (r.tail - r.head).toNat) && !decide ((4#32 - r.head).toNat ≤ (r.tail - r.head).toNat)) = true ∧
    ringed.coreValid 255 = true ∧
    (let m := idlePair infoCmd
     let p := m.espor.pair 3
     p.seq = 0 ∧ p.st = .idle ∧ m.quay.fwAlive = true ∧ m.quay.reason ≠ 0x0910#16 ∧ catalogue.contains p.cmd = true) ∧
    (anchored []).hostOn = true ∧ (anchored []).inReset = false ∧ (anchored []).quay.ps = .anchor ∧
    (anchored []).quay.held.length < 64 ∧ (anchored (List.replicate 64 (.mailbox 3 0#64))).quay.held.length = 64 ∧ quayShape 0x1001 4 true = false ∧
    ringed.boot = .done ∧ (leBytes 4 6).length = 4 ∧ bitb (leNat (leBytes 4 6)) 2 = true := by decide +kernel

/-- The doorbell of 13 R360's example: 0x0000_0003_0011_0001 to core 0x41 adds 3 to bollard 61 for context 17. -/
theorem test_doorbell_example :
    (let v := (0x0000000300110001#64).toNat
     bellReserved v = false ∧ bits v 25 16 = 17 ∧ 60 + bits v 1 0 = 61 ∧ bitb v 2 = false ∧ bits v 63 32 = 3) := by
  decide +kernel

/-! ### Mailbox commands -/

/-- Firmware may serve pair 3 with the row, and its header is in order. -/
def taken (m : Hw) (c : CmdSpec) : Bool := m.maybeServed 3 c.code && (m.headCheck (m.espor.pair 3) c).isNone

/-- `taken` is what the statements call `Taken`. -/
theorem taken_spec (m : Hw) (c : CmdSpec) (h : taken m c = true) : Taken (st m) 3 c := by
  simpa [taken, Taken, st, Option.isNone_iff_eq_none] using h

theorem witness_MailboxCommandsAreServed :
    ([ctxCreateCmd, ctxSetCmd, ctxFaultsCmd, planEnableCmd, planDisableCmd, fsetLoadCmd, routeLoadCmd, subqCreateCmd,
      subqDestroyCmd, mapCmd, migrateCmd, retireFrameCmd, retireUnitCmd, scrubCfgCmd, apertureCmd, seqTableCmd].all fun c =>
        taken (ask work c []) c) = true ∧
    ([seqDefineCmd, portCfgCmd, flowWriteCmd, streamEnableCmd, streamDisableCmd, quarClearCmd, quarListCmd, jobDisableCmd,
      partCreateCmd, pstateCmd, powerLimitCmd, tideCfgCmd, capstanCfgCmd, healthReadCmd, healthClearCmd, topoAcceptCmd].all fun c =>
        taken (ask work c []) c) = true ∧
    ([errlogReadCmd, evringCreateCmd, evringDestroyCmd, intrBindCmd, snapArmCmd, snapCancelCmd, infoCmd, ctxDestroyCmd, unmapCmd,
      mapAttrCmd, seqReleaseCmd, partDestroyCmd, jobEnableCmd, fwStageCmd, echoCmd 224].all fun c => taken (ask work c []) c) = true :=
  by decide +kernel

/-- A core with an issued request is not quiet; requests, moves, broken cores and refills make commands wait. -/
theorem witness_commands_that_wait :
    (let m := ask (holds (put (some 9950000))) ctxDestroyCmd []
     taken m ctxDestroyCmd = true ∧ m.coreBroken 5 = false ∧ m.quietCtx 5 = false ∧ m.pagesBusy 5 0x10000 0x10000 = true) ∧
    (failed []).coreBroken 5 = true ∧
    ((holds (put (some 9950000))).updCtx 5 fun x => { x with seqVa := 0x10000, seqN := 1 }).tableBusy 5 = true ∧
    (tuned fun c => { c with ops := [{ waiting .done with eff := { OpEffect.none with seqs := [3] } }] }).seqBusy 5 3 1 = true ∧
    (let m := ask (moving 0 false) mapAttrCmd (leBytes 8 0x10000 ++ leBytes 8 0x10000 ++ [8, 0])
     m.moorWaits (m.espor.pair 3) = true) ∧
    { live with parts := [(2, ⟨true, 1#32, [], [some (7, 0)], false⟩)] }.refillWaits 2 = true := by decide +kernel

theorem witness_commands_that_need_not_wait :
    work.coreBroken 5 = false ∧ work.quietCtx 5 = true ∧ work.pagesBusy 5 0x10000 0x10000 = false ∧
    (let m := ask work mapAttrCmd []
     m.moorWaits (m.espor.pair 3) = false) ∧
    (let m := ask work seqReleaseCmd []
     m.releaseWaits (m.espor.pair 3) = false) ∧ work.refillWaits 0 = false ∧ work.tableBusy 5 = false ∧ work.seqBusy 5 0 1 = false ∧
    work.maybeServed 3 1 = false ∧
    (let m := ask { work with quay := { work.quay with st := .notReady } } scrubCfgCmd []
     m.headCheck (m.espor.pair 3) scrubCfgCmd = some (0x0009, 0)) := by decide +kernel

/-- A request of `c` with parameter bytes `bs` is taken, and its pair satisfies `f`. -/
def asks (m : Hw) (c : CmdSpec) (bs : List Byte) (f : Pair → Bool) : Bool :=
  taken (ask m c bs) c && f ((ask m c bs).espor.pair 3)

theorem witness_ConfigurationCommandsSetWhatTheyName :
    (asks work ctxSetCmd (leBytes 4 7 ++ leBytes 4 60000 ++ leBytes 8 65536 ++ leBytes 8 0) fun p =>
      p.ctxNo == 5 && ctx.tierBytes 0 == 65536 && p.arg 4 4 == 60000 && p.arg 8 8 == 65536) = true ∧
    ([4, 16].all fun k => asks work subqCreateCmd (leBytes 8 64 ++ leBytes 4 (2 ^ k)) fun p =>
      p.arg 0 8 % 64 == 0 && p.arg 8 4 == 2 ^ k) = true ∧ chooseKey work.queues 255 256 = some 255 ∧
    ([6, 20].all fun k => asks work evringCreateCmd (leBytes 8 64 ++ leBytes 4 (2 ^ k) ++ [1]) fun p =>
      p.arg 8 4 == 2 ^ k && p.arg 12 1 == 1) = true ∧ ctx.ring = none ∧ work.moduleRing = none ∧
    ([1, 63].all fun v => asks work intrBindCmd ([BitVec.ofNat 8 v, 1] ++ leBytes 2 63 ++ leBytes 2 1000) fun p =>
      p.arg 0 1 == v && p.arg 1 1 ≤ 3 && p.arg 4 2 ≤ 1000 && p.arg 6 1 == 0 && work.sourceExists (p.arg 1 1) (p.arg 2 2)) = true ∧
    work.host.binds.length < 64 ∧
    ([0, 1].all fun b => asks work apertureCmd (leBytes 2 15 ++ [BitVec.ofNat 8 b] ++ leBytes 5 0 ++ leBytes 8 (2 ^ 30)) fun p =>
      p.arg 8 8 % 2 ^ 30 == 0 && p.arg 0 2 < 2 ^ (work.host.bar2 - 30) && p.arg 2 1 == b) = true ∧ work.host.windows = [] ∧
    (asks work portCfgCmd ([3, 7] ++ leBytes 2 4095 ++ [32, 128]) fun p =>
      p.arg 1 1 ≤ 7 && p.arg 0 1 == 3 && p.arg 2 2 == 4095 && p.arg 4 1 == 32 && p.arg 5 1 == 128) = true ∧ 3 < work.ports.length ∧
    ([4, 168].all fun h => asks work scrubCfgCmd (leBytes 2 h ++ leBytes 2 1) fun p => p.arg 0 2 == h && p.arg 2 2 != 0) = true ∧
    ([100, 10000000].all fun w => asks work capstanCfgCmd (leBytes 4 w) fun p => p.arg 0 4 == w) = true := by decide +kernel

theorem witness_module_commands :
    ([(400, 12), (1600, 48)].all fun (k : Nat × Nat) => asks work powerLimitCmd (leBytes 2 k.1 ++ leBytes 1 k.2) fun p =>
      p.arg 0 2 == k.1 && k.1 % 25 == 0 && k.1 ≤ work.fuses.clk && work.topFrt ≤ k.1 && p.arg 2 1 == k.2 && k.2 ≤ work.fuses.pwr)
      = true ∧
    ([1, 2].all fun t => asks work pstateCmd [BitVec.ofNat 8 t] fun p => p.arg 0 1 == t) = true ∧ work.streams = [] ∧
    work.jobs = [] ∧ work.fixedPlan = false ∧ work.quay.ps = .run ∧ work.power.target = none ∧ work.flash.trial = none ∧
    (imageFault work.fuses (fit 1 [])).isSome = true ∧
    (asks work healthClearCmd [] fun _ => true) = true ∧
    (asks work (echoCmd 224) [] fun p => p.len == 224) = true ∧ (asks work (echoCmd 0) [] fun p => p.len == 0) = true := by
  decide +kernel

/-- ECHO answers with its bytes, the status 0 and the pair DONE (14 R365, R372). -/
theorem test_echo :
    (let p := (after (.echo 3) (ask work (echoCmd 2) [0xAB#8, 0xCD#8])).espor.pair 3
     rdN p.resp 32 2 = [0xAB#8, 0xCD#8] ∧ p.st = .done) := by decide +kernel

theorem witness_SidebandAnswersItsTable :
    live.fuses.stepL < 16 ∧ live.fuses.stepD < 16 ∧ live.island.on = true ∧ live.island.asked = none ∧
    { live.island with asked := some .invalid }.asked.isSome = true ∧ (pldmCommands 2).contains 0xFE = false := by
  decide +kernel

/-- A job block with one consumer, 16 × 16 samples and the mode `mode`. -/
def jobBlock (mode : Nat) : List Byte :=
  fit 256 (leBytes 8 0x2000 ++ leBytes 4 64 ++ [1, 1, 0, BitVec.ofNat 8 mode] ++ leBytes 2 16 ++ leBytes 2 16 ++ leBytes 4 1
    ++ leBytes 2 1 ++ [2, 1] ++ leBytes 2 1 ++ [60, 0] ++ leBytes 8 0x10000 ++ leBytes 6 0 ++ [1, 0] ++ leBytes 8 0
    ++ leBytes 4 0 ++ leBytes 2 16 ++ leBytes 2 16 ++ leBytes 2 16 ++ leBytes 2 16 ++ leBytes 2 1 ++ [1])

theorem witness_TideAndJobModesAreGuarded :
    ([(1001, 1001), (1001000, 1001)].all fun (k : Nat × Nat) =>
      asks live tideCfgCmd ([0, 0, 1, 0] ++ leBytes 4 k.1 ++ leBytes 4 k.2) fun p =>
        p.arg 0 1 ≤ 1 && p.arg 2 1 == 1 && p.arg 8 4 == 1001 && p.arg 8 4 ≤ p.arg 4 4 && p.arg 4 4 ≤ 1000 * p.arg 8 4) = true ∧
    (live.port 0).cfg ≠ none ∧ live.streams = [] ∧ live.tideWaits = false ∧ (late true).streams ≠ [] ∧
    ([0, 1].all fun mode => let l := jobBlock mode; let j := Job.parse 5 l
      (asks work jobEnableCmd [] fun p => p.xlen == 256 && p.ctxNo == 5) && fit 256 l == l && !jobReserved l && j.ba % 64 == 0 &&
        j.maxima && numAt l 15 1 == mode && !tzReserved (l.drop 56) && !encReserved (l.drop 120) && j.clusters == 1 &&
        1 ≤ j.ndec && j.ndec ≤ work.engineFree 8 Job.ndec && 1 ≤ j.ntz && j.ntz ≤ work.engineFree 8 Job.ntz &&
        j.nenc ≤ work.engineFree 4 Job.nenc && work.jobRanges ctx j && j.tz.ok && j.enc.isNone) = true ∧
    chooseKey work.jobs 63 64 = some 63 := by decide +kernel

theorem witness_SnapshotsAreArmedAndCancelled :
    ({ live.island with tideCfg := none }.tideCfg = none) ∧
    (asks live snapArmCmd (leBytes 8 0 ++ leBytes 4 0) fun p => decide (tide.at (p.arg 0 8) ≤ live.now)) = true ∧
    (asks live snapArmCmd (leBytes 8 1 ++ leBytes 4 1) fun p => decide (live.now < tide.at (p.arg 0 8)) && p.arg 8 4 == 1 &&
      10 ^ 6 ≤ 1 * (10 ^ 9 * tide.den / tide.num)) = true ∧
    1 * (10 ^ 9 * 1 / 2000) < 10 ^ 6 ∧
    (armed false 5).hubOn = true ∧ (armed false 5).snap.armTick = some 0 ∧ (armed false 5).island.tideCfg = some tide ∧
    tide.at 0 ≤ (armed false 5).now ∧ (asks live snapCancelCmd [] fun _ => true) = true ∧ (armed true 0).snap.publishing = true := by
  decide +kernel

theorem witness_DisabledStreamsTakeNoPackets :
    (let m := flowing none []
     m.hubOn = true ∧ (m.port 0).up = true ∧
     ((m.flows.find? fun f => f.2.hits 0 pkt).any fun f => f.2.judge pkt == .pass && f.2.stream == 3) = true ∧
     (m.quarOf 0 pkt).isNone = true ∧ m.streams = []) ∧ { stream with ctx := 6 }.ctx ≠ 5 ∧
    { stream with entries := [] }.entries.contains 0 = false ∧
    (let m := { work with streams := [(3, stream)] }
     (asks m streamDisableCmd (leBytes 2 3) fun p => p.arg 0 2 == 3) = true ∧ mhas m.streams 3 = true ∧
     (m.streams.map Prod.fst).Nodup) := by decide +kernel

end Sys2Proof.Tests
end

section
/-! PROOF. Starting an op: when a thread may start one (02 R36), and what each op command then does (O9, O11, O12, O13). -/

namespace Sys2Proof

open Machine

/-! ### When an op is startable -/

/-- The surroundings of an op exist exactly where its context is resident and its thread runs with the descriptor staged. -/
theorem envOf_eq_some {m : Hw} {core thread : Nat} {e : Env} (h : m.envOf core thread = some e) :
    (e.m = m ∧ e.core = core ∧ e.thread = thread) ∧ thread < 4 ∧ m.coreValid core = true ∧ m.quay.st = .ready ∧
    m.clocked = true ∧ (m.core core).broken = none ∧ (m.core core).ctx = some e.ctx ∧
    (∃ x, mget m.ctxs e.ctx = some x ∧ x.st = .resident) ∧ ((m.core core).thread thread).st = .running ∧
    ((m.core core).thread thread).next = some e.addr ∧ e.addr ∈ ((m.core core).thread thread).staged := by
  unfold Hw.envOf at h
  dsimp only at h
  split at h
  case h_2 => cases h
  case h_1 x a hx ha =>
    split at h
    case h_2 => cases h
    case h_1 y p hy hp =>
      split at h
      case isFalse => cases h
      case isTrue hc =>
        simp only [Bool.and_eq_true, decide_eq_true_eq, beq_iff_eq, Option.isNone_iff_eq_none,
          List.contains_iff_mem] at hc
        obtain ⟨⟨⟨⟨⟨⟨⟨hv, ht⟩, hy'⟩, hq⟩, hcl⟩, hb⟩, hr⟩, hs⟩ := hc
        cases h
        exact ⟨⟨rfl, rfl, rfl⟩, ht, hv, hq, hcl, hb, hx, ⟨y, hy, hy'⟩, hr, ha, hs⟩

theorem startable_eq_some {m : Hw} {core thread : Nat} {e : Env} :
    m.startable core thread = some e ↔ m.envOf core thread = some e ∧ e.turnOk = true := by
  unfold Hw.startable
  split
  · next f hf =>
    rw [hf]
    split
    · next h => exact ⟨fun he => by cases he; exact ⟨rfl, h⟩, fun he => he.1⟩
    · next h => exact ⟨nofun, fun he => by cases he.1; exact absurd he.2 h⟩
  · next hf => simp [hf]

/-- A startable op meets every start condition of 02 R36. -/
theorem ready_of_startable {m : Hw} {core thread : Nat} {e : Env} (h : m.startable core thread = some e) :
    e.predOk = true ∧ e.preOk = true ∧ e.unitsOk = true ∧ e.swapOk = true ∧ e.takeFree = true := by
  have ht := (startable_eq_some.1 h).2
  simp only [Env.turnOk, Env.canStart, Env.ready, Bool.and_eq_true] at ht
  obtain ⟨⟨⟨⟨⟨⟨⟨hp, hq⟩, hu⟩, hs⟩, -⟩, hf⟩, -⟩, -⟩ := ht
  exact ⟨hp, hq, hu, hs, hf⟩

/-! ### What an op command does -/

section

variable {m : Hw} {core thread : Nat} {kind : Env → Bool} {body : Env → Body} {cond : Env → Cond}
  {f : Env → OpRec → OpRec} {after : Env → Hw → Hw}

theorem startWith_of_startable {e : Env} (h : m.startable core thread = some e) (hk : kind e = true) :
    m.startWith core thread kind body cond f after = after e (started m e (body e) (cond e) (f e)) := by
  obtain ⟨⟨-, rfl, -⟩, -⟩ := envOf_eq_some (startable_eq_some.1 h).1
  simp only [Hw.startWith, h, hk, if_true, started]

theorem startWith_of_not_startable (h : m.startable core thread = none) :
    m.startWith core thread kind body cond f after = m := by
  simp only [Hw.startWith, h]

end

/-- A command that starts an op of its kind leaves what that start leaves. -/
theorem leaves_startWith {i : Instr} {s : State} {core thread : Nat} {e : Env} {kind : Env → Bool} {body : Env → Body}
    {cond : Env → Cond} {f : Env → OpRec → OpRec} {after : Env → Hw → Hw}
    (hi : exec i s = onHw (fun m => m.startWith core thread kind body cond f after) s)
    (h : s.m.startable core thread = some e) (hk : kind e = true) {t : Hw}
    (ht : after e (started s.m e (body e) (cond e) (f e)) = t) : Leaves i s t := by
  rw [Leaves, hi, onHw_next, startWith_of_startable h hk, ht]

theorem idles_startWith {i : Instr} {s : State} {core thread : Nat} {kind : Env → Bool} {body : Env → Body}
    {cond : Env → Cond} {f : Env → OpRec → OpRec} {after : Env → Hw → Hw}
    (hi : exec i s = onHw (fun m => m.startWith core thread kind body cond f after) s)
    (h : s.m.startable core thread = none) : Idles i s := by
  rw [Idles, hi, onHw_next, startWith_of_not_startable h]

theorem exec_tideWait_of_none {s : State} {core thread : Nat} (h : s.m.island.tideCfg = none) :
    Idles (.tideWait core thread) s := by
  change execTideWait core thread s = _
  simp only [execTideWait, onHw, h]

/-- With a configured tide a TIDE_WAIT is a start like the others. -/
theorem exec_tideWait_of_some {s : State} {core thread : Nat} {t : TideCfg} (h : s.m.island.tideCfg = some t) :
    exec (.tideWait core thread) s = onHw (fun m => m.startWith core thread (fun e => e.h.opcode == 0x1A)
      (fun _ => Body.empty) (fun e => .tide (e.tideTarget t).2 ((e.m.core e.core).thread e.thread).lastTick) (fun _ o => o)
      (Env.tideStart t)) s := by
  change execTideWait core thread s = _
  simp only [execTideWait, onHw, h]

/-- Settles O9: each product op is one `startOp` of its kind and body. -/
theorem productOpsStart : Obligations.ProductOpsStart := by
  intro s core thread e h
  refine ⟨?_, ?_, ?_, ?_, ?_, ?_, ?_, ?_, ?_, ?_, ?_, ?_, ?_⟩
  all_goals
    intro hk
    refine leaves_startWith rfl h (by simp [hk]) ?_
    rfl

/-- Settles O11: each of these commands is one `startWith`, with what its start does besides as the last step. -/
theorem waitingAndFerryOpsStart : Obligations.WaitingAndFerryOpsStart := by
  intro s core thread e h
  obtain ⟨⟨-, rfl, -⟩, -⟩ := envOf_eq_some (startable_eq_some.1 h).1
  refine ⟨?wait, exec_tideWait_of_none, ?tide, ?marshal, ?prefetch, ?send, ?ret, ?badRet, ?combine⟩
  case tide =>
    intro c hc hk
    exact leaves_startWith (exec_tideWait_of_some hc) h (by simp [hk]) rfl
  case ret =>
    rintro ⟨ho, hm, hb⟩
    refine leaves_startWith rfl h (by simp [ho, hm]) ?_
    simp only [hb, if_true]
  case badRet =>
    rintro ⟨ho, hm, hb⟩
    refine leaves_startWith rfl h (by simp [ho, hm]) ?_
    simp only [startedOp, Env.returnBody, hb, Bool.false_eq_true, if_false]
  all_goals
    intro hk
    refine leaves_startWith rfl h (by simp [hk]) ?_
    rfl

/-- Settles O13: with no startable op every op command is a start of nothing. -/
theorem noStartChangesNothing : Obligations.NoStartChangesNothing := by
  intro s core thread h
  have tide : Idles (.tideWait core thread) s := by
    cases hc : s.m.island.tideCfg with
    | none => exact exec_tideWait_of_none hc
    | some c => exact idles_startWith (exec_tideWait_of_some hc) h
  simp only [List.forall_mem_cons]
  refine ⟨?_, ?_, ?_, ?_, ?_, ?_, ?_, ?_, ?_, ?_, ?_, ?_, ?_, ?_, ?_, ?_, ?_, ?_, ?_, ?_, ?_, ?_, ?_, tide, ?_, ?_, ?_, ?_, ?_,
    ?_, ?_, ?_, by simp⟩
  all_goals exact idles_startWith rfl h

/-! ### The start conditions in words -/

theorem foldl_or_and_eq_zero {l : List OpRec} {w u : BitVec 10}
    (h : (l.foldl (fun w o => w ||| o.claims) w) &&& u = 0#10) :
    w &&& u = 0#10 ∧ ∀ o ∈ l, o.claims &&& u = 0#10 := by
  induction l generalizing w with
  | nil => exact ⟨h, fun o ho => absurd ho List.not_mem_nil⟩
  | cons o t ih =>
    obtain ⟨hw, ht⟩ := ih h
    rw [BitVec.and_or_distrib_right, BitVec.or_eq_zero_iff] at hw
    exact ⟨hw.1, List.forall_mem_cons.2 ⟨hw.2, ht⟩⟩

/-- Settles O12: the start conditions of 02 R36, one by one. -/
theorem opStartsOnlyWhenItMay : Obligations.OpStartsOnlyWhenItMay := by
  intro m core thread e h
  obtain ⟨⟨rfl, rfl, rfl⟩, hth, hval, hst, hclk, hbr, hctx, hres, hrun, hnext, hstaged⟩ :=
    envOf_eq_some (startable_eq_some.1 h).1
  obtain ⟨hpred, hpre, hunits, hswap, htake⟩ := ready_of_startable h
  refine ⟨rfl, rfl, rfl, hth, hval, hst, hclk, hbr, hctx, hres, hrun, hnext, hstaged, ?_, ?_, ?_, ?_, ?_, ?_, ?_⟩
  · intro hovl
    simpa [Env.predOk, hovl] using hpred
  · intro hovl n hn o ho hno
    have hissued : ∀ x ∈ (e.m.core e.core).ops, ¬x.no = n ∨ (e.m.core e.core).loadsIssued x = true := by
      simpa [Env.predOk, hovl, hn] using hpred
    exact (hissued o ho).resolve_left (not_not_intro hno)
  · intro hen hmode
    simpa [Env.preOk, preHolds, hen, hmode] using hpre
  · intro hen hmode
    simpa [Env.preOk, preHolds, hen, hmode, BitVec.le_def] using hpre
  · simpa [Env.takeFree] using htake
  · exact (foldl_or_and_eq_zero (by simpa [Env.unitsOk, Core.busy] using hunits)).2
  · simpa [Env.swapOk] using hswap

end Sys2Proof
end

section
/-! PROOF. What a start leaves on its core: the waits, takes, requests and the record of the new op (O15). -/

namespace Sys2Proof

open Machine

/-! ### Reading what was written: cores, threads, bollards -/

theorem core_setCore (m : Hw) (k j : Nat) (c : Core) : (m.setCore k c).core j = if j = k then c else m.core j := by
  simp only [Hw.core, setCore_cores, mgetD, mget_mset]
  split <;> rfl

@[simp] theorem core_setCore_same (m : Hw) (k : Nat) (c : Core) : (m.setCore k c).core k = c := by simp [core_setCore]

theorem core_setCore_ne (m : Hw) {k j : Nat} (c : Core) (h : j ≠ k) : (m.setCore k c).core j = m.core j := by
  simp [core_setCore, h]

@[simp] theorem core_updCore_same (m : Hw) (k : Nat) (f : Core → Core) : (m.updCore k f).core k = f (m.core k) :=
  core_setCore_same m k _

theorem core_updCore_ne (m : Hw) {k j : Nat} (f : Core → Core) (h : j ≠ k) : (m.updCore k f).core j = m.core j :=
  core_setCore_ne m _ h

theorem thread_setThread_same {c : Core} {t : Nat} (x : Thread) (h : t < c.threads.length) :
    (c.setThread t x).thread t = x := by
  simp [Core.setThread, Core.thread, lset, lget, h]

theorem thread_setThread_ne (c : Core) {t u : Nat} (x : Thread) (h : u ≠ t) : (c.setThread t x).thread u = c.thread u := by
  simp [Core.setThread, Core.thread, lset, lget, List.getElem?_set_ne (Ne.symm h)]

theorem bol_setBol (c : Core) (b d : Nat) (v : Word32) : (c.setBol b v).bol d = if d = b then v else c.bol d := by
  simp only [Core.setBol, Core.bol, mgetD, mget_mset]
  split <;> rfl

/-- What every step of a fold keeps, the fold keeps. -/
theorem foldl_keeps {σ α β : Type} (g : σ → β) {f : σ → α → σ} {l : List α}
    (hf : ∀ d, ∀ x ∈ l, g (f d x) = g d) (d : σ) : g (l.foldl f d) = g d := by
  induction l generalizing d with
  | nil => rfl
  | cons x t ih =>
    exact (ih (fun d y hy => hf d y (List.mem_cons_of_mem _ hy)) (f d x)).trans (hf d x List.mem_cons_self)

/-! ### Waits and takes -/

/-- The op whose wait on `b` is over waits for nothing more; the others stay as they are. -/
def endWait (c : Core) (b : Nat) (o : OpRec) : OpRec :=
  match o.cond with
  | .bollard bol mode val _ =>
    if bol == b && mode != 2 && waitHolds mode val (c.bol b) then { o with cond := .done } else o
  | _ => o

theorem endWait_frame (c : Core) (b : Nat) (o : OpRec) : { endWait c b o with cond := o.cond } = o := by
  unfold endWait
  split
  · split <;> rfl
  · rfl

/-- All that `checkWaits` may change: banks due to swap, and the conditions of waits that are over. -/
theorem checkWaits_frame (c : Core) (b : Nat) : { c.checkWaits b with ops := c.ops, fset := c.fset, route := c.route } = c := by
  unfold Core.checkWaits
  dsimp only
  split <;> rfl

theorem checkWaits_ops (c : Core) (b : Nat) : (c.checkWaits b).ops = c.ops.map (endWait c b) := by
  unfold Core.checkWaits
  dsimp only
  split
  · refine List.map_congr_left fun o _ => ?_
    unfold endWait
    split
    · next h => split at h <;> simp_all
    · next h => split <;> simp_all
  · next h =>
    refine (List.map_id _).symm.trans (List.map_congr_left fun o ho => ?_)
    have hno := fun hh => h (List.any_eq_true.2 ⟨o, ho, hh⟩)
    unfold endWait
    split
    · next hc => simp_all
    · rfl

@[simp] theorem checkWaits_bols (c : Core) (b : Nat) : (c.checkWaits b).bols = c.bols :=
  (congrArg Core.bols (checkWaits_frame c b) :)

@[simp] theorem checkWaits_nos (c : Core) (b : Nat) : (c.checkWaits b).ops.map (·.no) = c.ops.map (·.no) := by
  rw [checkWaits_ops, List.map_map]
  exact List.map_congr_left fun o _ => (congrArg OpRec.no (endWait_frame c b o) :)

/-- All that a take-mode pre-wait changes as its op starts: its bollard, the take of the cycle, and the waits it ends. -/
theorem takePre_frame (c : Core) (cyc : Nat) (h : OpHdr) :
    { c.takePre cyc h with bols := c.bols, took := c.took, ops := c.ops, fset := c.fset, route := c.route } = c := by
  unfold Core.takePre
  split
  · exact (congrArg (fun d : Core => { d with bols := c.bols, took := c.took })
      (checkWaits_frame (c.takeBol cyc h.preBol h.preVal) h.preBol) :)
  · rfl

@[simp] theorem takePre_threads (c : Core) (cyc : Nat) (h : OpHdr) : (c.takePre cyc h).threads = c.threads :=
  (congrArg Core.threads (takePre_frame c cyc h) :)
@[simp] theorem takePre_thread (c : Core) (cyc : Nat) (h : OpHdr) (t : Nat) : (c.takePre cyc h).thread t = c.thread t := by
  simp only [Core.thread, takePre_threads]
@[simp] theorem takePre_nextOp (c : Core) (cyc : Nat) (h : OpHdr) : (c.takePre cyc h).nextOp = c.nextOp :=
  (congrArg Core.nextOp (takePre_frame c cyc h) :)

@[simp] theorem takePre_nos (c : Core) (cyc : Nat) (h : OpHdr) :
    (c.takePre cyc h).ops.map (·.no) = c.ops.map (·.no) := by
  unfold Core.takePre
  split
  · exact checkWaits_nos _ _
  · rfl

/-- The bollard of a take-mode pre-wait falls by PRE_VAL; every other keeps its value (02 R45). -/
theorem takePre_bol (c : Core) (cyc : Nat) (h : OpHdr) (b : Nat) : (c.takePre cyc h).bol b =
    if h.preEn ∧ h.preTake ∧ b = h.preBol then c.bol b - h.preVal else c.bol b := by
  unfold Core.takePre
  by_cases hm : (h.preEn && h.preTake) = true
  · have hb : ((c.takeBol cyc h.preBol h.preVal).checkWaits h.preBol).bol b =
        if b = h.preBol then c.bol h.preBol - h.preVal else c.bol b := by
      simp only [Core.bol, checkWaits_bols]
      exact bol_setBol c h.preBol b _
    rw [if_pos hm, hb]
    simp only [Bool.and_eq_true] at hm
    by_cases hbb : b = h.preBol
    · subst hbb; simp [hm]
    · simp [hbb]
  · rw [if_neg hm]
    simp only [Bool.and_eq_true] at hm
    exact (if_neg fun hh => hm ⟨hh.1, hh.2.1⟩).symm

/-! ### Requests find slots -/

/-- A record apart from the requests that wait for a slot. -/
def bareOp (o : OpRec) : OpRec := { o with todo := [] }

theorem merge_frame (c : Core) : { c.merge with reqs := c.reqs } = c := by
  have h : { c.merge with reqs := [] } = { c with reqs := [] } :=
    foldl_keeps (fun d : Core => { d with reqs := [] }) (fun d r _ => by split <;> rfl) c
  exact (congrArg (fun d : Core => { d with reqs := c.reqs }) h :)

theorem fillOne_frame (n : Nat) (c : Core) (o : OpRec) :
    { (fillOne n c o).1 with reqs := c.reqs, nextReq := c.nextReq } = c ∧ bareOp (fillOne n c o).2 = bareOp o := by
  induction n generalizing c o with
  | zero => exact ⟨rfl, rfl⟩
  | succ n ih =>
    unfold fillOne
    split
    · exact ⟨rfl, rfl⟩
    · split
      · exact ⟨rfl, rfl⟩
      · split
        · exact ⟨rfl, rfl⟩
        · obtain ⟨hc, ho⟩ := ih { c with reqs := _, nextReq := c.nextReq + 1 } { o with todo := _ }
          exact ⟨(congrArg (fun d : Core => { d with reqs := c.reqs, nextReq := c.nextReq }) hc :), ho⟩

theorem fillAll_frame (c : Core) (l : List OpRec) :
    { (fillAll c l).1 with reqs := c.reqs, nextReq := c.nextReq } = c ∧
      (fillAll c l).2.map bareOp = l.map bareOp := by
  induction l generalizing c with
  | nil => exact ⟨rfl, rfl⟩
  | cons o t ih =>
    obtain ⟨hc, ho⟩ := fillOne_frame (o.todo.length + 1) c o
    obtain ⟨hd, hl⟩ := ih (fillOne (o.todo.length + 1) c o).1
    refine ⟨((congrArg (fun d : Core => { d with reqs := c.reqs, nextReq := c.nextReq }) hd).trans hc :), ?_⟩
    simp only [fillAll, List.map_cons, ho, hl]

/-- Filling the slots changes requests and, of the ops in progress, only the requests that wait. -/
theorem fill_frame (c : Core) : { c.fill with reqs := c.reqs, nextReq := c.nextReq, ops := c.ops } = c :=
  ((congrArg (fun d : Core => { d with reqs := c.reqs, nextReq := c.nextReq, ops := c.ops })
    (fillAll_frame c.merge c.merge.ops).1).trans
    (congrArg (fun d : Core => { d with nextReq := c.nextReq, ops := c.ops }) (merge_frame c)) :)

theorem fill_ops (c : Core) : c.fill.ops.map bareOp = c.ops.map bareOp :=
  (fillAll_frame c.merge c.merge.ops).2.trans (congrArg (fun d : Core => d.ops.map bareOp) (merge_frame c) :)

@[simp] theorem fill_nextOp (c : Core) : c.fill.nextOp = c.nextOp := (congrArg Core.nextOp (fill_frame c) :)
@[simp] theorem fill_lastThread (c : Core) : c.fill.lastThread = c.lastThread := (congrArg Core.lastThread (fill_frame c) :)
@[simp] theorem fill_threads (c : Core) : c.fill.threads = c.threads := (congrArg Core.threads (fill_frame c) :)

/-- What depends on a record's fixed part alone is the same of every op before and after the slots are filled. -/
theorem fill_map {α : Type} (c : Core) {g : OpRec → α} (hg : ∀ o, g (bareOp o) = g o) : c.fill.ops.map g = c.ops.map g := by
  have h := congrArg (List.map g) (fill_ops c)
  simpa only [List.map_map, Function.comp_def, hg] using h

/-! ### The start of an op -/

/-- The record of a new op. -/
def newOp (c : Core) (e : Env) (now cyc : Nat) (b : Body) (w : Cond) : OpRec :=
  { no := c.nextOp, thread := e.thread, addr := e.addr, hdr := e.h, claims := e.units, start := now
    due := cyc + b.cycles, cond := w, eff := OpEffect.ofBody b, todo := mkReqs c.nextOp e.thread e.h.tag b
    send := [], sealTo := [], sentTo := [], voy := 0, creditWait := 0, acks := 0, seen := []
    found := e.found }

/-- The thread of a new op, at the next descriptor. -/
def movedThread (c : Core) (e : Env) (now : Nat) : Thread :=
  { c.thread e.thread with
    next := flowNext e.h e.addr (c.thread e.thread).loop
    staged := (c.thread e.thread).staged.filter (fun a => a != e.addr)
    prev := some c.nextOp, waitSince := now, metAt := now, metCyc := none }

section

variable (c : Core) (e : Env) (now cyc : Nat) (b : Body) (w : Cond) (f : OpRec → OpRec)

/-- The core as an op starts, before its requests find slots. -/
def beginCore : Core :=
  { (c.takePre cyc e.h).setThread e.thread (movedThread c e now) with
    latch := b.latches.foldl (fun (a : Map Word32) (p : Nat × Word32) => mset a p.1 p.2) (c.takePre cyc e.h).latch
    ops := (c.takePre cyc e.h).ops ++ [f (newOp c e now cyc b w)]
    nextOp := c.nextOp + 1
    lastThread := e.thread }

theorem begin_eq : c.begin e now cyc b w f = (beginCore c e now cyc b w f).fill := by
  simp only [Core.begin, beginCore, movedThread, newOp, takePre_thread, takePre_nextOp, Core.setThread]

/-- All that the start of an op may change on its core. -/
theorem begin_frame : { c.begin e now cyc b w f with
    bols := c.bols, took := c.took, ops := c.ops, fset := c.fset, route := c.route, threads := c.threads, latch := c.latch
    nextOp := c.nextOp, lastThread := c.lastThread, reqs := c.reqs, nextReq := c.nextReq } = c := by
  have hfill := fill_frame (beginCore c e now cyc b w f)
  rw [← begin_eq] at hfill
  exact ((congrArg (fun d : Core => { d with
      bols := c.bols, took := c.took, ops := c.ops, fset := c.fset, route := c.route, threads := c.threads, latch := c.latch
      nextOp := c.nextOp, lastThread := c.lastThread, reqs := c.reqs, nextReq := c.nextReq }) hfill).trans
    (congrArg (fun d : Core => { d with threads := c.threads, latch := c.latch, nextOp := c.nextOp, lastThread := c.lastThread
                                        reqs := c.reqs, nextReq := c.nextReq })
      (takePre_frame c cyc e.h)) :)

@[simp] theorem begin_nextOp : (c.begin e now cyc b w f).nextOp = c.nextOp + 1 := by simp only [begin_eq, fill_nextOp, beginCore]

@[simp] theorem begin_lastThread : (c.begin e now cyc b w f).lastThread = e.thread := by
  simp only [begin_eq, fill_lastThread, beginCore]

theorem begin_nos (hf : ∀ o, (f o).no = o.no) :
    (c.begin e now cyc b w f).ops.map (·.no) = c.ops.map (·.no) ++ [c.nextOp] := by
  rw [begin_eq, fill_map _ fun _ => rfl]
  simp only [beginCore, List.map_append, takePre_nos, List.map_cons, List.map_nil, hf, newOp]

theorem begin_bol (d : Nat) : (c.begin e now cyc b w f).bol d =
    if e.h.preEn ∧ e.h.preTake ∧ d = e.h.preBol then c.bol d - e.h.preVal else c.bol d := by
  rw [← takePre_bol c cyc, begin_eq]
  exact (congrArg (fun x : Core => x.bol d) (fill_frame (beginCore c e now cyc b w f)) :)

theorem begin_thread_self (h : e.thread < c.threads.length) :
    (c.begin e now cyc b w f).thread e.thread = movedThread c e now := by
  rw [begin_eq, Core.thread, fill_threads]
  exact thread_setThread_same _ (by rwa [takePre_threads])

theorem begin_thread_other {t : Nat} (h : t ≠ e.thread) : (c.begin e now cyc b w f).thread t = c.thread t := by
  rw [begin_eq, Core.thread, fill_threads]
  exact (thread_setThread_ne _ _ h).trans (takePre_thread c cyc e.h t)

/-- The newest op of the core is the one that started, but for the requests that found a slot. -/
theorem begin_getLast : ∃ o, (c.begin e now cyc b w f).ops.getLast? = some o ∧
    bareOp o = bareOp (f (newOp c e now cyc b w)) := by
  have h : ((c.begin e now cyc b w f).ops.map bareOp).getLast? = some (bareOp (f (newOp c e now cyc b w))) := by
    rw [begin_eq, fill_ops, beginCore, List.map_append, List.map_cons, List.map_nil, List.getLast?_concat]
  rw [List.getLast?_map] at h
  exact Option.map_eq_some_iff.1 h

end

/-- Settles O15: a start adds one record, moves one thread on and makes requests. -/
theorem startedOpStandsInProgress : Obligations.StartedOpStandsInProgress := by
  intro c e now cyc b w f hf hlen
  have hth := begin_thread_self c e now cyc b w f hlen
  refine ⟨begin_nextOp .., begin_lastThread .., begin_nos c e now cyc b w f hf, ?_, ?_, ?_,
    fun t ht => begin_thread_other c e now cyc b w f ht, ?_, ?_, ?_, ?_⟩
  · rw [hth, movedThread]
  · rw [hth, movedThread]
  · rw [hth, movedThread]
    simp
  · intro hid
    obtain ⟨o, ho, hbare⟩ := begin_getLast c e now cyc b w f
    rw [hid] at hbare
    exact ⟨o, ho, (congrArg OpRec.claims hbare :), (congrArg OpRec.start hbare :), (congrArg OpRec.due hbare :),
      (congrArg OpRec.cond hbare :), (congrArg OpRec.hdr hbare :), (congrArg OpRec.thread hbare :),
      (congrArg OpRec.addr hbare :)⟩
  all_goals
    intro hflow
    simp only [flowNext, hflow]

end Sys2Proof
end

section
/-! PROOF. What the start of an op leaves as it was (O14). -/

namespace Sys2Proof

open Machine

/-- What of a core the start of an op, or the stop of a thread, leaves as it was, its bollards aside. -/
def lasting (c : Core) : Core :=
  { c with bols := [], took := [], ops := [], fset := Banks.empty, route := Banks.empty, threads := [], latch := []
           nextOp := 0, lastThread := 0, reqs := [], nextReq := 0 }

/-- `t` is `m` but for memory, the faults detected for contexts, and what of core `core` does not last. -/
structure StartKeeps (core : Nat) (m t : Hw) : Prop where
  rest : { t with cores := m.cores, ctxs := m.ctxs, mem := m.mem } = m
  others : ∀ k, k ≠ core → t.core k = m.core k
  contexts : ∀ c, (mget t.ctxs c).map (fun x => { x with detected := [] }) =
    (mget m.ctxs c).map fun x => { x with detected := [] }
  own : lasting (t.core core) = lasting (m.core core)

namespace StartKeeps

variable {core : Nat} {m t u : Hw}

theorem refl (core : Nat) (m : Hw) : StartKeeps core m m := ⟨rfl, fun _ _ => rfl, fun _ => rfl, rfl⟩

theorem trans (h : StartKeeps core m t) (h' : StartKeeps core t u) : StartKeeps core m u where
  rest := ((congrArg (fun x : Hw => { x with cores := m.cores, ctxs := m.ctxs, mem := m.mem }) h'.rest).trans h.rest :)
  others k hk := (h'.others k hk).trans (h.others k hk)
  contexts c := (h'.contexts c).trans (h.contexts c)
  own := h'.own.trans h.own

theorem updCore (m : Hw) {f : Core → Core} (hf : lasting (f (m.core core)) = lasting (m.core core)) :
    StartKeeps core m (m.updCore core f) where
  rest := rfl
  others _ hk := core_updCore_ne m f hk
  contexts _ := rfl
  own := by rw [core_updCore_same, hf]

theorem detect (m : Hw) (c : Nat) (r : FaultRec) :
    StartKeeps core m (m.updCtx c fun x => { x with detected := x.detected ++ [r] }) := by
  unfold Hw.updCtx
  split
  · exact refl core m
  · next x hx =>
    refine ⟨rfl, fun _ _ => rfl, fun d => ?_, rfl⟩
    dsimp only
    rw [mget_mset]
    split
    · next h => rw [h, hx]; rfl
    · rfl

theorem fault (m : Hw) (thread : Nat) (r : FaultRec) : StartKeeps core m (m.fault core thread r) :=
  (updCore m rfl).trans (detect _ _ r)

end StartKeeps

/-! ### The steps of a start -/

/-- Noting a wait changes threads and banks of its core alone. -/
def noteRest (core : Nat) (m : Hw) : Hw × (Nat → Core) :=
  ({ m with cores := [] }, fun k => if k = core then { m.core k with threads := [], fset := Banks.empty, route := Banks.empty }
    else m.core k)

theorem noteRest_updCore {core : Nat} (m : Hw) {f : Core → Core}
    (hf : ∀ c, { f c with threads := [], fset := Banks.empty, route := Banks.empty } =
      { c with threads := [], fset := Banks.empty, route := Banks.empty }) :
    noteRest core (m.updCore core f) = noteRest core m := by
  refine Prod.ext rfl (funext fun k => ?_)
  simp only [noteRest]
  split
  · next h => subst h; rw [core_updCore_same, hf]
  · next h => exact core_updCore_ne m f h

theorem noteWaits_rest (m : Hw) (core b : Nat) : noteRest core (m.noteWaits core b) = noteRest core m := by
  refine foldl_keeps (noteRest core) (fun d t _ => ?_) m
  split
  · split
    · exact noteRest_updCore d fun c => by dsimp only; split <;> rfl
    · rfl
  · rfl

theorem noted_rest (e : Env) (m : Hw) : noteRest e.core (e.noted m) = noteRest e.core m :=
  foldl_keeps (noteRest e.core) (fun d b _ => noteWaits_rest d e.core b) m

theorem noted_core (e : Env) (m : Hw) :
    { (e.noted m).core e.core with threads := [], fset := Banks.empty, route := Banks.empty } =
      { m.core e.core with threads := [], fset := Banks.empty, route := Banks.empty } := by
  simpa only [noteRest, if_true] using congrFun (congrArg Prod.snd (noted_rest e m)) e.core

theorem noted_keeps (e : Env) (m : Hw) : StartKeeps e.core m (e.noted m) where
  rest := (congrArg (fun x : Hw => { x with cores := m.cores, ctxs := m.ctxs, mem := m.mem })
    (congrArg Prod.fst (noted_rest e m)) :)
  others k hk := by simpa only [noteRest, if_neg hk] using congrFun (congrArg Prod.snd (noted_rest e m)) k
  contexts c := (congrArg (fun x : Hw => (mget x.ctxs c).map fun x => { x with detected := [] })
    (congrArg Prod.fst (noted_rest e m)) :)
  own := (congrArg lasting (noted_core e m) :)

@[simp] theorem noted_nextOp (e : Env) (m : Hw) : ((e.noted m).core e.core).nextOp = (m.core e.core).nextOp :=
  (congrArg Core.nextOp (noted_core e m) :)
@[simp] theorem noted_bol (e : Env) (m : Hw) (b : Nat) : ((e.noted m).core e.core).bol b = (m.core e.core).bol b :=
  (congrArg (fun c : Core => c.bol b) (noted_core e m) :)
@[simp] theorem noted_mem (e : Env) (m : Hw) : (e.noted m).mem = m.mem :=
  (congrArg Hw.mem (congrArg Prod.fst (noted_rest e m)) :)

theorem begin_lasting (c : Core) (e : Env) (now cyc : Nat) (b : Body) (w : Cond) (f : OpRec → OpRec) :
    lasting (c.begin e now cyc b w f) = lasting c :=
  (congrArg lasting (begin_frame c e now cyc b w f) :)

/-- An op of another kind than FERRY_SEND either takes no fault of its own, or takes it and its thread stops. -/
theorem settle_cases {m : Hw} {core no : Nat}
    (h : ∀ o, (m.core core).ops.findRev? (fun o => o.no == no) = some o → o.hdr.opcode ≠ 0x20) :
    m.settle core no = m ∨ ∃ t r, m.settle core no = m.fault core t r := by
  unfold Hw.settle
  dsimp only
  split
  · next o x ho hx =>
    split
    · split
      · exact .inr ⟨_, _, by rw [if_neg (by simpa using h o ho)]⟩
      · exact .inl rfl
    · exact .inl rfl
  · exact .inl rfl

/-- The newest op of a core is the first of its number from the end. -/
theorem findRev_of_getLast {l : List OpRec} {o : OpRec} {p : OpRec → Bool} (h : l.getLast? = some o) (hp : p o = true) :
    l.findRev? p = some o := by
  obtain ⟨ys, rfl⟩ := List.getLast?_eq_some_iff.1 h
  simp [List.findRev?_eq_find?_reverse, hp]

section

variable {e : Env} {b : Body} {w : Cond} {f : OpRec → OpRec}

/-- The module as op `e` has started, before a fault of its values. -/
def begun (m : Hw) (e : Env) (b : Body) (w : Cond) (f : OpRec → OpRec) : Hw :=
  (e.noted m).updCore e.core fun c => c.begin e m.now (m.cyc e.core) b w f

theorem begun_keeps (m : Hw) : StartKeeps e.core m (begun m e b w f) := by
  refine (noted_keeps e m).trans (StartKeeps.updCore (e.noted m) ?_)
  exact begin_lasting _ e m.now (m.cyc e.core) b w f

theorem begun_mem (m : Hw) : (begun m e b w f).mem = m.mem := noted_mem e m

theorem begun_bol (m : Hw) (d : Nat) : ((begun m e b w f).core e.core).bol d =
    if e.h.preEn ∧ e.h.preTake ∧ d = e.h.preBol then (m.core e.core).bol d - e.h.preVal else (m.core e.core).bol d := by
  rw [begun, core_updCore_same, begin_bol, noted_bol]

/-- What the start of an op other than FERRY_SEND leaves: the start on its core, or that and the fault of its values. -/
theorem started_cases (m : Hw) (hop : e.h.opcode ≠ 0x20) (hf : ∀ o, (f o).no = o.no ∧ (f o).hdr = o.hdr) :
    started m e b w f = begun m e b w f ∨ ∃ t r, started m e b w f = (begun m e b w f).fault e.core t r := by
  refine settle_cases fun o ho => ?_
  rw [core_updCore_same] at ho
  obtain ⟨q, hq, hbare⟩ := begin_getLast ((e.noted m).core e.core) e m.now (m.cyc e.core) b w f
  have hno : q.no = (m.core e.core).nextOp :=
    (congrArg OpRec.no hbare).trans ((hf _).1.trans (noted_nextOp e m))
  have hhdr : q.hdr = e.h := (congrArg OpRec.hdr hbare).trans (hf _).2
  have hoq := ho.symm.trans (findRev_of_getLast hq (by simp [hno]))
  cases hoq
  rwa [hhdr]

theorem started_keeps (m : Hw) (hop : e.h.opcode ≠ 0x20) (hf : ∀ o, (f o).no = o.no ∧ (f o).hdr = o.hdr) :
    StartKeeps e.core m (started m e b w f) := by
  rcases started_cases m hop hf with h | ⟨t, r, h⟩
  · rw [h]; exact begun_keeps m
  · rw [h]; exact (begun_keeps m).trans (.fault _ t r)

@[simp] theorem updCtx_cores (m : Hw) (c : Nat) (f : Ctx → Ctx) : (m.updCtx c f).cores = m.cores := by
  unfold Hw.updCtx; split <;> rfl
@[simp] theorem updCtx_mem (m : Hw) (c : Nat) (f : Ctx → Ctx) : (m.updCtx c f).mem = m.mem := by
  unfold Hw.updCtx; split <;> rfl
@[simp] theorem updCtx_core (m : Hw) (c : Nat) (f : Ctx → Ctx) (k : Nat) : (m.updCtx c f).core k = m.core k := by
  simp only [Hw.core, updCtx_cores]

@[simp] theorem fault_mem (m : Hw) (core t : Nat) (r : FaultRec) : (m.fault core t r).mem = m.mem := by
  simp only [Hw.fault, updCtx_mem, updCore_mem]
theorem fault_core (m : Hw) (core t : Nat) (r : FaultRec) : (m.fault core t r).core core = (m.core core).stopThread t := by
  simp only [Hw.fault, updCtx_core, core_updCore_same]
@[simp] theorem fault_bol (m : Hw) (core t : Nat) (r : FaultRec) (b : Nat) :
    ((m.fault core t r).core core).bol b = (m.core core).bol b := by rw [fault_core]; rfl

theorem started_mem (m : Hw) (hop : e.h.opcode ≠ 0x20) (hf : ∀ o, (f o).no = o.no ∧ (f o).hdr = o.hdr) :
    (started m e b w f).mem = m.mem := by
  rcases started_cases (b := b) (w := w) m hop hf with h | ⟨t, r, h⟩
  · rw [h, begun_mem]
  · rw [h, fault_mem, begun_mem]

/-- Of the core's bollards a start changes the one of its own take-mode pre-wait (02 R45). -/
theorem started_bol (m : Hw) (hop : e.h.opcode ≠ 0x20) (hf : ∀ o, (f o).no = o.no ∧ (f o).hdr = o.hdr) (d : Nat) :
    ((started m e b w f).core e.core).bol d =
      if e.h.preEn ∧ e.h.preTake ∧ d = e.h.preBol then (m.core e.core).bol d - e.h.preVal else (m.core e.core).bol d := by
  rcases started_cases (b := b) (w := w) m hop hf with h | ⟨t, r, h⟩
  · rw [h, begun_bol]
  · rw [h, fault_bol, begun_bol]

end

/-! ### The frame of an op command -/

section

variable {i : Instr} {s t : State} {core thread : Nat} {kind : Env → Bool} {body : Env → Body} {cond : Env → Cond}
  {f : Env → OpRec → OpRec} {after : Env → Hw → Hw}

theorem StartKeeps.startFrame {m : Hw} (h : StartKeeps core s.m m)
    (hb : ∀ e, s.m.startable core thread = some e → m ≠ s.m → ∀ b, (m.core core).bol b =
      if e.h.preEn ∧ e.h.preTake ∧ b = e.h.preBol then (s.m.core core).bol b - e.h.preVal else (s.m.core core).bol b) :
    StartFrame s { s with m := m } core thread :=
  ⟨rfl, h.rest, h.others, h.contexts, (congrArg Core.hold h.own :), (congrArg Core.acc h.own :),
    (congrArg Core.tlb h.own :), (congrArg Core.credits h.own :), (congrArg Core.voyages h.own :),
    (congrArg Core.lands h.own :), (congrArg Core.steps h.own :), hb⟩

/-- An op command that answers a next state has started nothing, or an op of its kind. -/
theorem next_of_startWith (hi : exec i s = onHw (fun m => m.startWith core thread kind body cond f after) s)
    (hx : exec i s = .next t) : t = s ∨ ∃ e, s.m.startable core thread = some e ∧ kind e = true ∧ e.core = core ∧
      t = { s with m := after e (started s.m e (body e) (cond e) (f e)) } := by
  rw [hi, onHw_next] at hx
  cases hx
  rcases startWith_cases s.m core thread kind body cond f after with hsame | ⟨e, he, hk, -⟩
  · exact .inl (by rw [hsame])
  · obtain ⟨⟨-, hcore, -⟩, -⟩ := envOf_eq_some (startable_eq_some.1 he).1
    exact .inr ⟨e, he, hk, hcore, by rw [startWith_of_startable he hk]⟩

/-- A start of a kind without FERRY_SEND, whose last step keeps what lasts and the bollards, has the frame of a start. -/
theorem startFrame_of_startWith (hi : exec i s = onHw (fun m => m.startWith core thread kind body cond f after) s)
    (hx : exec i s = .next t) (hk : ∀ e, kind e = true → e.h.opcode ≠ 0x20)
    (hf : ∀ e o, (f e o).no = o.no ∧ (f e o).hdr = o.hdr)
    (ha : ∀ e m, e.core = core → StartKeeps core m (after e m) ∧ ((after e m).core core).bols = (m.core core).bols) :
    StartFrame s t core thread := by
  rcases next_of_startWith hi hx with rfl | ⟨e, he, hke, rfl, rfl⟩
  · exact (StartKeeps.refl core t.m).startFrame fun _ _ hne => absurd rfl hne
  · obtain ⟨hkeep, hbols⟩ := ha e (started s.m e (body e) (cond e) (f e)) rfl
    refine ((started_keeps s.m (hk e hke) (hf e)).trans hkeep).startFrame fun e' he' _ b => ?_
    cases he.symm.trans he'
    rw [Core.bol, hbols]
    exact started_bol s.m (hk e hke) (hf e) b

theorem mem_of_startWith (hi : exec i s = onHw (fun m => m.startWith core thread kind body cond f after) s)
    (hx : exec i s = .next t) (hk : ∀ e, kind e = true → e.h.opcode ≠ 0x20)
    (hf : ∀ e o, (f e o).no = o.no ∧ (f e o).hdr = o.hdr) (ha : ∀ e m, (after e m).mem = m.mem) : t.m.mem = s.m.mem := by
  rcases next_of_startWith hi hx with rfl | ⟨e, -, hke, -, rfl⟩
  · rfl
  · exact (ha e _).trans (started_mem s.m (hk e hke) (hf e))

end

/-! ### The frames an append zeroes -/

theorem zeroOpened_cases (e : Env) (m : Hw) : e.zeroOpened m = m ∨
    e.zeroOpened m = e.appendBody.opened.foldl (fun (m : Hw) p =>
      { m with mem := m.mem.zeroFrames p.homeQ p.tier p.frame (pageBytes p.size / 65536) }) m := by
  unfold Env.zeroOpened
  split
  · exact .inr rfl
  · exact .inl rfl

/-- What the zeroing of frames keeps: all but bytes and marks of module memory. -/
def butRam (m : Hw) : Hw := { m with mem := { m.mem with ram := [], marks := [] } }

theorem zeroOpened_butRam (e : Env) (m : Hw) : butRam (e.zeroOpened m) = butRam m := by
  rcases zeroOpened_cases e m with h | h <;> rw [h]
  refine foldl_keeps butRam (fun d o _ => ?_) m
  rfl

theorem zeroOpened_keeps (core : Nat) (e : Env) (m : Hw) : StartKeeps core m (e.zeroOpened m) where
  rest := (congrArg (fun x : Hw => { x with cores := m.cores, ctxs := m.ctxs, mem := m.mem }) (zeroOpened_butRam e m) :)
  others k _ := (congrArg (fun x : Hw => x.core k) (zeroOpened_butRam e m) :)
  contexts c := (congrArg (fun x : Hw => (mget x.ctxs c).map fun x => { x with detected := [] }) (zeroOpened_butRam e m) :)
  own := (congrArg (fun x : Hw => lasting (x.core core)) (zeroOpened_butRam e m) :)

/-- Outside the frames of the pages it opens an append leaves every byte and mark (07 R192, R206). -/
theorem zeroOpened_outside (e : Env) (m : Hw) {a : Nat}
    (ha : ∀ o ∈ e.appendBody.opened, let k := ramKey o.homeQ o.tier (o.frame * 65536)
      a < k ∨ k + pageBytes o.size / 65536 * 65536 ≤ a) :
    rd (e.zeroOpened m).mem.ram a = rd m.mem.ram a ∧ (a ∈ (e.zeroOpened m).mem.marks ↔ a ∈ m.mem.marks) := by
  rcases zeroOpened_cases e m with h | h <;> rw [h]
  · exact ⟨rfl, Iff.rfl⟩
  constructor
  · refine foldl_keeps (fun x : Hw => rd x.mem.ram a) (fun d o ho => ?_) m
    rw [zeroFrames_ram, rd_wipe, if_neg (by have := ha o ho; omega)]
  · refine iff_of_eq (foldl_keeps (fun x : Hw => a ∈ x.mem.marks) (fun d o ho => ?_) m)
    simpa [MemSys.zeroFrames] using fun _ => ha o ho

/-- Settles O14: a start changes its own core and the faults detected for its context; an append zeroes frames besides. -/
theorem opStartFrame : Obligations.OpStartFrame := by
  constructor
  · intro s t core thread
    have plain : ∀ {i kind body cond f}, exec i s = onHw (fun m => m.startWith core thread kind body cond f fun _ h => h) s →
        (∀ e, kind e = true → e.h.opcode ≠ 0x20) → (∀ e o, (f e o).no = o.no ∧ (f e o).hdr = o.hdr) →
        exec i s = .next t → StartFrame s t core thread ∧ t.m.mem = s.m.mem := fun hi hk hf hx =>
      ⟨startFrame_of_startWith hi hx hk hf fun _ m _ => ⟨.refl core m, rfl⟩, mem_of_startWith hi hx hk hf fun _ _ => rfl⟩
    have wait : exec (.wait core thread) s = .next t → StartFrame s t core thread ∧ t.m.mem = s.m.mem := fun hx => by
      have hk : ∀ e : Env, (e.h.opcode == 0x19) = true → e.h.opcode ≠ 0x20 := fun e he h20 => by simp [h20] at he
      refine ⟨startFrame_of_startWith rfl hx hk (fun _ _ => ⟨rfl, rfl⟩) fun e m _ => ⟨.updCore m ?_, ?_⟩,
        mem_of_startWith rfl hx hk (fun _ _ => ⟨rfl, rfl⟩) ?_⟩
      · exact (congrArg lasting (checkWaits_frame (m.core core) _) :)
      · rw [core_updCore_same, checkWaits_bols]
      · exact fun _ _ => rfl
    simp only [List.forall_mem_cons]
    refine ⟨?_, ?_, ?_, ?_, ?_, ?_, ?_, ?_, ?_, ?_, ?_, ?_, ?_, ?_, ?_, ?_, ?_, ?_, ?_, ?_, wait, ?_, ?_, ?_, ?_, ?_, by simp⟩
    all_goals
      refine plain rfl (fun e he h20 => ?_) (fun _ _ => ⟨rfl, rfl⟩)
      simp [h20] at he
  · intro s t core thread hx
    have hk : ∀ e : Env, (e.h.opcode == 0x29 && e.sealMode == 0) = true → e.h.opcode ≠ 0x20 := fun e he h20 => by
      simp [h20] at he
    refine ⟨startFrame_of_startWith rfl hx hk (fun _ _ => ⟨rfl, rfl⟩) fun e m _ =>
      ⟨zeroOpened_keeps core e m, ?_⟩, ?_⟩
    · exact (congrArg (fun x : Hw => (x.core core).bols) (zeroOpened_butRam e m) :)
    rcases next_of_startWith rfl hx with rfl | ⟨e, he, hke, -, rfl⟩
    · exact ⟨rfl, fun _ _ _ _ => ⟨rfl, Iff.rfl⟩⟩
    have hmem : (started s.m e e.appendBody .done fun o => o).mem = s.m.mem :=
      started_mem s.m (hk e hke) fun _ => ⟨rfl, rfl⟩
    refine ⟨?_, fun e' he' a ha => ?_⟩
    · rw [← hmem]
      generalize started s.m e e.appendBody .done (fun o => o) = u
      exact (congrArg (fun x : Hw => { x.mem with ram := u.mem.ram, marks := u.mem.marks }) (zeroOpened_butRam e u) :)
    · cases he.symm.trans he'
      rw [← hmem]
      exact zeroOpened_outside e _ ha

end Sys2Proof
end

section
/-! PROOF. The books a command keeps beside its effect: counters, the traffic of links, and the events a counter posts as it
saturates (18 R453) change no core, no byte and no mark of module memory, and of a context only its event ring. -/

namespace Sys2Proof

open Machine

/-- `t` is `m` but for counters, host memory and event rings. -/
structure Booked (m t : Hw) : Prop where
  rest : { t with ctxs := m.ctxs, mem := m.mem, host := m.host, counters := m.counters } = m
  mem : { t.mem with host := m.mem.host } = m.mem
  contexts : ∀ c, (mget t.ctxs c).map (fun x => { x with ring := none }) = (mget m.ctxs c).map fun x => { x with ring := none }

namespace Booked

variable {m t u : Hw}

theorem refl (m : Hw) : Booked m m := ⟨rfl, rfl, fun _ => rfl⟩

theorem trans (h : Booked m t) (h' : Booked t u) : Booked m u where
  rest := ((congrArg (fun x : Hw => { x with ctxs := m.ctxs, mem := m.mem, host := m.host, counters := m.counters })
    h'.rest).trans h.rest :)
  mem := ((congrArg (fun x : MemSys => { x with host := m.mem.host }) h'.mem).trans h.mem :)
  contexts c := (h'.contexts c).trans (h.contexts c)

theorem foldl {α : Type} {f : Hw → α → Hw} (hf : ∀ d x, Booked d (f d x)) (l : List α) (m : Hw) :
    Booked m (l.foldl f m) := by
  induction l generalizing m with
  | nil => exact refl m
  | cons x l ih => exact (hf m x).trans (ih (f m x))

theorem ite {p : Prop} [Decidable p] {a b : Hw} (ha : Booked m a) (hb : Booked m b) : Booked m (if p then a else b) := by
  split
  · exact ha
  · exact hb

/-- A context whose event ring alone changes. -/
theorem setRing {x : Ctx} {c : Nat} {r : Option Ring} (hx : mget m.ctxs c = some x) (d : Nat) :
    (mget (mset m.ctxs c { x with ring := r }) d).map (fun x => { x with ring := none }) =
      (mget m.ctxs d).map fun x => { x with ring := none } := by
  rw [mget_mset]
  split
  · next h => rw [h, hx]; rfl
  · rfl

theorem ringOwner_eq {ctx : Option Nat} {c : Nat} {x : Ctx} {r : Ring} (h : m.ringOwner ctx = some (c, x, r)) :
    mget m.ctxs c = some x := by
  unfold Hw.ringOwner at h
  split at h
  · cases h
  · next d hd =>
    split at h
    · cases h
    · next y hy =>
      obtain ⟨_, -, he⟩ := Option.map_eq_some_iff.1 h
      cases he
      exact hy

theorem putRing (m : Hw) (code : Nat) (ctx : Option Nat) (p : Nat) : Booked m (m.putRing code ctx p).1 := by
  unfold Hw.putRing
  split
  · exact ⟨rfl, rfl, fun _ => rfl⟩
  · next c x r ho =>
    have hx := ringOwner_eq ho
    split
    · exact ⟨rfl, rfl, setRing hx⟩
    · exact ⟨rfl, rfl, setRing hx⟩

theorem toRing (m : Hw) (code : Nat) (ctx : Option Nat) (p : Nat) : Booked m (m.toRing code ctx p) :=
  ite ((putRing m _ _ _).trans (putRing _ _ _ _)) (putRing m _ _ _)

theorem count (m : Hw) (b i w n : Nat) : Booked m (m.count b i w n) := by
  have hc : Booked m { m with counters := (countAdd m.counters b i w n).1 } := ⟨rfl, rfl, fun _ => rfl⟩
  exact ite (hc.trans (toRing _ _ _ _)) hc

theorem countCore (m : Hw) (core w n : Nat) : Booked m (m.countCore core w n) := count m 6 core w n

theorem traffic (m : Hw) (ctx : Option Nat) (a b n key : Nat) : Booked m (m.traffic ctx a b n key) := by
  unfold Hw.traffic
  dsimp only
  refine ite (refl m) (ite ?_ ?_)
  · have hpath : ∀ l : List (Nat × Bool), Booked m (l.foldl (fun m p =>
        let m := m.count 3 p.1 0 n
        if p.2 then m.count 3 p.1 1 n else m) m) := fun l =>
      foldl (fun d p => ite ((count d _ _ _ _).trans (count _ _ _ _ _)) (count d _ _ _ _)) l m
    split
    · exact hpath _
    · exact (hpath _).trans (count _ _ _ _ _)
  · split
    · exact count _ _ _ _ _
    · exact (count _ _ _ _ _).trans (count _ _ _ _ _)

theorem holdTraffic (m : Hw) (ctx core other n : Nat) : Booked m (m.holdTraffic ctx core other n) := traffic m _ _ _ _ _

theorem holdReads (m : Hw) (ctx core : Nat) (l : List (Nat × Nat)) : Booked m (m.holdReads ctx core l) :=
  foldl (fun d _ => holdTraffic d _ _ _ _) l m

theorem walkTraffic (m : Hw) (core ctx va : Nat) : Booked m (m.walkTraffic core ctx va) := by
  unfold Hw.walkTraffic
  split
  · exact refl m
  · exact foldl (fun d _ => traffic d _ _ _ _ _) _ m

theorem account (m : Hw) (c src : Nat) (l : Loc) (n : Nat) (store : Bool) (old : Memory) :
    Booked m (m.account c src l n store old) := by
  unfold Hw.account
  dsimp only
  split
  · refine trans ?_ (traffic _ _ _ _ _ _)
    exact ite (count _ _ _ _ _) (ite (count _ _ _ _ _) (ite (count _ _ _ _ _) ((count _ _ _ _ _).trans (count _ _ _ _ _))))
  · exact (count _ _ _ _ _).trans (traffic _ _ _ _ _ _)
  · exact traffic _ _ _ _ _ _

theorem core (h : Booked m t) (k : Nat) : t.core k = m.core k := (congrArg (fun x : Hw => x.core k) h.rest :)
theorem postNo (h : Booked m t) : t.postNo = m.postNo := (congrArg Hw.postNo h.rest :)
theorem ram (h : Booked m t) : t.mem.ram = m.mem.ram := (congrArg MemSys.ram h.mem :)
theorem marks (h : Booked m t) : t.mem.marks = m.mem.marks := (congrArg MemSys.marks h.mem :)

end Booked

end Sys2Proof
end

section
/-! PROOF. What the completion of an op leaves (02 R37, R46): O16. -/

namespace Sys2Proof

open Machine

/-- What of a core an op does not touch as it leaves, its accumulators aside. -/
def carried (c : Core) : Core :=
  { c with ops := [], threads := [], reqs := [], nextReq := 0, predictor := [], weights := [], latch := [], voyages := [] }

theorem carried_fill (c : Core) : carried c.fill = carried c := (congrArg carried (fill_frame c) :)

/-- From `m` to `t` an op of core `core` leaves: module memory, the packet number and of every core what is carried on are as they
were, and no op joins. -/
structure Leaving (core : Nat) (m t : Hw) : Prop where
  ram : t.mem.ram = m.mem.ram
  marks : t.mem.marks = m.mem.marks
  postNo : t.postNo = m.postNo
  cores : ∀ k, carried (t.core k) = carried (m.core k)
  nos : ∀ n ∈ (t.core core).ops.map (·.no), n ∈ (m.core core).ops.map (·.no)

namespace Leaving

variable {core : Nat} {m t u : Hw}

theorem trans (h : Leaving core m t) (h' : Leaving core t u) : Leaving core m u :=
  ⟨h'.ram.trans h.ram, h'.marks.trans h.marks, h'.postNo.trans h.postNo, fun k => (h'.cores k).trans (h.cores k),
    fun n hn => h.nos n (h'.nos n hn)⟩

theorem refl (core : Nat) (m : Hw) : Leaving core m m := ⟨rfl, rfl, rfl, fun _ => rfl, fun _ h => h⟩

theorem ofBooked (core : Nat) (h : Booked m t) : Leaving core m t :=
  ⟨h.ram, h.marks, h.postNo, fun k => by rw [h.core], fun n hn => by rwa [h.core] at hn⟩

theorem updCore (m : Hw) {f : Core → Core} (hf : carried (f (m.core core)) = carried (m.core core))
    (hn : ∀ n ∈ (f (m.core core)).ops.map (·.no), n ∈ (m.core core).ops.map (·.no)) :
    Leaving core m (m.updCore core f) := by
  refine ⟨rfl, rfl, rfl, fun k => ?_, fun n h => ?_⟩
  · by_cases hk : k = core
    · rw [hk, core_updCore_same, hf]
    · rw [core_updCore_ne m f hk]
  · rw [core_updCore_same] at h
    exact hn n h

theorem fault (m : Hw) (thread : Nat) (r : FaultRec) : Leaving core m (m.fault core thread r) := by
  have hs : Leaving core m (m.updCore core fun c => c.stopThread thread) := updCore m rfl fun n hn => by
    obtain ⟨o, ho, rfl⟩ := List.mem_map.1 hn
    exact List.mem_map_of_mem (List.mem_filter.1 ho).1
  exact hs.trans ⟨by rw [Hw.fault, updCtx_mem], by rw [Hw.fault, updCtx_mem], by unfold Hw.fault Hw.updCtx; split <;> rfl,
    fun k => by rw [Hw.fault, updCtx_core], fun n hn => by rwa [Hw.fault, updCtx_core] at hn⟩

theorem chargeFetch (m : Hw) (thread : Nat) : Leaving core m (m.chargeFetch core thread) := by
  unfold Hw.chargeFetch
  dsimp only
  split
  · split
    · exact fault m thread _
    · exact refl core m
  · exact refl core m

theorem hold (h : Leaving core m t) (k : Nat) : (t.core k).hold = (m.core k).hold := (congrArg Core.hold (h.cores k) :)
theorem acc (h : Leaving core m t) (k : Nat) : (t.core k).acc = (m.core k).acc := (congrArg Core.acc (h.cores k) :)
theorem inbox (h : Leaving core m t) (k : Nat) : (t.core k).inbox = (m.core k).inbox := (congrArg Core.inbox (h.cores k) :)
theorem recs (h : Leaving core m t) (k : Nat) : (t.core k).recs = (m.core k).recs := (congrArg Core.recs (h.cores k) :)

end Leaving

/-! ### The steps of a completion -/

theorem closeVoyage_frame (c : Core) (v : Option Nat) : { c.closeVoyage v with voyages := c.voyages } = c := by
  unfold Core.closeVoyage
  split
  · rfl
  · split <;> rfl

theorem predict_frame (c : Core) (p : Option (Nat × List Bool)) : { c.predict p with predictor := c.predictor } = c := by
  unfold Core.predict
  split <;> rfl

theorem threadEnd_frame (c : Core) (t : Nat) : { c.threadEnd t with threads := c.threads } = c := by
  unfold Core.threadEnd
  dsimp only
  split <;> rfl

theorem carried_threadEnd (c : Core) (t : Nat) : carried (c.threadEnd t) = carried c :=
  (congrArg carried (threadEnd_frame c t) :)

/-- One hold write of an op, and the traffic it counts. -/
theorem holdStore_booked (m : Hw) (ctx core : Nat) (w : Nat × Nat × List Byte) :
    Booked (m.updCore w.1 fun c => c.holdWrite w.2.1 w.2.2)
      ((m.updCore w.1 fun c => c.holdWrite w.2.1 w.2.2).holdTraffic ctx core w.1 w.2.2.length) :=
  Booked.holdTraffic _ _ _ _ _

section

variable (m : Hw) (ctx core : Nat) (l : List (Nat × Nat × List Byte)) (k : Nat)

/-- Hold stores change holds and their written maps alone. -/
theorem holdStores_core : { (m.holdStores ctx core l).core k with hold := [], written := 0#64 } =
    { m.core k with hold := [], written := 0#64 } := by
  refine foldl_keeps (fun x : Hw => { x.core k with hold := [], written := 0#64 }) (fun d w _ => ?_) m
  dsimp only
  rw [(holdStore_booked d ctx core w).core k]
  by_cases hk : k = w.1
  · subst hk; rw [core_updCore_same]; rfl
  · rw [core_updCore_ne _ _ hk]

@[simp] theorem holdStores_acc : ((m.holdStores ctx core l).core k).acc = (m.core k).acc :=
  (congrArg Core.acc (holdStores_core m ctx core l k) :)
@[simp] theorem holdStores_inbox : ((m.holdStores ctx core l).core k).inbox = (m.core k).inbox :=
  (congrArg Core.inbox (holdStores_core m ctx core l k) :)
@[simp] theorem holdStores_recs : ((m.holdStores ctx core l).core k).recs = (m.core k).recs :=
  (congrArg Core.recs (holdStores_core m ctx core l k) :)
@[simp] theorem holdStores_ops : ((m.holdStores ctx core l).core k).ops = (m.core k).ops :=
  (congrArg Core.ops (holdStores_core m ctx core l k) :)
@[simp] theorem holdStores_ram : (m.holdStores ctx core l).mem.ram = m.mem.ram :=
  foldl_keeps (fun x : Hw => x.mem.ram) (fun d w _ => (holdStore_booked d ctx core w).ram) m
@[simp] theorem holdStores_marks : (m.holdStores ctx core l).mem.marks = m.mem.marks :=
  foldl_keeps (fun x : Hw => x.mem.marks) (fun d w _ => (holdStore_booked d ctx core w).marks) m
@[simp] theorem holdStores_postNo : (m.holdStores ctx core l).postNo = m.postNo :=
  foldl_keeps (fun x : Hw => x.postNo) (fun d w _ => (holdStore_booked d ctx core w).postNo) m

end

/-- Op `o` is out of its core: its thread may wait anew, and its predictor entry is left. -/
def outOfCore (m : Hw) (core : Nat) (o : OpRec) : Hw :=
  m.updCore core fun c =>
    let t := c.thread o.thread
    let c := c.setThread o.thread (if t.prev == some o.no then { t with waitSince := m.now } else t)
    ({ c with ops := c.ops.filter fun p => p.no != o.no }).predict o.eff.predict

theorem outOfCore_ops (m : Hw) (core : Nat) (o : OpRec) :
    ((outOfCore m core o).core core).ops = (m.core core).ops.filter fun p => p.no != o.no := by
  rw [outOfCore, core_updCore_same]
  exact (congrArg Core.ops (predict_frame _ o.eff.predict) :)

theorem outOfCore_leaving (m : Hw) (core : Nat) (o : OpRec) : Leaving core m (outOfCore m core o) := by
  refine .updCore m (congrArg carried (predict_frame _ o.eff.predict) :) fun n hn => ?_
  have hops := outOfCore_ops m core o
  rw [outOfCore, core_updCore_same] at hops
  rw [hops] at hn
  obtain ⟨p, hp, rfl⟩ := List.mem_map.1 hn
  exact List.mem_map_of_mem (List.mem_filter.1 hp).1

/-- The accumulators and weight registers of op `o`, and its counts. -/
def accsLeft (m : Hw) (core : Nat) (o : OpRec) : Hw :=
  o.eff.counts.foldl (fun m p => m.countCore core p.1 p.2)
    ((m.updCore core fun c => (c.setAccs o.eff.accs).setWeights (o.claims.getLsbD 0) o.eff.weights).countCore core cOPS 1)

section

variable (m : Hw) (core : Nat) (o : OpRec) (k : Nat)

theorem accsLeft_booked :
    Booked (m.updCore core fun c => (c.setAccs o.eff.accs).setWeights (o.claims.getLsbD 0) o.eff.weights)
      (accsLeft m core o) :=
  (Booked.countCore _ _ _ _).trans (Booked.foldl (fun d _ => Booked.countCore d _ _ _) _ _)

/-- Accumulators and weights aside, nothing of a core is changed by what an op leaves in them. -/
theorem accsLeft_core : { (accsLeft m core o).core k with acc := [], weights := [], latch := [] } =
    { m.core k with acc := [], weights := [], latch := [] } := by
  rw [(accsLeft_booked m core o).core]
  by_cases hk : k = core
  · rw [hk, core_updCore_same]; rfl
  · rw [core_updCore_ne _ _ hk]

@[simp] theorem accsLeft_hold : ((accsLeft m core o).core k).hold = (m.core k).hold :=
  (congrArg Core.hold (accsLeft_core m core o k) :)
@[simp] theorem accsLeft_inbox : ((accsLeft m core o).core k).inbox = (m.core k).inbox :=
  (congrArg Core.inbox (accsLeft_core m core o k) :)
@[simp] theorem accsLeft_recs : ((accsLeft m core o).core k).recs = (m.core k).recs :=
  (congrArg Core.recs (accsLeft_core m core o k) :)
@[simp] theorem accsLeft_ops : ((accsLeft m core o).core k).ops = (m.core k).ops :=
  (congrArg Core.ops (accsLeft_core m core o k) :)
@[simp] theorem accsLeft_acc :
    ((accsLeft m core o).core core).acc = o.eff.accs.foldl (fun a p => mset a p.1 p.2) (m.core core).acc := by
  rw [(accsLeft_booked m core o).core, core_updCore_same]; rfl
@[simp] theorem accsLeft_ram : (accsLeft m core o).mem.ram = m.mem.ram := (accsLeft_booked m core o).ram
@[simp] theorem accsLeft_marks : (accsLeft m core o).mem.marks = m.mem.marks := (accsLeft_booked m core o).marks
@[simp] theorem accsLeft_postNo : (accsLeft m core o).postNo = m.postNo := (accsLeft_booked m core o).postNo

end

/-- A signal waits at its target behind what waited there. -/
theorem signal_rest (m : Hw) (src ctx e tgt bol : Nat) (set : Bool) (val : Word32) :
    Booked { m.updCore tgt fun c => { c with inbox := c.inbox ++ [(⟨m.postNo, src, ctx, e, bol, set, val⟩ : Signal)] } with
      postNo := m.postNo + 1 } (m.signal src ctx e tgt bol set val) := Booked.traffic _ _ _ _ _ _

theorem signal_core (m : Hw) (src ctx e tgt bol : Nat) (set : Bool) (val : Word32) (k : Nat) :
    (m.signal src ctx e tgt bol set val).core k = if k = tgt then
      { m.core k with inbox := (m.core k).inbox ++ [⟨m.postNo, src, ctx, e, bol, set, val⟩] } else m.core k := by
  rw [(signal_rest m src ctx e tgt bol set val).core]
  refine (core_setCore m tgt k _).trans ?_
  split
  · next h => rw [h]
  · rfl

/-- The post-signal of op `o`, if it has one. -/
def posted (m : Hw) (core ctx : Nat) (o : OpRec) : Hw :=
  if o.hdr.postEn then
    m.signal core ctx (m.core core).recs o.hdr.postCore o.hdr.postBol false (BitVec.ofNat 32 o.hdr.postInc)
  else m

/-- An op without other signals, events or step leaves in these steps. -/
theorem retire_of_plain (m : Hw) (core ctx : Nat) (o : OpRec) (hr : o.eff.rets = []) (hs : o.eff.signal = none)
    (hv : o.eff.hostVal = none) (he : o.hdr.evt = false) (ht : o.hdr.step = false) :
    m.retire core ctx o = ((posted (accsLeft (outOfCore m core o) core o) core ctx o).updCore core fun c =>
      (c.threadEnd o.thread).fill).chargeFetch core o.thread := by
  simp only [Hw.retire, hr, hs, hv, he, ht, posted, accsLeft, outOfCore, List.foldl_nil, Bool.false_eq_true, if_false]

/-- What op `o` makes visible before it leaves: hold stores, reads of other holds, its voyage, a batch. -/
def madeVisible (m : Hw) (core ctx : Nat) (o : OpRec) : Hw :=
  (((m.holdStores ctx core o.eff.stores).holdReads ctx core o.eff.remote).updCore core fun c =>
    c.closeVoyage o.eff.closeVoyage).batchDone core ctx o

/-- Op `o` has left its core; its signals come after. -/
def gone (m : Hw) (core ctx : Nat) (o : OpRec) : Hw := outOfCore (madeVisible m core ctx o) core o

theorem complete_of_plain (m : Hw) (core ctx : Nat) (o : OpRec) (hq : o.eff.seq = none) :
    m.complete core ctx o = (madeVisible m core ctx o).retire core ctx o := by
  simp only [Hw.complete, madeVisible, hq]

theorem batchDone_leaving (m : Hw) (core ctx : Nat) (o : OpRec) : Leaving core m (m.batchDone core ctx o) := by
  unfold Hw.batchDone
  split
  · exact .updCore m rfl fun _ h => h
  · exact .refl core m

theorem gone_leaving (m : Hw) (core ctx : Nat) (o : OpRec) :
    Leaving core (m.holdStores ctx core o.eff.stores) (gone m core ctx o) := by
  refine (Leaving.ofBooked core (Booked.holdReads _ ctx core o.eff.remote)).trans (Leaving.trans ?_
    ((batchDone_leaving _ core ctx o).trans (outOfCore_leaving _ core o)))
  refine .updCore _ (congrArg carried (closeVoyage_frame _ o.eff.closeVoyage) :) fun n hn => ?_
  rwa [(congrArg Core.ops (closeVoyage_frame _ o.eff.closeVoyage) :)] at hn

theorem gone_no (m : Hw) (core ctx : Nat) (o : OpRec) : o.no ∉ ((gone m core ctx o).core core).ops.map (·.no) := by
  rw [gone, outOfCore_ops]
  simp

/-- What a completion without other signals, events or step leaves: first the op's own effect, then its post-signal; the thread's
end and the fault of a bad fetch change nothing that is carried on. -/
theorem complete_leaving (m : Hw) (core ctx : Nat) (o : OpRec) (hq : o.eff.seq = none) (hr : o.eff.rets = [])
    (hs : o.eff.signal = none) (hv : o.eff.hostVal = none) (he : o.hdr.evt = false) (ht : o.hdr.step = false) :
    Leaving core (posted (accsLeft (gone m core ctx o) core o) core ctx o) (m.complete core ctx o) := by
  rw [complete_of_plain _ _ _ _ hq, retire_of_plain _ _ _ _ hr hs hv he ht, ← gone]
  generalize posted (accsLeft (gone m core ctx o) core o) core ctx o = t
  refine (Leaving.updCore t ?_ fun n hn => ?_).trans (.chargeFetch _ o.thread)
  · exact (carried_fill _).trans (carried_threadEnd _ o.thread)
  · rwa [fill_map _ fun _ => rfl, (congrArg Core.ops (threadEnd_frame (t.core core) o.thread) :)] at hn

section

variable (m : Hw) (core ctx : Nat) (o : OpRec) (k : Nat)

/-- The post-signal changes one inbox alone. -/
theorem posted_core : (posted m core ctx o).core k = { m.core k with
    inbox := if o.hdr.postEn ∧ k = o.hdr.postCore then (m.core k).inbox ++
      [⟨m.postNo, core, ctx, (m.core core).recs, o.hdr.postBol, false, BitVec.ofNat 32 o.hdr.postInc⟩]
      else (m.core k).inbox } := by
  unfold posted
  by_cases hp : o.hdr.postEn = true
  · simp only [hp, if_true, true_and, signal_core]
    split <;> rfl
  · simp only [hp, if_false, false_and, Bool.false_eq_true]

@[simp] theorem posted_ram : (posted m core ctx o).mem.ram = m.mem.ram := by
  unfold posted
  split
  · exact (signal_rest ..).ram
  · rfl

@[simp] theorem posted_marks : (posted m core ctx o).mem.marks = m.mem.marks := by
  unfold posted
  split
  · exact (signal_rest ..).marks
  · rfl

end

theorem exec_opComplete {s : State} {core thread x : Nat} {o : OpRec} (hx : (s.m.core core).ctx = some x)
    (ho : (s.m.core core).nextDone (s.m.cyc core) thread = some o) (hq : o.eff.seq = none) :
    exec (.opComplete core thread) s = .next { s with m := s.m.complete core x o } := by
  change execOpComplete core thread s = _
  simp only [execOpComplete, onHw, hx, ho, hq, Option.bind_none, Hw.releasing, Bool.false_eq_true, if_false]

/-- Settles O16: the completion as stages, each of which says what it changes. -/
theorem completedOpLeaves : Obligations.CompletedOpLeaves := by
  intro s core thread x o hx ho hq ht he hv hs hr
  refine ⟨_, exec_opComplete hx ho hq, ?_⟩
  have hgone := gone_leaving s.m core x o
  have hend := complete_leaving s.m core x o hq hr hs hv he ht
  have hnos : ∀ n ∈ ((s.m.complete core x o).core core).ops.map (·.no),
      n ∈ ((gone s.m core x o).core core).ops.map (·.no) :=
    fun n hn => by simpa only [posted_core, accsLeft_ops] using hend.nos n hn
  refine ⟨fun p hp hpo => ?_, fun n hn => ?_, fun k => ?_, ?_, ?_, ?_, fun hp => ?_, fun hp k => ?_⟩
  · exact gone_no s.m core x o (hpo ▸ hnos _ (List.mem_map_of_mem hp))
  · simpa only [holdStores_ops] using hgone.nos n (hnos n hn)
  · rw [hend.hold, posted_core, accsLeft_hold, hgone.hold]
  · rw [hend.acc, posted_core, accsLeft_acc, hgone.acc, holdStores_acc]; rfl
  · rw [hend.ram, posted_ram, accsLeft_ram, hgone.ram, holdStores_ram]
  · rw [hend.marks, posted_marks, accsLeft_marks, hgone.marks, holdStores_marks]
  · rw [hend.inbox, posted_core, if_pos ⟨hp, rfl⟩]
    simp only [accsLeft_inbox, accsLeft_recs, accsLeft_postNo, hgone.inbox, hgone.recs, hgone.postNo, holdStores_inbox,
      holdStores_recs, holdStores_postNo]
  · rw [hend.inbox, posted_core, if_neg (by simp [hp])]
    simp only [accsLeft_inbox, hgone.inbox, holdStores_inbox]

end Sys2Proof
end

section
/-! PROOF. Waits at a bollard: the wait bound (02 R66, O23) and the update port (02 R59 to R64, O22). -/

namespace Sys2Proof

open Machine

/-! ### The fault of a thread -/

theorem fault_core_ne (m : Hw) {core k : Nat} (t : Nat) (r : FaultRec) (h : k ≠ core) :
    (m.fault core t r).core k = m.core k := by
  rw [Hw.fault, updCtx_core, core_updCore_ne m _ h]

theorem fault_detected {m : Hw} {x : Nat} {y : Ctx} (core t : Nat) (r : FaultRec) (hr : r.ctx = x)
    (hy : mget m.ctxs x = some y) : (mget (m.fault core t r).ctxs x).map Ctx.detected = some (y.detected ++ [r]) := by
  subst hr
  simp only [Hw.fault, Hw.updCtx, updCore_ctxs, hy, mget_mset_self, Option.map_some]

theorem stopThread_st {c : Core} {t : Nat} (ht : t < c.threads.length) (hr : (c.thread t).st = .running) :
    ((c.stopThread t).thread t).st = .stopped := by
  have h : (c.stopThread t).thread t = { c.thread t with
      st := if (c.thread t).st == .idle || (c.thread t).st == .ended then (c.thread t).st else .stopped
      next := (c.ops.find? fun o => o.thread == t).map (·.addr) <|> (c.thread t).next } :=
    thread_setThread_same (c := c) _ ht
  rw [h, hr]
  rfl

theorem stopThread_ops (c : Core) (t : Nat) : ∀ p ∈ (c.stopThread t).ops, p.thread ≠ t := fun p hp => by
  simpa using (List.mem_filter.1 hp).2

/-- Settles O23: the fault of the expired WAIT stops its thread and is detected for its context. -/
theorem waitBoundEndsAWait : Obligations.WaitBoundEndsAWait := by
  intro s core thread x b mode since v o y hx hy hlen hrun hfind hcond
  refine ⟨s.m.fault core thread (FaultRec.base s.m 0x0180 core thread o.hdr.tag x), ?_, ?_, ?_, ?_, fault_mem .., fun k hk =>
    fault_core_ne s.m _ _ hk⟩
  · change execWaitBoundExpiry core thread s = _
    simp only [execWaitBoundExpiry, onHw, hx]
    split
    · next o' ho' =>
      obtain rfl : o' = o := Option.some.inj (ho'.symm.trans hfind)
      rfl
    · next hno => exact absurd (hno.symm.trans hfind) nofun
  · rw [fault_core]
    exact stopThread_st hlen hrun
  · rw [fault_core]
    exact stopThread_ops _ thread
  · exact ⟨_, fault_detected core thread _ rfl hy, rfl, rfl, rfl, rfl⟩

/-! ### The update port -/

theorem waitHolds_reach (val v : Word32) : waitHolds 0 val v = true ↔ 0 ≤ (v - val).toInt := by
  simp [waitHolds, BitVec.msb_eq_toInt]

theorem waitHolds_equal (val v : Word32) : waitHolds 1 val v = true ↔ v = val := by simp [waitHolds]

theorem waitHolds_take (val v : Word32) : waitHolds 2 val v = true ↔ val.toNat ≤ v.toNat := by
  simp [waitHolds, BitVec.le_def]

/-- No op of a core waits at a bollard in take mode. -/
def NoTake (c : Core) (b : Nat) : Prop := ∀ o ∈ c.ops, ∀ v since, o.cond ≠ .bollard b 2 v since

theorem takeWaits_of_noTake {c : Core} {b : Nat} (h : NoTake c b) : c.takeWaits b = [] := by
  refine List.filterMap_eq_nil_iff.2 fun o ho => ?_
  split
  · next bol val since hc =>
    have hb : bol ≠ b := fun hb => h o ho val since (hb ▸ hc)
    simp [hb]
  · rfl

theorem portTake_of_noTake {m : Hw} {core b : Nat} (h : NoTake (m.core core) b) : m.portTake core b = m := by
  simp only [Hw.portTake, takeWaits_of_noTake h, List.foldl_nil]

/-- A wait in reach or equal mode is over once its condition holds; ops that still wait there are waits whose condition fails. -/
theorem endWait_cond {c : Core} {b mode since : Nat} {v : Word32} {o : OpRec}
    (h : (endWait c b o).cond = .bollard b mode v since) :
    o.cond = .bollard b mode v since ∧ (mode ≠ 2 → waitHolds mode v (c.bol b) = false) := by
  unfold endWait at h
  split at h
  · next bol mode' val since' hc =>
    split at h
    · cases h
    · next hno =>
      rw [hc] at h
      cases h
      exact ⟨hc, fun hm => by simpa [hm] using hno⟩
  · next hno => exact absurd h (hno _ _ _ _)

theorem checkWaits_noTake {c : Core} {b : Nat} (d : Nat) (h : NoTake c b) : NoTake (c.checkWaits d) b := by
  intro o ho v since hc
  rw [checkWaits_ops] at ho
  obtain ⟨p, hp, rfl⟩ := List.mem_map.1 ho
  unfold endWait at hc
  split at hc
  · split at hc
    · cases hc
    · exact h p hp v since hc
  · exact h p hp v since hc

/-- A core apart from what an update may leave beside the bollard's value: the time of its rise, step records, and banks. -/
def portBare (c : Core) : Core := { c with rise := [], steps := [], ahead := [], fset := Banks.empty, route := Banks.empty }

/-- The core as an update is applied, before the waits it ends. -/
def putSignal (c : Core) (cyc : Nat) (s : Signal) : Core :=
  let old := c.bol s.bol
  let new := if s.set then s.val else old + s.val
  let c := c.setBol s.bol new
  let c := if old == 0#32 && new != 0#32 then { c with rise := mset c.rise s.bol cyc } else c
  let c := { c with steps := c.steps.map fun (r : StepRec) => r.late s }
  let c := if s.src < 256 && s.bol < 60 && c.recs + 1 ≤ s.e then { c with ahead := c.ahead ++ [s] } else c
  if s.src = 257 then c.bump s.bol else c

theorem apply_eq (c : Core) (cyc : Nat) (s : Signal) : c.apply cyc s = (putSignal c cyc s).checkWaits s.bol := rfl

theorem portBare_bump (c : Core) (b : Nat) : portBare (c.bump b) = portBare c := by
  unfold Core.bump
  dsimp only
  split
  · rfl
  · split <;> rfl

theorem portBare_putSignal (c : Core) (cyc : Nat) (s : Signal) : portBare (putSignal c cyc s) =
    portBare (c.setBol s.bol (if s.set then s.val else c.bol s.bol + s.val)) := by
  have hrise : ∀ (p : Bool) (d : Core),
      portBare (if p then { d with rise := mset d.rise s.bol cyc } else d) = portBare d := fun p d => by cases p <;> rfl
  have hahead : ∀ (p : Bool) (d : Core),
      portBare (if p then { d with ahead := d.ahead ++ [s] } else d) = portBare d := fun p d => by cases p <;> rfl
  have hbump : ∀ d : Core, portBare (if s.src = 257 then d.bump s.bol else d) = portBare d := fun d => by
    split
    · exact portBare_bump d s.bol
    · rfl
  exact (hbump _).trans ((hahead _ _).trans (hrise _ _))

theorem putSignal_bol (c : Core) (cyc : Nat) (s : Signal) (d : Nat) : (putSignal c cyc s).bol d =
    if d = s.bol then (if s.set then s.val else c.bol s.bol + s.val) else c.bol d := by
  rw [← bol_setBol]
  exact (congrArg (fun x : Core => x.bol d) (portBare_putSignal c cyc s) :)

theorem putSignal_ops (c : Core) (cyc : Nat) (s : Signal) : (putSignal c cyc s).ops = c.ops :=
  (congrArg Core.ops (portBare_putSignal c cyc s) :)

theorem putSignal_hold (c : Core) (cyc : Nat) (s : Signal) : (putSignal c cyc s).hold = c.hold :=
  (congrArg Core.hold (portBare_putSignal c cyc s) :)

theorem putSignal_inbox (c : Core) (cyc : Nat) (s : Signal) : (putSignal c cyc s).inbox = c.inbox :=
  (congrArg Core.inbox (portBare_putSignal c cyc s) :)

/-- What the application of an update to bollard `b` leaves of its core. -/
theorem apply_spec {c : Core} {cyc b : Nat} {s : Signal} (hb : s.bol = b) :
    ((c.apply cyc s).bol b = if s.set then s.val else c.bol b + s.val) ∧
    (∀ d, d ≠ b → (c.apply cyc s).bol d = c.bol d) ∧
    (c.apply cyc s).hold = c.hold ∧ (c.apply cyc s).inbox = c.inbox ∧ (NoTake c b → NoTake (c.apply cyc s) b) ∧
    ∀ o ∈ (c.apply cyc s).ops, ∀ mode v since, o.cond = .bollard b mode v since → mode ≠ 2 →
      waitHolds mode v ((c.apply cyc s).bol b) = false := by
  subst hb
  have hframe := checkWaits_frame (putSignal c cyc s) s.bol
  have hbol : ∀ d, (c.apply cyc s).bol d = (putSignal c cyc s).bol d := fun d =>
    (congrArg (fun x : Core => x.bol d) hframe :)
  refine ⟨?_, fun d hd => ?_, ?_, ?_, fun h => ?_, fun o ho mode v since hc hm => ?_⟩
  · rw [hbol, putSignal_bol, if_pos rfl]
  · rw [hbol, putSignal_bol, if_neg hd]
  · exact (congrArg Core.hold hframe :).trans (putSignal_hold c cyc s)
  · exact (congrArg Core.inbox hframe :).trans (putSignal_inbox c cyc s)
  · rw [apply_eq]
    refine checkWaits_noTake s.bol ?_
    rwa [NoTake, putSignal_ops]
  · rw [apply_eq, checkWaits_ops] at ho
    obtain ⟨p, -, rfl⟩ := List.mem_map.1 ho
    rw [hbol]
    exact (endWait_cond hc).2 hm

/-- An update that is applied leaves what its application leaves; noting the waits touches threads and banks alone. -/
theorem applySignal_runs {m : Hw} {core : Nat} {s : Signal} (h : m.runs core s.ctx = true) :
    ∃ c : Core, (m.applySignal core s).core core = c.apply (m.cyc core) s ∧
      { c with threads := [], fset := Banks.empty, route := Banks.empty } =
        { m.core core with threads := [], fset := Banks.empty, route := Banks.empty } ∧
      (m.applySignal core s).mem = m.mem ∧ ∀ k, k ≠ core → (m.applySignal core s).core k = m.core k := by
  have hn := noteWaits_rest m core s.bol
  simp only [Hw.applySignal, h, if_true]
  refine ⟨_, core_updCore_same _ _ _, ?_, (congrArg Hw.mem (congrArg Prod.fst hn) :), fun k hk => ?_⟩
  · simpa only [noteRest, if_true] using congrFun (congrArg Prod.snd hn) core
  · rw [core_updCore_ne _ _ hk]
    simpa only [noteRest, if_neg hk] using congrFun (congrArg Prod.snd hn) k

theorem applySignal_stale {m : Hw} {core : Nat} {s : Signal} (h : m.runs core s.ctx = false) :
    Booked m (m.applySignal core s) := by
  simp only [Hw.applySignal, h, Bool.false_eq_true, if_false]
  exact Booked.countCore m core cSTALE 1

/-- The module as the updates of bollard `b` that have arrived leave the inbox. -/
def drained (m : Hw) (core b : Nat) : Hw :=
  m.updCore core fun c => { c with inbox := c.inbox.filter fun s => !m.reaches core b s }

theorem drained_core (m : Hw) (core b : Nat) : (drained m core b).core core =
    { m.core core with inbox := (m.core core).inbox.filter fun s => !m.reaches core b s } := core_updCore_same _ _ _

theorem exec_bollardUpdate (s : State) (core b : Nat) : exec (.bollardUpdate core b) s = .next { s with
    m := ((portOrder ((s.m.core core).inbox.filter (s.m.reaches core b))).foldl (fun m u => m.applySignal core u)
      (drained s.m core b)).portTake core b } := rfl

/-- Of the updates that wait for a bollard, those that have arrived are those of the whole inbox that reach it. -/
theorem filter_reaches {m : Hw} {core b : Nat} {u : Signal} (h : ((m.core core).inbox.filter fun v => v.bol == b) = [u]) :
    (m.core core).inbox.filter (m.reaches core b) = if m.arrived core u then [u] else [] := by
  have hsplit : (m.core core).inbox.filter (m.reaches core b) =
      ((m.core core).inbox.filter fun v => v.bol == b).filter (m.arrived core) := by
    rw [List.filter_filter]
    exact List.filter_congr fun v _ => Bool.and_comm _ _
  rw [hsplit, h, List.filter_cons, List.filter_nil]

/-- Settles O22: a port cycle with one update is that update's application, its drop, or nothing. -/
theorem bollardPortAppliesOneUpdate : Obligations.BollardPortAppliesOneUpdate := by
  refine ⟨fun val v => ⟨waitHolds_reach val v, waitHolds_equal val v, waitHolds_take val v⟩, fun s core b u hu hno => ?_⟩
  have hmem : u ∈ (s.m.core core).inbox ∧ u.bol = b := by
    have : u ∈ (s.m.core core).inbox.filter fun v => v.bol == b := hu ▸ List.mem_singleton_self u
    simpa using this
  have honly : ∀ v ∈ (s.m.core core).inbox, v.bol = b → v = u := fun v hv hvb =>
    List.mem_singleton.1 (hu ▸ List.mem_filter.2 ⟨hv, by simp [hvb]⟩)
  have hdrain : NoTake ((drained s.m core b).core core) b := by rw [drained_core]; exact hno
  have hother : ∀ k, k ≠ core → (drained s.m core b).core k = s.m.core k := fun k hk => core_updCore_ne _ _ hk
  refine ⟨fun harr => ⟨_, exec_bollardUpdate s core b, ?_⟩, fun harr => ⟨_, exec_bollardUpdate s core b, ?_⟩⟩
  · rw [filter_reaches hu, harr, if_neg Bool.false_ne_true]
    simp only [portOrder, List.mergeSort_nil, List.foldl_nil]
    rw [portTake_of_noTake hdrain, drained_core]
    refine ⟨List.filter_eq_self.2 fun v hv => ?_, rfl, rfl, rfl, hother⟩
    by_cases hvb : v.bol = b
    · simp [Hw.reaches, honly v hv hvb, harr]
    · simp [Hw.reaches, hvb]
  · have hleft : ∀ v ∈ ((drained s.m core b).core core).inbox, v.bol ≠ b := fun v hv hvb => by
      rw [drained_core] at hv
      obtain ⟨hv, hr⟩ := List.mem_filter.1 hv
      simp [Hw.reaches, honly v hv hvb, harr, hmem.2] at hr
    have hruns : (drained s.m core b).runs core u.ctx = s.m.runs core u.ctx := by
      simp only [Hw.runs, drained_core]
    rw [filter_reaches hu, harr, if_pos rfl]
    simp only [portOrder, List.mergeSort_singleton, List.foldl_cons, List.foldl_nil]
    cases hrun : s.m.runs core u.ctx with
    | true =>
      obtain ⟨c, hc, hcore, hmem', hne⟩ := applySignal_runs (hruns.trans hrun)
      obtain ⟨hb, hd, hhold, hinbox, htake, hover⟩ := apply_spec (c := c) (cyc := (drained s.m core b).cyc core) hmem.2
      rw [drained_core] at hcore
      have hbols : ∀ d, c.bol d = (s.m.core core).bol d := fun d => (congrArg (fun x : Core => x.bol d) hcore :)
      have hops : c.ops = (s.m.core core).ops := (congrArg Core.ops hcore :)
      rw [portTake_of_noTake (by rw [hc]; exact htake (by rwa [NoTake, hops])), hc]
      refine ⟨fun _ => by rw [hb, hbols], nofun, fun v hv => ?_, fun d hdb => by rw [hd d hdb, hbols], ?_, ?_, fun k hk =>
        (hne k hk).trans (hother k hk), fun _ => hover⟩
      · rw [hinbox, (congrArg Core.inbox hcore :)] at hv
        exact hleft v (by rwa [drained_core])
      · exact hhold.trans (congrArg Core.hold hcore :)
      · rw [hmem']; rfl
    | false =>
      have hbook := applySignal_stale (hruns.trans hrun)
      rw [portTake_of_noTake (by rwa [hbook.core]), hbook.core]
      refine ⟨nofun, fun _ => by rw [drained_core]; rfl, hleft, fun d _ => by rw [drained_core]; rfl, by rw [drained_core],
        hbook.ram, fun k hk => (hbook.core k).trans (hother k hk), nofun⟩

end Sys2Proof
end

section
/-! PROOF. Requests (02 R40 to R43, 06 R175 to R177): their issue and their completion within the bound (O19). -/

namespace Sys2Proof

open Machine

/-! ### Bytes and marks of module memory -/

/-- Bytes and poison marks of module memory. -/
def bytesOf (m : Hw) : Memory × List Nat := (m.mem.ram, m.mem.marks)

theorem Booked.bytesOf {m t : Hw} (h : Booked m t) : bytesOf t = bytesOf m := Prod.ext h.ram h.marks

@[simp] theorem updCore_bytesOf (m : Hw) (k : Nat) (f : Core → Core) : bytesOf (m.updCore k f) = bytesOf m := rfl

@[simp] theorem fault_bytesOf (m : Hw) (core t : Nat) (r : FaultRec) : bytesOf (m.fault core t r) = bytesOf m := by
  rw [bytesOf, fault_mem]; rfl

@[simp] theorem setOp_bytesOf (m : Hw) (core : Nat) (o : OpRec) : bytesOf (m.setOp core o) = bytesOf m := rfl

@[simp] theorem dirty_bytesOf (m : Hw) : bytesOf m.dirty = bytesOf m := rfl

@[simp] theorem count_bytesOf (m : Hw) (b i w n : Nat) : bytesOf (m.count b i w n) = bytesOf m :=
  (Booked.count m b i w n).bytesOf

@[simp] theorem event_bytesOf (m : Hw) (code : Nat) (ctx : Option Nat) (p : List (Nat × Nat)) :
    bytesOf (m.event code ctx p) = bytesOf m := Prod.ext (event_ram m code ctx p) (event_marks m code ctx p)

@[simp] theorem partDone_bytesOf (m : Hw) (ctx core : Nat) (f : OpEffect) : bytesOf (m.partDone ctx core f) = bytesOf m := by
  refine (foldl_keeps bytesOf (fun d p _ => count_bytesOf d _ _ _ _) _).trans ?_
  exact Prod.ext (holdStores_ram m ctx core f.stores) (holdStores_marks m ctx core f.stores)

@[simp] theorem settle_bytesOf (m : Hw) (core no : Nat) : bytesOf (m.settle core no) = bytesOf m := by
  unfold Hw.settle
  dsimp only
  split
  · split
    · split
      · rw [fault_bytesOf]
        split
        · exact partDone_bytesOf m _ core _
        · rfl
      · rfl
    · rfl
  · rfl

@[simp] theorem launch_bytesOf (m : Hw) (f : Ferry) : bytesOf (m.launch f) = bytesOf m :=
  (Booked.traffic { m with ferries := m.ferries ++ [f] } _ _ _ _ _).bytesOf

@[simp] theorem sendOut_bytesOf (n : Nat) (m : Hw) (core ctx : Nat) (o : OpRec) :
    bytesOf (sendOut n m core ctx o) = bytesOf m := by
  induction n generalizing m o with
  | zero => exact setOp_bytesOf m core o
  | succ n ih =>
    unfold sendOut
    dsimp only
    split
    · split
      · rfl
      · exact foldl_keeps bytesOf (fun d t _ => launch_bytesOf d _) _
    · split
      · rfl
      · rw [ih, launch_bytesOf, updCore_bytesOf]

@[simp] theorem releaseBuf_bytesOf (m : Hw) (core ctx land : Nat) (rows : List SendRow) :
    bytesOf (m.releaseBuf core ctx land rows) = bytesOf m := by
  refine (foldl_keeps bytesOf (fun d r _ => ?_) _).trans (updCore_bytesOf m core _)
  exact (Booked.traffic _ _ _ _ _ _).bytesOf

/-- The first half of the ferry pump: a SEND whose loads are consumed sends what its credits allow. -/
def sendPump (m : Hw) (core x : Nat) : Hw :=
  match (m.core core).ops.find? fun o => o.claims.getLsbD 7 && !o.send.isEmpty with
  | some o => if (m.core core).loadsIn o then (sendOut (o.send.length + 1) m core x o).settle core o.no else m
  | none => m

/-- The second half: a RETURN whose loads are consumed sends its rows and releases its buffer. -/
def returnPump (m : Hw) (core x : Nat) : Hw :=
  match (m.core core).ops.find? fun o => o.claims.getLsbD 8 && o.eff.release.isSome && o.eff.fault.isNone with
  | some o =>
    if (m.core core).loadsIn o then
      let m := (returnFerries core x o.send).foldl Hw.launch m
      let m := match o.eff.release with
        | some r => m.releaseBuf core x r.1 o.send
        | none => m
      m.setOp core { o with send := [], acks := o.acks + o.send.length, eff := { o.eff with release := none } }
    else m
  | none => m

theorem pumpFerries_of_ctx {m : Hw} {core x : Nat} (h : (m.core core).ctx = some x) :
    m.pumpFerries core = returnPump (sendPump m core x) core x := by
  simp only [Hw.pumpFerries, h]
  rfl

theorem pumpFerries_of_none {m : Hw} {core : Nat} (h : (m.core core).ctx = none) : m.pumpFerries core = m := by
  simp only [Hw.pumpFerries, h]

theorem sendPump_bytesOf (m : Hw) (core x : Nat) : bytesOf (sendPump m core x) = bytesOf m := by
  unfold sendPump
  split
  · split
    · rw [settle_bytesOf, sendOut_bytesOf]
    · rfl
  · rfl

theorem returnPump_bytesOf (m : Hw) (core x : Nat) : bytesOf (returnPump m core x) = bytesOf m := by
  have hlaunch : ∀ l : List Ferry, bytesOf (l.foldl Hw.launch m) = bytesOf m := fun l =>
    foldl_keeps bytesOf (fun d f _ => launch_bytesOf d f) m
  unfold returnPump
  split
  · split
    · rw [setOp_bytesOf]
      split
      · rw [releaseBuf_bytesOf, hlaunch]
      · rw [hlaunch]
    · rfl
  · rfl

@[simp] theorem pumpFerries_bytesOf (m : Hw) (core : Nat) : bytesOf (m.pumpFerries core) = bytesOf m := by
  cases h : (m.core core).ctx with
  | none => rw [pumpFerries_of_none h]
  | some x => rw [pumpFerries_of_ctx h, returnPump_bytesOf, sendPump_bytesOf]

@[simp] theorem reform_bytesOf (m : Hw) (core no : Nat) : bytesOf (m.reform core no) = bytesOf m := by
  unfold Hw.reform
  dsimp only
  split
  · split
    · rfl
    · split
      · rfl
      · split <;> rfl
  · rfl

@[simp] theorem corrected_bytesOf (m : Hw) (k : Nat) : bytesOf (m.corrected k) = bytesOf m := by
  unfold Hw.corrected
  dsimp only
  split
  · rw [event_bytesOf]; exact count_bytesOf m _ _ _ _
  · exact count_bytesOf m _ _ _ _

@[simp] theorem tally_bytesOf (m : Hw) (ws : List (Nat × WordRead)) : bytesOf (m.tally ws) = bytesOf m := by
  refine foldl_keeps bytesOf (fun d w _ => ?_) m
  split
  · exact corrected_bytesOf d _
  · rw [dirty_bytesOf, count_bytesOf]
  · rfl

@[simp] theorem decoded_bytesOf (m : Hw) (l : Loc) (n : Nat) (rb : ReadBack) : bytesOf (m.decoded l n rb) = bytesOf m := by
  cases l with
  | ram k => exact tally_bytesOf m _
  | host a => rfl
  | quay o => rfl

@[simp] theorem noteRead_bytesOf (m : Hw) (core : Nat) (l : Loc) (r : Req) (rb : ReadBack) (rs : List Req) :
    bytesOf (m.noteRead core l r rb rs) = bytesOf m := by
  unfold Hw.noteRead
  split <;> rfl

@[simp] theorem endWith_bytesOf (m : Hw) (core ctx : Nat) (r : Req) (f : FaultRec) :
    bytesOf (m.endWith core ctx r f) = bytesOf m := by
  unfold Hw.endWith
  split
  · exact fault_bytesOf m _ _ _
  · rfl

@[simp] theorem loadEnds_bytesOf (m : Hw) (core ctx : Nat) (rb : ReadBack) (r : Req) :
    bytesOf (m.loadEnds core ctx rb r) = bytesOf m := by
  unfold Hw.loadEnds
  split
  · rfl
  · split
    · exact endWith_bytesOf m _ _ _ _
    · rfl

/-! ### A store without read errors -/

/-- A word read without errors is good, or shows its mark. -/
theorem readWord_uncorrectable (s : MemSys) (k : Nat) : (s.readWord k []).uncorrectable = false := by
  unfold MemSys.readWord
  split <;> rfl

theorem storeAt_plain (s : MemSys) (k : Nat) (bs : List Byte) : s.storeAt k bs ⟨[]⟩ = s.store k bs := by
  have hlost : (s.mergeWords k bs.length ⟨[]⟩).filter (fun w => w.2.uncorrectable) = [] := by
    refine List.filter_eq_nil_iff.2 fun w hw => ?_
    obtain ⟨v, -, rfl⟩ := List.mem_map.1 (List.mem_filter.1 hw).1
    simpa [wordErrs] using readWord_uncorrectable s v.1
  simp only [MemSys.storeAt, hlost, List.isEmpty_nil, if_true, List.map_nil, List.foldl_nil]

/-- Bytes and marks after a store are those of the memory it goes to. -/
theorem landAt_bytesOf (m : Hw) (k : Nat) (bs : List Byte) :
    bytesOf (m.landAt (.ram k) bs ⟨[]⟩) = ((m.mem.store k bs).ram, (m.mem.store k bs).marks) := by
  have hb : ∀ s s' : MemSys, (s.ram, s.marks) = (s'.ram, s'.marks) →
      ((s.store k bs).ram, (s.store k bs).marks) = ((s'.store k bs).ram, (s'.store k bs).marks) := fun s s' h => by
    obtain ⟨hram, hmarks⟩ := Prod.mk.inj h
    simp only [MemSys.store, hram, hmarks]
  simp only [Hw.landAt, storeAt_plain]
  exact hb _ _ (tally_bytesOf m _)

/-! ### Issue and completion -/

theorem hostFill_frame (m : Hw) (p : PageDesc) (o : Nat) : { m.hostFill p o with hostTlb := m.hostTlb } = m := by
  unfold Hw.hostFill
  dsimp only
  split <;> rfl

/-- The module as a request is about to issue: a host page's table entry is filled. -/
def fillFor (m : Hw) (ctx : Nat) (r : Req) : Hw :=
  match m.locOf ctx r.va with
  | some (l, p, some (.host _)) => m.hostFill p (r.va - l.va)
  | _ => m

theorem fillFor_frame (m : Hw) (ctx : Nat) (r : Req) : { fillFor m ctx r with hostTlb := m.hostTlb } = m := by
  unfold fillFor
  split
  · exact hostFill_frame m _ _
  · rfl

/-- A request without a fault issues: it is marked, and those that it passes count it (02 R43). -/
theorem issueOne_of_good {m : Hw} {core ctx : Nat} {r : Req} (h : m.issueFault core ctx r = none) :
    ∃ f : Core → Core, m.issueOne core ctx r = (fillFor m ctx r).updCore core f ∧
      ((f (m.core core)).reqs.map (·.id) = (m.core core).reqs.map (·.id)) ∧
      ∀ q ∈ (f (m.core core)).reqs, q.id = r.id → q.issued = some m.now := by
  have hnow : (fillFor m ctx r).now = m.now := (congrArg Hw.now (fillFor_frame m ctx r) :)
  refine ⟨_, by simp only [Hw.issueOne, h]; rfl, ?_, fun q hq hid => ?_⟩
  · rw [List.map_map]
    refine List.map_congr_left fun q _ => ?_
    dsimp only [Function.comp_apply]
    split
    · rfl
    · split <;> rfl
  · obtain ⟨p, -, rfl⟩ := List.mem_map.1 hq
    split
    · exact congrArg some hnow
    · next hne =>
      rw [if_neg hne] at hid
      split at hid <;> exact absurd hid (by simpa using hne)

/-- The end of a response: the request leaves, and what its ops do next. -/
theorem exec_requestComplete {s : State} {core req x t : Nat} {r : Req} {rb : ReadBack}
    (hx : (s.m.core core).ctx = some x) (hr : ((s.m.core core).reqs.find? fun q => q.id == req) = some r)
    (ht : r.issued = some t) (hnow : s.m.now ≤ t + 50000) (hord : (s.m.core core).ordered r = true)
    (hlock : s.m.locked x r = false) :
    exec (.requestComplete core req rb) s = .next { s with m := s.m.respond core x r rb } := by
  change execRequestComplete core req rb s = _
  simp only [execRequestComplete, onHw, hx, hr, ht, lateBound, hnow, hord, hlock, decide_true, Bool.not_false,
    Bool.and_self, if_true]

/-- What follows a response's landing keeps bytes and marks. -/
theorem respond_bytesOf {m : Hw} {core ctx : Nat} {r : Req} {rb : ReadBack} {l : Loc} (hl : m.reqLoc ctx r = some l) :
    bytesOf (m.respond core ctx r rb) = bytesOf (if r.store then m.landAt l r.data rb else m.decoded l r.len rb) := by
  simp only [Hw.respond, hl]
  rw [updCore_bytesOf, foldl_keeps bytesOf fun d n _ => settle_bytesOf d core n, pumpFerries_bytesOf,
    foldl_keeps bytesOf fun d n _ => reform_bytesOf d core n]
  generalize (if r.store then m.landAt l r.data rb else m.decoded l r.len rb) = t
  have hacc := (Booked.account t ctx core l r.len r.store m.mem.ram).bytesOf
  split
  · rw [updCore_bytesOf]; exact hacc
  · rw [foldl_keeps bytesOf fun d q _ => loadEnds_bytesOf d core ctx rb q, updCore_bytesOf, noteRead_bytesOf]; exact hacc

/-- Settles O19: an issue marks one request; a response's bytes are those of its store, and of a load none. -/
theorem requestsIssueAndComplete : Obligations.RequestsIssueAndComplete := by
  refine ⟨fun s core x r hx hclk hfree hnext hgood => ?_, fun s core req x t r rb hx hr ht hnow hord hlock =>
    ⟨fun k hloc hst => ⟨_, exec_requestComplete hx hr ht hnow hord hlock, ?_⟩,
      fun hst => ⟨_, exec_requestComplete hx hr ht hnow hord hlock, ?_⟩⟩⟩
  · obtain ⟨f, hissue, hids, hissued⟩ := issueOne_of_good hgood
    have hframe := fillFor_frame s.m x r
    have hcore : ∀ k, (fillFor s.m x r).core k = s.m.core k := fun k => (congrArg (fun m : Hw => m.core k) hframe :)
    refine ⟨(fillFor s.m x r).updCore core f, ?_, ?_, ?_, (congrArg Hw.mem hframe :), fun k hk => ?_⟩
    · change execRequestIssue core s = _
      simp only [execRequestIssue, onHw, hx, hclk, hfree, hnext, hissue, Bool.not_true, Bool.or_self, Bool.false_eq_true,
        if_false]
    · rw [core_updCore_same, hcore, hids]
    · rw [core_updCore_same, hcore]
      exact hissued
    · rw [core_updCore_ne _ _ hk, hcore]
  · have hb := respond_bytesOf (core := core) (rb := ⟨[]⟩) hloc
    rw [if_pos hst, landAt_bytesOf] at hb
    exact ⟨congrArg Prod.fst hb, congrArg Prod.snd hb⟩
  · have hb : bytesOf (s.m.respond core x r rb) = bytesOf s.m := by
      cases hl : s.m.reqLoc x r with
      | none => simp only [Hw.respond, hl]
      | some l => rw [respond_bytesOf hl, hst, if_neg Bool.false_ne_true, decoded_bytesOf]
    exact ⟨congrArg Prod.fst hb, congrArg Prod.snd hb⟩

end Sys2Proof
end

section
/-! PROOF. Fetches and walks (02 R35, R38, 07 R195, R198): O17. -/

namespace Sys2Proof

open Machine

/-! ### Reads of fetches and walks -/

@[simp] theorem corrected_cores (m : Hw) (k : Nat) : (m.corrected k).cores = m.cores := by
  unfold Hw.corrected
  dsimp only
  split <;> simp

@[simp] theorem tally_cores (m : Hw) (ws : List (Nat × WordRead)) : (m.tally ws).cores = m.cores := by
  refine foldl_keeps Hw.cores (fun d w _ => ?_) m
  split
  · exact corrected_cores d _
  · exact count_cores d _ _ _ _
  · rfl

@[simp] theorem decoded_cores (m : Hw) (l : Loc) (n : Nat) (rb : ReadBack) : (m.decoded l n rb).cores = m.cores := by
  cases l with
  | ram k => exact tally_cores m _
  | host a => rfl
  | quay o => rfl

/-- From `m` to `t` core `core` reads: of the cores its next request number alone may change, and of memory no byte or mark. -/
structure Reads (core : Nat) (m t : Hw) : Prop where
  bytes : bytesOf t = bytesOf m
  own : { t.core core with nextReq := 0 } = { m.core core with nextReq := 0 }
  others : ∀ k, k ≠ core → t.core k = m.core k

namespace Reads

variable {core : Nat} {m t u : Hw}

theorem refl (core : Nat) (m : Hw) : Reads core m m := ⟨rfl, rfl, fun _ _ => rfl⟩

theorem trans (h : Reads core m t) (h' : Reads core t u) : Reads core m u :=
  ⟨h'.bytes.trans h.bytes, h'.own.trans h.own, fun k hk => (h'.others k hk).trans (h.others k hk)⟩

theorem foldl {α : Type} {f : Hw → α → Hw} (hf : ∀ d x, Reads core d (f d x)) (l : List α) (m : Hw) :
    Reads core m (l.foldl f m) := by
  induction l generalizing m with
  | nil => exact refl core m
  | cons x l ih => exact (hf m x).trans (ih (f m x))

theorem ofBooked (core : Nat) (h : Booked m t) : Reads core m t :=
  ⟨h.bytesOf, by rw [h.core], fun k _ => h.core k⟩

theorem decoded (m : Hw) (l : Loc) (n : Nat) (rb : ReadBack) : Reads core m (m.decoded l n rb) := by
  have h : ∀ k, (m.decoded l n rb).core k = m.core k := fun k => by rw [Hw.core, decoded_cores]; rfl
  exact ⟨decoded_bytesOf m l n rb, by rw [h], fun k _ => h k⟩

theorem coreLate (m : Hw) (l : Loc) : Reads core m (m.coreLate core l) := by
  have hupd : Reads core m (m.updCore core fun c => { c with nextReq := c.nextReq + 1 }) :=
    ⟨rfl, by rw [core_updCore_same], fun k hk => core_updCore_ne m _ hk⟩
  exact ⟨hupd.bytes, hupd.own, hupd.others⟩

theorem fetchReads (m : Hw) (ctx : Nat) (l : List (Nat × Nat × ReadEnd)) : Reads core m (m.fetchReads core ctx l) := by
  refine foldl (fun d p => ?_) l m
  split
  · exact (decoded d _ _ _).trans (ofBooked core (Booked.account _ _ _ _ _ _ _))
  · exact coreLate d _
  · exact refl core d

theorem walkDecoded (m : Hw) (l : List (Nat × Nat × ReadEnd)) : Reads core m (m.walkDecoded core l) := by
  refine foldl (fun d p => ?_) l m
  split
  · exact coreLate d _
  · exact decoded d _ _ _

end Reads

/-! ### Run-ahead -/

theorem toFetch_reached {m : Hw} {ctx a : Nat} {t : Thread} {reached : Bool} (h : m.toFetch ctx t = some (a, reached)) :
    reached = (t.next == some a) := by
  obtain ⟨b, -, hb⟩ := Option.map_eq_some_iff.1 h
  cases hb
  rfl

/-- A thread whose reached descriptor has no bad fetch takes no fault of one. -/
theorem chargeFetch_of_good {m : Hw} {core thread : Nat}
    (h : ∀ b ∈ ((m.core core).thread thread).bad, ((m.core core).thread thread).next ≠ some b.addr) :
    m.chargeFetch core thread = m := by
  have hnone : ((m.core core).thread thread).bad.find? (fun b => ((m.core core).thread thread).next == some b.addr) = none :=
    List.find?_eq_none.2 fun b hb => by simpa using h b hb
  unfold Hw.chargeFetch
  dsimp only
  rw [hnone]
  split
  · contradiction
  · rfl

/-- What a fetch that ended leaves in its thread: the descriptor staged, or the record of its bad read. -/
def fetched (t : Thread) (a : Nat) (f : Option (Nat × Nat × Nat)) : Thread :=
  match f with
  | none => { t with staged := t.staged ++ [a] }
  | some f => { t with bad := t.bad ++ [⟨a, f.2.1, f.1, f.2.2⟩] }

theorem fetched_next (t : Thread) (a : Nat) (f : Option (Nat × Nat × Nat)) : (fetched t a f).next = t.next := by
  cases f <;> rfl

/-- The bad fetches of a thread after a fetch are those before it, and one of the descriptor if it ended badly. -/
theorem fetched_bad {t : Thread} {a : Nat} {f : Option (Nat × Nat × Nat)} (hold : ∀ b ∈ t.bad, t.next ≠ some b.addr)
    (h : f = none ∨ t.next ≠ some a) : ∀ b ∈ (fetched t a f).bad, (fetched t a f).next ≠ some b.addr := by
  rw [fetched_next]
  cases f with
  | none => exact hold
  | some f =>
    have ha : t.next ≠ some a := h.resolve_left nofun
    intro b hb
    rcases List.mem_append.1 hb with hb | hb
    · exact hold b hb
    · rw [List.mem_singleton.1 hb]; exact ha

/-- The module as a fetch ends, its thread updated. -/
def fetchDone (m : Hw) (core thread x a : Nat) (t : Thread) (r : List (Nat × Nat × ReadEnd)) : Hw :=
  (m.fetchReads core x r).updCore core fun c => c.setThread thread (fetched t a (m.fetchEnd x r))

theorem exec_fetch {s : State} {core thread x a : Nat} {p : Plan} {t : Thread} {reached : Bool} {ends : List ReadEnd}
    (hplan : s.m.fetchPlan core thread = some (x, p, t)) (hto : s.m.toFetch x t = some (a, reached))
    (hhits : (s.m.core core).fetchHits x (s.m.fetchList x p a) = true)
    (hok : reached = true ∨
      (s.m.core core).aheadOk x ((t.next.map (s.m.fetchList x p)).getD []) (s.m.fetchList x p a) = true) :
    exec (.descriptorRunAheadFetch core ⟨thread, ends⟩) s = .next { s with
      m := (fetchDone s.m core thread x a t (withEnds (s.m.fetchList x p a) ends)).chargeFetch core thread } := by
  have hahead : ∀ own, own = (t.next.map (s.m.fetchList x p)).getD [] →
      (!reached && !(s.m.core core).aheadOk x own (s.m.fetchList x p a)) = false := by
    rintro _ rfl
    rcases hok with h | h <;> simp [h]
  change execDescriptorRunAheadFetch core ⟨thread, ends⟩ s = _
  simp only [execDescriptorRunAheadFetch, onHw, hplan, hto, hhits, Bool.not_true, Bool.false_eq_true, if_false]
  rw [hahead _ (by cases t.next <;> rfl), if_neg Bool.false_ne_true]
  cases hf : s.m.fetchEnd x (withEnds (s.m.fetchList x p a) ends) <;> simp only [fetchDone, fetched, hf]

/-- A fetch ends in its own thread: the reads before it touch no byte and, of its core, the next request number alone. -/
theorem fetchDone_spec {m : Hw} {core thread : Nat} (x a : Nat) {t : Thread} (r : List (Nat × Nat × ReadEnd))
    (hlen : thread < (m.core core).threads.length) :
    let d := fetchDone m core thread x a t r
    (d.core core).thread thread = fetched t a (m.fetchEnd x r) ∧
    (∀ u, u ≠ thread → (d.core core).thread u = (m.core core).thread u) ∧
    { d.core core with nextReq := 0, threads := [] } = { m.core core with nextReq := 0, threads := [] } ∧
    (∀ k, k ≠ core → d.core k = m.core k) ∧ bytesOf d = bytesOf m := by
  have hr := Reads.fetchReads (core := core) m x r
  have hth : ((m.fetchReads core x r).core core).threads = (m.core core).threads := (congrArg Core.threads hr.own :)
  refine ⟨?_, fun u hu => ?_, ?_, fun k hk => ?_, hr.bytes⟩
  · rw [fetchDone, core_updCore_same]
    exact thread_setThread_same _ (by rwa [hth])
  · rw [fetchDone, core_updCore_same, thread_setThread_ne _ _ hu]
    simp only [Core.thread, hth]
  · rw [fetchDone, core_updCore_same]
    exact (congrArg (fun c : Core => { c with threads := [] }) hr.own :)
  · rw [fetchDone, core_updCore_ne _ _ hk, hr.others k hk]

/-! ### Walks -/

/-- What ends a walk badly is read from the bytes and marks of memory. -/
theorem walkBad_congr {m t : Hw} (h : bytesOf t = bytesOf m) (l : List (Nat × Nat × ReadEnd)) : t.walkBad l = m.walkBad l := by
  obtain ⟨hram, hmarks⟩ := Prod.mk.inj h
  have hpoisoned : t.mem.poisoned = m.mem.poisoned := by funext k n; simp only [MemSys.poisoned, hmarks]
  have hword : t.mem.readWord = m.mem.readWord := by funext k es; rw [MemSys.readWord, MemSys.readWord, hpoisoned]
  have hwords : ∀ k n rb, t.mem.readWords k n rb = m.mem.readWords k n rb := fun k n rb => by
    simp only [MemSys.readWords, hword, hram]
  simp only [Hw.walkBad, Hw.readFault, hwords]

/-- The newest entry of a TLB answers for the addresses of its page. -/
theorem tlbHit_tlbFill {cap x va : Nat} {tlb : List TlbEntry} {e : TlbEntry} (hx : e.ctx = x)
    (hva : e.leaf.va ≤ va ∧ va < e.leaf.va + pageBytes e.leaf.size) : tlbHit (tlbFill cap tlb e) x va = some e := by
  unfold tlbFill
  dsimp only
  split <;> simp [tlbHit, hx, hva]

theorem walk_page {y : Ctx} {va : Nat} {l : Leaf} {p : PageDesc} (h : y.walk va = some (l, p)) :
    l.va ≤ va ∧ va < l.va + pageBytes l.size := by
  unfold Ctx.walk at h
  split at h
  · cases h
  · next l' hl =>
    obtain ⟨_, -, he⟩ := Option.map_eq_some_iff.1 h
    cases he
    simpa using List.find?_some hl

/-- The module as a walk's reads have ended. -/
def walked (m : Hw) (core x va : Nat) (w : List (Nat × Nat × ReadEnd)) : Hw :=
  (((m.countCore core cTLBMISS 1).countCore core cWALKS 1).walkDecoded core w).walkTraffic core x va

theorem walked_reads (m : Hw) (core x va : Nat) (w : List (Nat × Nat × ReadEnd)) : Reads core m (walked m core x va w) :=
  (Reads.ofBooked core ((Booked.countCore m core cTLBMISS 1).trans (Booked.countCore _ core cWALKS 1))).trans
    ((Reads.walkDecoded _ w).trans (Reads.ofBooked core (Booked.walkTraffic _ core x va)))

/-- The translation a walk has found, in the quarter TLB. -/
def quarterFilled (m : Hw) (core : Nat) (e : TlbEntry) : Hw :=
  let mine := (m.quarterTlb.filter fun t => t.1 == core / 64).map (·.2)
  { m with quarterTlb := (m.quarterTlb.filter fun (t : Nat × TlbEntry) => t.1 != core / 64)
      ++ (tlbFill quarterTlbCap mine e).map fun z => (core / 64, z) }

/-- The translation a walk has found, in the quarter TLB and the core TLB. -/
def translated (m : Hw) (core : Nat) (e : TlbEntry) : Hw :=
  (quarterFilled m core e).updCore core fun c => { c with tlb := tlbFill coreTlbCap c.tlb e }

theorem translated_tlb (m : Hw) (core : Nat) (e : TlbEntry) :
    ((translated m core e).core core).tlb = tlbFill coreTlbCap (m.core core).tlb e := by
  rw [translated, core_updCore_same]
  rfl

theorem translated_core_ne (m : Hw) {core k : Nat} (e : TlbEntry) (h : k ≠ core) :
    (translated m core e).core k = m.core k := core_updCore_ne (quarterFilled m core e) _ h

theorem translated_bytesOf (m : Hw) (core : Nat) (e : TlbEntry) : bytesOf (translated m core e) = bytesOf m := rfl

/-- A walk: by how its reads end and what it finds. -/
theorem exec_tlbWalk {s : State} {core thread va x : Nat} {y : Ctx} {n : Need3} {ends : List ReadEnd}
    (hx : (s.m.core core).ctx = some x) (hy : mget s.m.ctxs x = some y) (hclk : s.m.clocked = true)
    (hmiss : (s.m.core core).tlbOf x va = none) (hneed : s.m.walkNeed core thread x va (y.leafAt va) = some n)
    (hquarter : tlbHit ((s.m.quarterTlb.filter fun t => t.1 == core / 64).map (·.2)) x va = none) :
    exec (.tlbWalk core thread va ends) s = .next { s with
      m := if s.m.walkBad (walkEnds y va ends) then
          (walked s.m core x va (walkEnds y va ends)).walkFault 0x02C2 core thread x va n
        else match y.walk va with
          | none => (walked s.m core x va (walkEnds y va ends)).walkFault 0x02C0 core thread x va n
          | some (l, p) => translated (walked s.m core x va (walkEnds y va ends)) core ⟨x, l, p, false⟩ } := by
  have hq : (s.m.countCore core cTLBMISS 1).quarterTlb = s.m.quarterTlb :=
    (congrArg Hw.quarterTlb (Booked.countCore s.m core cTLBMISS 1).rest :)
  have hbad := walkBad_congr (walked_reads s.m core x va (walkEnds y va ends)).bytes (walkEnds y va ends)
  change execTlbWalk core thread va ends s = _
  simp only [execTlbWalk, onHw, hx, hy, hclk, hmiss, hneed, hq, hquarter, Option.isSome_none, Bool.not_true, Bool.or_self,
    Bool.false_eq_true, if_false]
  rw [← walked, hbad]
  cases y.walk va <;> rfl

/-- Settles O17: a fetch stages its descriptor or keeps its bad end; a walk fills the TLBs or faults. -/
theorem descriptorsAndTranslationsAreFetched : Obligations.DescriptorsAndTranslationsAreFetched := by
  refine ⟨fun s core thread x a p t reached ends hplan hto hhits hok hlen hbad hend => ?_,
    fun s core thread va x y n ends hx hy hclk hmiss hneed hquarter => ?_⟩
  · obtain ⟨hself, hothers, hcore, hne, hbytes⟩ := fetchDone_spec (t := t) x a (withEnds (s.m.fetchList x p a) ends) hlen
    have hgood : ∀ b ∈ (fetched t a (s.m.fetchEnd x (withEnds (s.m.fetchList x p a) ends))).bad, _ :=
      fetched_bad hbad (hend.imp_right fun h => by simpa [h] using (toFetch_reached hto).symm)
    refine ⟨_, exec_fetch hplan hto hhits hok, ?_⟩
    rw [chargeFetch_of_good (by rw [hself]; exact hgood)]
    refine ⟨hself.trans ?_, hothers, (congrArg Core.hold hcore :), (congrArg Core.ops hcore :), (congrArg Core.bols hcore :),
      (congrArg Core.reqs hcore :), hne, congrArg Prod.fst hbytes, congrArg Prod.snd hbytes⟩
    rfl
  · have hexec := exec_tlbWalk (ends := ends) hx hy hclk hmiss hneed hquarter
    have hreads := walked_reads s.m core x va (walkEnds y va ends)
    refine ⟨fun l p hb hw => ⟨_, hexec, ?_⟩, fun hb hw => ?_, fun hb => ?_⟩
    · rw [hb, if_neg Bool.false_ne_true, hw]
      dsimp only
      refine ⟨?_, congrArg Prod.fst ((translated_bytesOf _ core _).trans hreads.bytes), fun k hk => ?_⟩
      · rw [Core.tlbOf, translated_tlb]
        exact tlbHit_tlbFill rfl (walk_page hw)
      · rw [translated_core_ne _ _ hk, hreads.others k hk]
    · rw [hb, if_neg Bool.false_ne_true, hw] at hexec
      exact hexec
    · rw [hb, if_pos rfl] at hexec
      exact hexec

end Sys2Proof
end

section
/-! PROOF. A residue mismatch or a hold error stops its core (03 R102, 18 R465): O25. -/

namespace Sys2Proof

open Machine

/-! ### Stopping the threads of a core -/

/-- Thread `t` does not run and has no op in progress. -/
def ThreadStopped (c : Core) (t : Nat) : Prop := (c.thread t).st ≠ .running ∧ ∀ o ∈ c.ops, o.thread ≠ t

theorem stopThread_not_running (c : Core) (t : Nat) : ((c.stopThread t).thread t).st ≠ .running := by
  by_cases ht : t < c.threads.length
  · rw [show (c.stopThread t).thread t = _ from thread_setThread_same (c := c) _ ht]
    cases h : (c.thread t).st <;> simp
  · simp [Core.stopThread, Core.thread, lget, lset, ht, Thread.idle]

theorem stopThread_thread_ne (c : Core) {t u : Nat} (h : u ≠ t) : (c.stopThread t).thread u = c.thread u :=
  thread_setThread_ne c _ h

theorem threadStopped_stopThread (c : Core) (t : Nat) : ThreadStopped (c.stopThread t) t :=
  ⟨stopThread_not_running c t, stopThread_ops c t⟩

/-- A stopped thread stays stopped as another thread stops. -/
theorem ThreadStopped.stopThread {c : Core} {t : Nat} (h : ThreadStopped c t) (u : Nat) : ThreadStopped (c.stopThread u) t := by
  by_cases hu : t = u
  · subst hu
    exact threadStopped_stopThread c t
  · obtain ⟨hst, hops⟩ := h
    exact ⟨by rwa [stopThread_thread_ne c hu], fun o ho => hops o (List.mem_filter.1 ho).1⟩

theorem threadStopped_foldl {t : Nat} (l : List Nat) (c : Core) (h : ThreadStopped c t ∨ t ∈ l) :
    ThreadStopped (l.foldl Core.stopThread c) t := by
  induction l generalizing c with
  | nil => exact h.resolve_right List.not_mem_nil
  | cons u l ih =>
    refine ih _ ?_
    rcases h with h | h
    · exact .inl (h.stopThread u)
    · rcases List.mem_cons.1 h with rfl | h
      · exact .inl (threadStopped_stopThread c t)
      · exact .inr h

theorem threadStopped_stopAll (c : Core) {t : Nat} (h : t < 4) : ThreadStopped c.stopAll t :=
  threadStopped_foldl _ c (.inr (List.mem_range.2 h))

@[simp] theorem stopAll_acc (c : Core) : c.stopAll.acc = c.acc := foldl_keeps (f := Core.stopThread) Core.acc (fun _ _ _ => rfl) c

/-! ### The stop of a core by a fault -/

@[simp] theorem dirty_core (m : Hw) (k : Nat) : m.dirty.core k = m.core k := rfl

theorem breakCore_core (m : Hw) (core array tag thread : Nat) : (m.breakCore core array tag thread).core core =
    { (m.core core).stopAll with broken := some (array, m.now, tag, thread) } := by
  rw [Hw.breakCore, dirty_core, core_updCore_same]

theorem breakCore_core_ne (m : Hw) {core k : Nat} (array tag thread : Nat) (h : k ≠ core) :
    (m.breakCore core array tag thread).core k = m.core k := by
  rw [Hw.breakCore, dirty_core, core_updCore_ne _ _ h]

@[simp] theorem breakCore_mem (m : Hw) (core array tag thread : Nat) : (m.breakCore core array tag thread).mem = m.mem := rfl

@[simp] theorem breakCore_dirty (m : Hw) (core array tag thread : Nat) :
    (m.breakCore core array tag thread).island.health.dirty = true := rfl

/-! ### The two commands -/

/-- A thread with an op in progress has an op that the mismatch is charged to. -/
theorem failing_of_mem {c : Core} {o : OpRec} (a : ResidueAt) (ho : o ∈ c.ops) : ∃ p, c.failing o.thread a = some p := by
  have hfind : (c.ops.find? fun p => p.thread == o.thread).isSome = true := List.find?_isSome.2 ⟨o, ho, beq_self_eq_true _⟩
  refine Option.isSome_iff_exists.1 ?_
  unfold Core.failing
  cases c.ops.find? fun p => p.thread == o.thread && p.claims &&& residueClaims a != 0#10 with
  | some p => rfl
  | none => exact hfind

section

variable {s : State} {core : Nat} (hclk : s.m.clocked = true) (hctx : (s.m.core core).ctx ≠ none)
include hclk hctx

theorem exec_residueMismatch {o : OpRec} {a : ResidueAt} (hbr : (s.m.core core).broken = none) (harr : a.array ≤ 10)
    (ho : o ∈ (s.m.core core).ops) :
    ∃ tag, Leaves (.residueMismatch core o.thread a) s (s.m.breakCore core a.array tag o.thread) := by
  obtain ⟨x, hx⟩ := Option.ne_none_iff_exists'.1 hctx
  obtain ⟨p, hp⟩ := failing_of_mem a ho
  refine ⟨p.hdr.tag, ?_⟩
  change execResidueMismatch core o.thread a s = _
  simp [execResidueMismatch, hx, hp, hclk, hbr, harr]

theorem exec_holdError_double (th : Option Nat) (hbr : (s.m.core core).broken = none) :
    ∃ tag, Leaves (.holdError core ⟨true, th⟩) s (s.m.breakCore core 11 tag (th.getD 0 % 4)) := by
  refine ⟨(th.bind fun t => (s.m.core core).ops.find? fun o => o.thread == t).elim 0 (·.hdr.tag), ?_⟩
  change execHoldError core ⟨true, th⟩ s = _
  simp only [execHoldError, onHw_next, hclk, hbr]
  cases th.bind fun t => (s.m.core core).ops.find? fun o => o.thread == t <;> simp [hctx]

theorem exec_holdError_single (th : Option Nat) :
    Leaves (.holdError core ⟨false, th⟩) s (s.m.countCore core cHOLDCORR 1) := by
  change execHoldError core ⟨false, th⟩ s = _
  simp [execHoldError, hclk, hctx]

end

/-- Settles O25: both commands end in `breakCore`, whose core has every thread stopped. -/
theorem coreFaultsStopTheCore : Obligations.CoreFaultsStopTheCore := by
  intro s core thread hclk hctx hbr
  refine ⟨exec_holdError_single hclk hctx, fun i array hi => ?_⟩
  have hbreak : ∃ tag th, Leaves i s (s.m.breakCore core array tag th) := by
    rcases hi with ⟨harr, ⟨p, rfl⟩, o, ho, rfl⟩ | ⟨rfl, th, rfl⟩
    · obtain ⟨tag, h⟩ := exec_residueMismatch (a := ⟨array, p⟩) hclk hctx hbr harr ho
      exact ⟨tag, o.thread, h⟩
    · obtain ⟨tag, h⟩ := exec_holdError_double hclk hctx th hbr
      exact ⟨tag, _, h⟩
  obtain ⟨tag, th, hexec⟩ := hbreak
  refine ⟨_, hexec, ?_⟩
  have hstopped := fun t (ht : t < 4) => threadStopped_stopAll (s.m.core core) ht
  dsimp only
  rw [breakCore_core]
  refine ⟨⟨tag, th, rfl⟩, fun t ht => (hstopped t ht).1, fun o ho => ?_, breakCore_dirty .., breakCore_mem ..,
    stopAll_hold _, stopAll_acc _, fun k hk => breakCore_core_ne s.m array tag th hk⟩
  exact Nat.le_of_not_lt fun hlt => (hstopped o.thread hlt).2 o ho rfl

end Sys2Proof
end

section
/-! PROOF. Starts of row, sequence, signal and idle ops (O10), and swaps of function-set and route banks (05 R155, 11 R282; O28). -/

namespace Sys2Proof

open Machine

/-- Settles O10: each of these commands is one `startWith` of its kind and body; an APPEND zeroes the frames it opens as its
last step, and a SIGNAL's mode is the field that its command tests. -/
theorem rowAndSequenceOpsStart : Obligations.RowAndSequenceOpsStart := by
  intro s core thread e h
  refine ⟨?elemwise, ?normApply, ?move, ?gather, ?append, ?sealing, ?release, ?fork, ?signalAdd, ?signalSet, ?signalHost, ?nop⟩
  case signalAdd | signalSet | signalHost =>
    rintro ⟨ho, hm⟩
    exact leaves_startWith rfl h (by simp [ho, Env.signalMode, hm]) rfl
  all_goals
    intro hk
    refine leaves_startWith rfl h (by simp [hk]) ?_
    rfl

/-! ### Swaps -/

theorem swap_active {b : Banks} {img : List Byte} (h : b.shadow = some img) : b.swap.active = img := by
  simp [Banks.swap, h]

@[simp] theorem swap_shadow (b : Banks) : b.swap.shadow = none := rfl

/-- The end of a swap touches the load's record and posts its event: no core and no byte of module memory. -/
theorem swapped_cores_ram (m : Hw) (core id code : Nat) :
    (m.swapped core id code).cores = m.cores ∧ (m.swapped core id code).mem.ram = m.mem.ram := by
  unfold Hw.swapped
  split
  case h_1 => exact ⟨rfl, rfl⟩
  case h_2 l _ =>
    dsimp only
    split
    case isTrue => exact ⟨event_cores _ _ _ _, event_ram _ _ _ _⟩
    case isFalse => exact ⟨rfl, rfl⟩

@[simp] theorem swapped_core (m : Hw) (core id code k : Nat) : (m.swapped core id code).core k = m.core k :=
  congrArg (fun l => mgetD l k Core.cleared) (swapped_cores_ram m core id code).1

@[simp] theorem swapped_ram (m : Hw) (core id code : Nat) : (m.swapped core id code).mem.ram = m.mem.ram :=
  (swapped_cores_ram m core id code).2

theorem exec_functionSetSwap {s : State} {core : Nat} (h : s.m.mayswap core 3 (s.m.core core).fset = true) :
    Leaves (.functionSetSwap core) s ((s.m.updCore core fun c => { c with fset := (s.m.core core).fset.swap }).swapped core
      (s.m.core core).fset.load 0x0780) := by
  change execFunctionSetSwap core s = _
  simp only [execFunctionSetSwap, onHw_next, h, if_true]

theorem exec_routeTableSwap {s : State} {core : Nat} (h : s.m.mayswap core 7 (s.m.core core).route = true) :
    Leaves (.routeTableSwap core) s ((s.m.updCore core fun c => { c with route := (s.m.core core).route.swap }).swapped core
      (s.m.core core).route.load 0x0890) := by
  change execRouteTableSwap core s = _
  simp only [execRouteTableSwap, onHw_next, h, if_true]

/-- Settles O28: a swap is one change of the core's own banks, and its end changes no core and no byte of module memory. -/
theorem banksSwapWhole : Obligations.BanksSwapWhole := by
  intro s core img
  refine ⟨fun hmay himg => ⟨_, exec_functionSetSwap hmay, ?_⟩, fun hmay himg => ⟨_, exec_routeTableSwap hmay, ?_⟩⟩
  all_goals
    simp only [swapped_core, core_updCore_same, swapped_ram, updCore_mem, swap_active himg, swap_shadow, true_and, and_true]
    exact fun k hk => core_updCore_ne s.m _ hk

end Sys2Proof
end

section
/-! PROOF. Stores and poison marks of module memory (06 R177): O7 and O8. -/

namespace Sys2Proof

open Machine

/-- A byte of memory after a write of several: the written one inside the range, outside it the old one. -/
theorem rd_wrN {m : Memory} {k : Nat} {bs : List Byte} (h : m.wf = true) (a : Nat) :
    rd (wrN m k bs) a = if k ≤ a ∧ a < k + bs.length then bs.getD (a - k) 0 else rd m a := by
  induction bs generalizing m k with
  | nil => rw [if_neg (by simp only [List.length_nil]; omega)]; rfl
  | cons b t ih =>
    rw [wrN, ih (wr_wf h), rd_wr h, List.length_cons]
    rcases Nat.lt_trichotomy a k with hlt | rfl | hgt
    · rw [if_neg (by omega), if_neg (by omega), if_neg (by omega)]
    · rw [if_neg (by omega), if_pos rfl, if_pos (by omega), Nat.sub_self, List.getD_cons_zero]
    · obtain ⟨i, rfl⟩ : ∃ i, a = k + 1 + i := ⟨a - (k + 1), by omega⟩
      rw [if_neg (show ¬k + 1 + i = k by omega), show k + 1 + i - (k + 1) = i by omega,
        show k + 1 + i - k = i + 1 by omega, List.getD_cons_succ]
      by_cases hi : i < t.length
      · rw [if_pos (by omega), if_pos (by omega)]
      · rw [if_neg (by omega), if_neg (by omega)]

theorem rdN_wrN {m : Memory} {k : Nat} {bs : List Byte} (h : m.wf = true) : rdN (wrN m k bs) k bs.length = bs := by
  refine List.ext_getElem (by simp [rdN]) fun i _ hi => ?_
  simp only [rdN, List.getElem_map, List.getElem_range]
  rw [rd_wrN h, if_pos (by omega), Nat.add_sub_cancel_left, List.getD_eq_getElem?_getD,
    List.getElem?_eq_getElem hi, Option.getD_some]

/-- A store leaves the marks but those of the units it covers whole. -/
theorem mem_store_marks {s : MemSys} {k w : Nat} {bs : List Byte} : w ∈ (s.store k bs).marks ↔
    w ∈ s.marks ∧ ¬(w ∈ marksIn k bs.length ∧ k ≤ w ∧ w + markSize k ≤ k + bs.length) := by
  refine List.mem_filter.trans (and_congr_right fun _ => ?_)
  rw [Bool.not_eq_true', ← Bool.not_eq_true, List.contains_iff_mem, List.mem_filter, Bool.and_eq_true, decide_eq_true_eq,
    decide_eq_true_eq]

/-- Settles O7: a store is one write of bytes and one filter of marks. -/
theorem storedBytesReadBack : Obligations.StoredBytesReadBack := fun _ _ _ hwf =>
  ⟨rdN_wrN hwf, fun a ha => (rd_wrN hwf a).trans (if_neg (by omega)), rfl, wrN_wf hwf, fun _ => mem_store_marks⟩

/-! ### Poison -/

theorem mem_addMark {l : List Nat} {v w : Nat} : w ∈ addMark l v ↔ w ∈ l ∨ w = v := by
  unfold addMark
  split
  · next h => exact ⟨.inl, fun hw => hw.elim id fun e => e ▸ List.contains_iff_mem.1 h⟩
  · rw [List.mem_cons, or_comm]

theorem mem_foldl_addMark {l ws : List Nat} {w : Nat} : w ∈ ws.foldl addMark l ↔ w ∈ l ∨ w ∈ ws := by
  induction ws generalizing l with
  | nil => simp
  | cons v ws ih => rw [List.foldl_cons, ih, mem_addMark, List.mem_cons, or_assoc]

theorem mem_poison_marks {s : MemSys} {k n w : Nat} : w ∈ (s.poison k n).marks ↔ w ∈ s.marks ∨ w ∈ marksIn k n :=
  mem_foldl_addMark

/-- A range that is not empty touches the unit of its first byte. -/
theorem markOf_mem_marksIn {k n : Nat} (h : 0 < n) : markOf k ∈ marksIn k n := by
  have hdiv : k / markSize k ≤ (k + n - 1) / markSize k := Nat.div_le_div_right (by omega)
  rw [marksIn, if_neg (by omega)]
  exact List.mem_map.2 ⟨0, List.mem_range.2 (by omega), by simp⟩

/-- A range whose first unit is marked meets a mark. -/
theorem poisoned_of_mem {s : MemSys} {k n : Nat} (hn : 0 < n) (h : markOf k ∈ s.marks) : s.poisoned k n = true :=
  List.any_eq_true.2 ⟨markOf k, markOf_mem_marksIn hn, List.contains_iff_mem.2 h⟩

theorem poisoned_poison (s : MemSys) (k : Nat) {n : Nat} (h : 0 < n) : (s.poison k n).poisoned k n = true :=
  poisoned_of_mem h (mem_poison_marks.2 (.inr (markOf_mem_marksIn h)))

/-- Settles O8: poisoning adds the marks of the touched units to the marks there are. -/
theorem poisonMarksTouchedUnits : Obligations.PoisonMarksTouchedUnits := fun s k _ =>
  ⟨rfl, rfl, fun _ => mem_poison_marks, poisoned_poison s k⟩

end Sys2Proof
end

section
/-! PROOF. What the reports of a command leave (14 R382, 18 R453, R459): an event, its record in the error log and the counts of a
word that is read change no core and no byte or mark of module memory. -/

namespace Sys2Proof

open Machine

/-- Two contexts that differ in their event ring alone agree in all that does not depend on it. -/
theorem map_of_ringless {α : Type} {a b : Option Ctx} {g : Ctx → α} (hg : ∀ x, g { x with ring := none } = g x)
    (h : a.map (fun x => { x with ring := none }) = b.map fun x => { x with ring := none }) : a.map g = b.map g := by
  have hmap := congrArg (Option.map g) h
  simpa only [Option.map_map, Function.comp_def, hg] using hmap

/-- `t` is `m` but for counters, counts of corrected words, host memory, event rings and what of the always-on island no clean
health record hides: error log and health record. -/
structure Posted (m t : Hw) : Prop where
  rest : { t with ctxs := m.ctxs, mem := m.mem, host := m.host, counters := m.counters, island := m.island } = m
  mem : { t.mem with host := m.mem.host, bankCorr := m.mem.bankCorr } = m.mem
  contexts : ∀ c, (mget t.ctxs c).map (fun x => { x with ring := none }) = (mget m.ctxs c).map fun x => { x with ring := none }
  dirty : m.island.health.dirty = true → t.island.health.dirty = true

namespace Posted

variable {m t u : Hw}

theorem refl (m : Hw) : Posted m m := ⟨rfl, rfl, fun _ => rfl, id⟩

theorem trans (h : Posted m t) (h' : Posted t u) : Posted m u where
  rest := ((congrArg (fun x : Hw => { x with ctxs := m.ctxs, mem := m.mem, host := m.host, counters := m.counters
                                             island := m.island }) h'.rest).trans h.rest :)
  mem := ((congrArg (fun x : MemSys => { x with host := m.mem.host, bankCorr := m.mem.bankCorr }) h'.mem).trans h.mem :)
  contexts c := (h'.contexts c).trans (h.contexts c)
  dirty := h'.dirty ∘ h.dirty

theorem foldl {α : Type} {f : Hw → α → Hw} (hf : ∀ d x, Posted d (f d x)) (l : List α) (m : Hw) :
    Posted m (l.foldl f m) := by
  induction l generalizing m with
  | nil => exact refl m
  | cons x l ih => exact (hf m x).trans (ih (f m x))

theorem ofBooked (h : Booked m t) : Posted m t where
  rest := (congrArg (fun x : Hw => { x with island := m.island }) h.rest :)
  mem := (congrArg (fun x : MemSys => { x with bankCorr := m.mem.bankCorr }) h.mem :)
  contexts := h.contexts
  dirty := fun hd => (congrArg (fun x : Hw => x.island.health.dirty) h.rest :).trans hd

theorem logErrorAt (m : Hw) (d code : Nat) (ctx : Option Nat) (recov : Bool) (loc aux : Nat) :
    Posted m (m.logErrorAt d code ctx recov loc aux) := by
  refine trans ?_ (ofBooked (Booked.count _ _ _ _ _))
  exact ⟨rfl, rfl, fun _ => rfl, id⟩

theorem eventAux (m : Hw) (code : Nat) (ctx : Option Nat) (p : List (Nat × Nat)) (aux : Nat) :
    Posted m (m.eventAux code ctx p aux) := by
  have hring := ofBooked (Booked.toRing m code ctx (packFields p))
  unfold Hw.eventAux Hw.eventAs
  dsimp only
  split
  · exact hring.trans (logErrorAt _ _ _ _ _ _ _)
  · exact hring

theorem event (m : Hw) (code : Nat) (ctx : Option Nat) (p : List (Nat × Nat)) : Posted m (m.event code ctx p) :=
  eventAux m code ctx p 0

theorem setDirty (m : Hw) : Posted m m.dirty := ⟨rfl, rfl, fun _ => rfl, fun _ => rfl⟩

theorem corrected (m : Hw) (k : Nat) : Posted m (m.corrected k) := by
  have hcount := ofBooked (Booked.count m 7 (m.chanOf k) 0 1)
  unfold Hw.corrected
  dsimp only
  split
  · refine hcount.trans (trans ?_ (event _ _ _ _))
    exact ⟨rfl, rfl, fun _ => rfl, id⟩
  · refine hcount.trans ?_
    exact ⟨rfl, rfl, fun _ => rfl, id⟩

/-- An uncorrectable word is counted and makes the health record DIRTY. -/
theorem uncorrected (m : Hw) (k : Nat) : Posted m (m.count 7 (m.chanOf k) 1 1).dirty :=
  (ofBooked (Booked.count _ _ _ _ _)).trans (setDirty _)

theorem tally (m : Hw) (ws : List (Nat × WordRead)) : Posted m (m.tally ws) := by
  refine foldl (fun d w => ?_) ws m
  split
  · exact corrected d _
  · exact uncorrected d _
  · exact refl d

theorem decoded (m : Hw) (l : Loc) (n : Nat) (rb : ReadBack) : Posted m (m.decoded l n rb) := by
  cases l with
  | ram k => exact tally m _
  | host a => exact refl m
  | quay o => exact refl m

theorem cores (h : Posted m t) : t.cores = m.cores := (congrArg Hw.cores h.rest :)
theorem core (h : Posted m t) (k : Nat) : t.core k = m.core k := (congrArg (fun x : Hw => x.core k) h.rest :)
theorem engines (h : Posted m t) : t.engines = m.engines := (congrArg Hw.engines h.rest :)
theorem espor (h : Posted m t) : t.espor = m.espor := (congrArg Hw.espor h.rest :)
theorem ram (h : Posted m t) : t.mem.ram = m.mem.ram := (congrArg MemSys.ram h.mem :)
theorem marks (h : Posted m t) : t.mem.marks = m.mem.marks := (congrArg MemSys.marks h.mem :)
theorem scrubbed (h : Posted m t) : t.mem.scrubbed = m.mem.scrubbed := (congrArg MemSys.scrubbed h.mem :)

/-- What of a context does not depend on its event ring is as it was. -/
theorem ctx {α : Type} (h : Posted m t) {g : Ctx → α} (hg : ∀ x, g { x with ring := none } = g x) (c : Nat) :
    (mget t.ctxs c).map g = (mget m.ctxs c).map g := map_of_ringless hg (h.contexts c)

end Posted

end Sys2Proof
end

section
/-! PROOF. A request without response at its bound, and its late response (06 R175 to R177): O20. -/

namespace Sys2Proof

open Machine

@[simp] theorem fault_late (m : Hw) (core t : Nat) (r : FaultRec) : (m.fault core t r).late = m.late := by
  unfold Hw.fault Hw.updCtx
  split <;> rfl

@[simp] theorem endWith_late (m : Hw) (core ctx : Nat) (r : Req) (f : FaultRec) : (m.endWith core ctx r f).late = m.late := by
  unfold Hw.endWith
  split
  · exact fault_late m _ _ _
  · rfl

/-- The requests of core `core` that one access served end late, at a place of module memory. -/
def lateEnded (m : Hw) (core x req k : Nat) (r : Req) : Hw :=
  let t := ((if r.store then { m with mem := m.mem.poison k r.len } else m).updCore core fun c => c.dropReq r.id).lateNote
    core req (.ram k)
  (((m.core core).served r).foldl (fun m q => m.endWith core x q ((m.reqFault 0x0281 core x q).place m (.ram k))) t).updCore
    core Core.fill

theorem exec_lateResponseBound {s : State} {core req x t k : Nat} {r : Req} (hx : (s.m.core core).ctx = some x)
    (hr : ((s.m.core core).reqs.find? fun q => q.id == req) = some r) (ht : r.issued = some t) (hnow : t + 50000 ≤ s.m.now)
    (hlock : s.m.locked x r = false) (hl : s.m.reqLoc x r = some (.ram k)) :
    exec (.lateResponseBound core req) s = .next { s with m := lateEnded s.m core x req k r } := by
  change execLateResponseBound core req s = _
  simp only [execLateResponseBound, onHw, hx, hr, ht, hl, lateBound, hnow, hlock, decide_true, Bool.not_false, Bool.and_self,
    if_true]
  rfl

theorem lateEnded_late (m : Hw) (core x req k : Nat) (r : Req) :
    (lateEnded m core x req k r).late = m.late ++ [(core, req, some (m.chanOf k))] := by
  refine (foldl_keeps Hw.late (fun d q _ => endWith_late d core x q _) _).trans ?_
  cases r.store <;> rfl

theorem lateEnded_bytesOf (m : Hw) (core x req k : Nat) (r : Req) : bytesOf (lateEnded m core x req k r) =
    (m.mem.ram, if r.store then (m.mem.poison k r.len).marks else m.mem.marks) := by
  refine (foldl_keeps bytesOf (fun d q _ => endWith_bytesOf d core x q _) _).trans ?_
  cases r.store <;> rfl

/-- A late response of module memory is counted at its channel; one of host memory has nothing to count (18 R458). -/
def arrived (m : Hw) (ch : Option Nat) : Hw :=
  match ch with
  | some c => m.count 7 c 2 1
  | none => m

theorem arrived_booked (m : Hw) (ch : Option Nat) : Booked m (arrived m ch) := by
  cases ch with
  | none => exact .refl m
  | some c => exact .count m 7 c 2 1

theorem exec_lateArrival {s : State} {core req : Nat} {ch : Option Nat}
    (h : (s.m.late.find? fun e => e.1 == core && e.2.1 == req) = some (core, req, ch)) :
    exec (.lateArrival core req) s =
      .next { s with m := arrived { s.m with late := s.m.late.erase (core, req, ch) } ch } := by
  change execLateArrival core req s = _
  simp only [execLateArrival, onHw, h]
  cases ch <;> rfl

/-- Settles O20: a late end adds one expected response and, for a store, marks; its arrival takes the response off and counts. -/
theorem lateRequestsEnd : Obligations.LateRequestsEnd := by
  refine ⟨fun s core req x t k r hx hr ht hnow hlock hl => ⟨_, exec_lateResponseBound hx hr ht hnow hlock hl,
    lateEnded_late .., ?_⟩, fun s core req ch hfind => ⟨_, exec_lateArrival hfind, ?_⟩⟩
  · have hb := lateEnded_bytesOf s.m core x req k r
    exact ⟨congrArg Prod.fst hb, congrArg Prod.snd hb⟩
  · have hbook := arrived_booked { s.m with late := s.m.late.erase (core, req, ch) } ch
    exact ⟨(congrArg Hw.late hbook.rest :), (congrArg Hw.cores hbook.rest :), hbook.ram, hbook.marks⟩

end Sys2Proof
end

section
/-! PROOF. The stop of a context with detected faults (06 R176, R178, 15 R386): O21. -/

namespace Sys2Proof

open Machine

@[simp] theorem stopAll_ctx (c : Core) : c.stopAll.ctx = c.ctx := foldl_keeps (f := Core.stopThread) Core.ctx (fun _ _ _ => rfl) c

/-- One core of a stop: its threads stop when it runs the context. -/
def stopOn (c : Nat) (m : Hw) (k : Nat) : Hw := if (m.core k).ctx == some c then m.updCore k Core.stopAll else m

theorem stopOn_core (c : Nat) (m : Hw) (k j : Nat) : (stopOn c m k).core j =
    if j = k ∧ (m.core k).ctx = some c then (m.core k).stopAll else m.core j := by
  unfold stopOn
  by_cases hc : (m.core k).ctx = some c
  · rw [if_pos (by simpa using hc)]
    refine (core_setCore m k j _).trans ?_
    simp only [hc, and_true]
  · rw [if_neg (by simpa using hc), if_neg fun h => hc h.2]

theorem stopOn_ctx (c : Nat) (m : Hw) (k j : Nat) : ((stopOn c m k).core j).ctx = (m.core j).ctx := by
  rw [stopOn_core]
  split
  · next h => rw [stopAll_ctx, h.1]
  · rfl

theorem stopOn_stops {c : Nat} {m : Hw} {k j t : Nat} (hj : (m.core j).ctx = some c) (ht : t < 4)
    (h : ThreadStopped (m.core j) t ∨ j = k) : ThreadStopped ((stopOn c m k).core j) t := by
  rw [stopOn_core]
  split
  · next hk => exact threadStopped_stopAll _ ht
  · next hk =>
    refine h.resolve_right fun hjk => hk ⟨hjk, ?_⟩
    rwa [← hjk]

theorem foldl_stopOn_stops {c : Nat} {l : List Nat} {m : Hw} {j t : Nat} (hj : (m.core j).ctx = some c) (ht : t < 4)
    (h : ThreadStopped (m.core j) t ∨ j ∈ l) : ThreadStopped ((l.foldl (stopOn c) m).core j) t := by
  induction l generalizing m with
  | nil => exact h.resolve_right List.not_mem_nil
  | cons k l ih =>
    refine ih ((stopOn_ctx c m k j).trans hj) ?_
    rcases h with h | h
    · exact .inl (stopOn_stops hj ht (.inl h))
    · rcases List.mem_cons.1 h with rfl | h
      · exact .inl (stopOn_stops hj ht (.inr rfl))
      · exact .inr h

/-- Every core that runs the context has its threads stopped. -/
theorem stopThreads_stops {m : Hw} {c k t : Nat} (hk : k ∈ m.ctxCores c) (hc : (m.core k).ctx = some c) (ht : t < 4) :
    ThreadStopped ((m.stopThreads c).core k) t := foldl_stopOn_stops hc ht (.inr hk)

theorem stopOn_rest (c : Nat) (m : Hw) (k : Nat) : { stopOn c m k with cores := [] } = { m with cores := [] } := by
  unfold stopOn
  split <;> rfl

/-- The stop of threads changes cores alone. -/
theorem stopThreads_frame (m : Hw) (c : Nat) : { m.stopThreads c with cores := m.cores } = m :=
  (congrArg (fun d : Hw => { d with cores := m.cores }) (foldl_keeps (f := stopOn c) (l := m.ctxCores c)
    (fun d : Hw => { d with cores := [] }) (fun d k _ => stopOn_rest c d k) m) :)

/-- State and faults still to be recorded of a context. -/
def stopView (x : Ctx) : CtxState × List FaultRec := (x.st, x.detected)

/-- A fault is recorded in the log and the ring of its context: no state, core or byte of memory changes. -/
theorem recordFault_spec (m : Hw) (c : Nat) (r : FaultRec) : (m.recordFault c r).cores = m.cores ∧
    bytesOf (m.recordFault c r) = bytesOf m ∧
    ∀ d, (mget (m.recordFault c r).ctxs d).map stopView = (mget m.ctxs d).map stopView := by
  unfold Hw.recordFault
  split
  · exact ⟨rfl, rfl, fun _ => rfl⟩
  · next x hx =>
    dsimp only
    generalize hy : ({ (if x.faults.length < 64 then _ else _ : Ctx) with stopFault := _ } : Ctx) = y
    have hview : stopView y = stopView x := by
      rw [← hy]
      split <;> rfl
    have hput : ∀ d, (mget (mset m.ctxs c y) d).map stopView = (mget m.ctxs d).map stopView := fun d => by
      rw [mget_mset]
      split
      · next h => rw [h, hx]; exact congrArg some hview
      · rfl
    have hpost : ∀ u, Posted { m with ctxs := mset m.ctxs c y } u → u.cores = m.cores ∧ bytesOf u = bytesOf m ∧
        ∀ d, (mget u.ctxs d).map stopView = (mget m.ctxs d).map stopView := fun u h =>
      ⟨h.cores, Prod.ext h.ram h.marks, fun d => (h.ctx (fun _ => rfl) d).trans (hput d)⟩
    split
    · exact hpost _ ((Posted.event _ _ _ _).trans (Posted.logErrorAt _ _ _ _ _ _ _))
    · exact hpost _ (Posted.event _ _ _ _)

/-- Firmware's stop of context `c` before its records: threads stopped, a decision due, the context STOPPED. -/
def contextStopped (m : Hw) (c : Nat) (x : Ctx) : Hw :=
  { (m.stopThreads c).mayDecide with ctxs := mset m.ctxs c { x with detected := [], st := .stopped, chosen := false } }

theorem exec_contextFaultStop {s : State} {c : Nat} {x : Ctx} (hx : mget s.m.ctxs c = some x) (hd : x.detected ≠ [])
    (hst : x.st ≠ .switching) : exec (.contextFaultStop c) s =
      .next { s with m := x.detected.foldl (fun m r => m.recordFault c r) (contextStopped s.m c x) } := by
  have hctxs : (s.m.stopThreads c).ctxs = s.m.ctxs := (congrArg Hw.ctxs (stopThreads_frame s.m c) :)
  change execContextFaultStop c s = _
  simp [execContextFaultStop, hx, hd, hst, Hw.updCtx, Hw.mayDecide, hctxs, contextStopped]

/-- Settles O21: threads stop, the context's state is set once, and each record that follows touches no state and no core. -/
theorem faultedContextStops : Obligations.FaultedContextStops := by
  intro s c x hx hd hst
  refine ⟨_, exec_contextFaultStop hx hd hst, ?_⟩
  generalize hm : x.detected.foldl (fun m r => m.recordFault c r) (contextStopped s.m c x) = m
  have hcores : m.cores = (s.m.stopThreads c).cores := by
    rw [← hm]
    exact foldl_keeps Hw.cores (fun d r _ => (recordFault_spec d c r).1) _
  have hcore : ∀ k, m.core k = (s.m.stopThreads c).core k := fun k => congrArg (fun l => mgetD l k Core.cleared) hcores
  have hbytes : bytesOf m = bytesOf s.m := by
    rw [← hm]
    refine (foldl_keeps bytesOf (fun d r _ => (recordFault_spec d c r).2.1) _).trans ?_
    exact (congrArg bytesOf (stopThreads_frame s.m c) :)
  have hview : ∀ d, (mget m.ctxs d).map stopView = if d = c then some (.stopped, []) else (mget s.m.ctxs d).map stopView :=
    fun d => by
      rw [← hm, foldl_keeps (fun t : Hw => (mget t.ctxs d).map stopView) fun t r _ => (recordFault_spec t c r).2.2 d]
      simp only [contextStopped, mget_mset]
      split <;> rfl
  have hstate : ∀ d, (mget m.ctxs d).map Ctx.st = ((mget m.ctxs d).map stopView).map Prod.fst := fun d => by
    rw [Option.map_map]; rfl
  have hdet : (mget m.ctxs c).map Ctx.detected = ((mget m.ctxs c).map stopView).map Prod.snd := by
    rw [Option.map_map]; rfl
  have hstopped := fun k hk hc t (ht : t < 4) => hcore k ▸ stopThreads_stops (m := s.m) (c := c) (k := k) hk hc ht
  refine ⟨?_, ?_, fun k hk hc t ht => (hstopped k hk hc t ht).1, fun k hk hc o ho => ?_, fun d hne => ?_,
    congrArg Prod.fst hbytes⟩
  · rw [hstate, hview, if_pos rfl]; rfl
  · rw [hdet, hview, if_pos rfl]; rfl
  · exact Nat.le_of_not_lt fun hlt => (hstopped k hk hc o.thread hlt).2 o ho rfl
  · rw [hstate, hview, if_neg hne, Option.map_map]; rfl

end Sys2Proof
end

section
/-! PROOF. Reads through the error code (06 R164 to R167, R177) and the patrol scrub (06 R167): O32. -/

namespace Sys2Proof

open Machine

/-! ### Reads depend on bytes and marks alone -/

/-- Two memories hold the same bytes and poison marks. -/
structure SameCells (s' s : MemSys) : Prop where
  ram : s'.ram = s.ram
  marks : s'.marks = s.marks

namespace SameCells

variable {s s' s'' : MemSys}

theorem trans (h' : SameCells s'' s') (h : SameCells s' s) : SameCells s'' s := ⟨h'.ram.trans h.ram, h'.marks.trans h.marks⟩

theorem readWord (h : SameCells s' s) : s'.readWord = s.readWord := by
  cases s; cases s'
  obtain ⟨rfl, rfl⟩ := h
  rfl

theorem readWords (h : SameCells s' s) : s'.readWords = s.readWords := by
  cases s; cases s'
  obtain ⟨rfl, rfl⟩ := h
  rfl

theorem asRead (h : SameCells s' s) : s'.asRead = s.asRead := by
  cases s; cases s'
  obtain ⟨rfl, rfl⟩ := h
  rfl

theorem store (h : SameCells s' s) (k : Nat) (bs : List Byte) : SameCells (s'.store k bs) (s.store k bs) := by
  constructor <;> simp only [MemSys.store, h.ram, h.marks]

theorem poison (h : SameCells s' s) (k n : Nat) : SameCells (s'.poison k n) (s.poison k n) := by
  constructor <;> simp only [MemSys.poison, h.ram, h.marks]

theorem rewrite (h : SameCells s' s) (k : Nat) (rb : ReadBack) : SameCells (s'.rewrite k rb) (s.rewrite k rb) := by
  unfold MemSys.rewrite
  split
  · exact h
  · exact ⟨by rw [h.asRead, h.ram], h.marks⟩

end SameCells

theorem Posted.cells {m t : Hw} (h : Posted m t) : SameCells t.mem m.mem := ⟨h.ram, h.marks⟩

/-- A word written back changes bytes alone. -/
theorem rewrite_frame (s : MemSys) (k : Nat) (rb : ReadBack) : { s.rewrite k rb with ram := s.ram } = s := by
  unfold MemSys.rewrite
  split <;> rfl

theorem uncorrectable_iff {r : WordRead} : r.uncorrectable = true ↔ ∃ d, r = .plain (.uncorrectable d) := by
  unfold WordRead.uncorrectable
  split
  · next d => exact ⟨fun _ => ⟨d, rfl⟩, fun _ => rfl⟩
  · next h => exact ⟨nofun, fun ⟨d, hd⟩ => absurd hd (h d)⟩

/-! ### The patrol scrub -/

theorem scrubStart_cases (m : Hw) :
    m.scrubStart = m ∨ ∃ p, m.scrubStart = { m with mem := { m.mem with scrubbed := [], scrubPeriod := p } } := by
  simp only [Hw.scrubStart]
  generalize m.now / (m.mem.scrubHours * 3600 * 10 ^ 9) = p
  split
  · exact .inl rfl
  · exact .inr ⟨p, rfl⟩

/-- The begin of a period forgets which words were read: bring-up, bytes and marks are as they were. -/
theorem scrubStart_spec (m : Hw) : m.scrubStart.boot = m.boot ∧ SameCells m.scrubStart.mem m.mem := by
  rcases scrubStart_cases m with h | ⟨p, h⟩ <;> rw [h] <;> exact ⟨rfl, rfl, rfl⟩

/-- The scrub has read the codeword at key `k` in this period. -/
def scrubbedAt (m : Hw) (k : Nat) : Hw := { m with mem := { m.mem with scrubbed := k :: m.mem.scrubbed } }

theorem scrubbedAt_cells (m : Hw) (k : Nat) : SameCells (scrubbedAt m k).mem m.mem := ⟨rfl, rfl⟩

/-- What the scrub does with a codeword of key `k` that reads as `r`. -/
def scrubRead (m : Hw) (k : Nat) (rb : ReadBack) (r : WordRead) : Hw :=
  match r with
  | .plain .corrected => { m.corrected k with mem := (m.corrected k).mem.rewrite k rb }
  | .plain (.uncorrectable d) =>
    let t := (m.count 7 (m.chanOf k) 1 1).dirty
    { t with mem := t.mem.poison k 64 }.eventAux 0x0289 none (t.bankPayload k) d
  | _ => m

theorem exec_patrolScrub {s : State} {m : Hw} {q t w : Nat} (rb : ReadBack) (hm : s.m.scrubStart = m) (hboot : m.boot = .done)
    (hq : q < 4) (ht : t < 2) (h : m.scrubs q t w = true) : exec (.patrolScrub q t w rb) s = .next { s with
      m := scrubRead (scrubbedAt m (ramKey q t (w * 64))) (ramKey q t (w * 64)) rb
        (m.mem.readWord (ramKey q t (w * 64)) (wordErrs rb (w % 32))) } := by
  change execPatrolScrub q t w rb s = _
  simp only [execPatrolScrub, onHw, hm]
  rw [if_pos (by simp [hboot, hq, ht, h]), ← (scrubbedAt_cells m (ramKey q t (w * 64))).readWord]
  simp only [scrubbedAt]
  generalize MemSys.readWord _ _ _ = r
  rcases r with (_ | _ | d) | d <;> rfl

/-- A word read in the period is not read again in it. -/
theorem scrubs_of_mem {m : Hw} {q t w : Nat} (h : ramKey q t (w * 64) ∈ m.mem.scrubbed) : m.scrubs q t w = false := by
  simp [Hw.scrubs, h]

/-- An uncorrectable codeword: its unit marked, the record DIRTY, the event posted. -/
theorem scrubRead_uncorrectable (m : Hw) (k : Nat) (rb : ReadBack) (d : Nat) :
    let u := scrubRead m k rb (.plain (.uncorrectable d))
    SameCells u.mem (m.mem.poison k 64) ∧ u.island.health.dirty = true ∧ u.mem.scrubbed = m.mem.scrubbed := by
  have hcount := Posted.uncorrected m k
  have hdirty : (m.count 7 (m.chanOf k) 1 1).dirty.island.health.dirty = true := rfl
  simp only [scrubRead]
  generalize (m.count 7 (m.chanOf k) 1 1).dirty = t at hcount hdirty ⊢
  have hevent := Posted.eventAux { t with mem := t.mem.poison k 64 } 0x0289 none (t.bankPayload k) d
  exact ⟨hevent.cells.trans (hcount.cells.poison k 64), hevent.dirty hdirty, hevent.scrubbed.trans hcount.scrubbed⟩

/-- Any other codeword keeps the marks; a corrected one is written back. -/
theorem scrubRead_readable (m : Hw) (k : Nat) (rb : ReadBack) {r : WordRead} (h : r.uncorrectable = false) :
    (scrubRead m k rb r).mem.ram = (if r = .plain .corrected then (m.mem.rewrite k rb).ram else m.mem.ram) ∧
    (scrubRead m k rb r).mem.marks = m.mem.marks ∧ (scrubRead m k rb r).mem.scrubbed = m.mem.scrubbed := by
  rcases r with (_ | _ | d) | d
  case plain.corrected =>
    have hcorr := Posted.corrected m k
    have hframe := rewrite_frame (m.corrected k).mem k rb
    simp only [scrubRead, if_true]
    exact ⟨(hcorr.cells.rewrite k rb).ram, (congrArg MemSys.marks hframe :).trans hcorr.marks,
      (congrArg MemSys.scrubbed hframe :).trans hcorr.scrubbed⟩
  case plain.uncorrectable => cases h
  all_goals exact ⟨rfl, rfl, rfl⟩

/-- Settles O32: the scrub's read of a word marks its unit, writes the word back, or does nothing; the word is noted as read. -/
theorem patrolScrubMarksBadWords : Obligations.PatrolScrubMarksBadWords := by
  intro s q t w rb hboot hq ht hscrub
  obtain ⟨hsame, hcells⟩ := scrubStart_spec s.m
  generalize hm : s.m.scrubStart = m at hscrub hsame hcells
  have hexec := exec_patrolScrub rb hm (hsame.trans hboot) hq ht hscrub
  rw [hcells.readWord] at hexec
  dsimp only
  generalize hk : ramKey q t (w * 64) = k at hexec ⊢
  generalize s.m.mem.readWord k (wordErrs rb (w % 32)) = r at hexec ⊢
  have hcells := (scrubbedAt_cells m k).trans hcells
  have hread : ∀ u : Hw, u.mem.scrubbed = (scrubbedAt m k).mem.scrubbed → u.scrubs q t w = false := fun u hu =>
    scrubs_of_mem (by rw [hu, hk]; exact List.mem_cons_self)
  refine ⟨fun hbad => ⟨_, hexec, ?_⟩, fun hgood => ⟨_, hexec, ?_⟩⟩
  · obtain ⟨d, rfl⟩ := uncorrectable_iff.1 hbad
    obtain ⟨hmem, hdirty, hnoted⟩ := scrubRead_uncorrectable (scrubbedAt m k) k rb d
    have hpoison := hmem.trans (hcells.poison k 64)
    have hmarks : ∀ a, a ∈ s.m.mem.marks ∨ a ∈ marksIn k 64 → a ∈ (scrubRead _ k rb _).mem.marks := fun a ha =>
      hpoison.marks ▸ mem_poison_marks.2 ha
    exact ⟨hpoison.ram.trans (poison_ram _ _ _), poisoned_of_mem (by decide) (hmarks _ (.inr (markOf_mem_marksIn (by decide)))),
      fun a ha => hmarks a (.inl ha), hdirty, hread _ hnoted⟩
  · obtain ⟨hram, hmarks, hnoted⟩ := scrubRead_readable (scrubbedAt m k) k rb hgood
    rw [hcells.ram, (hcells.rewrite k rb).ram] at hram
    exact ⟨hram, hmarks.trans hcells.marks, hread _ hnoted⟩

end Sys2Proof
end

section
/-! PROOF. Migration of pages (06 R170 to R172): one granule moves, a step ends late, the page is at its new home: O31. -/

namespace Sys2Proof

open Machine

/-! ### Copies of granules -/

theorem SameCells.copyGranule {s s' : MemSys} (h : SameCells s' s) (a b : Nat) (rb : ReadBack) :
    SameCells (s'.copyGranule a b rb) (s.copyGranule a b rb) := by
  simp only [MemSys.copyGranule, h.asRead, h.readWords, h.marks]
  exact List.foldl_rel (h.store b _) fun w _ c c' hc => hc.poison _ _

/-! ### Cores under a change of every core -/

/-- What a map over the entries keeps of each value, it keeps of the value at a key. -/
theorem mgetD_map_keeps {α β : Type} (g : α → β) {f : Nat × α → Nat × α} (hk : ∀ e, (f e).1 = e.1)
    (hg : ∀ e, g (f e).2 = g e.2) (l : Map α) (k : Nat) (d : α) : g (mgetD (l.map f) k d) = g (mgetD l k d) := by
  induction l with
  | nil => rfl
  | cons e t ih =>
    simp only [mgetD, mget, List.map_cons, hk] at ih ⊢
    split
    · exact hg e
    · exact ih

@[simp] theorem unlock_mem (m : Hw) (c pdi i : Nat) : (m.unlock c pdi i).mem = m.mem := rfl

/-- The release of a granule's lock changes requests alone. -/
theorem unlock_core (m : Hw) (c pdi i k : Nat) :
    { (m.unlock c pdi i).core k with reqs := [] } = { m.core k with reqs := [] } := by
  refine mgetD_map_keeps (fun c : Core => { c with reqs := [] }) (fun e => ?_) (fun e => ?_) m.cores k Core.cleared
  all_goals
    dsimp only
    split <;> rfl

/-! ### The engine's state -/

theorem engine_setEngine {m : Hw} {q : Nat} (e : MigEngine) (h : q < m.engines.length) : (m.setEngine q e).engine q = e := by
  simp [Hw.setEngine, Hw.engine, lset, lget, h]

/-- An engine with nothing queued takes no slot. -/
theorem fillSlot_of_queue_nil {m : Hw} {q : Nat} (h : (m.engine q).queue = []) : m.fillSlot q = m := by
  simp only [Hw.fillSlot, h]

/-! ### One granule -/

/-- `t` is `m` after one granule's move but for memory: of cores only requests differ, of contexts only rings. -/
structure MovedFrom (m t : Hw) : Prop where
  engines : t.engines = m.engines
  cores : ∀ n, { t.core n with reqs := [] } = { m.core n with reqs := [] }
  contexts : ∀ n, (mget t.ctxs n).map (fun x => { x with ring := none }) = (mget m.ctxs n).map fun x => { x with ring := none }

/-- Granule `i` copied from key `a` to key `b`: read, its lock released, written, and counted on the links. -/
def moveFromTo (m : Hw) (c pdi i a b : Nat) (rb : ReadBack) : Hw :=
  let d := (m.decoded (.ram a) 2048 rb).unlock c pdi i
  { d with mem := d.mem.copyGranule a b rb }.traffic (some c) (keyQ a) (keyQ b) 2048 (pathKey 256 256 (a / 2048))

theorem moveOne_eq (m : Hw) (g : Mig) (i : Nat) (fwd : Bool) (rb : ReadBack) : m.moveOne g i fwd rb =
    moveFromTo m g.ctx g.pdi i (if fwd then granKey g.fromHome g.fromFrame i else granKey g.toHome g.toFrame i)
      (if fwd then granKey g.toHome g.toFrame i else granKey g.fromHome g.fromFrame i) rb := by
  unfold Hw.moveOne moveFromTo
  rfl

/-- Reads, a switch to memory `s`, and what the links count. -/
theorem moved_of_steps {m d t : Hw} {c pdi i : Nat} {s : MemSys} (hread : Posted m d)
    (hlink : Booked { d.unlock c pdi i with mem := s } t) : MovedFrom m t ∧ SameCells t.mem s := by
  refine ⟨⟨(congrArg Hw.engines hlink.rest :).trans hread.engines, fun n => ?_, fun n =>
    (hlink.contexts n).trans (hread.contexts n)⟩, (Posted.ofBooked hlink).cells⟩
  rw [hlink.core, ← hread.core]
  exact unlock_core d c pdi i n

theorem moveFromTo_spec (m : Hw) (c pdi i a b : Nat) (rb : ReadBack) :
    MovedFrom m (moveFromTo m c pdi i a b rb) ∧
    SameCells (moveFromTo m c pdi i a b rb).mem (m.mem.copyGranule a b rb) := by
  have hread := Posted.decoded m (.ram a) 2048 rb
  unfold moveFromTo
  generalize m.decoded (.ram a) 2048 rb = d at hread ⊢
  have hlink := Booked.traffic { d.unlock c pdi i with mem := (d.unlock c pdi i).mem.copyGranule a b rb } (some c) (keyQ a)
    (keyQ b) 2048 (pathKey 256 256 (a / 2048))
  obtain ⟨hmoved, hcells⟩ := moved_of_steps hread hlink
  rw [unlock_mem] at hcells
  exact ⟨hmoved, hcells.trans (hread.cells.copyGranule a b rb)⟩

/-- A granule's way forward is a copy from the old home to the new one. -/
theorem moveOne_forward (m : Hw) (g : Mig) (i : Nat) (rb : ReadBack) : MovedFrom m (m.moveOne g i true rb) ∧
    SameCells (m.moveOne g i true rb).mem
      (m.mem.copyGranule (granKey g.fromHome g.fromFrame i) (granKey g.toHome g.toFrame i) rb) := by
  rw [moveOne_eq, if_pos rfl, if_pos rfl]
  exact moveFromTo_spec m _ _ _ _ _ rb

section

variable {m : Hw} {q k : Nat} {g : Mig} (hg : mget (m.engine q).slots k = some g)
include hg

theorem granuleMove_forward (rb : ReadBack) (hq : (m.engine q).queue = []) (hback : g.back = false)
    (hdone : g.done < g.granules) (hnow : m.now ≤ g.since + 40000) : m.granuleMove q k rb =
      (m.moveOne g g.done true rb).setEngine q { m.engine q with
        slots := mset (m.engine q).slots k { g with done := g.done + 1, lates := 0, since := m.now } } := by
  have hbound : ¬g.since + 2 * stepBound < m.now := by simp only [stepBound]; omega
  simp only [Hw.granuleMove, fillSlot_of_queue_nil hq, hg, hbound, hback, hdone, if_true, if_false, Bool.false_eq_true]

/-- After its two bounds a granule's move commits nothing. -/
theorem granuleMove_late (rb : ReadBack) (hq : (m.engine q).queue = []) (hnow : g.since + 40000 < m.now) :
    m.granuleMove q k rb = m := by
  have hbound : g.since + 2 * stepBound < m.now := hnow
  simp only [Hw.granuleMove, fillSlot_of_queue_nil hq, hg, hbound, if_true]

theorem granuleLate_forward (hback : g.back = false) (hdone : g.done < g.granules) (hnow : g.since + 20000 ≤ m.now) :
    m.granuleLate q k = (m.unlock g.ctx g.pdi g.done).setEngine q { m.engine q with
      slots := mset (m.engine q).slots k
        { g with lates := g.lates + 1, since := m.now, back := decide (3 ≤ g.lates + 1) } } := by
  have hbound : ¬m.now < g.since + stepBound := Nat.not_lt.2 hnow
  simp only [Hw.granuleLate, hg, Mig.lockedGranule, hback, hdone, hbound, if_true, if_false, Bool.false_eq_true, Bool.false_or]

theorem migEnd_of_under_way (h : ¬(g.back = false ∧ g.done = g.granules)) (h' : ¬(g.back = true ∧ g.done = 0)) :
    m.migEnd q k = m := by
  have hend : ((!g.back && g.done == g.granules) || (g.back && g.done == 0)) = false := by
    cases hb : g.back with
    | false =>
      rw [Bool.not_false, Bool.true_and, Bool.false_and, Bool.or_false]
      exact beq_eq_false_iff_ne.2 fun hd => h ⟨hb, hd⟩
    | true =>
      rw [Bool.not_true, Bool.false_and, Bool.true_and, Bool.false_or]
      exact beq_eq_false_iff_ne.2 fun hd => h' ⟨hb, hd⟩
  simp only [Hw.migEnd, hg, hend, Bool.false_eq_true, if_false]

end

/-! ### The end of a migration -/

/-- Nothing waits for pages or frames: no command is deferred, no op in progress, and nothing queued at engine `q`. -/
structure Waitless (m : Hw) (q : Nat) : Prop where
  deferred : m.espor.deferred = []
  ops : ∀ d ∈ m.cores, d.2.ops = []
  queue : (m.engine q).queue = []

namespace Waitless

variable {m : Hw} {q : Nat}

theorem pageDone (h : Waitless m q) (n : Nat) (ok : Bool) : m.pageDone n ok = m := by
  simp only [Hw.pageDone, h.deferred, List.find?_nil]

theorem pump (h : Waitless m q) : m.pump = m := by
  have hmig : m.pumpMigrates = m := by simp only [Hw.pumpMigrates, h.deferred, List.filter_nil, List.foldl_nil]
  have hops : (m.cores.flatMap fun k => k.2.ops.map fun o => (k.1, o)) = [] :=
    List.flatMap_eq_nil_iff.2 fun d hd => by rw [h.ops d hd, List.map_nil]
  simp only [Hw.pump, hmig, hops, List.foldl_nil]

/-- What goes on at the end of a migration finds nothing to do. -/
theorem goOn (h : Waitless m q) : (m.settleRetires.askRetires.fillSlot q).pump = m := by
  have hsettle : m.settleRetires = m := by simp only [Hw.settleRetires, h.deferred, List.filter_nil, List.foldl_nil]
  have hask : m.askRetires = m := by simp only [Hw.askRetires, h.deferred, List.filter_nil, List.foldl_nil]
  rw [hsettle, hask, fillSlot_of_queue_nil h.queue, h.pump]

theorem posted {t : Hw} (h : Waitless m q) (ht : Posted m t) : Waitless t q :=
  ⟨ht.espor ▸ h.deferred, ht.cores ▸ h.ops, by rw [Hw.engine, ht.engines]; exact h.queue⟩

theorem pageArrived (h : Waitless m q) (c pdi : Nat) : Waitless (m.pageArrived c pdi) q := by
  refine ⟨h.deferred, fun d hd => ?_, h.queue⟩
  obtain ⟨k, hk, rfl⟩ := List.mem_map.1 hd
  split
  · simp only [h.ops k hk, List.map_nil]
  · exact h.ops k hk

end Waitless

/-! ### The switch of a page -/

/-- An update of a page descriptor changes contexts alone. -/
theorem updPd_frame (m : Hw) (c pdi : Nat) (f : PageDesc → PageDesc) : { m.updPd c pdi f with ctxs := m.ctxs } = m := by
  unfold Hw.updPd Hw.updCtx
  split <;> rfl

/-- The descriptor of page `pdi` of context `c`. -/
def pageOf (m : Hw) (c pdi : Nat) : Option PageDesc := (mget m.ctxs c).bind fun x => mget x.pds pdi

theorem pageOf_updPd {m : Hw} {c pdi : Nat} {p : PageDesc} (f : PageDesc → PageDesc) (h : pageOf m c pdi = some p) :
    pageOf (m.updPd c pdi f) c pdi = some (f p) := by
  obtain ⟨x, hx, hp⟩ := Option.bind_eq_some_iff.1 h
  simp only [pageOf, Hw.updPd, Hw.updCtx, hx, hp, mget_mset_self, Option.bind_some]

theorem Posted.samePage {m t : Hw} (h : Posted m t) (c pdi : Nat) : pageOf t c pdi = pageOf m c pdi := by
  have hpds := h.ctx (g := Ctx.pds) (fun _ => rfl) c
  have hbind : ∀ u : Hw, pageOf u c pdi = ((mget u.ctxs c).map Ctx.pds).bind fun l => mget l pdi := fun u => by
    rw [Option.bind_map]
    rfl
  rw [hbind, hbind, hpds]

/-- No core TLB holds a translation of page `pdi` of context `c`. -/
def Untranslated (m : Hw) (c pdi : Nat) : Prop := ∀ d ∈ m.cores, ∀ e ∈ d.2.tlb, ¬(e.ctx = c ∧ e.leaf.pdi = pdi)

theorem untranslated_invalidatePdi (m : Hw) (c pdi : Nat) : Untranslated (m.invalidatePdi c pdi) c pdi := by
  rintro d hd e he ⟨hc, hp⟩
  obtain ⟨k, -, rfl⟩ := List.mem_map.1 hd
  simpa [hc, hp] using (List.mem_filter.1 he).2

theorem Untranslated.pageArrived {m : Hw} {c pdi : Nat} (h : Untranslated m c pdi) :
    Untranslated (m.pageArrived c pdi) c pdi := by
  intro d hd
  obtain ⟨k, hk, rfl⟩ := List.mem_map.1 hd
  split <;> exact h k hk

/-- The descriptor of a page as its migration ends: at the new home, or where it was. -/
def homed (g : Mig) (ok : Bool) (p : PageDesc) : PageDesc :=
  if ok then { p with mig := false, ret := false, homeQ := g.toHome / 2, home := g.toHome % 2, addr := g.toFrame }
  else { p with mig := false }

/-- The home and first frame that a page leaves as its migration ends. -/
def leftHome (g : Mig) (ok : Bool) : Nat × Nat := if ok then (g.fromHome, g.fromFrame) else (g.toHome, g.toFrame)

/-- The slot of a migration free, its page's descriptor and translations up to date. -/
def pageSwitched (m : Hw) (q k : Nat) (g : Mig) (ok : Bool) : Hw :=
  ((m.setEngine q { m.engine q with slots := mdel (m.engine q).slots k }).updPd g.ctx g.pdi (homed g ok)).invalidatePdi
    g.ctx g.pdi

theorem pageSwitched_rest (m : Hw) (q k : Nat) (g : Mig) (ok : Bool) : (pageSwitched m q k g ok).espor = m.espor ∧
    (pageSwitched m q k g ok).mem = m.mem ∧
    (pageSwitched m q k g ok).engines = lset m.engines q { m.engine q with slots := mdel (m.engine q).slots k } ∧
    ∀ d ∈ (pageSwitched m q k g ok).cores, ∃ e ∈ m.cores, d.2.ops = e.2.ops := by
  have hframe := updPd_frame (m.setEngine q { m.engine q with slots := mdel (m.engine q).slots k }) g.ctx g.pdi (homed g ok)
  refine ⟨(congrArg Hw.espor hframe :), (congrArg Hw.mem hframe :), (congrArg Hw.engines hframe :), fun d hd => ?_⟩
  obtain ⟨e, he, rfl⟩ := List.mem_map.1 hd
  exact ⟨e, (congrArg Hw.cores hframe :) ▸ he, rfl⟩

/-- The frames that the page left, zeroed. -/
def framesLeft (m : Hw) (g : Mig) (ok : Bool) : Hw :=
  { m with mem := m.mem.zeroFrames ((leftHome g ok).1 / 2) ((leftHome g ok).1 % 2) (leftHome g ok).2 (g.granules / 32) }

/-- The event of a migration's end, and the count of one that failed. -/
def migPosted (m : Hw) (g : Mig) (ok : Bool) (va : Nat) : Hw :=
  let t := m.event 0x028A (some g.ctx) [(64, va), (8, b2n !ok), (2, g.toHome / 2), (2, g.toHome % 2)]
  if ok then t else t.count 1 0 6 1

theorem migPosted_posted (m : Hw) (g : Mig) (ok : Bool) (va : Nat) : Posted m (migPosted m g ok va) := by
  unfold migPosted
  dsimp only
  split
  · exact .event _ _ _ _
  · exact (Posted.event _ _ _ _).trans (.ofBooked (.count _ _ _ _ _))

/-- What waited for the page goes on. -/
def migWoken (m : Hw) (q : Nat) (g : Mig) (ok : Bool) : Hw :=
  let t := m.pageArrived g.ctx g.pdi
  let t := match g.deferred with
    | some n => t.pageDone n ok
    | none => t
  (t.settleRetires.askRetires.fillSlot q).pump

theorem migWoken_of_waitless {m : Hw} {q : Nat} (h : Waitless m q) (g : Mig) (ok : Bool) :
    migWoken m q g ok = m.pageArrived g.ctx g.pdi := by
  have harrived := h.pageArrived g.ctx g.pdi
  unfold migWoken
  dsimp only
  split
  · rw [harrived.pageDone, harrived.goOn]
  · exact harrived.goOn

/-- The address at which a migrating page is mapped, 0 where it is not. -/
def migVa (m : Hw) (g : Mig) : Nat :=
  match mget m.ctxs g.ctx with
  | some x => (x.leaves.find? fun l => l.pdi == g.pdi).elim 0 Leaf.va
  | none => 0

/-- A migration ends when every granule has moved, or every one is back. -/
theorem migEnd_eq {m : Hw} {q k : Nat} {g : Mig} {ok : Bool} (hg : mget (m.engine q).slots k = some g)
    (hok : (!g.back && g.done == g.granules) = ok) (hend : (ok || (g.back && g.done == 0)) = true) :
    m.migEnd q k = migWoken (migPosted (framesLeft (pageSwitched m q k g ok) g ok) g ok (migVa m g)) q g ok := by
  simp only [Hw.migEnd, hg, hok, hend, if_true]
  rfl

section

variable {m : Hw} {q : Nat} (hq : q < m.engines.length) (hw : Waitless m q)
include hq hw

theorem Waitless.switched (k : Nat) (g : Mig) (ok : Bool) : Waitless (pageSwitched m q k g ok) q := by
  obtain ⟨hespor, -, hengines, hcores⟩ := pageSwitched_rest m q k g ok
  refine ⟨hespor ▸ hw.deferred, fun d hd => ?_, ?_⟩
  · obtain ⟨e, he, hops⟩ := hcores d hd
    exact hops.trans (hw.ops e he)
  · rw [Hw.engine, hengines]
    exact (congrArg MigEngine.queue (engine_setEngine _ hq) :).trans hw.queue

/-- The end of a migration that nothing waits for: frames zeroed, the page's home named, its translations gone. -/
theorem migEnd_spec {k : Nat} {g : Mig} {ok : Bool} {p : PageDesc} (hg : mget (m.engine q).slots k = some g)
    (hok : (!g.back && g.done == g.granules) = ok) (hend : (ok || (g.back && g.done == 0)) = true)
    (hp : pageOf m g.ctx g.pdi = some p) :
    (m.migEnd q k).mem.ram = (framesLeft m g ok).mem.ram ∧ pageOf (m.migEnd q k) g.ctx g.pdi = some (homed g ok p) ∧
    Untranslated (m.migEnd q k) g.ctx g.pdi := by
  have hpost := migPosted_posted (framesLeft (pageSwitched m q k g ok) g ok) g ok (migVa m g)
  obtain ⟨-, hmem, -⟩ := pageSwitched_rest m q k g ok
  have hswitched := hw.switched hq k g ok
  have hleft : Waitless (framesLeft (pageSwitched m q k g ok) g ok) q :=
    ⟨hswitched.deferred, hswitched.ops, hswitched.queue⟩
  rw [migEnd_eq hg hok hend, migWoken_of_waitless (hleft.posted hpost)]
  refine ⟨hpost.ram.trans ?_, (hpost.samePage _ _).trans ?_, Untranslated.pageArrived ?_⟩
  · simp only [framesLeft, hmem]
  · exact pageOf_updPd (m := m.setEngine q { m.engine q with slots := mdel (m.engine q).slots k }) (homed g ok) hp
  · rw [Untranslated, hpost.cores]
    exact untranslated_invalidatePdi _ _ _

end

/-! ### The commands -/

theorem slot_setEngine {m : Hw} {q : Nat} (k : Nat) (e : MigEngine) (g : Mig) (h : q < m.engines.length) :
    mget ((m.setEngine q { e with slots := mset e.slots k g }).engine q).slots k = some g := by
  rw [engine_setEngine _ h, mget_mset_self]

/-- What a granule's move leaves beside memory, with the migration at its next granule. -/
theorem MovedFrom.setEngine {m t : Hw} {q : Nat} (h : MovedFrom m t) (hq : q < m.engines.length) (k : Nat) (e : MigEngine)
    (g : Mig) : let u := t.setEngine q { e with slots := mset e.slots k g }
    mget (u.engine q).slots k = some g ∧ u.mem = t.mem ∧
    (∀ n, (u.core n).hold = (m.core n).hold ∧ (u.core n).ops = (m.core n).ops) ∧
    ∀ n, (mget u.ctxs n).map Ctx.leaves = (mget m.ctxs n).map Ctx.leaves ∧
      (mget u.ctxs n).map Ctx.pds = (mget m.ctxs n).map Ctx.pds :=
  ⟨slot_setEngine k e g (h.engines ▸ hq), rfl,
    fun n => ⟨(congrArg Core.hold (h.cores n) :), (congrArg Core.ops (h.cores n) :)⟩,
    fun n => ⟨map_of_ringless (fun _ => rfl) (h.contexts n), map_of_ringless (fun _ => rfl) (h.contexts n)⟩⟩

theorem exec_granuleMove {s : State} {q k : Nat} {rb : ReadBack} (h : s.m.boot = .done) :
    exec (.migrationGranuleMove q ⟨k, rb⟩) s = .next { s with m := s.m.granuleMove q k rb } := by
  change execMigrationGranuleMove q ⟨k, rb⟩ s = _
  simp only [execMigrationGranuleMove, onHw, h, beq_self_eq_true, if_true]

/-- A command to move a granule changes nothing before bring-up, nor where the move commits nothing. -/
theorem exec_granuleMove_idle {s : State} {q k : Nat} {rb : ReadBack} (h : s.m.granuleMove q k rb = s.m) :
    exec (.migrationGranuleMove q ⟨k, rb⟩) s = .next s := by
  change execMigrationGranuleMove q ⟨k, rb⟩ s = _
  simp only [execMigrationGranuleMove, onHw, h, ite_self]

theorem exec_migrationStepLate (s : State) (q k : Nat) :
    exec (.migrationStepLate q k) s = .next { s with m := s.m.granuleLate q k } := rfl

theorem exec_migrationEnd (s : State) (q k : Nat) : exec (.migrationEnd q k) s = .next { s with m := s.m.migEnd q k } := rfl

/-- Settles O31: a granule's move is a copy, a late step a count, and the end of a migration a switch of its page. -/
theorem migrationMovesGranules : Obligations.MigrationMovesGranules := by
  intro s q k g hg hq hlen
  refine ⟨fun hboot hback hdone hnow rb => ⟨_, exec_granuleMove hboot, ?_⟩, fun hnow rb =>
    ⟨s.m, exec_granuleMove_idle (granuleMove_late hg rb hq hnow), rfl, hg⟩, fun hback hdone hnow =>
    ⟨_, exec_migrationStepLate s q k, ?_⟩, fun h h' => ?_, fun x p hdef hops hx hp => ?_⟩
  · rw [granuleMove_forward hg rb hq hback hdone hnow]
    obtain ⟨hmoved, hcells⟩ := moveOne_forward s.m g g.done rb
    obtain ⟨hslot, hmem, hcores, hctxs⟩ := hmoved.setEngine hlen k (s.m.engine q)
      { g with done := g.done + 1, lates := 0, since := s.m.now }
    exact ⟨(congrArg MemSys.ram hmem).trans hcells.ram, (congrArg MemSys.marks hmem).trans hcells.marks, hslot, hcores,
      hctxs⟩
  · rw [granuleLate_forward hg hback hdone hnow]
    exact ⟨slot_setEngine k _ _ hlen, unlock_mem s.m g.ctx g.pdi g.done⟩
  · rw [Idles, exec_migrationEnd, migEnd_of_under_way hg h h']
  · have hw : Waitless s.m q := ⟨hdef, hops, hq⟩
    have hpage : pageOf s.m g.ctx g.pdi = some p := Option.bind_eq_some_iff.2 ⟨x, hx, hp⟩
    refine ⟨fun hback hdone => ⟨_, exec_migrationEnd s q k, ?_⟩, fun hback hdone => ⟨_, exec_migrationEnd s q k, ?_⟩⟩
    · have hend := migEnd_spec (ok := true) hlen hw hg (by simp [hback, hdone]) rfl hpage
      simp only [framesLeft, leftHome, homed, if_true] at hend
      exact hend
    · obtain ⟨hram, hpd, -⟩ := migEnd_spec (ok := false) hlen hw hg (by simp [hback]) (by simp [hback, hdone]) hpage
      simp only [framesLeft, leftHome, homed, Bool.false_eq_true, if_false] at hram hpd
      exact ⟨hram, hpd⟩

end Sys2Proof
end

section
/-! PROOF. The fault with which a request ends at issue (06 R174, 07 R189, R193, R203): O18. -/

namespace Sys2Proof

open Machine

/-- A store that no append makes, to a read-only mapping or a page of a sequence range (07 R189, R203). -/
def ForbiddenStore (m : Hw) (ctx : Nat) (r : Req) (l : Leaf) : Prop :=
  r.store = true ∧ r.append = false ∧ (l.ro = true ∨ m.seqPdi ctx l.pdi = true)

/-- A page that a context in fixed-timing mode may reach from a core: moored in the fast tier of its quarter (06 R174). -/
def NearMoored (core : Nat) (p : PageDesc) : Prop := p.moored = true ∧ p.home = 0 ∧ p.homeQ = core / 64

theorem forbiddenStore_iff {m : Hw} {ctx : Nat} {r : Req} {l : Leaf} :
    (r.store && !r.append && (l.ro || m.seqPdi ctx l.pdi)) = true ↔ ForbiddenStore m ctx r l := by
  simp only [ForbiddenStore, Bool.and_eq_true, Bool.or_eq_true, Bool.not_eq_true', and_assoc]

theorem nearMoored_iff {core : Nat} {p : PageDesc} :
    (p.moored && p.home == 0 && p.homeQ == core / 64) = true ↔ NearMoored core p := by
  simp only [NearMoored, Bool.and_eq_true, beq_iff_eq, and_assoc]

section
variable {m : Hw} {core ctx : Nat} {r : Req}

theorem issueFault_of_place {k : Nat} (hk : r.place = some k) : m.issueFault core ctx r =
    if m.isFixed ctx = true ∧ ¬(keyTier k = 0 ∧ keyQ k = core / 64) then some 0x0283 else none := by
  simp only [Hw.issueFault, hk]
  refine ite_congr (propext ?_) (fun _ => rfl) fun _ => rfl
  rw [Bool.and_eq_true, Bool.not_eq_true', ← Bool.not_eq_true, Bool.and_eq_true, beq_iff_eq, beq_iff_eq]

theorem issueFault_of_unmapped (hr : r.place = none) (hva : m.locOf ctx r.va = none) :
    m.issueFault core ctx r = some 0x02C0 := by
  simp only [Hw.issueFault, hr, hva]

section
variable {l : Leaf} {p : PageDesc} {loc : Option Loc} (hr : r.place = none) (hva : m.locOf ctx r.va = some (l, p, loc))
include hr hva

theorem issueFault_of_forbiddenStore (h : ForbiddenStore m ctx r l) : m.issueFault core ctx r = some 0x02C1 := by
  simp only [Hw.issueFault, hr, hva, forbiddenStore_iff.2 h, if_true]

theorem issueFault_of_not_nearMoored (h : ¬ForbiddenStore m ctx r l) (hfix : m.isFixed ctx = true)
    (hfar : ¬NearMoored core p) : m.issueFault core ctx r = some 0x0283 := by
  have hnear : (p.moored && p.home == 0 && p.homeQ == core / 64) = false :=
    eq_false_of_ne_true ((not_congr nearMoored_iff).2 hfar)
  simp only [Hw.issueFault, hr, hva, if_neg ((not_congr forbiddenStore_iff).2 h), hfix, hnear, Bool.not_false,
    Bool.and_self, if_true]

/-- What may go to its page by its mapping and its timing mode ends with a fault exactly where the page has no place. -/
theorem issueFault_of_allowed (h : ¬ForbiddenStore m ctx r l) (hnear : m.isFixed ctx = true → NearMoored core p) :
    m.issueFault core ctx r = if loc = none then some (if p.home = 2 then 0x02C3 else 0x02C0) else none := by
  have hfix : ¬(m.isFixed ctx && !(p.moored && p.home == 0 && p.homeQ == core / 64)) = true := fun hf => by
    obtain ⟨hfix, hfar⟩ := Bool.and_eq_true_iff.1 hf
    rw [nearMoored_iff.2 (hnear hfix)] at hfar
    cases hfar
  simp only [Hw.issueFault, hr, hva, if_neg ((not_congr forbiddenStore_iff).2 h), if_neg hfix, Option.isNone_iff_eq_none]

end
end

/-- Settles O18: the fault follows the request's mapping, in the order store, timing mode, place. -/
theorem issueFaultsByMapping : Obligations.IssueFaultsByMapping := by
  intro m core ctx r
  refine ⟨fun k => issueFault_of_place, issueFault_of_unmapped, fun l p loc hr hva => ⟨issueFault_of_forbiddenStore hr hva,
    issueFault_of_not_nearMoored hr hva, fun h hfix hhome hloc => ?_, fun h hfix hloc => ?_⟩⟩
  all_goals rw [issueFault_of_allowed hr hva h fun hf => absurd hf (ne_true_of_eq_false hfix)]
  · rw [if_pos hloc, if_pos hhome]
  · rw [if_neg hloc]

end Sys2Proof
end

section
/-! PROOF. Ferries at the end of their paths, credits, batches and stall notices (11 R285, R290 to R295): O29. -/

namespace Sys2Proof

open Machine

/-! ### Ferries and their rows that arrive -/

/-- A ferry of rows, a seal or a stall notice that is off its path, at the landing's core. -/
def ferryMet (m : Hw) (src dst land : Nat) (f : Ferry) : Hw :=
  if m.runs dst f.ctx = true then
    if f.kind = 0 then (f.rows.foldl (fun m r => m.landRow f.ctx dst land src f.voy r) m).acked src 7 f.rows.length
    else m.landNotice f.ctx dst land src f.voy
  else m

theorem exec_ferryArrival {s : State} {src dst land : Nat} {f : Ferry}
    (h : (s.m.nextFerry fun f => f.src == src && f.dst == dst && f.land == land && f.kind != 3) = some f) :
    exec (.ferryArrival src dst land) s =
      .next { s with m := ferryMet { s.m with ferries := s.m.ferries.erase f } src dst land f } := by
  change execFerryArrival src dst land s = _
  simp only [execFerryArrival, onHw_next, h, ferryMet]

/-- The ferries once the first row of return ferry `f` is taken: `rest` stays on the path, an emptied ferry leaves it. -/
def returnsLeft (l : List Ferry) (f : Ferry) (rest : List SendRow) : List Ferry :=
  if rest = [] then l.erase f else l.flatMap fun g => if g == f then [{ f with rows := rest }] else [g]

section
variable {s : State} {src dst : Nat} {f : Ferry}
  (h : (s.m.nextFerry fun f => f.src == src && f.dst == dst && f.kind == 3) = some f)
include h

theorem exec_returnArrival_empty (hrows : f.rows = []) :
    exec (.returnArrival src dst) s = .next { s with m := { s.m with ferries := s.m.ferries.erase f } } := by
  change execReturnArrival src dst s = _
  simp only [execReturnArrival, onHw_next, h, hrows]

theorem exec_returnArrival_row {r : SendRow} {rest : List SendRow} (hrows : f.rows = r :: rest) :
    exec (.returnArrival src dst) s =
      let m := { s.m with ferries := returnsLeft s.m.ferries f rest }
      .next { s with m := if m.runs dst f.ctx then (m.returnRow f.ctx dst f.voy r).acked src 8 1 else m } := by
  change execReturnArrival src dst s = _
  cases rest with
  | nil => simp only [execReturnArrival, onHw_next, h, hrows, returnsLeft, List.isEmpty_nil, if_true]
  | cons q t =>
    simp only [execReturnArrival, onHw_next, h, hrows, returnsLeft, List.isEmpty_cons, reduceCtorEq, Bool.false_eq_true,
      if_false]

end

theorem exec_creditReturn {s : State} {src dst land x : Nat} {k : Credit} (hk : s.m.nextCredit src dst land = some k)
    (hx : (s.m.core dst).ctx = some x) : exec (.creditReturn src dst land) s = .next { s with
      m := (({ s.m with creditsInFlight := s.m.creditsInFlight.erase k }).updCore dst fun c =>
        { c with credits := mset c.credits (creditKey src land) (s.m.creditsOf x dst src land + k.n) }).pumpFerries dst } := by
  change execCreditReturn src dst land s = _
  simp only [execCreditReturn, onHw_next, hk, hx]

/-! ### Batches -/

theorem runs_iff {m : Hw} {k c : Nat} : m.runs k c = true ↔ (m.core k).ctx = some c := beq_iff_eq

section
variable {s : State} {core land x : Nat} (hx : (s.m.core core).ctx = some x) (hland : land < 16)
  (hvalid : (s.m.landState x core land).cfg.valid = true)
include hx hland hvalid

theorem exec_batchEmission (hroom : (s.m.landState x core land).emitted.length < (s.m.landState x core land).cfg.nb)
    (hdue : s.m.emit123 x core (s.m.landState x core land) = true ∨
      s.m.emitEmpty x core land (s.m.landState x core land) = true) :
    exec (.batchEmission core land) s = .next { s with m := s.m.emitBatch x core land (s.m.landState x core land) } := by
  change execBatchEmission core land s = _
  simp only [execBatchEmission, onHw_next, hx, hland, hvalid, hroom, runs_iff.2 hx, Bool.or_eq_true_iff.2 hdue, decide_true,
    Bool.and_self, if_true]

theorem exec_flushDl (hrows : 0 < (s.m.landState x core land).slot) (hdl : (s.m.landState x core land).cfg.flushDl ≠ 0)
    (hnow : (s.m.landState x core land).firstAt + (s.m.landState x core land).cfg.flushDl ≤ s.m.cyc core) :
    exec (.flushDl core land) s = .next { s with
      m := s.m.updCore core fun c => c.setLand land { s.m.landState x core land with flushed := true } } := by
  change execFlushDl core land s = _
  simp only [execFlushDl, onHw_next, hx, hland, hvalid, hrows, hnow, bne_iff_ne.2 hdl, decide_true, Bool.and_self, if_true]

end

/-! ### Stall notices -/

@[simp] theorem launch_ferries (m : Hw) (f : Ferry) : (m.launch f).ferries = m.ferries ++ [f] :=
  (congrArg Hw.ferries (Booked.traffic { m with ferries := m.ferries ++ [f] } _ _ _ _ _).rest :)

/-- Ferries that leave one after the other stand on the fabric in that order. -/
theorem foldl_launch_ferries {α : Type} (g : α → Ferry) (l : List α) (m : Hw) :
    (l.foldl (fun m t => m.launch (g t)) m).ferries = m.ferries ++ l.map g := by
  induction l generalizing m with
  | nil => exact (List.append_nil _).symm
  | cons t l ih => rw [List.foldl_cons, ih, launch_ferries, List.append_assoc, List.map_cons, List.singleton_append]

theorem exec_stallNotice {s : State} {core x : Nat} {o : OpRec} (hx : (s.m.core core).ctx = some x)
    (ho : ((s.m.core core).ops.find? fun o => o.claims.getLsbD 7 && !o.send.isEmpty) = some o)
    (hloads : (s.m.core core).loadsIn o = true) (hwait : o.creditWait + 64 ≤ s.m.cyc core) :
    exec (.stallNotice core) s = .next { s with
      m := o.sealTo.foldl (fun m t => m.launch ⟨core, t.1, t.2, o.voy, 2, x, 64, []⟩)
        (s.m.setOp core { o with sealTo := [] }) } := by
  change execStallNotice core s = _
  simp only [execStallNotice, onHw_next, hx, ho, hloads, hwait, decide_true, Bool.and_self, if_true]

/-- Settles O29: an arrival takes one ferry, row or credit packet off its path, a batch or a deadline changes its landing, and
notices leave in the order of their landings. -/
theorem ferriesArriveAndBatchesAreEmitted : Obligations.FerriesArriveAndBatchesAreEmitted := by
  refine ⟨fun s src dst land f hf => ?ferry, fun s src dst f hf => ⟨exec_returnArrival_empty hf, fun r rest hrows =>
    exec_returnArrival_row hf hrows⟩, fun s src dst land x k hk hx => exec_creditReturn hk hx,
    fun s core land x hx hland hvalid => ⟨exec_batchEmission hx hland hvalid, fun hrows hdl hnow =>
      ⟨_, exec_flushDl hx hland hvalid hrows hdl hnow, ?_, rfl, fun k hk => core_updCore_ne s.m _ hk⟩⟩,
    fun s core x o hx ho hloads hwait => ⟨_, exec_stallNotice hx ho hloads hwait, foldl_launch_ferries _ _ _⟩⟩
  case ferry =>
    refine ⟨fun hrun hkind => ?_, fun hrun hkind => ?_, fun hrun => ?_⟩
    all_goals rw [Leaves, exec_ferryArrival hf, ferryMet]
    · rw [if_pos hrun, if_pos hkind]
    · rw [if_pos hrun, if_neg hkind]
    · rw [if_neg (ne_true_of_eq_false hrun)]
  · rw [core_updCore_same]
    exact mget_mset_self _ _ _

end Sys2Proof
end

section
/-! PROOF. Wear of lanes and links (11 R301 to R303, 17 R451): O30. -/

namespace Sys2Proof

open Machine

/-! ### The record of one link -/

/-- All that a new topology may change: quay, host. -/
theorem setTopo_frame (m : Hw) (t : Topology) : { m.setTopo t with quay := m.quay, host := m.host } = m := by
  unfold Hw.setTopo
  split
  · rfl
  · exact (congrArg (fun x : Hw => { x with quay := m.quay })
      (cause_frame { m with quay := { m.quay with topo := { t with gen := m.quay.topo.gen + 1 } } } 3) :)

theorem topoLink_frame (m : Hw) (i code : Nat) : { m.topoLink i code with quay := m.quay, host := m.host } = m :=
  setTopo_frame m _

/-- `t` is `m` with record `l` for link `i` in the links' records, and its cores and module memory. -/
structure LinkSet (m t : Hw) (i : Nat) (l : Link) : Prop where
  links : t.links = mset m.links i l
  cores : t.cores = m.cores
  ram : t.mem.ram = m.mem.ram

namespace LinkSet

variable {m t : Hw} {i : Nat} {l : Link}

theorem setLink (m : Hw) (i : Nat) (l : Link) : LinkSet m (m.setLink i l) i l := ⟨rfl, rfl, rfl⟩

theorem count (h : LinkSet m t i l) (b j w n : Nat) : LinkSet m (t.count b j w n) i l :=
  ⟨(count_links t b j w n).trans h.links, (count_cores t b j w n).trans h.cores, (count_ram t b j w n).trans h.ram⟩

theorem event (h : LinkSet m t i l) (code : Nat) (ctx : Option Nat) (p : List (Nat × Nat)) :
    LinkSet m (t.event code ctx p) i l :=
  ⟨(event_links t code ctx p).trans h.links, (event_cores t code ctx p).trans h.cores,
    (event_ram t code ctx p).trans h.ram⟩

theorem topoLink (h : LinkSet m t i l) (j code : Nat) : LinkSet m (t.topoLink j code) i l := by
  have hframe := topoLink_frame t j code
  exact ⟨(congrArg Hw.links hframe :).trans h.links, (congrArg Hw.cores hframe :).trans h.cores,
    (congrArg (fun x : Hw => x.mem.ram) hframe :).trans h.ram⟩

theorem unitLost (h : LinkSet m t i l) : LinkSet m t.unitLost i l := ⟨h.links, h.cores, h.ram⟩

theorem link_same (h : LinkSet m t i l) : t.link i = l := by simp [Hw.link, h.links, mgetD]

theorem link_ne (h : LinkSet m t i l) {j : Nat} (hj : j ≠ i) : t.link j = m.link j := by
  simp [Hw.link, h.links, mgetD, mget_mset_ne _ _ hj]

end LinkSet

/-! ### The commands -/

theorem exec_flitRetry {s : State} {i : Nat} (hi : linkOk i = true) (hboot : s.m.boot = .done)
    (hin : (s.m.link i).retired = false) : exec (.flitRetry i) s = .next { s with m := s.m.count 3 i 2 1 } := by
  change execFlitRetry i s = _
  simp only [execFlitRetry, onHw_next, hi, hboot, hin, beq_self_eq_true, Bool.not_false, Bool.and_self, if_true]

/-- Link `i` with `n` spares left after one took the place of lane `lane`: counted, told, and shown in the topology. -/
def laneReplaced (m : Hw) (i lane n : Nat) : Hw :=
  let t := ((m.setLink i ⟨n, false⟩).count 3 i 3 1).event 0x0888 none [(8, i), (8, lane)]
  if n = 0 then (t.event 0x088A none [(8, i), (8, lane)]).topoLink i 2 else t.topoLink i 1

theorem exec_laneReplacement {s : State} {i lane n : Nat} (hi : linkOk i = true) (hboot : s.m.boot = .done)
    (hlink : s.m.link i = ⟨n + 1, false⟩) :
    exec (.laneReplacement i lane) s = .next { s with m := laneReplaced s.m i lane n } := by
  change execLaneReplacement i lane s = _
  simp only [execLaneReplacement, onHw_next, hi, hboot, hlink, beq_self_eq_true, Bool.not_false, Nat.zero_lt_succ,
    decide_true, Bool.and_self, if_true, Nat.add_sub_cancel, Nat.add_eq_right, laneReplaced]

theorem laneReplaced_linkSet (m : Hw) (i lane n : Nat) : LinkSet m (laneReplaced m i lane n) i ⟨n, false⟩ := by
  have hspare := ((LinkSet.setLink m i ⟨n, false⟩).count 3 i 3 1).event 0x0888 none [(8, i), (8, lane)]
  unfold laneReplaced
  dsimp only
  split
  · exact (hspare.event _ _ _).topoLink i 2
  · exact hspare.topoLink i 1

/-- Link `i` retired: told, shown in the topology, and a unit lost. -/
def linkRetired (m : Hw) (i : Nat) : Hw :=
  (((m.setLink i { m.link i with retired := true }).topoLink i 3).event 0x0889 none [(8, i), (8, 0)]).unitLost

theorem linkRetired_linkSet (m : Hw) (i : Nat) : LinkSet m (linkRetired m i) i { m.link i with retired := true } :=
  (((LinkSet.setLink m i _).topoLink i 3).event 0x0889 none _).unitLost

theorem retireLink_eq {m : Hw} {i : Nat} (hboot : m.boot = .done) (hin : (m.link i).retired = false) :
    m.retireLink i = linkRetired m i := by
  simp only [Hw.retireLink, hboot, hin, beq_self_eq_true, Bool.not_false, Bool.and_self, if_true, linkRetired]

/-- Both retirements, of a quarter–quarter link and of a half-link, retire the link of their index. -/
theorem exec_retirement {s : State} {i : Nat} {j : Instr}
    (hj : (j = .linkRetirement i ∧ i < 6) ∨ ∃ q h, j = .halfLinkRetirement q h ∧ q < 4 ∧ h < 2 ∧ i = 8 + 2 * q + h) :
    exec j s = .next { s with m := s.m.retireLink i } := by
  rcases hj with ⟨rfl, hi⟩ | ⟨q, h, rfl, hq, hh, rfl⟩
  · change execLinkRetirement i s = _
    simp only [execLinkRetirement, onHw_next, hi, if_true]
  · change execHalfLinkRetirement q h s = _
    simp only [execHalfLinkRetirement, onHw_next, hq, hh, decide_true, Bool.and_self, if_true]

/-- Settles O30: a retry is a count, and a replacement or a retirement a new record of one link. -/
theorem linksWearOut : Obligations.LinksWearOut := by
  intro s i hboot hin
  refine ⟨fun hi => exec_flitRetry hi hboot hin, fun hi lane n hspares => ?_, fun j hj => ?_⟩
  · have hlink : s.m.link i = ⟨n + 1, false⟩ := by rw [← hspares, ← hin]
    have hset := laneReplaced_linkSet s.m i lane n
    exact ⟨_, exec_laneReplacement hi hboot hlink, hset.link_same, fun j => hset.link_ne, hset.cores, hset.ram⟩
  · have hset := linkRetired_linkSet s.m i
    refine ⟨linkRetired s.m i, ?_, ?_, fun j => hset.link_ne, rfl, rfl, hset.cores, hset.ram⟩
    · rw [exec_retirement hj, retireLink_eq hboot hin]
    · rw [hset.link_same]

end Sys2Proof
end

section
/-! PROOF. Requests of the hub's own engines (12 R319, R327 to R337) and the updates it makes at bollards: what they leave as
it was. -/

namespace Sys2Proof

open Machine

/-! ### Requests whose ends a command carries -/

/-- The module as the hub's next requests end as listed. -/
def expecting (m : Hw) (ends : List ReadEnd) : Hw := { m with mem := { m.mem with ends := ends } }

section
variable (m : Hw) (ends : List ReadEnd)

@[simp] theorem expecting_flows : (expecting m ends).flows = m.flows := rfl
@[simp] theorem expecting_quars : (expecting m ends).quars = m.quars := rfl
@[simp] theorem expecting_streams : (expecting m ends).streams = m.streams := rfl
@[simp] theorem expecting_jobs : (expecting m ends).jobs = m.jobs := rfl
@[simp] theorem expecting_cores : (expecting m ends).cores = m.cores := rfl
@[simp] theorem expecting_ram : (expecting m ends).mem.ram = m.mem.ram := rfl
@[simp] theorem expecting_marks : (expecting m ends).mem.marks = m.mem.marks := rfl

end

theorem withEnds_eq (m : Hw) (ends : List ReadEnd) (f : Hw → Hw) :
    m.withEnds ends f = expecting (f (expecting m ends)) [] := rfl

/-! ### Reports leave the tide -/

theorem Booked.now {m t : Hw} (h : Booked m t) : t.now = m.now := (congrArg Hw.now h.rest :)

theorem logErrorAt_now (m : Hw) (d code : Nat) (ctx : Option Nat) (recov : Bool) (loc aux : Nat) :
    (m.logErrorAt d code ctx recov loc aux).now = m.now := (Booked.count _ _ _ _ _).now

theorem event_now (m : Hw) (code : Nat) (ctx : Option Nat) (p : List (Nat × Nat)) : (m.event code ctx p).now = m.now := by
  have hring := (Booked.toRing m code ctx (packFields p)).now
  unfold Hw.event Hw.eventAux Hw.eventAs
  dsimp only
  split
  · exact (logErrorAt_now _ _ _ _ _ _ _).trans hring
  · exact hring

theorem corrected_now (m : Hw) (k : Nat) : (m.corrected k).now = m.now := by
  have hcount := (Booked.count m 7 (m.chanOf k) 0 1).now
  unfold Hw.corrected
  dsimp only
  split
  · exact (event_now _ _ _ _).trans hcount
  · exact hcount

theorem tally_now (m : Hw) (ws : List (Nat × WordRead)) : (m.tally ws).now = m.now := by
  refine foldl_keeps Hw.now (fun d w _ => ?_) m
  split
  · exact corrected_now d _
  · exact (Booked.count d _ _ _ _).now
  · rfl

/-! ### What the hub's requests and updates may change -/

/-- The marks that a store of `n` bytes made of a poisoned source leaves. -/
def sourceMarked (t : Hw) (loc : Loc) (n : Nat) (bad : Bool) : Hw :=
  match loc with
  | .ram k => if bad then { t with mem := t.mem.poison k n } else t
  | _ => t

/-- `t` is `m` but for memory, the books and reports of requests, late requests, the walker's cache, and updates at bollards. -/
structure Hubbed (m t : Hw) : Prop where
  rest : { t with ctxs := m.ctxs, mem := m.mem, host := m.host, counters := m.counters, island := m.island, late := m.late
                  hostTlb := m.hostTlb, cores := m.cores, postNo := m.postNo } = m
  now : t.now = m.now

namespace Hubbed

variable {m t u : Hw}

theorem refl (m : Hw) : Hubbed m m := ⟨rfl, rfl⟩

theorem trans (h : Hubbed m t) (h' : Hubbed t u) : Hubbed m u where
  rest := ((congrArg (fun x : Hw => { x with ctxs := m.ctxs, mem := m.mem, host := m.host, counters := m.counters
                                             island := m.island, late := m.late, hostTlb := m.hostTlb, cores := m.cores
                                             postNo := m.postNo }) h'.rest).trans h.rest :)
  now := h'.now.trans h.now

theorem foldl {α : Type} {f : Hw → α → Hw} (hf : ∀ d x, Hubbed d (f d x)) (l : List α) (m : Hw) :
    Hubbed m (l.foldl f m) := by
  induction l generalizing m with
  | nil => exact refl m
  | cons x l ih => exact (hf m x).trans (ih (f m x))

theorem ofPosted (h : Posted m t) (hnow : t.now = m.now) : Hubbed m t where
  rest := (congrArg (fun x : Hw => { x with late := m.late, hostTlb := m.hostTlb, cores := m.cores, postNo := m.postNo })
    h.rest :)
  now := hnow

theorem ofBooked (h : Booked m t) : Hubbed m t := ofPosted (.ofBooked h) h.now

theorem setMem (m : Hw) (s : MemSys) : Hubbed m { m with mem := s } := ⟨rfl, rfl⟩

theorem count (m : Hw) (b i w n : Nat) : Hubbed m (m.count b i w n) := ofBooked (.count m b i w n)

theorem event (m : Hw) (code : Nat) (ctx : Option Nat) (p : List (Nat × Nat)) : Hubbed m (m.event code ctx p) :=
  ofPosted (.event m code ctx p) (event_now m code ctx p)

theorem tally (m : Hw) (ws : List (Nat × WordRead)) : Hubbed m (m.tally ws) := ofPosted (.tally m ws) (tally_now m ws)

theorem decoded (m : Hw) (l : Loc) (n : Nat) (rb : ReadBack) : Hubbed m (m.decoded l n rb) := by
  cases l with
  | ram k => exact tally m _
  | host a => exact refl m
  | quay o => exact refl m

theorem takeEnd (m : Hw) : Hubbed m m.takeEnd.2 := by
  unfold Hw.takeEnd
  split
  · exact refl m
  · exact setMem m _

theorem hostFill (m : Hw) (p : PageDesc) (o : Nat) : Hubbed m (m.hostFill p o) := by
  unfold Hw.hostFill
  dsimp only
  split
  · exact ⟨rfl, rfl⟩
  · exact refl m

/-- A request about to be made: its host list entry is in the cache, and its end is taken from the list. -/
theorem requested (m : Hw) (p : PageDesc) (o : Nat) : Hubbed m (m.hostFill p o).takeEnd.2 :=
  (hostFill m p o).trans (takeEnd _)

theorem landAt (m : Hw) (l : Loc) (bs : List Byte) (rb : ReadBack) : Hubbed m (m.landAt l bs rb) := by
  cases l with
  | ram k => exact (tally m _).trans (setMem _ _)
  | host a => exact setMem m _
  | quay o => exact refl m

theorem lateStore (m : Hw) (l : Loc) (n : Nat) : Hubbed m (m.lateStore l n) := by
  cases l with
  | ram k => exact setMem m _
  | host a => exact setMem m _
  | quay o => exact refl m

theorem hubLate (m : Hw) (l : Loc) : Hubbed m (m.hubLate l) := ⟨rfl, rfl⟩

theorem account (m : Hw) (c src : Nat) (l : Loc) (n : Nat) (store : Bool) (old : Memory) :
    Hubbed m (m.account c src l n store old) := ofBooked (.account m c src l n store old)

theorem sourceMarked (t : Hw) (loc : Loc) (n : Nat) (bad : Bool) : Hubbed t (sourceMarked t loc n bad) := by
  unfold Sys2Proof.sourceMarked
  split
  · split
    · exact setMem t _
    · exact refl t
  · exact refl t

theorem hubStore (m : Hw) (c va : Nat) (bs : List Byte) (bad : Bool) : Hubbed m (m.hubStore c va bs bad) := by
  unfold Hw.hubStore
  split
  case h_2 => exact refl m
  case h_1 l p loc _ =>
    split
    · exact refl m
    · refine (requested m p (va - l.va)).trans ?_
      generalize (m.hostFill p (va - l.va)).takeEnd = r
      obtain ⟨e, r⟩ := r
      refine trans ?_ (account _ _ _ _ _ _ _)
      cases e with
      | answered rb => exact (landAt r loc bs rb).trans (sourceMarked _ loc bs.length bad)
      | late => exact ((lateStore _ _ _).trans (hubLate _ _)).trans (sourceMarked _ loc bs.length bad)

theorem hubWrite (m : Hw) (c va : Nat) (bs : List Byte) (bad : Bool) : Hubbed m (m.hubWrite c va bs bad) := by
  unfold Hw.hubWrite
  generalize pieces va bs.length = l
  induction l generalizing m bs with
  | nil => exact refl m
  | cons p l ih => exact (hubStore m c p.1 (bs.take p.2) bad).trans (ih _ _)

theorem hubLoad (m : Hw) (c va n : Nat) : Hubbed m (m.hubLoad c va n).2 := by
  unfold Hw.hubLoad
  split
  case h_2 => exact refl m
  case h_1 l p loc _ =>
    refine (requested m p (va - l.va)).trans ?_
    generalize (m.hostFill p (va - l.va)).takeEnd = r
    dsimp only
    split
    · exact (decoded _ _ _ _).trans (account _ _ _ _ _ _ _)
    · exact hubLate _ _

theorem hubRead (m : Hw) (c va n : Nat) : Hubbed m (m.hubRead c va n).2 := by
  unfold Hw.hubRead
  generalize pieces va n = l
  generalize (⟨[], []⟩ : HubData) = d
  induction l generalizing m d with
  | nil => exact refl m
  | cons p l ih => exact (hubLoad m c p.1 p.2).trans (ih _ _)

theorem hubUpdate (m : Hw) (c k b : Nat) (set : Bool) (v : Word32) : Hubbed m (m.hubUpdate c k b set v) := by
  unfold Hw.hubUpdate Hw.hubUpdateAs
  split
  · exact refl m
  · split
    · refine trans ?_ (ofBooked (.traffic _ _ _ _ _ _))
      exact ⟨rfl, rfl⟩
    · exact ⟨rfl, rfl⟩

theorem streams (h : Hubbed m t) : t.streams = m.streams := (congrArg Hw.streams h.rest :)
theorem jobs (h : Hubbed m t) : t.jobs = m.jobs := (congrArg Hw.jobs h.rest :)
theorem job (h : Hubbed m t) (n : Nat) : mget t.jobs n = mget m.jobs n := by rw [h.jobs]

end Hubbed

end Sys2Proof
end

section
/-! PROOF. Frames on an Ethernet port (12 R307 to R314): which are counted, which pass their entry's sender lock, which control
messages are answered: O39. Packets of a stream that is not enabled (12 R312): O60. -/

namespace Sys2Proof

open Machine

/-! ### The order of frames (12 R308) -/

theorem exec_frameReceive_early {s : State} {port : Nat} {fr : EthFrame} (h : (port, fr) ∈ s.m.early) :
    exec (.ethernetFrameReceive port fr) s = .next { s with m := { s.m with early := s.m.early.erase (port, fr) } } := by
  change execEthernetFrameReceive port fr s = _
  simp only [execEthernetFrameReceive, onHw_next, List.contains_iff_mem.2 h, if_true]

theorem exec_frameReceive_ahead {s : State} {port : Nat} {fr : EthFrame} {a : Nat × EthFrame} (h : (port, fr) ∉ s.m.early)
    (hs : sooner port s.pending = [a]) (ha : a ∉ s.m.early) :
    exec (.ethernetFrameReceive port fr) s = .next { s with m := (s.m.receiveEarly a).receive port fr } := by
  change execEthernetFrameReceive port fr s = _
  simp only [execEthernetFrameReceive, onHw_next, List.contains_iff_mem, h, hs, ha, if_false, List.foldl_cons,
    List.foldl_nil, List.nil_append]

theorem exec_frameReceive {s : State} {port : Nat} {fr : EthFrame} (h : (port, fr) ∉ s.m.early)
    (hs : sooner port s.pending = []) :
    exec (.ethernetFrameReceive port fr) s = .next { s with m := s.m.receive port fr } := by
  change execEthernetFrameReceive port fr s = _
  simp only [execEthernetFrameReceive, onHw_next, List.contains_iff_mem, h, hs, if_false, List.foldl_nil]

/-! ### What a port that is up makes of a frame -/

section
variable {m : Hw} {port : Nat} (hon : m.island.on = true) (hup : (m.port port).up = true)
include hon hup

theorem receive_badFcs : m.receive port .badFcs = m.count 2 port 8 1 := by
  simp [Hw.receive, hon, hup]

theorem receive_other (n : Nat) : m.receive port (.other n) = (m.rxFrame port n).stranger port := by
  simp [Hw.receive, hon, hup]

theorem receive_rtp {n : Nat} (p : Packet) (ends : List ReadEnd) (hhub : m.hubOn = true) (hlen : frameLen n = true) :
    m.receive port (.rtp n p ends) = (m.rxFrame port n).withEnds ends fun m => m.rtp port p := by
  simp [Hw.receive, hon, hup, hhub, hlen]

theorem receive_rtp_stranger {n : Nat} (p : Packet) (ends : List ReadEnd) (h : m.hubOn = false ∨ frameLen n = false) :
    m.receive port (.rtp n p ends) = (m.rxFrame port n).stranger port := by
  have hboth : (m.hubOn && frameLen n) = false := Bool.and_eq_false_iff.2 h
  simp [Hw.receive, hon, hup, hboth]

end

/-! ### Packets, their flow entry and its lock -/

theorem rxFrame_booked (m : Hw) (port n : Nat) : Booked m (m.rxFrame port n) :=
  (Booked.count _ _ _ _ _).trans (.count _ _ _ _ _)

section
variable (m : Hw) (port n : Nat)

@[simp] theorem rxFrame_flows : (m.rxFrame port n).flows = m.flows := (congrArg Hw.flows (rxFrame_booked m port n).rest :)
@[simp] theorem rxFrame_quars : (m.rxFrame port n).quars = m.quars := (congrArg Hw.quars (rxFrame_booked m port n).rest :)
@[simp] theorem rxFrame_streams : (m.rxFrame port n).streams = m.streams :=
  (congrArg Hw.streams (rxFrame_booked m port n).rest :)
@[simp] theorem rxFrame_cores : (m.rxFrame port n).cores = m.cores := (congrArg Hw.cores (rxFrame_booked m port n).rest :)
@[simp] theorem rxFrame_ram : (m.rxFrame port n).mem.ram = m.mem.ram := (rxFrame_booked m port n).ram
@[simp] theorem rxFrame_marks : (m.rxFrame port n).mem.marks = m.mem.marks := (rxFrame_booked m port n).marks

end

theorem quarOf_congr {m t : Hw} (h : t.quars = m.quars) (e : Nat) (p : Packet) : t.quarOf e p = m.quarOf e p := by
  simp only [Hw.quarOf, h]

section
variable {m : Hw} {port : Nat} {p : Packet}

theorem rtp_of_unmatched (h : (m.flows.find? fun f => f.2.hits port p) = none) : m.rtp port p = m.stranger port := by
  simp only [Hw.rtp, h]

variable {e : Nat} {f : Flow} (hf : (m.flows.find? fun f => f.2.hits port p) = some (e, f))
include hf

theorem rtp_of_quarantined {slot : Nat} {q : Quar} (hq : m.quarOf e p = some (slot, q)) : m.rtp port p =
    { m with quars := mset m.quars slot { q with dropped := q.dropped + 1 } }.count 2 port 4 1 := by
  simp only [Hw.rtp, hf, hq]

theorem rtp_of_pass (hq : m.quarOf e p = none) (hv : f.judge p = .pass) : m.rtp port p = m.flowPacket port e f p := by
  simp only [Hw.rtp, hf, hq, hv]

theorem rtp_of_stranger (hq : m.quarOf e p = none) (hv : f.judge p = .stranger) : m.rtp port p = m.stranger port := by
  simp only [Hw.rtp, hf, hq, hv]

theorem rtp_of_collision (hq : m.quarOf e p = none) (hv : f.judge p = .collision) :
    m.rtp port p = m.collide port e f p := by
  simp only [Hw.rtp, hf, hq, hv]

end

/-- The locked SSRC from another sender collides. -/
theorem judge_collision {f : Flow} {p : Packet} {ip udp : Nat} (hl : f.lock = some (ip, udp, p.ssrc))
    (h : ip ≠ p.srcIp ∨ udp ≠ p.srcUdp) : f.judge p = .collision := by
  have hother : (decide (ip = p.srcIp) && decide (udp = p.srcUdp)) = false := by
    simpa only [Bool.and_eq_false_iff, decide_eq_false_iff_not] using h
  simp [Flow.judge, hl, hother]

/-- A collision takes a free quarantine slot, or else pins the entry; it keeps streams and bytes. -/
theorem collide_spec (m : Hw) (port e : Nat) (f : Flow) (p : Packet) :
    let t := m.collide port e f p
    t.streams = m.streams ∧ t.mem.ram = m.mem.ram ∧
    (∀ slot, chooseKey m.quars 256 256 = some slot → t.flows = m.flows ∧ (mget t.quars slot).map Quar.entry = some e) ∧
    (chooseKey m.quars 256 256 = none → mget t.flows e = some { f with pinned := true } ∧ t.quars = m.quars) := by
  simp only [Hw.collide, count_quars]
  cases chooseKey m.quars 256 256 with
  | some slot => simp
  | none => simp

/-- A packet whose stream is not enabled in the entry's context is counted alone (12 R312). -/
theorem flowPacket_of_disabled {m : Hw} {e : Nat} {f : Flow}
    (h : ∀ x, mget m.streams f.stream = some x → x.ctx ≠ f.ctx ∨ x.entries.contains e = false) (port : Nat) (p : Packet) :
    m.flowPacket port e f p = m.count 2 port 13 1 := by
  unfold Hw.flowPacket
  split
  · rfl
  · next x hx =>
    have hnot : (x.ctx != f.ctx || !x.entries.contains e) = true := by
      simpa only [Bool.or_eq_true, bne_iff_ne, Bool.not_eq_true'] using h x hx
    rw [if_pos hnot]

/-! ### Control messages and the port's link -/

theorem port_setPort {m : Hw} {port : Nat} (x : Port) (h : port < m.ports.length) : (m.setPort port x).port port = x := by
  simp [Hw.port, lget, lset, h]

/-- A control message has arrived: its bytes, whose number is open, are counted (log 4). -/
def ctlCounted (m : Hw) (port : Nat) : Hw :=
  { m with mem := { m.mem with free := m.mem.free + 1 } }.rxFrame port (Config.freeWord m.mem.free).toNat

theorem ctlCounted_rest (m : Hw) (port : Nat) :
    { ctlCounted m port with ctxs := m.ctxs, mem := m.mem, host := m.host, counters := m.counters } = m :=
  (congrArg (fun x : Hw => { x with mem := m.mem }) (rxFrame_booked _ port _).rest :)

theorem ctlCounted_ram (m : Hw) (port : Nat) : (ctlCounted m port).mem.ram = m.mem.ram := (rxFrame_booked _ port _).ram

theorem exec_controlMessage {s : State} {port : Nat} {vlan : Option Nat} {msg : CtlMsg} {c : PortCfg}
    (hon : s.m.island.on = true) (hup : (s.m.port port).up = true) (hc : (s.m.port port).cfg = some c)
    (htag : c.tagOk vlan = true) (hans : c.answers msg = true) (hhub : s.m.hubOn = true ∨ ctlInAnchor msg = true) :
    exec (.controlProtocolMessage port ⟨vlan, msg⟩) s = .next { s with
      m := (ctlCounted s.m port).setPort port
        { s.m.port port with tx := (ctlCounted s.m port).ctlReply port msg <|> (s.m.port port).tx } } := by
  have hsame : (ctlCounted s.m port).hubOn = s.m.hubOn := (congrArg Hw.hubOn (ctlCounted_rest s.m port) :)
  rw [ctlCounted] at hsame ⊢
  change execControlProtocolMessage port ⟨vlan, msg⟩ s = _
  cases msg
  case rtcp => cases hans
  all_goals simp [execControlProtocolMessage, hon, hup, hc, htag, hans, hsame, hhub]

theorem ctlReply_congr {m t : Hw} (h : t.flows = m.flows) (port : Nat) (msg : CtlMsg) :
    t.ctlReply port msg = m.ctlReply port msg := by
  unfold Hw.ctlReply Hw.groupsOn
  rw [h]

theorem portLink_down {m : Hw} {port : Nat} (hup : (m.port port).up = true) (hlen : port < m.ports.length) (corr uncorr : Nat) :
    (m.portLink port ⟨false, corr, uncorr⟩).port port = { m.port port with up := false } ∧
    (m.portLink port ⟨false, corr, uncorr⟩).mem.ram = m.mem.ram := by
  have hb := (Booked.count m 2 port 9 corr).trans (.count _ 2 port 10 uncorr)
  have hport : ((m.count 2 port 9 corr).count 2 port 10 uncorr).port port = m.port port :=
    (congrArg (Hw.port · port) hb.rest :)
  unfold Hw.portLink
  simp only [hport, hup]
  refine ⟨?_, ?_⟩
  · simp [Hw.port, lget, lset, hlen]
  · simp

theorem exec_portLinkChange {s : State} (hon : s.m.island.on = true) (hps : s.m.quay.ps ≠ .anchor) (port : Nat)
    (link : LinkReport) : exec (.portLinkStateChange port link) s = .next { s with m := s.m.portLink port link } := by
  change execPortLinkStateChange port link s = _
  simp [execPortLinkStateChange, hon, hps]

/-- Settles O39: a frame's effect by its order, its kind, its flow entry and the entry's lock. -/
theorem packetsPassOnlyTheirLock : Obligations.PacketsPassOnlyTheirLock := by
  refine ⟨fun s port fr => ⟨exec_frameReceive_early, fun a => exec_frameReceive_ahead⟩,
    fun s port hon hup hs hfresh => ?_⟩
  have hexec := fun fr => exec_frameReceive (hfresh fr) hs
  refine ⟨?badFcs, fun n => ?other, fun n p ends => ?rtp, fun c vlan msg hc htag hans hhub hlen => ?ctl,
    fun hps hlen corr uncorr => ?link⟩
  case badFcs => rw [Leaves, hexec, receive_badFcs hon hup]
  case other => rw [Leaves, hexec, receive_other hon hup]
  case ctl =>
    refine ⟨_, exec_controlMessage hon hup hc htag hans hhub, ?_, ctlCounted_ram s.m port,
      (congrArg Hw.streams (ctlCounted_rest s.m port) :)⟩
    have hflows : (ctlCounted s.m port).flows = s.m.flows := (congrArg Hw.flows (ctlCounted_rest s.m port) :)
    have hports : (ctlCounted s.m port).ports = s.m.ports := (congrArg Hw.ports (ctlCounted_rest s.m port) :)
    rw [port_setPort _ (hports ▸ hlen), ctlReply_congr hflows]
  case link => exact ⟨_, exec_portLinkChange hon hps port _, portLink_down hup hlen corr uncorr⟩
  case rtp =>
    refine ⟨fun h => by rw [Leaves, hexec, receive_rtp_stranger hon hup p ends h], fun hhub hlen hf => ?_,
      fun e f hhub hlen hf => ?_⟩
    all_goals
      simp only [Leaves, After, hexec, receive_rtp hon hup p ends hhub hlen, withEnds_eq]
      rw [← rxFrame_flows s.m port n, ← expecting_flows _ ends] at hf
    · rw [rtp_of_unmatched hf]
    · have hquar : (expecting (s.m.rxFrame port n) ends).quarOf e p = s.m.quarOf e p := quarOf_congr (by simp) e p
      refine ⟨fun slot q hq => ?_, fun hq hv => ?_, fun hq hv => ?_, fun ip udp hq hl hne => ⟨_, rfl, ?_⟩⟩
      all_goals rw [← hquar] at hq
      · rw [rtp_of_quarantined hf hq]
      · rw [rtp_of_pass hf hq hv]
      · rw [rtp_of_stranger hf hq hv]
      · rw [rtp_of_collision hf hq (judge_collision hl hne)]
        simpa only [expecting_streams, expecting_ram, expecting_flows, expecting_quars, rxFrame_streams, rxFrame_ram,
          rxFrame_flows, rxFrame_quars] using collide_spec (expecting (s.m.rxFrame port n) ends) port e f p

/-! ### Streams that are not enabled (12 R312) -/

theorem mget_eq_none {α : Type} {l : Map α} {k : Nat} (h : k ∉ l.map Prod.fst) : mget l k = none := by
  induction l with
  | nil => rfl
  | cons e l ih =>
    obtain ⟨j, v⟩ := e
    obtain ⟨hne, hnot⟩ := not_or.1 (mt List.mem_cons.2 h)
    rw [mget, if_neg (Ne.symm hne), ih hnot]

/-- A key that occurs once is gone after its deletion. -/
theorem mget_mdel_self {α : Type} {l : Map α} (k : Nat) (h : (l.map Prod.fst).Nodup) : mget (mdel l k) k = none := by
  induction l with
  | nil => rfl
  | cons e l ih =>
    obtain ⟨j, v⟩ := e
    obtain ⟨hnot, hrest⟩ := List.nodup_cons.1 h
    by_cases hj : j = k
    · rw [mdel, if_pos hj]
      exact mget_eq_none (hj ▸ hnot)
    · rw [mdel, if_neg hj, mget, if_neg hj, ih hrest]

theorem serve_done {s : State} {n : Nat} {c : CmdSpec} {f : Pair → Reply} {t : Hw} {out : List Byte} (h : Taken s n c)
    (hf : f (s.m.espor.pair n) = .done t out) : s.m.serve n c f = t.answer n false 0 0 out := by
  obtain ⟨hserved, hchecks⟩ := h
  simp only [Hw.serve, hserved, hchecks, hf, if_true]

theorem exec_streamDisable {s : State} {pair : Nat} (h : Taken s pair streamDisableCmd)
    (hhas : mhas s.m.streams ((s.m.espor.pair pair).arg 0 2) = true) : exec (.streamDisable pair) s = .next { s with
      m := { s.m with streams := mdel s.m.streams ((s.m.espor.pair pair).arg 0 2) }.answer pair false 0 0 [] } := by
  change execStreamDisable pair s = _
  rw [execStreamDisable, onHw_next, serve_done h]
  simp only [Hw.streamDisableReply, judge, hhas, Bool.not_true, List.find?_cons, List.find?_nil]

theorem exec_frameDl_of_disabled {s : State} {n : Nat} (ends : List ReadEnd) (h : mget s.m.streams n = none) :
    exec (.frameDl ⟨n, ends⟩) s = .next { s with m := expecting s.m [] } := by
  change execFrameDl ⟨n, ends⟩ s = _
  simp only [execFrameDl, onHw_next, withEnds_eq, expecting_streams, h]
  rfl

/-- Settles O60: without an enabled stream a packet is counted, and a deadline finds nothing. -/
theorem disabledStreamsTakeNoPackets : Obligations.DisabledStreamsTakeNoPackets := by
  refine ⟨fun s port n e p ends f hhub hon hlen hup hs hfresh hf hq hv hx => ?_, fun s pair htaken hhas hnodup =>
    ⟨_, exec_streamDisable htaken hhas, mget_mdel_self _ hnodup, rfl⟩, fun s n ends => exec_frameDl_of_disabled ends⟩
  have hpacket : exec (.ethernetFrameReceive port (.rtp n p ends)) s =
      .next { s with m := (s.m.rxFrame port n).withEnds ends fun m => m.count 2 port 13 1 } := by
    rw [exec_frameReceive hfresh hs, receive_rtp hon hup p ends hhub hlen, withEnds_eq, rtp_of_pass (by simpa using hf)
      ((quarOf_congr (by simp) e p).trans hq) hv, flowPacket_of_disabled (by simpa using hx), withEnds_eq]
  refine ⟨hpacket, _, hpacket, ?_⟩
  simp [withEnds_eq]

end Sys2Proof
end

section
/-! PROOF. The deadline of a live stream's frame (12 R317) and the end of an idle sender lock (12 R313, R314): O40. -/

namespace Sys2Proof

open Machine

theorem Hubbed.slotTensor (m : Hw) (x : Stream) (f : Nat) : Hubbed m (m.slotTensor x f).1 := by
  unfold Hw.slotTensor
  split
  · exact refl m
  · exact ((hubRead _ _ _ _).trans (hubWrite _ _ _ _ _)).trans (count _ _ _ _ _)

/-- Stream `x` once frame `f` is closed: no longer gathered, its timestamp before those within half the range of it. -/
def frameClosed (x : Stream) (f : FrameAsm) : Stream :=
  { x with frames := x.frames.filter fun g => g.no != f.no, closed := recent f.ts x.closed }

theorem closeFrame_of_dropped {f : FrameAsm} (h : f.dropped = true) (m : Hw) (n : Nat) (x : Stream) :
    m.closeFrame n x f = m.setStream n (frameClosed x f) := by
  simp only [Hw.closeFrame, h, if_true, frameClosed]

/-- Of the streams' records a close changes that of its stream alone; the rest are stores, updates and counts. -/
theorem closeFrame_hubbed (m : Hw) (n : Nat) (x : Stream) (f : FrameAsm) :
    Hubbed (m.setStream n (frameClosed x f)) (m.closeFrame n x f) := by
  unfold Hw.closeFrame
  dsimp only
  split
  · exact .refl _
  · refine (((Hubbed.trans ?_ (.foldl (fun d k => .hubUpdate d _ k _ _ _) _ _)).trans (.count _ _ _ _ _)).trans
      (.count _ _ _ _ _)).trans (.count _ _ _ _ _)
    exact (Hubbed.slotTensor _ _ _).trans (.hubWrite _ _ _ _ _)

theorem exec_frameDl {s : State} {n : Nat} {x : Stream} {t : TideCfg} {f : FrameAsm} (hx : mget s.m.streams n = some x)
    (ht : s.m.island.tideCfg = some t) (hhub : s.m.hubOn = true) (ends : List ReadEnd)
    (hf : (x.frames.find? fun f =>
      decide (t.at (match f.tick with | none => 0 | some k => k + 1) + x.frameDl ≤ s.m.now)) = some f) :
    exec (.frameDl ⟨n, ends⟩) s = .next { s with m := expecting ((expecting s.m ends).closeFrame n x f) [] } := by
  have hhub : (expecting s.m ends).hubOn = true := hhub
  have ht : (expecting s.m ends).island.tideCfg = some t := ht
  change execFrameDl ⟨n, ends⟩ s = _
  simp only [execFrameDl, onHw_next, withEnds_eq, expecting_streams, hx, ht]
  split
  · next hnone => cases hnone.symm.trans hf
  · next g hsome =>
    obtain rfl : g = f := Option.some.inj (hsome.symm.trans hf)
    rw [if_pos hhub]

theorem exec_lockRelease {s : State} {e : Nat} {f : Flow} (hf : mget s.m.flows e = some f) (hhub : s.m.hubOn = true)
    (hlock : f.lock ≠ none) (hpin : f.pinned = false) (hidle : f.lockAt + s.m.lockIdleNs f ≤ s.m.now) :
    exec (.senderLockRelease e) s = .next { s with
      m := ({ s.m with flows := mset s.m.flows e { f with lock := none } }.event 0x0381 (some f.ctx) [(16, e)]).count 4
        f.stream 4 1 } := by
  change execSenderLockRelease e s = _
  simp only [execSenderLockRelease, onHw_next, hf, hhub, hpin, hidle, Option.isSome_iff_ne_none.2 hlock, Bool.not_false,
    Bool.and_self, decide_true, if_true]

/-- Settles O40: a deadline closes its frame, and the end of a lock clears the lock alone. -/
theorem framesCloseAndLocksEnd : Obligations.FramesCloseAndLocksEnd := by
  refine ⟨fun s n x t f hx ht hf hhub ends => ?_, fun s e f hf hhub hlock hpin hidle =>
    ⟨_, exec_lockRelease hf hhub hlock hpin hidle, by simp, by simp, by simp⟩⟩
  have hclosed : mget ((expecting s.m ends).closeFrame n x f).streams n = some (frameClosed x f) := by
    rw [(closeFrame_hubbed _ n x f).streams]
    exact mget_mset_self _ _ _
  refine ⟨_, exec_frameDl hx ht hhub ends hf, ?_, ?_, fun hdropped => ?_⟩
  · rw [expecting_streams, hclosed]; rfl
  · rw [expecting_streams, hclosed]; rfl
  · rw [closeFrame_of_dropped hdropped]; rfl

end Sys2Proof
end

section
/-! PROOF. Upload jobs: what follows a change of their samples, intake and decoding (12 R321 to R326): O43. -/

namespace Sys2Proof

open Machine

/-! ### What follows a change of a job's samples -/

/-- What of a job its intake and the commands that disable it set. -/
def intakeOf (j : Job) : BitVec 32 × Nat × Nat × List (Nat × Nat) := (j.head, j.nextSeq, j.lastSeq, j.disabling)

/-- `t` has the jobs of `m`, of job `n` its intake. -/
structure Pumped (n : Nat) (m t : Hw) : Prop where
  others : ∀ i, i ≠ n → mget t.jobs i = mget m.jobs i
  intake : (mget t.jobs n).map intakeOf = (mget m.jobs n).map intakeOf

namespace Pumped

variable {n : Nat} {m t u : Hw}

theorem refl (n : Nat) (m : Hw) : Pumped n m m := ⟨fun _ _ => rfl, rfl⟩

theorem trans (h : Pumped n m t) (h' : Pumped n t u) : Pumped n m u :=
  ⟨fun i hi => (h'.others i hi).trans (h.others i hi), h'.intake.trans h.intake⟩

theorem foldl {α : Type} {f : Hw → α → Hw} (hf : ∀ d x, Pumped n d (f d x)) (l : List α) (m : Hw) :
    Pumped n m (l.foldl f m) := by
  induction l generalizing m with
  | nil => exact refl n m
  | cons x l ih => exact (hf m x).trans (ih (f m x))

theorem ofHubbed (h : Hubbed m t) : Pumped n m t := ⟨fun i _ => h.job i, congrArg (Option.map intakeOf) (h.job n)⟩

/-- After requests and reports the job is set to `k`, with the intake it had. -/
theorem setJob {j k : Job} (h : Hubbed m t) (hj : mget m.jobs n = some j) (hk : intakeOf k = intakeOf j) :
    Pumped n m (t.setJob n k) := by
  refine (ofHubbed h).trans ⟨fun i hi => mget_mset_ne _ _ hi, ?_⟩
  rw [setJob_jobs, mget_mset_self, h.job, hj, Option.map_some, Option.map_some, hk]

theorem count (h : Pumped n m t) (b i w k : Nat) : Pumped n m (t.count b i w k) := h.trans (ofHubbed (.count t b i w k))

theorem writeSample {j : Job} (hj : mget m.jobs n = some j) (seq : Nat) (x : Sample) :
    Pumped n m (m.writeSample n j seq x) := by
  unfold Hw.writeSample
  dsimp only
  refine ((((setJob ?stores hj ?same).count _ _ _ _).count _ _ _ _).count _ _ _ _).count _ _ _ _
  case same => exact (apply_ite intakeOf _ _ _).trans (ite_self _)
  case stores =>
    have hstores := fun t k w => ((Hubbed.hubWrite m j.ctx (j.tensorVa seq) t false).trans
      (.hubWrite _ j.ctx (j.maskVa seq) k false)).trans (.hubWrite _ j.ctx (j.statusVa seq) w false)
    split
    · exact hstores _ _ _
    · exact (hstores _ _ _).trans (.count _ _ _ _ _)

theorem writeVoids (n : Nat) (m : Hw) : Pumped n m (m.writeVoids n) := by
  unfold Hw.writeVoids
  split
  · exact refl n m
  · refine foldl (fun d x => ?_) _ m
    split
    · next j hj => exact writeSample hj _ _
    · exact refl n d

theorem completeBatches (n k : Nat) (m : Hw) : Pumped n m (Hw.completeBatches k m n) := by
  induction k generalizing m with
  | zero => exact refl n m
  | succ k ih =>
    unfold Hw.completeBatches
    split
    · exact refl n m
    · next j hj =>
      dsimp only
      split
      · have hupdates := (Hubbed.hubWrite m j.ctx (j.slotVa j.batches) (fit 64 (leBytes 8 j.batches ++ leBytes 8 m.now))
          false).trans (.foldl (fun d c => .hubUpdate d j.ctx c j.qbol false 1#32) j.cons _)
        refine trans ?_ (ih _)
        exact setJob hupdates hj rfl
      · exact refl n m

theorem lowWater (n : Nat) (m : Hw) : Pumped n m (m.lowWater n) := by
  unfold Hw.lowWater
  split
  · exact refl n m
  · next j hj =>
    split
    · exact refl n m
    · split
      · exact setJob (.refl m) hj rfl
      · split
        · refine Pumped.count (trans ?_ (ofHubbed (.event _ _ _ _))) _ _ _ _
          exact setJob (.refl m) hj rfl
        · exact refl n m

end Pumped

theorem finishJob_of_enabled {m : Hw} {n : Nat} {j : Job} (hj : mget m.jobs n = some j) (h : j.disabling = []) :
    m.finishJob n = m := by
  simp only [Hw.finishJob, hj, h, List.isEmpty_nil, if_true]

/-- A job that no disable waits for keeps its intake, and stays. -/
theorem jobPump_pumped {m : Hw} {n : Nat} {j : Job} (hj : mget m.jobs n = some j) (h : j.disabling = []) :
    Pumped n m (m.jobPump n) := by
  obtain ⟨k, hk⟩ : ∃ k, m.jobPump n = ((Hw.completeBatches k (m.writeVoids n) n).lowWater n).finishJob n := ⟨_, rfl⟩
  have hpumped := ((Pumped.writeVoids n m).trans (.completeBatches n k _)).trans (.lowWater n _)
  obtain ⟨i, hi, hsame⟩ := Option.map_eq_some_iff.1 (hpumped.intake.trans (congrArg (Option.map intakeOf) hj))
  rw [hk, finishJob_of_enabled hi ((congrArg (·.2.2.2) hsame :).trans h)]
  exact hpumped

/-! ### Closing the open batch -/

/-- The samples of `l` are all set to `y`. -/
def fillSamples (l : List Nat) (y : Sample) (j : Job) : Job := l.foldl (fun j q => j.setSample q y) j

theorem fillSamples_frame (l : List Nat) (y : Sample) (j : Job) : { fillSamples l y j with samples := j.samples } = j := by
  induction l generalizing j with
  | nil => rfl
  | cons q l ih => exact (congrArg (fun k : Job => { k with samples := j.samples }) (ih (j.setSample q y)) :)

/-- Where the open batch ends. -/
def batchEnd (j : Job) : Nat := (j.nextSeq / j.batch + 1) * j.batch

theorem closeBatch_of_open {j : Job} (hb : j.batch ≠ 0) (h : j.nextSeq % j.batch ≠ 0) : j.closeBatch =
    { fillSamples ((List.range (batchEnd j - j.nextSeq)).map fun i => j.nextSeq + i) Sample.filler j with
      nextSeq := batchEnd j } := by
  unfold Job.closeBatch
  rw [if_neg (by simp [hb, h])]
  rfl

theorem closeBatch_of_aligned {j : Job} (h : j.batch = 0 ∨ j.nextSeq % j.batch = 0) : j.closeBatch = j := by
  unfold Job.closeBatch
  rw [if_pos (by simpa using h)]

/-- A close fills samples and moves the next number on. -/
theorem closeBatch_frame (j : Job) : { j.closeBatch with samples := j.samples, nextSeq := j.nextSeq } = j := by
  by_cases h : j.batch = 0 ∨ j.nextSeq % j.batch = 0
  · rw [closeBatch_of_aligned h]
  · obtain ⟨hb, h⟩ := not_or.1 h
    rw [closeBatch_of_open hb h]
    exact (congrArg (fun k : Job => { k with nextSeq := j.nextSeq }) (fillSamples_frame _ _ j) :)

/-! ### Intake (12 R322) -/

/-- The sample of an entry: void if the entry is malformed. -/
def entrySample (e : Nat) : Sample :=
  if entryMalformed e then { Sample.parse e with codec := 15 }.toVoid 0x0345 else Sample.parse e

theorem entrySample_flush (e : Nat) : (entrySample e).flush = bitb e 100 := by
  unfold entrySample
  split <;> rfl

/-- The job that has taken entry `e`. -/
def jobTaking (j : Job) (e : Nat) : Job :=
  { j.setSample j.nextSeq (entrySample e) with head := j.head + 1, nextSeq := j.nextSeq + 1, lastSeq := j.nextSeq }

/-- The job after intake of entry `e`: one with FLUSH closes the open batch. -/
def jobTook (j : Job) (e : Nat) : Job := if (entrySample e).flush then (jobTaking j e).closeBatch else jobTaking j e

theorem jobTook_intake (j : Job) (e : Nat) :
    (jobTook j e).head = j.head + 1 ∧ (jobTook j e).lastSeq = j.nextSeq ∧ (jobTook j e).disabling = j.disabling ∧
    (bitb e 100 = false → (jobTook j e).nextSeq = j.nextSeq + 1) := by
  have hclose := closeBatch_frame (jobTaking j e)
  unfold jobTook
  rw [entrySample_flush]
  split
  · next hflush => exact ⟨(congrArg Job.head hclose :), (congrArg Job.lastSeq hclose :), (congrArg Job.disabling hclose :),
      fun h => absurd hflush (by simp [h])⟩
  · exact ⟨rfl, rfl, rfl, fun _ => rfl⟩

section
variable {s : State} {n : Nat} {j : Job} (hj : mget s.m.jobs n = some j)
include hj

theorem exec_intake_full (h : j.slotFree (j.nextSeq / j.batch) = false) (entry : List Byte) (ends : List ReadEnd) :
    exec (.intakeEntryFetch n ⟨entry, ends⟩) s = .next { s with m := s.m.withEnds ends fun m => m } := by
  change execIntakeEntryFetch n ⟨entry, ends⟩ s = _
  simp only [execIntakeEntryFetch, onHw_next, withEnds_eq, expecting_jobs, hj, h, Bool.not_false, Bool.or_true, if_true]

theorem exec_intake (hhub : s.m.hubOn = true) (hst : s.m.quay.st = .ready) (hd : j.disabling = []) (hne : j.head ≠ j.tail)
    (hfree : j.slotFree (j.nextSeq / j.batch) = true) (entry : List Byte) (ends : List ReadEnd) :
    exec (.intakeEntryFetch n ⟨entry, ends⟩) s = .next { s with
      m := expecting ((((expecting s.m ends).setJob n (jobTook j (leNat (entry.take 64)))).notify 2 n).jobPump n) [] } := by
  have hhub : (expecting s.m ends).hubOn = true := hhub
  have hst : ((expecting s.m ends).quay.st != .ready) = false := bne_eq_false_iff_eq.2 hst
  change execIntakeEntryFetch n ⟨entry, ends⟩ s = _
  simp only [execIntakeEntryFetch, onHw_next, withEnds_eq, expecting_jobs, hj, hhub, hst, hd, beq_eq_false_iff_ne.2 hne,
    hfree, List.isEmpty_nil, Bool.not_true, Bool.or_self, Bool.false_eq_true, if_false]
  rfl

end

/-- After intake job `n` has moved on by one entry, and every other job is as it was. -/
theorem intake_spec {m : Hw} {n : Nat} {j : Job} (hd : j.disabling = []) (e : Nat) :
    let t := ((m.setJob n (jobTook j e)).notify 2 n).jobPump n
    ∃ k, mget t.jobs n = some k ∧ k.head = j.head + 1 ∧ k.lastSeq = j.nextSeq ∧
      (bitb e 100 = false → k.nextSeq = j.nextSeq + 1) ∧ ∀ i, i ≠ n → mget t.jobs i = mget m.jobs i := by
  intro t
  obtain ⟨hhead, hlast, hdis, hnext⟩ := jobTook_intake j e
  have hset : mget ((m.setJob n (jobTook j e)).notify 2 n).jobs n = some (jobTook j e) := mget_mset_self _ _ _
  have hpump := jobPump_pumped hset (hdis.trans hd)
  obtain ⟨k, hk, hsame⟩ := Option.map_eq_some_iff.1 (hpump.intake.trans (congrArg (Option.map intakeOf) hset))
  exact ⟨k, hk, (congrArg (·.1) hsame :).trans hhead, (congrArg (·.2.2.1) hsame :).trans hlast,
    fun h => (congrArg (·.2.1) hsame :).trans (hnext h), fun i hi => (hpump.others i hi).trans (mget_mset_ne _ _ hi)⟩

/-! ### Decoding (12 R323 to R326) -/

@[simp] theorem expecting_mapped (m : Hw) (ends : List ReadEnd) (c va n : Nat) :
    (expecting m ends).mapped c va n = m.mapped c va n := rfl

/-- Settles O43: intake moves the queue on by one entry, a header starts or voids its sample, and a decode ends as it went. -/
theorem uploadsAreTakenAndDecoded : Obligations.UploadsAreTakenAndDecoded := by
  intro s n j ends hj hhub leaves
  have hhub' : (expecting s.m ends).hubOn = true := hhub
  refine ⟨fun entry h => exec_intake_full hj h entry ends, fun entry hst hd hne hfree => ?intake, fun seq x hx => ⟨fun hst hfree =>
    ⟨fun hcodec hengine => ?start, fun hcodec h => ?hostStart⟩, fun hst => ?complete⟩⟩
  case intake =>
    refine ⟨_, exec_intake hj hhub hst hd hne hfree entry ends, ?_⟩
    simpa only [expecting_jobs] using intake_spec (m := expecting s.m ends) hd (leNat (entry.take 64))
  case hostStart =>
    change execDecodeStart n seq ⟨h, ends⟩ s = _
    simp only [execDecodeStart, onHw_next, withEnds_eq, expecting_jobs, hj, hx, hhub', hst, hfree, hcodec]
    rfl
  case start =>
    refine ⟨fun h hg => ?_, fun h r hg => ?_, ?_, ?_, ?_⟩
    all_goals
      change execDecodeStart n seq ⟨_, ends⟩ s = _
      simp only [execDecodeStart, onHw_next, withEnds_eq, expecting_jobs, hj, hx, hhub', hst, hfree, hcodec, hengine]
    · simp only [hg]; rfl
    · simp only [hg]; rfl
    · rfl
    · rfl
    · rfl
  case complete =>
    refine ⟨fun h hg => ?_, fun h r hg => ?_, ?_, ?_, ?_, fun fs hmap => ?_, fun fs hmap => ?_⟩
    all_goals
      change execDecodeComplete n seq ⟨_, ends⟩ s = _
      simp only [execDecodeComplete, onHw_next, withEnds_eq, expecting_jobs, hj, hx, hhub', hst]
    · simp only [hg]; rfl
    · simp only [hg]; rfl
    · rfl
    · rfl
    · rfl
    · simp only [expecting_mapped, hmap]; rfl
    · simp only [expecting_mapped, hmap]
      cases fs <;> rfl

end Sys2Proof
end

section
/-! PROOF. Prepared batches of an upload job: writing, early close, the release word and the decoders' load (12 R327 to R334):
O44. -/

namespace Sys2Proof

open Machine

/-! ### Reading an aligned word of module memory -/

theorem pieces_word {va : Nat} (h : va % 64 = 0) : pieces va 8 = [(va, 8)] := by
  have hmin : min 8 (2048 - va % 2048) = 8 := by omega
  simp [pieces, granules, hmin]

theorem wordSpans_word {va : Nat} (h : va % 64 = 0) : wordSpans va 8 = [(va, 8)] := by
  have hone : (va + 8 - 1) / 64 + 1 - va / 64 = 1 := by omega
  have hfst : max va (va / 64 * 64) = va := by omega
  have hlen : min (va + 8) ((va / 64 + 1) * 64) - va = 8 := by omega
  rw [wordSpans, if_neg (by decide), hone]
  simp [hfst, hlen]

theorem marksIn_one (k : Nat) : marksIn k 1 = [markOf k] := by
  simp [marksIn]

/-- The unit of a word that an aligned read of 8 bytes touches is the unit of the read. -/
theorem markOf_of_mem_wordsIn {k sectors : Nat} {w : Nat × Nat} (hk : k % 64 = 0) (hs : sectors ≤ 16)
    (hw : w ∈ wordsIn k 8 sectors) : markOf w.1 = markOf k := by
  unfold wordsIn at hw
  split at hw
  · rw [if_neg (by decide)] at hw
    obtain ⟨i, hi, rfl⟩ := List.mem_map.1 hw
    have hsame : k - k % 64 + 64 * i = k := by have := List.mem_range.1 hi; omega
    rw [hsame]
  · next hslow =>
    obtain ⟨i, hi, rfl⟩ := List.mem_map.1 hw
    have hi := List.mem_range.1 hi
    have htier : keyTier (k - k % 2048 + 64 * i) = keyTier k := by unfold keyTier; omega
    simp only [markOf, markSize, htier, if_neg hslow]
    omega

theorem poisoned_one_of_mem_wordsIn {s : MemSys} {k : Nat} (hk : k % 64 = 0) (hp : s.poisoned k 8 = false) {sectors : Nat}
    (hs : sectors ≤ 16) {w : Nat × Nat} (hw : w ∈ wordsIn k 8 sectors) : s.poisoned w.1 1 = false := by
  have hunit : markOf k ∉ s.marks := fun h => by
    rw [poisoned_of_mem (by decide) h] at hp
    cases hp
  simpa [MemSys.poisoned, marksIn_one, markOf_of_mem_wordsIn hk hs hw] using hunit

/-- A read without errors of an unmarked aligned word ends without a fault. -/
theorem readFault_of_unmarked {m : Hw} {k : Nat} (hk : k % 64 = 0) (hp : m.mem.poisoned k 8 = false) :
    m.readFault (.ram k) 8 ⟨[]⟩ = none := by
  refine List.findSome?_eq_none_iff.2 fun w hw => ?_
  obtain ⟨v, hv, rfl⟩ := List.mem_map.1 hw
  have hplain : m.mem.readWord v.1 (wordErrs ⟨[]⟩ v.2) = .plain .good := by
    rw [MemSys.readWord, poisoned_one_of_mem_wordsIn hk hp (Nat.min_le_left _ _) hv]
    rfl
  simp only [hplain]

theorem hostFill_of_ram {m : Hw} {c va k : Nat} {l : Leaf} {p : PageDesc} (h : m.locOf c va = some (l, p, some (.ram k)))
    (o : Nat) : m.hostFill p o = m := by
  have hhome : p.home ≠ 2 := fun hhome => by
    unfold Hw.locOf at h
    split at h
    · cases h
    · split at h
      · cases h
      · simp only [Option.some.injEq, Prod.mk.injEq] at h
        obtain ⟨rfl, rfl, h⟩ := h
        simp only [Hw.pageLoc, hhome] at h
        split at h <;> cases h
  simp [Hw.hostFill, hhome]

theorem takeEnd_of_nil {m : Hw} (h : m.mem.ends = []) : m.takeEnd = (.answered ⟨[]⟩, m) := by
  simp only [Hw.takeEnd, h]

theorem hubLoad_word {m : Hw} {c va k : Nat} {l : Leaf} {p : PageDesc} (hends : m.mem.ends = []) (hva : va % 64 = 0)
    (hk : k % 64 = 0) (hloc : m.locOf c va = some (l, p, some (.ram k))) (hp : m.mem.poisoned k 8 = false) :
    (m.hubLoad c va 8).1 = ⟨rdN m.mem.ram k 8, [false]⟩ := by
  have hread : m.mem.asRead k 8 ⟨[]⟩ = rdN m.mem.ram k 8 := rfl
  simp only [Hw.hubLoad, hloc, hostFill_of_ram hloc, takeEnd_of_nil hends, Hw.readAt, hread, wordSpans_word hva,
    List.map_cons, List.map_nil, readFault_of_unmarked hk hp, Option.isSome_none]

theorem hubInt64_of_unmarked {m : Hw} {c va k : Nat} {l : Leaf} {p : PageDesc} (hends : m.mem.ends = []) (hva : va % 64 = 0)
    (hk : k % 64 = 0) (hloc : m.locOf c va = some (l, p, some (.ram k))) (hp : m.mem.poisoned k 8 = false) :
    (m.hubInt64 c va).1 = some (m.int64 c va) := by
  have hload := hubLoad_word hends hva hk hloc hp
  have hpeek : m.peek c va 8 = rdN m.mem.ram k 8 := by
    simp [Hw.peek, pieces_word hva, hloc, Hw.readLoc]
  simp [Hw.hubInt64, Hw.hubRead, pieces_word hva, hload, HubData.bad, Hw.int64, hpeek]

/-! ### Closing the open batch -/

theorem mget_fillSamples {l : List Nat} {y : Sample} {j : Job} {q : Nat} (h : q ∈ l ∨ mget j.samples q = some y) :
    mget (fillSamples l y j).samples q = some y := by
  induction l generalizing j with
  | nil => exact h.resolve_left List.not_mem_nil
  | cons p l ih =>
    refine ih (j := j.setSample p y) ?_
    rcases h with h | h
    · rcases List.mem_cons.1 h with rfl | h
      · exact .inr (mget_mset_self _ _ _)
      · exact .inl h
    · refine .inr ((mget_mset _ _ _ _).trans ?_)
      rw [h, ite_self]

/-- A close fills all positions up to the next multiple of BATCH (12 R330). -/
theorem closeBatch_spec {j : Job} (hb : j.batch ≠ 0) :
    j.closeBatch.nextSeq % j.batch = 0 ∧ j.nextSeq ≤ j.closeBatch.nextSeq ∧
    j.closeBatch.nextSeq < j.nextSeq + j.batch ∧
    ∀ q, j.nextSeq ≤ q → q < j.closeBatch.nextSeq → mget j.closeBatch.samples q = some Sample.filler := by
  by_cases h : j.nextSeq % j.batch = 0
  · rw [closeBatch_of_aligned (.inr h)]
    exact ⟨h, Nat.le_refl _, Nat.lt_add_of_pos_right (Nat.pos_of_ne_zero hb), fun q hq hq' => absurd hq' (Nat.not_lt.2 hq)⟩
  · have hdiv := Nat.div_add_mod j.nextSeq j.batch
    have hmod := Nat.mod_lt j.nextSeq (Nat.pos_of_ne_zero hb)
    have hend : batchEnd j = j.batch * (j.nextSeq / j.batch) + j.batch := by
      rw [batchEnd, Nat.add_mul, Nat.one_mul, Nat.mul_comm]
    rw [closeBatch_of_open hb h]
    refine ⟨Nat.mul_mod_left _ _, ?_, ?_, fun q hq hq' => mget_fillSamples (.inl (List.mem_map.2 ⟨q - j.nextSeq, ?_, ?_⟩))⟩
    · dsimp only; omega
    · dsimp only; omega
    · dsimp only at hq'; exact List.mem_range.2 (by omega)
    · omega

/-! ### The commands -/

/-- Job `j` after a poll of its release word that gave `v`. -/
def polled (j : Job) (mapped : Bool) (v : Option Int) : Job :=
  { j with released := if mapped then v.getD j.released else j.released }

/-- Job `n` keeps the occupancy samples `occ`; memory and cores are as they were. -/
def OccupancyNoted (s : State) (n : Nat) (occ : List Nat) (t : Hw) : Prop :=
  (mget t.jobs n).map Job.occ = some occ ∧ t.mem.ram = s.m.mem.ram ∧ t.cores = s.m.cores

section
variable {s : State} {n : Nat} {j : Job} (hj : mget s.m.jobs n = some j) (hhub : s.m.hubOn = true)
include hj hhub

theorem exec_tensorizerWrite (ends : List ReadEnd) {seq : Nat} {x : Sample} (hx : mget j.samples seq = some x)
    (hst : x.st = .decoded) (hvoid : x.void = false) (hfree : j.slotFree (seq / j.batch) = true) :
    exec (.tensorizerWrite n ⟨seq, ends⟩) s =
      .next { s with m := s.m.withEnds ends fun m => (m.writeSample n j seq x).jobPump n } := by
  have hhub : (expecting s.m ends).hubOn = true := hhub
  change execTensorizerWrite n ⟨seq, ends⟩ s = _
  simp only [execTensorizerWrite, onHw_next, withEnds_eq, expecting_jobs, hj, hx, hhub, hst, hvoid, hfree, beq_self_eq_true,
    Bool.not_false, Bool.and_self, if_true]

theorem exec_batchDl (ends : List ReadEnd) {t : Nat} (ht : mget j.firstAt (j.nextSeq / j.batch) = some t)
    (hdl : j.batchDl ≠ 0) (hnow : t + j.batchDl * 1000 ≤ s.m.now) :
    exec (.batchDl ⟨n, ends⟩) s =
      .next { s with m := s.m.withEnds ends fun m => (m.setJob n j.closeBatch).jobPump n } := by
  have hhub : (expecting s.m ends).hubOn = true := hhub
  have hnow : t + j.batchDl * 1000 ≤ (expecting s.m ends).now := hnow
  change execBatchDl ⟨n, ends⟩ s = _
  simp only [execBatchDl, onHw_next, withEnds_eq, expecting_jobs, hj, ht, hhub, bne_iff_ne.2 hdl, hnow, decide_true,
    Bool.and_self, if_true]

theorem exec_releaseWordPoll (ends : List ReadEnd) : exec (.releaseWordPoll ⟨n, ends⟩) s =
    .next { s with m := s.m.withEnds ends fun m => ((m.hubInt64 j.ctx j.qVa).2.setJob n
      (polled j (s.m.mapped j.ctx j.qVa 8) (m.hubInt64 j.ctx j.qVa).1)).jobPump n } := by
  have hhub : (expecting s.m ends).hubOn = true := hhub
  change execReleaseWordPoll ⟨n, ends⟩ s = _
  simp only [execReleaseWordPoll, onHw_next, withEnds_eq, expecting_jobs, hj, hhub, expecting_mapped, Bool.not_true,
    Bool.false_eq_true, if_false]
  generalize (expecting s.m ends).hubInt64 j.ctx j.qVa = r
  rfl

theorem occupancySample_spec (busy : Nat) (hdiv : j.division = true) :
    After (.decoderOccupancySample n busy) s fun m => (mget m.jobs n).map Job.occ = some ((busy :: j.occ).take 10) ∧
      m.mem.ram = s.m.mem.ram ∧ m.cores = s.m.cores := by
  have hset : ∀ k : Job, k.occ = (busy :: j.occ).take 10 → OccupancyNoted s n ((busy :: j.occ).take 10) (s.m.setJob n k) :=
    fun k hk => ⟨by simp [hk], rfl, rfl⟩
  have hposted : ∀ (k : Job) (p : List (Nat × Nat)), k.occ = (busy :: j.occ).take 10 → OccupancyNoted s n
      ((busy :: j.occ).take 10) (((s.m.setJob n k).event 0x0390 (some j.ctx) p).count 5 n 4 1) :=
    fun k p hk => ⟨by simp [hk], by simp, by simp⟩
  change ∃ m, execDecoderOccupancySample n busy s = _ ∧ OccupancyNoted s n ((busy :: j.occ).take 10) m
  simp only [execDecoderOccupancySample, onHw_next, hj, hhub, hdiv, Bool.not_true, Bool.or_self, Bool.false_eq_true, if_false]
  refine ⟨_, rfl, ?_⟩
  split
  · split
    · exact hposted _ _ rfl
    · exact hset _ rfl
  · split
    · split
      · exact hset _ rfl
      · split
        · exact hposted _ _ rfl
        · exact hset _ rfl
    · exact hset _ rfl

end

/-- Settles O44: each command's one effect, an aligned read that finds neither mark nor error, and a close that fills. -/
theorem batchesFillAndRelease : Obligations.BatchesFillAndRelease := by
  refine ⟨fun s n j ends hj hhub => ⟨fun seq x => exec_tensorizerWrite hj hhub ends, fun t => exec_batchDl hj hhub ends,
    fun hmap => ?_, fun hmap => ?_, fun busy => occupancySample_spec hj hhub busy⟩,
    fun m c va k l p => hubInt64_of_unmarked, fun j => closeBatch_spec⟩
  all_goals
    have hexec := exec_releaseWordPoll hj hhub ends
    rw [hmap] at hexec
    exact hexec

end Sys2Proof
end

section
/-! PROOF. Encoders of an upload job and their guidance (12 R335 to R337): O45. -/

namespace Sys2Proof

open Machine

/-! ### Putting a sample back -/

/-- A filter keeps the first entry of a key where it lets that entry pass. -/
theorem mget_filter {α : Type} {l : Map α} {k : Nat} {v : α} {p : Nat × α → Bool} (h : mget l k = some v)
    (hp : p (k, v) = true) : mget (l.filter p) k = some v := by
  induction l with
  | nil => cases h
  | cons e l ih =>
    obtain ⟨i, w⟩ := e
    rw [mget] at h
    split at h
    · next hi =>
      obtain rfl := hi
      cases h
      rw [List.filter_cons_of_pos hp, mget, if_pos rfl]
    · next hi =>
      rw [List.filter_cons]
      split
      · rw [mget, if_neg hi, ih h]
      · exact ih h

/-- A sample of a batch that is not complete stands in the job after it is put back. -/
theorem putSample_spec {j : Job} {seq : Nat} (hd : j.disabling = []) (hb : j.batches ≤ seq / j.batch) (m : Hw) (n : Nat)
    (old y : Sample) : ∃ k, mget (m.putSample n j seq old y).jobs n = some k ∧ mget k.samples seq = some y := by
  refine ⟨(j.setSample seq y).prune, ?_, mget_filter (mget_mset_self _ _ _) (by simp [Job.setSample, hb])⟩
  unfold Hw.putSample
  dsimp only
  rw [finishJob_of_enabled (j := (j.setSample seq y).prune) (mget_mset_self _ _ _) hd]
  exact mget_mset_self _ _ _

/-! ### A frame without guidance -/

theorem guideMiss_snd (m : Hw) (n : Nat) (j : Job) (seq : Nat) (x : Sample) :
    (m.guideMiss n j seq x).2 = { x with guideMiss := true } := by
  unfold Hw.guideMiss
  split
  · next h => rw [← h]
  · rfl

theorem guideMiss_now (m : Hw) (n : Nat) (j : Job) (seq : Nat) (x : Sample) : (m.guideMiss n j seq x).1.now = m.now := by
  unfold Hw.guideMiss
  split
  · rfl
  · exact event_now _ _ _ _

/-! ### The commands -/

@[simp] theorem expecting_guided (m : Hw) (ends : List ReadEnd) (j : Job) (e : EncCfg) (seq frame : Nat) :
    (expecting m ends).guided j e seq frame = m.guided j e seq frame := rfl

/-- How the encoding of a frame ends, its sample `z` and quantiser offsets `qs` settled: it overflows, or its bytes are
written and the next frame is due. -/
def encodeEnd (t : Hw) (n : Nat) (j : Job) (e : EncCfg) (seq frame : Nat) (x z : Sample) (qs : List (List Int)) : Hw :=
  let bits := Config.encode e.numbers x.pics qs
  if x.outMax < x.encLen + bits.length then
    ((t.event 0x0388 (some j.ctx) [(16, n), (16, 0), (64, seq)]).count 5 n 7 1).putSample n j seq x
      { z with encStop := true, encOvf := true, qoffs := qs }
  else
    let o := t.hubWrite j.ctx (x.outVa + x.encLen) bits false
    o.putSample n j seq x { z with poison := z.poison || t.newLate o, encNext := frame + 1,
                                   encLen := x.encLen + bits.length, qoffs := qs, readyAt := t.now, guideUp := false }

/-- The record of a frame, read where it counts. -/
def recordRead (m : Hw) (j : Job) (e : EncCfg) (seq frame : Nat) (g : Bool) : HubData × Hw :=
  if g then m.hubRead j.ctx (j.guideVaOf e seq frame) j.guideBytes else (⟨[], []⟩, m)

/-- The encoder's work on a frame is counted; without guidance it is noted as such. -/
def frameCounted (m : Hw) (n : Nat) (j : Job) (seq : Nat) (x : Sample) (ok : Bool) : Hw × Sample :=
  let t := (if ok then m else m.count 5 n 6 1).count 8 j.ctx 1 (x.srcW * x.srcH * 100 / 199)
  if ok then (t, x) else t.guideMiss n j seq x

/-- The encoding of a frame; `g` tells that its record has arrived and counts. -/
def frameEncoded (m : Hw) (n : Nat) (j : Job) (e : EncCfg) (seq frame : Nat) (x : Sample) (g : Bool) : Hw :=
  let r := recordRead m j e seq frame g
  let ok := g && !r.1.bad
  let c := frameCounted r.2 n j seq x ok
  encodeEnd c.1 n j e seq frame x { c.2 with poison := c.2.poison || r.1.bad || (!g && m.guideMarked j e seq frame) }
    (x.qoffs ++ [if ok then quantOffsets e.gain r.1.bytes (ceilDiv x.srcW 32) (ceilDiv x.srcH 32) else []])

theorem encodeEnd_spec {j : Job} {seq : Nat} (hd : j.disabling = []) (hb : j.batches ≤ seq / j.batch) (t : Hw) (n : Nat)
    (e : EncCfg) (frame : Nat) {x z : Sample} (hst : z.st = x.st) (hpics : z.pics = x.pics) (hlen : z.encLen = x.encLen)
    (qs : List (List Int)) :
    let bits := Config.encode e.numbers x.pics qs
    ∃ k y, mget (encodeEnd t n j e seq frame x z qs).jobs n = some k ∧ mget k.samples seq = some y ∧
      y.st = x.st ∧ y.pics = x.pics ∧
      (if x.outMax < x.encLen + bits.length then y.encStop = true ∧ y.encOvf = true ∧ y.encLen = x.encLen
       else y.encNext = frame + 1 ∧ y.encLen = x.encLen + bits.length ∧ y.readyAt = t.now ∧ y.guideUp = false) := by
  intro bits
  have hput := putSample_spec hd hb
  unfold encodeEnd
  dsimp only
  split
  · obtain ⟨k, hk, hy⟩ := hput _ n x _
    exact ⟨k, _, hk, hy, hst, hpics, rfl, rfl, hlen⟩
  · obtain ⟨k, hk, hy⟩ := hput _ n x _
    exact ⟨k, _, hk, hy, hst, hpics, rfl, rfl, rfl, rfl⟩

theorem recordRead_now (m : Hw) (j : Job) (e : EncCfg) (seq frame : Nat) (g : Bool) :
    (recordRead m j e seq frame g).2.now = m.now := by
  unfold recordRead
  split
  · exact (Hubbed.hubRead _ _ _ _).now
  · rfl

theorem frameCounted_spec (m : Hw) (n : Nat) (j : Job) (seq : Nat) (x : Sample) (ok : Bool) :
    let c := frameCounted m n j seq x ok
    c.1.now = m.now ∧ c.2.st = x.st ∧ c.2.pics = x.pics ∧ c.2.encLen = x.encLen := by
  cases ok with
  | true => exact ⟨(Booked.count m _ _ _ _).now, rfl, rfl, rfl⟩
  | false =>
    have hcount := ((Booked.count m 5 n 6 1).trans (.count _ 8 j.ctx 1 (x.srcW * x.srcH * 100 / 199))).now
    simp only [frameCounted, Bool.false_eq_true, if_false, guideMiss_snd, guideMiss_now]
    exact ⟨hcount, trivial, trivial, trivial⟩

/-- The offsets of a frame come from its record, where that counts and could be read. -/
theorem guidanceOf_recordRead {m : Hw} {j : Job} {e : EncCfg} {seq frame : Nat} (g : Bool) (f : List Byte → List Int) :
    (if g && !(recordRead m j e seq frame g).1.bad then f (recordRead m j e seq frame g).1.bytes else []) =
      let d := (m.hubRead j.ctx (j.guideVaOf e seq frame) j.guideBytes).1
      if g && !d.bad then f d.bytes else [] := by
  cases g <;> rfl

theorem frameEncoded_spec {j : Job} {seq : Nat} (hd : j.disabling = []) (hb : j.batches ≤ seq / j.batch) (m : Hw) (n : Nat)
    (e : EncCfg) (frame : Nat) (x : Sample) (g : Bool) :
    let d := (m.hubRead j.ctx (j.guideVaOf e seq frame) j.guideBytes).1
    let bits := Config.encode e.numbers x.pics (x.qoffs ++ [if g && !d.bad then
      quantOffsets e.gain d.bytes (ceilDiv x.srcW 32) (ceilDiv x.srcH 32) else []])
    ∃ k y, mget (frameEncoded m n j e seq frame x g).jobs n = some k ∧ mget k.samples seq = some y ∧
      y.st = x.st ∧ y.pics = x.pics ∧
      (if x.outMax < x.encLen + bits.length then y.encStop = true ∧ y.encOvf = true ∧ y.encLen = x.encLen
       else y.encNext = frame + 1 ∧ y.encLen = x.encLen + bits.length ∧ y.readyAt = m.now ∧ y.guideUp = false) := by
  intro d bits
  have hcounted := frameCounted_spec (recordRead m j e seq frame g).2 n j seq x (g && !(recordRead m j e seq frame g).1.bad)
  have hoffs := guidanceOf_recordRead (m := m) (j := j) (e := e) (seq := seq) (frame := frame) g fun bs =>
    quantOffsets e.gain bs (ceilDiv x.srcW 32) (ceilDiv x.srcH 32)
  dsimp only at hoffs
  simp only [frameEncoded, hoffs]
  rw [recordRead_now] at hcounted
  generalize frameCounted _ n j seq x _ = c at hcounted ⊢
  obtain ⟨hnow, hst, hpics, hlen⟩ := hcounted
  rw [← hnow]
  refine encodeEnd_spec hd hb c.1 n e frame ?_ ?_ ?_ _
  · exact hst
  · exact hpics
  · exact hlen

section
variable {s : State} {n seq frame : Nat} {j : Job} {x : Sample} {e : EncCfg} (hj : mget s.m.jobs n = some j)
  (hx : mget j.samples seq = some x) (he : j.enc = some e) (hhub : s.m.hubOn = true) (hcoding : j.encoding x frame = true)
include hj hx he hhub hcoding

theorem exec_encodeFrame (ends : List ReadEnd)
    (hready : x.guideUp = true ∨ s.m.guided j e seq frame = true ∨ e.guideNf ≤ frame) :
    exec (.encodeFrame n seq frame ends) s = .next { s with
      m := expecting (frameEncoded (expecting s.m ends) n j e seq frame x (!x.guideUp && s.m.guided j e seq frame)) [] } := by
  have hgo : ¬(!s.m.hubOn || !j.encoding x frame ||
      (!(!x.guideUp && s.m.guided j e seq frame) && !x.guideUp && decide (frame < e.guideNf))) = true := by
    rcases hready with h | h | h
    · simp [hhub, hcoding, h]
    · simp [hhub, hcoding, h]
    · simp [hhub, hcoding, Nat.not_lt.2 h]
  change execEncodeFrame n seq frame ends s = _
  simp -zeta only [execEncodeFrame, onHw_next, withEnds_eq, expecting_jobs, hj, hx, he]
  exact congrArg (fun t => Host.Outcome.next { s with m := expecting t [] }) (if_neg hgo)

theorem exec_guideDl (hdl : e.guideDl ≠ 0) (hup : x.guideUp = false) (hframe : frame < e.guideNf)
    (hnow : x.readyAt + e.guideDl * 1000 ≤ s.m.now) (hmissing : s.m.guided j e seq frame = false) :
    exec (.guideDl n seq frame) s = .next { s with
      m := (s.m.guideMiss n j seq x).1.putSample n j seq x { (s.m.guideMiss n j seq x).2 with guideUp := true } } := by
  change execGuideDl n seq frame s = _
  simp only [execGuideDl, onHw_next, hj, hx, he, hhub, hcoding, bne_iff_ne.2 hdl, hup, hframe, hnow, hmissing, decide_true,
    Bool.not_false, Bool.and_self, if_true]

end

/-- Settles O45: a frame is coded with the guidance there is, and a deadline passes for a record that is missing. -/
theorem encodersFollowGuidance : Obligations.EncodersFollowGuidance := by
  intro s n seq frame j x e hj hx he hhub hcoding hd hb guided
  refine ⟨fun ends hready => ?_, fun hdl hup hframe hnow hmissing =>
    ⟨_, exec_guideDl hj hx he hhub hcoding hdl hup hframe hnow hmissing, ?_⟩⟩
  · refine ⟨_, exec_encodeFrame hj hx he hhub hcoding ends hready, ?_⟩
    exact frameEncoded_spec hd hb (expecting s.m ends) n e frame x _
  · obtain ⟨k, hk, hy⟩ := putSample_spec hd hb (s.m.guideMiss n j seq x).1 n x
      { (s.m.guideMiss n j seq x).2 with guideUp := true }
    rw [guideMiss_snd] at hy
    exact ⟨k, _, hk, hy, rfl, rfl, rfl⟩

end Sys2Proof
end

section
/-! PROOF. Entries of submit queues and the ends of runs (14 R372, R375): O36 and O37. -/

namespace Sys2Proof

open Machine

variable {m : Hw} {n plan : Nat} {q : SubQ} {p : Plan} {r : Run}

/-! ### What starting and ending work leave of plans and queues -/

theorem enterRunnable_frame (m : Hw) (c : Nat) :
    { m.enterRunnable c with ctxs := m.ctxs, occasion := m.occasion } = m := by
  unfold Hw.enterRunnable
  split <;> rfl

theorem gainWork_frame (m : Hw) (c : Nat) : { m.gainWork c with ctxs := m.ctxs, occasion := m.occasion } = m := by
  unfold Hw.gainWork
  split
  · rfl
  · split
    · split
      · rfl
      · exact enterRunnable_frame m c
    · rfl
    · rfl

theorem loseWork_frame (m : Hw) (c : Nat) : { m.loseWork c with ctxs := m.ctxs, occasion := m.occasion } = m := by
  unfold Hw.loseWork
  split
  · rfl
  · dsimp only
    repeat' split
    all_goals rfl

@[simp] theorem gainWork_plans (m : Hw) (c : Nat) : (m.gainWork c).plans = m.plans :=
  (congrArg Hw.plans (gainWork_frame m c) :)
@[simp] theorem gainWork_queues (m : Hw) (c : Nat) : (m.gainWork c).queues = m.queues :=
  (congrArg Hw.queues (gainWork_frame m c) :)
@[simp] theorem loseWork_plans (m : Hw) (c : Nat) : (m.loseWork c).plans = m.plans :=
  (congrArg Hw.plans (loseWork_frame m c) :)
@[simp] theorem loseWork_queues (m : Hw) (c : Nat) : (m.loseWork c).queues = m.queues :=
  (congrArg Hw.queues (loseWork_frame m c) :)
@[simp] theorem updCtx_plans (m : Hw) (c : Nat) (f : Ctx → Ctx) : (m.updCtx c f).plans = m.plans := by
  unfold Hw.updCtx; split <;> rfl
@[simp] theorem updCtx_queues (m : Hw) (c : Nat) (f : Ctx → Ctx) : (m.updCtx c f).queues = m.queues := by
  unfold Hw.updCtx; split <;> rfl

theorem foldl_updCore_plans {α : Type} (k : α → Nat) (g : Hw → α → Core → Core) (l : List α) (m : Hw) :
    (l.foldl (fun m e => m.updCore (k e) (g m e)) m).plans = m.plans :=
  foldl_keeps Hw.plans (f := fun m e => m.updCore (k e) (g m e)) (fun _ _ _ => rfl) m
theorem foldl_updCore_queues {α : Type} (k : α → Nat) (g : Hw → α → Core → Core) (l : List α) (m : Hw) :
    (l.foldl (fun m e => m.updCore (k e) (g m e)) m).queues = m.queues :=
  foldl_keeps Hw.queues (f := fun m e => m.updCore (k e) (g m e)) (fun _ _ _ => rfl) m

/-- Starting the threads of a run marks it as started, at most. -/
theorem startRun_spec (h : (mget m.plans plan).bind Plan.run = some r) : (m.startRun plan).queues = m.queues ∧
    ∃ st, (mget (m.startRun plan).plans plan).bind Plan.run = some { r with started := st } := by
  obtain ⟨p, hp, hr⟩ := Option.bind_eq_some_iff.1 h
  unfold Hw.startRun
  rw [hp]
  dsimp only
  rw [hr]
  cases m.mayStart with
  | false => exact ⟨rfl, r.started, h⟩
  | true =>
    dsimp only
    rw [updCtx_queues, updCtx_plans, foldl_updCore_queues, foldl_updCore_plans, mget_mset_self]
    exact ⟨rfl, true, rfl⟩

/-- The same where the threads start only under a condition. -/
theorem ite_startRun_spec (b : Bool) (h : (mget m.plans plan).bind Plan.run = some r) :
    (if b then m.startRun plan else m).queues = m.queues ∧
      ∃ st, (mget (if b then m.startRun plan else m).plans plan).bind Plan.run = some { r with started := st } := by
  cases b with
  | false => exact ⟨rfl, r.started, h⟩
  | true => exact startRun_spec h

/-- The run of a plan that was just put in. -/
theorem bind_mset_run (l : Map Plan) (plan : Nat) (p : Plan) : (mget (mset l plan p) plan).bind Plan.run = p.run :=
  congrArg (Option.bind · Plan.run) (mget_mset_self l plan p)

/-! ### Taking an entry (14 R375) -/

/-- An entry with a reserved bit set, or one that names no plan of the queue's context. -/
def badEntry (m : Hw) (q : SubQ) (e : Nat) : Prop :=
  bits e 31 17 ≠ 0 ∨ bits e 511 96 ≠ 0 ∨ ∀ p, mget m.plans (bits e 15 0) = some p → p.ctx ≠ q.ctx

theorem takeEntry_of_bad {e : Nat} (h : badEntry m q e) :
    mget (m.takeEntry n q e).queues n = some q.advance ∧ (m.takeEntry n q e).plans = m.plans := by
  unfold Hw.takeEntry
  dsimp only
  split
  · simp
  · next hreserved =>
    simp only [Bool.or_eq_true, bne_iff_ne, ne_eq, not_or, Decidable.not_not] at hreserved
    obtain ⟨hlow, hhigh⟩ := hreserved
    split
    · simp
    · next p hp =>
      rcases h with h | h | h
      · exact absurd hlow h
      · exact absurd hhigh h
      · rw [if_pos (bne_iff_ne.2 (h p hp))]
        simp

/-- Run 0 of the entry `e` of queue `n`, before its threads start. -/
def entryRun (n e : Nat) : Run :=
  { queue := n, tag := bits e 63 32, evt := bitb e 16, no := 0
    left := if bits e 95 64 = 0 then none else some (bits e 95 64 - 1), started := false }

/-- The module with the entry `e` of queue `n` current and run 0 of its plan `p` due. -/
def entryTaken (m : Hw) (n : Nat) (q : SubQ) (e : Nat) (p : Plan) : Hw :=
  ({ m with plans := mset m.plans (bits e 15 0) { p with run := some (entryRun n e) }
            queues := mset m.queues n { q.advance with cur := some (bits e 15 0) } }.notify 3 n).gainWork q.ctx

theorem entryTaken_queue (m : Hw) (n : Nat) (q : SubQ) (e : Nat) (p : Plan) :
    mget (entryTaken m n q e p).queues n = some { q.advance with cur := some (bits e 15 0) } := by
  rw [entryTaken, gainWork_queues]
  exact mget_mset_self _ _ _

theorem entryTaken_run (m : Hw) (n : Nat) (q : SubQ) (e : Nat) (p : Plan) :
    (mget (entryTaken m n q e p).plans (bits e 15 0)).bind Plan.run = some (entryRun n e) := by
  rw [entryTaken, gainWork_plans]
  exact bind_mset_run _ _ _

section
variable {e : Nat} (hlow : bits e 31 17 = 0) (hhigh : bits e 511 96 = 0) (hp : mget m.plans (bits e 15 0) = some p)
  (hctx : p.ctx = q.ctx)
include hlow hhigh hp hctx

theorem takeEntry_of_busy (h : p.run ≠ none ∨ m.otherFirst n (bits e 15 0) q = true) : m.takeEntry n q e =
    { m with queues := mset m.queues n { q with waits := some (bits e 15 0) } } := by
  have hbusy : (p.run.isSome || m.otherFirst n (bits e 15 0) q) = true := by
    simpa [Option.isSome_iff_ne_none] using h
  simp [Hw.takeEntry, hlow, hhigh, hp, hctx, hbusy]

theorem takeEntry_of_idle (hidle : p.run = none) (hfirst : m.otherFirst n (bits e 15 0) q = false) : ∃ b : Bool,
    m.takeEntry n q e = if b then (entryTaken m n q e p).startRun (bits e 15 0) else entryTaken m n q e p := by
  have hown : (p.ctx != q.ctx) = false := bne_eq_false_iff_eq.2 hctx
  simp only [Hw.takeEntry, hlow, hhigh, hp, hown, hidle, hfirst, bne_self_eq_false, Bool.or_self, Option.isSome_none,
    Bool.false_eq_true, if_false]
  exact ⟨_, rfl⟩

end

/-- An entry is taken of a context that is neither stopped nor to be recovered, while runs may start. -/
theorem exec_submitEntryTake {s : State} {x : Ctx} (entry : List Byte) (hq : mget s.m.queues n = some q)
    (hx : mget s.m.ctxs q.ctx = some x) (hst : x.st ≠ .stopped) (hback : x.st = .switching → x.back ≠ .stopped)
    (hrecov : x.recov = []) (hready : s.m.quay.st = .ready) (hstart : s.m.mayStart = true) (hcur : q.cur = none)
    (hposted : q.head ≠ q.tail) : exec (.submitEntryTake n entry) s = .next { s with
      m := s.m.takeEntry n q (leNat (entry.take 64)) } := by
  change execSubmitEntryTake n entry s = _
  have hgoes : (x.st == .stopped || (x.st == .switching && x.back == .stopped) || !x.recov.isEmpty) = false := by
    simpa [hst, hrecov] using hback
  simp [execSubmitEntryTake, hq, hx, hgoes, hready, hstart, hcur, hposted]

/-- Settles O36: an entry is skipped, starts its plan's run, or makes its queue wait. -/
theorem submitEntriesStartRuns : Obligations.SubmitEntriesStartRuns := by
  intro s n q entry x hq hx hst hback hrecov hready hstart hcur hposted e
  have hexec := exec_submitEntryTake entry hq hx hst hback hrecov hready hstart hcur hposted
  refine ⟨fun hbad => ⟨_, hexec, ?_⟩, fun hlow hhigh p hp hctx =>
    ⟨fun hidle hfirst => ⟨_, hexec, ?_⟩, fun hbusy => ?_⟩⟩
  · obtain ⟨hqueue, hplans⟩ := takeEntry_of_bad (n := n) hbad
    rw [hqueue]
    exact ⟨rfl, congrArg some hcur, hplans⟩
  · obtain ⟨b, htaken⟩ := takeEntry_of_idle hlow hhigh hp hctx hidle hfirst
    obtain ⟨hqueues, hrun⟩ := ite_startRun_spec b (entryTaken_run s.m n q e p)
    rw [htaken, hqueues, entryTaken_queue]
    exact ⟨rfl, rfl, hrun⟩
  · exact hexec.trans (by rw [takeEntry_of_busy hlow hhigh hp hctx hbusy])

/-! ### The end of a run (14 R372, R375) -/

/-- An entry that is done is current nowhere. -/
theorem entryDone_cur (m : Hw) (plan : Nat) : ∀ q ∈ (m.entryDone plan).queues, q.2.cur ≠ some plan := by
  intro q hq
  obtain ⟨r, -, rfl⟩ := List.mem_map.1 hq
  split
  · exact Option.some_ne_none plan |>.symm
  · next h => simpa using h

theorem nextRun_of_last (h : r.left = some 0) : m.nextRun plan p r =
    ({ m with plans := mset m.plans plan { p with run := none } }.entryDone plan).loseWork p.ctx := by
  simp [Hw.nextRun, h]

theorem nextRun_of_more (h : r.left ≠ some 0) : ∃ st, (mget (m.nextRun plan p r).plans plan).bind Plan.run =
    some { r with no := r.no + 1, left := r.left.map fun n => n - 1, started := st } := by
  unfold Hw.nextRun
  split
  · next h0 => exact absurd h0 h
  · exact (ite_startRun_spec (r := { r with no := r.no + 1, left := r.left.map fun n => n - 1, started := false }) _
      (bind_mset_run _ _ _)).2

/-- A plan that leaves takes its own entry with it, and the current entries of no other plan. -/
theorem dropPlan_spec (hp : mget m.plans plan = some p) : (m.dropPlan plan).plans = mdel m.plans plan ∧
    (m.dropPlan plan).queues = (m.entryDone plan).queues := by
  unfold Hw.dropPlan
  rw [hp]
  dsimp only
  rw [loseWork_plans, loseWork_queues]
  refine ⟨congrArg (mdel · plan) (foldl_keeps Hw.plans ?_ m), congrArg (List.map _) (foldl_keeps Hw.queues ?_ m)⟩
  all_goals
    intro d e _
    repeat' split
    all_goals rfl

/-- The event of a run's end, where its entry asks for one. -/
def runReported (m : Hw) (plan : Nat) (p : Plan) (r : Run) : Hw :=
  if r.evt then m.event 0x0012 (some p.ctx) (runPayload plan r.queue r.tag r.no 0) else m

theorem runReported_posted (m : Hw) (plan : Nat) (p : Plan) (r : Run) : Posted m (runReported m plan p r) := by
  unfold runReported
  split
  · exact .event m _ _ _
  · exact .refl m

theorem Posted.plans {m t : Hw} (h : Posted m t) : t.plans = m.plans := (congrArg Hw.plans h.rest :)
theorem Posted.queues {m t : Hw} (h : Posted m t) : t.queues = m.queues := (congrArg Hw.queues h.rest :)

theorem exec_runEnd {s : State} (hp : mget s.m.plans plan = some p) (hr : p.run = some r) (hstarted : r.started = true)
    (hover : s.m.runOver p = true) : exec (.runEnd plan) s = .next { s with
      m := (runReported s.m plan p r).runEnded plan p r } := by
  change execRunEnd plan s = _
  simp only [execRunEnd, onHw_next, hp, hr, hstarted, hover, Bool.and_self, if_true]
  rfl

theorem runEnded_of_enabled (h : p.disabling = []) : m.runEnded plan p r = m.nextRun plan p r := by
  simp [Hw.runEnded, h]

/-- A plan whose disable waits leaves; the reports that follow touch neither plans nor queues. -/
theorem runEnded_of_disabling (h : p.disabling ≠ []) : Posted (m.dropPlan plan) (m.runEnded plan p r) := by
  rw [Hw.runEnded, if_neg (by simpa using h)]
  exact .foldl (fun d _ => .event d _ _ _) _ _

/-- Settles O37: the end of a run is its report, then the next run, the end of the entry or the plan's leave. -/
theorem runsEnd : Obligations.RunsEnd := by
  intro s plan p r hp hr hstarted hover
  have hexec := exec_runEnd hp hr hstarted hover
  have hplans := (runReported_posted s.m plan p r).plans
  refine ⟨fun henabled hlast => ⟨_, hexec, ?_⟩, fun henabled hmore => ⟨_, hexec, ?_⟩, fun hdis => ⟨_, hexec, ?_⟩⟩
  · rw [runEnded_of_enabled henabled, nextRun_of_last hlast]
    simp only [loseWork_plans, loseWork_queues]
    exact ⟨bind_mset_run _ _ _, congrArg Option.isSome (mget_mset_self _ _ _), entryDone_cur _ plan⟩
  · rw [runEnded_of_enabled henabled]
    exact nextRun_of_more hmore
  · obtain ⟨hleft, hcur⟩ := dropPlan_spec (hplans ▸ hp)
    have hreports := runEnded_of_disabling (m := runReported s.m plan p r) (plan := plan) (r := r) hdis
    rw [hreports.plans, hreports.queues, hleft, hcur, hplans]
    exact ⟨rfl, entryDone_cur _ plan⟩

end Sys2Proof
end

section
/-! PROOF. Serving the mailbox commands (14 R364 to R370): O55. -/

namespace Sys2Proof

open Machine

variable {i : Instr} {s : State} {n : Nat} {c : CmdSpec} {f : Pair → Reply}

/-! ### Serving a pair -/

theorem serve_of_unserved {m : Hw} (h : m.maybeServed n c.code = false) : m.serve n c f = m := by
  simp [Hw.serve, h]

theorem serve_of_headCheck {m : Hw} {e : Nat × Nat} (h : m.maybeServed n c.code = true)
    (he : m.headCheck (m.espor.pair n) c = some e) : m.serve n c f = m.answer n false e.1 e.2 [] := by
  simp [Hw.serve, h, he]

theorem serve_refuse (h : Taken s n c) {code d : Nat} (hf : f (s.m.espor.pair n) = .refuse code d) :
    s.m.serve n c f = s.m.answer n false code d [] := by
  obtain ⟨hserved, hchecks⟩ := h
  simp [Hw.serve, hserved, hchecks, hf]

theorem serve_defer (h : Taken s n c) {t : Hw} (hf : f (s.m.espor.pair n) = .defer t) :
    s.m.serve n c f = t.answer n true 0 0 [] := by
  obtain ⟨hserved, hchecks⟩ := h
  simp [Hw.serve, hserved, hchecks, hf]

/-- A command whose effect is serving its pair. -/
theorem serves_of_exec (h : exec i s = .next { s with m := s.m.serve n c f }) : Serves i s n c f where
  left hunserved := by rw [Idles, h, serve_of_unserved hunserved]
  right.left e hserved he := by rw [Leaves, h, serve_of_headCheck hserved he]
  right.right htaken :=
    ⟨fun _ _ hf => by rw [Leaves, h, serve_refuse htaken hf], fun _ _ hf => by rw [Leaves, h, serve_done htaken hf],
      fun _ hf => by rw [Leaves, h, serve_defer htaken hf]⟩

/-- A command that is not served while something it waits for goes on. -/
theorem idles_of_waiting {b : Bool} (h : exec i s = .next { s with m := if b then s.m else s.m.serve n c f }) (hb : b = true) :
    Idles i s := by
  rw [Idles, h, if_pos hb]

theorem serves_of_not_waiting {b : Bool} (h : exec i s = .next { s with m := if b then s.m else s.m.serve n c f })
    (hb : b = false) : Serves i s n c f :=
  serves_of_exec (by rw [h, if_neg (by simp [hb])])

/-! ### CTX_DESTROY (02 R67, 18 R466) -/

section
variable {pair : Nat}

theorem idles_ctxDestroy_of_broken (h : s.m.coreBroken (s.m.espor.pair pair).ctxNo = true) : Idles (.ctxDestroy pair) s := by
  change execCtxDestroy pair s = _
  simp only [execCtxDestroy, onHw_next, h, if_true]

variable (h : s.m.coreBroken (s.m.espor.pair pair).ctxNo = false)
include h

/-- With no broken core, a command that is taken waits for the context's requests and signals. -/
theorem leaves_ctxDestroy_of_unquiet (htaken : Taken s pair ctxDestroyCmd)
    (hquiet : s.m.quietCtx (s.m.espor.pair pair).ctxNo = false) :
    Leaves (.ctxDestroy pair) s (s.m.stopThreads (s.m.espor.pair pair).ctxNo) := by
  change execCtxDestroy pair s = _
  obtain ⟨hserved, hchecks⟩ := htaken
  have hserved : s.m.maybeServed pair 0x0102 = true := hserved
  simp only [execCtxDestroy, onHw_next, h, hserved, hchecks, hquiet, Option.isNone_none, Bool.not_false, Bool.and_self,
    Bool.false_eq_true, if_false, if_true]

theorem serves_ctxDestroy
    (hquiet : s.m.quietCtx (s.m.espor.pair pair).ctxNo = true ∨ ¬Taken s pair ctxDestroyCmd) :
    Serves (.ctxDestroy pair) s pair ctxDestroyCmd s.m.ctxDestroyReply := by
  refine serves_of_exec ?_
  change execCtxDestroy pair s = _
  have hgoes : ¬(s.m.maybeServed pair 0x0102 && (s.m.headCheck (s.m.espor.pair pair) ctxDestroyCmd).isNone &&
      !s.m.quietCtx (s.m.espor.pair pair).ctxNo) = true := by
    simp only [Bool.and_eq_true, Bool.not_eq_true', Option.isNone_iff_eq_none]
    rintro ⟨htaken, hbusy⟩
    rcases hquiet with hquiet | huntaken
    · exact Bool.false_ne_true (hbusy.symm.trans hquiet)
    · exact huntaken htaken
  simp only [execCtxDestroy, onHw_next, h, Bool.false_eq_true, if_false]
  rw [if_neg hgoes]

end

/-! ### Answers (14 R364) -/

theorem answer_pair_self (m : Hw) (n : Nat) (d : Bool) (st dt : Nat) (out : List Byte) :
    (m.answer n d st dt out).espor.pair n = (m.espor.pair n).answer d st dt out := by
  simp [Hw.answer, Espor.pair, mgetD]

theorem answer_order (m : Hw) (n : Nat) (d : Bool) (st dt : Nat) (out : List Byte) :
    n ∉ (m.answer n d st dt out).espor.order := by
  simp [Hw.answer]

/-- Settles O55: each command is one `serve` of its pair, after what it waits for; an answer is one change of its pair. -/
theorem mailboxCommandsAreServed : Obligations.MailboxCommandsAreServed := by
  refine ⟨fun s pair num tableQ bad ringBad => ?_, fun m n later status detail out =>
    ⟨by rw [answer_pair_self]; rfl, answer_order m n later status detail out,
      fun _ hk => answer_pair_ne m later status detail out hk, answer_frame ..⟩⟩
  iterate 37 refine ⟨serves_of_exec rfl, ?_⟩
  refine ⟨serves_ctxDestroy, fun htaken hsound => leaves_ctxDestroy_of_unquiet hsound htaken, idles_ctxDestroy_of_broken, ?_⟩
  iterate 4 refine ⟨idles_of_waiting rfl, ?_⟩
  exact ⟨serves_of_not_waiting rfl, idles_of_waiting rfl, serves_of_not_waiting rfl, idles_of_waiting rfl,
    serves_of_not_waiting rfl, serves_of_not_waiting rfl, serves_of_not_waiting rfl, serves_of_not_waiting rfl,
    serves_of_exec rfl, fun _ => serves_of_exec rfl, serves_of_exec rfl, fun _ => serves_of_exec rfl, serves_of_exec rfl⟩

end Sys2Proof
end

section
/-! PROOF. What the configuration commands of Espor set (14 R372, R375, R379, R380): O56. -/

namespace Sys2Proof

open Machine

variable {i : Instr} {s : State} {n : Nat} {c : CmdSpec} {f : Pair → Reply} {m t : Hw} {p : Pair}

theorem leaves_of_done {out : List Byte} (h : exec i s = .next { s with m := s.m.serve n c f }) (htaken : Taken s n c)
    (hf : f (s.m.espor.pair n) = .done t out) : Leaves i s (t.answer n false 0 0 out) := by
  rw [Leaves, h, serve_done htaken hf]

theorem leaves_of_defer (h : exec i s = .next { s with m := s.m.serve n c f }) (htaken : Taken s n c)
    (hf : f (s.m.espor.pair n) = .defer t) : Leaves i s (t.answer n true 0 0 []) := by
  rw [Leaves, h, serve_defer htaken hf]

@[simp] theorem judge_nil (ok : Unit → Reply) : judge [] ok = ok () := rfl

@[simp] theorem judge_cons (b : Bool) (e : Nat × Nat) (l : List Check) (ok : Unit → Reply) :
    judge ((b, e) :: l) ok = if b then .refuse e.1 e.2 else judge l ok := by
  cases b <;> rfl

/-! ### The bytes of a response (14 R364) -/

@[simp] theorem leBytes_length (n v : Nat) : (leBytes n v).length = n := by
  induction n generalizing v with
  | zero => rfl
  | succ n ih => rw [leBytes, List.length_cons, ih]

/-- Bytes behind others that are written with them. -/
theorem rdN_wrN_append (h o : List Byte) : rdN (wrN [] 0 (h ++ o)) h.length o.length = o := by
  refine List.ext_getElem (by simp [rdN]) fun i _ hi => ?_
  simp only [rdN, List.getElem_map, List.getElem_range]
  rw [rd_wrN rfl, if_pos (by rw [List.length_append]; omega), Nat.sub_zero, List.getD_eq_getElem?_getD,
    List.getElem?_append_right (Nat.le_add_right _ _), Nat.add_sub_cancel_left, List.getElem?_eq_getElem hi,
    Option.getD_some]

/-- What an answer puts out stands behind the 32 bytes of its header. -/
theorem answer_resp (m : Hw) (n : Nat) (d : Bool) (st dt : Nat) {out : List Byte} {k : Nat} (hk : out.length = k)
    (h : k ≤ 224) : rdN ((m.answer n d st dt out).espor.pair n).resp 32 k = out := by
  subst hk
  rw [answer_pair_self]
  unfold Pair.answer
  dsimp only
  rw [List.take_of_length_le h]
  exact rdN_wrN_append (leBytes 16 _ ++ leBytes 16 _) out

/-! ### Message vectors (13 R347, 14 R379) -/

section
variable (h : HostLink) (now v kind index : Nat) (srcs : List (Nat × Nat))

theorem raiseFor_frame : { h.raiseFor now v srcs with vecs := h.vecs, sent := h.sent } = h := by
  unfold HostLink.raiseFor
  dsimp only
  split <;> rfl

theorem raiseFor_holdoff (u : Nat) : ((h.raiseFor now v srcs).vec u).holdoff = (h.vec u).holdoff := by
  unfold HostLink.raiseFor
  dsimp only
  split <;>
  · simp only [HostLink.vec, mgetD, mget_mset]
    split
    · next hu => rw [hu]; rfl
    · rfl

theorem notify_frame : { h.notify now kind index with vecs := h.vecs, sent := h.sent } = h := by
  unfold HostLink.notify
  split
  · rfl
  · exact raiseFor_frame ..

theorem notify_holdoff (u : Nat) : ((h.notify now kind index).vec u).holdoff = (h.vec u).holdoff := by
  unfold HostLink.notify
  split
  · rfl
  · exact raiseFor_holdoff ..

theorem notify_windows : (h.notify now kind index).windows = h.windows :=
  (congrArg HostLink.windows (notify_frame h now kind index) :)

theorem vecOf_notify (k ix : Nat) : (h.notify now kind index).vecOf k ix = h.vecOf k ix :=
  (congrArg (fun x : HostLink => x.vecOf k ix) (notify_frame h now kind index) :)

/-- A binding put behind those of other sources is the one that counts. -/
theorem vecOf_of_binds {x : HostLink} (bs : List Binding)
    (hx : x.binds = (bs.filter fun b => !(b.kind == kind && b.index == index)) ++ [⟨v, kind, index⟩]) :
    x.vecOf kind index = some v := by
  rw [HostLink.vecOf, hx, List.find?_append, List.find?_eq_none.2 fun b hb => by
    simpa only [Bool.not_eq_true', Bool.not_eq_true] using (List.mem_filter.1 hb).2]
  simp

/-- A source that moves is bound to its new vector. -/
theorem vecOf_move (holdoff : Nat) : (h.move now v kind index holdoff).vecOf kind index = some v := by
  unfold HostLink.move
  dsimp only
  split
  · refine vecOf_of_binds _ _ _ h.binds ?_
    exact (congrArg HostLink.binds (raiseFor_frame ..) :)
  · exact vecOf_of_binds _ _ _ h.binds rfl

theorem move_holdoff (holdoff : Nat) : ((h.move now v kind index holdoff).vec v).holdoff = holdoff := by
  unfold HostLink.move
  dsimp only
  split
  · rw [raiseFor_holdoff]
    simp [HostLink.vec, mgetD]
  · simp [HostLink.vec, mgetD]

end

/-! ### Replies of commands on a context (14 R372, R375, R380) -/

theorem ctxSetReply_eq {x : Ctx} (hx : mget m.ctxs p.ctxNo = some x) (hwait : p.arg 4 4 ≤ 60000)
    (hfast : p.arg 8 8 = 0 ∨ x.tierBytes 0 ≤ p.arg 8 8) (hslow : p.arg 16 8 = 0 ∨ x.tierBytes 1 ≤ p.arg 16 8) :
    m.ctxSetReply p = .done { m with ctxs := mset m.ctxs p.ctxNo { x with
      shares := if p.arg 0 2 = 0 then x.shares else p.arg 0 2, waitMs := if p.arg 4 4 = 0 then x.waitMs else p.arg 4 4
      limFast := if p.arg 8 8 = 0 then x.limFast else p.arg 8 8
      limSlow := if p.arg 16 8 = 0 then x.limSlow else p.arg 16 8 } } [] := by
  have hlow : ∀ {a b : Nat}, a = 0 ∨ b ≤ a → (a != 0 && decide (a < b)) = false := by
    intro a b h
    rw [Bool.and_eq_false_iff, bne_eq_false_iff_eq, decide_eq_false_iff_not, Nat.not_lt]
    exact h
  simp [Hw.ctxSetReply, hx, hlow hfast, hlow hslow, Nat.not_lt.2 hwait]

theorem ctxFaultsReply_eq {x : Ctx} (hx : mget m.ctxs p.ctxNo = some x) : ∃ out, m.ctxFaultsReply p = .done { m with
    ctxs := mset m.ctxs p.ctxNo { x with faults := x.faults.filter fun r => decide (p.arg 0 4 ≤ r.num) } } out := by
  simp [Hw.ctxFaultsReply, hx]

theorem powerOf2_pow {k a b : Nat} (ha : a ≤ k) (hb : k ≤ b) : powerOf2 (2 ^ k) (2 ^ a) (2 ^ b) = true := by
  simp [powerOf2, Nat.pow_le_pow_right, ha, hb, Nat.log2_two_pow]

/-- A submit queue as SUBQ_CREATE makes it. -/
def emptyQueue (p : Pair) (k : Nat) : SubQ :=
  { ctx := p.ctxNo, ba := p.arg 0 8, nent := 2 ^ k, head := 0#32, tail := 0#32, err := false, cur := none, posts := []
    waits := none }

theorem subqCreateReply_eq {hint q k : Nat} (hba : p.arg 0 8 % 64 = 0) (hlow : 4 ≤ k) (hhigh : k ≤ 16)
    (hk : p.arg 8 4 = 2 ^ k) (hq : chooseKey m.queues hint 256 = some q) : m.subqCreateReply false hint p =
    .done { m with queues := mset m.queues q (emptyQueue p k) } (leBytes 2 q) := by
  have hsize : powerOf2 (2 ^ k) 16 65536 = true := powerOf2_pow (a := 4) (b := 16) hlow hhigh
  simp [Hw.subqCreateReply, hba, hk, hsize, hq, emptyQueue]

theorem evringCreateReply_eq {x : Ctx} {k : Nat} (hx : mget m.ctxs p.ctxNo = some x) (hring : x.ring = none)
    (hba : p.arg 0 8 % 64 = 0) (hlow : 6 ≤ k) (hhigh : k ≤ 20) (hk : p.arg 8 4 = 2 ^ k)
    (hmd : p.arg 12 1 = 0 ∨ (p.arg 12 1 = 1 ∧ m.moduleRing = none)) : m.evringCreateReply false p = .done { m with
      ctxs := mset m.ctxs p.ctxNo { x with ring := some ⟨p.arg 0 8, 2 ^ k, 0#32, 0#32, false, 0, 0⟩ }
      moduleRing := if p.arg 12 1 = 1 then some p.ctxNo else m.moduleRing } [] := by
  have hsize : powerOf2 (2 ^ k) 64 1048576 = true := powerOf2_pow (a := 6) (b := 20) hlow hhigh
  rcases hmd with hmd | ⟨hmd, hnone⟩
  · simp [Hw.evringCreateReply, hx, hring, hba, hk, hsize, hmd]
  · simp [Hw.evringCreateReply, hx, hring, hba, hk, hsize, hmd, hnone]

/-! ### Replies of commands on the host link, ports and memory (13 R345, 12 R307, 06 R167) -/

theorem intrBindReply_eq (hlow : 1 ≤ p.arg 0 1) (hhigh : p.arg 0 1 ≤ 63) (hkind : p.arg 1 1 ≤ 3) (hoff : p.arg 4 2 ≤ 1000)
    (hun : p.arg 6 1 = 0) (hsource : m.sourceExists (p.arg 1 1) (p.arg 2 2) = true) (hfree : m.host.binds.length < 64) :
    m.intrBindReply p = .done { m with host := m.host.move m.now (p.arg 0 1) (p.arg 1 1) (p.arg 2 2) (p.arg 4 2) } [] := by
  have hothers : ∀ g : Binding → Bool, ¬64 ≤ (m.host.binds.filter g).length := fun g =>
    Nat.not_le.2 (Nat.lt_of_le_of_lt (List.length_filter_le _ _) hfree)
  simp [Hw.intrBindReply, hun, hsource, hothers, Nat.not_lt.2 hkind, Nat.not_lt.2 hoff, Nat.not_lt.2 hhigh,
    Nat.ne_of_gt hlow]

theorem apertureReply_eq (hmap : p.arg 2 1 ≤ 1) (hva : p.arg 8 8 % 2 ^ 30 = 0) (hw : p.arg 0 2 < 2 ^ (m.host.bar2 - 30))
    (hown : ∀ w, mget m.host.windows (p.arg 0 2) = some w → w.ctx = p.ctxNo) : m.apertureReply p =
    .done { m with host := { m.host with
      windows := if p.arg 2 1 = 1 then mset m.host.windows (p.arg 0 2) ⟨p.ctxNo, p.arg 8 8⟩
        else mdel m.host.windows (p.arg 0 2) } } [] := by
  unfold Hw.apertureReply
  cases hget : mget m.host.windows (p.arg 0 2) with
  | none => simp [-Nat.reducePow, Nat.not_lt.2 hmap, hva, Nat.not_le.2 hw, hget]
  | some w => simp [-Nat.reducePow, Nat.not_lt.2 hmap, hva, Nat.not_le.2 hw, hget, hown w hget]

/-- The configuration that a request of PORT_CFG gives its port. -/
def portCfgOf (p : Pair) : PortCfg :=
  { v4 := bitb (p.arg 1 1) 0, v6 := bitb (p.arg 1 1) 1, tagged := bitb (p.arg 1 1) 2, vlan := p.arg 2 2, pfx4 := p.arg 4 1
    pfx6 := p.arg 5 1, ip4 := p.arg 8 4, ip6 := p.arg 16 16 }

theorem portCfgReply_eq (hflags : p.arg 1 1 ≤ 7) (hport : p.arg 0 1 ≤ 3) (hvlan : p.arg 2 2 ≤ 4095) (h4 : p.arg 4 1 ≤ 32)
    (h6 : p.arg 5 1 ≤ 128) : m.portCfgReply p = .done (m.setPort (p.arg 0 1) { m.port (p.arg 0 1) with
      cfg := if bitb (p.arg 1 1) 0 || bitb (p.arg 1 1) 1 then some (portCfgOf p) else none }) [] := by
  simp only [Hw.portCfgReply, judge_cons, judge_nil, decide_eq_true_eq, Nat.not_lt.2 hflags, Nat.not_lt.2 hport,
    Nat.not_lt.2 hvlan, Nat.not_lt.2 h4, Nat.not_lt.2 h6, if_false]
  rfl

theorem scrubCfgReply_eq (hlow : 4 ≤ p.arg 0 2) (hhigh : p.arg 0 2 ≤ 168) (hthresh : p.arg 2 2 ≠ 0) : m.scrubCfgReply p =
    .done { m with mem := { m.mem with
      scrubHours := p.arg 0 2, scrubThresh := p.arg 2 2
      bankCorr := if p.arg 0 2 = m.mem.scrubHours then m.mem.bankCorr else [] } } [] := by
  simp [Hw.scrubCfgReply, Nat.not_lt.2 hlow, Nat.not_lt.2 hhigh, hthresh]

/-! ### Replies of commands on power (16 R419, R423, R431) -/

theorem capstanCfgReply_eq (hlow : 100 ≤ p.arg 0 4) (hhigh : p.arg 0 4 ≤ 10000000) : m.capstanCfgReply p =
    .done (m.updPower fun w => { w with wakeBound := p.arg 0 4 }) [] := by
  simp [Hw.capstanCfgReply, Nat.not_lt.2 hlow, Nat.not_lt.2 hhigh]

theorem powerLimitReply_eq (hstep : p.arg 0 2 % 25 = 0) (hlow : 400 ≤ p.arg 0 2) (hhigh : p.arg 0 2 ≤ m.fuses.clk)
    (htop : m.topFrt ≤ p.arg 0 2) (hpl : 12 ≤ p.arg 2 1) (hph : p.arg 2 1 ≤ m.fuses.pwr) : m.powerLimitReply p =
    .done (m.updPower fun w => { w with clkLimit := p.arg 0 2, pwrLimit := p.arg 2 1 * 100 }).retune [] := by
  have hclk : p.arg 0 2 ≠ 0 := by omega
  have hpw : p.arg 2 1 ≠ 0 := by omega
  simp [Hw.powerLimitReply, hclk, hpw, hstep, Nat.not_lt.2 hlow, Nat.not_lt.2 hhigh, Nat.not_lt.2 htop, Nat.not_lt.2 hpl,
    Nat.not_lt.2 hph]

theorem pstateReply_eq {pair : Nat} (ht : p.arg 0 1 = 1 ∨ p.arg 0 1 = 2) (hstreams : m.streams = []) (hjobs : m.jobs = [])
    (hfixed : m.fixedPlan = false) (hps : m.quay.ps = .run) (htarget : m.power.target = none) : m.pstateReply pair p =
    .defer (m.updPower fun w => { w with target := some (if p.arg 0 1 = 1 then .hold else .anchor, pair, p.seq) }) := by
  have hdrop : m.dropTarget = m := by simp [Hw.dropTarget, htarget]
  rcases ht with ht | ht
  · simp [Hw.pstateReply, ht, hstreams, hjobs, hfixed, hdrop, hps]
  · simp [Hw.pstateReply, ht, hstreams, hjobs, hfixed, hdrop, hps]

/-- What new clocks leave as it was: cores, module memory and the limits that the host sets. -/
def limitsOf (m : Hw) : Map Core × Memory × List Nat × Nat × Nat :=
  (m.cores, m.mem.ram, m.mem.marks, m.power.clkLimit, m.power.pwrLimit)

@[simp] theorem count_limitsOf (m : Hw) (b i w n : Nat) : limitsOf (m.count b i w n) = limitsOf m := by simp [limitsOf]
@[simp] theorem event_limitsOf (m : Hw) (code : Nat) (ctx : Option Nat) (p : List (Nat × Nat)) :
    limitsOf (m.event code ctx p) = limitsOf m := by simp [limitsOf]

@[simp] theorem showThrottle_limitsOf (m : Hw) : limitsOf m.showThrottle = limitsOf m := by
  unfold Hw.showThrottle Hw.setThrottle Hw.cause
  repeat' split
  all_goals rfl

theorem guaranteeAll_limitsOf (m : Hw) (suspended : Bool) : limitsOf (m.guaranteeAll suspended) = limitsOf m :=
  foldl_keeps limitsOf (fun d _ _ => event_limitsOf d _ _ _) m

theorem thermalRestored_limitsOf (m : Hw) : limitsOf m.thermalRestored = limitsOf m := by
  refine foldl_keeps limitsOf (fun d p _ => ?_) m
  split
  · rfl
  · exact event_limitsOf _ _ _ _

theorem finishRestore_limitsOf (m : Hw) : limitsOf m.finishRestore = limitsOf m := by
  unfold Hw.finishRestore
  dsimp only
  split
  · rw [showThrottle_limitsOf, guaranteeAll_limitsOf]
    split
    · rw [event_limitsOf]
      split
      · rw [event_limitsOf, count_limitsOf]; rfl
      · rfl
    · split
      · rw [event_limitsOf, count_limitsOf]; rfl
      · rfl
  · rfl

theorem retune_limitsOf (m : Hw) : limitsOf m.retune = limitsOf m := by
  unfold Hw.retune
  dsimp only
  rw [finishRestore_limitsOf, thermalRestored_limitsOf]
  split <;> rfl

/-! ### Firmware images (17 R441, R444) -/

/-- Flash with an authentic image in the slot that is not active, as trial. -/
def imageStaged (f : Flash) (img : List Byte) : Flash :=
  let g := if f.activeB then { f with slotA := .image img } else { f with slotB := .image img }
  { g with trial := some (!g.activeB), booted := false }

theorem imageStaged_spec (f : Flash) (img : List Byte) : (imageStaged f img).trial = some (!f.activeB) ∧
    (imageStaged f img).booted = false ∧ (imageStaged f img).activeB = f.activeB ∧
    (imageStaged f img).slot (!f.activeB) = .image img ∧ (imageStaged f img).slot f.activeB = f.slot f.activeB := by
  unfold imageStaged
  cases f.activeB
  · exact ⟨rfl, rfl, rfl, rfl, rfl⟩
  · exact ⟨rfl, rfl, rfl, rfl, rfl⟩

theorem fwStageReply_eq {pair : Nat} (img : List Byte) (h : m.flash.trial = none ∨ m.flash.booted = true) :
    ∃ (t : Hw) (status : Nat), m.fwStageReply pair p img = .defer (t.eventDone none pair p.seq 0x0602 status 0 0) ∧
    { t with flash := m.flash } = m ∧
    (imageFault m.fuses img = none → t.flash = imageStaged m.flash img) ∧
    (imageFault m.fuses img ≠ none → t.flash = m.flash) := by
  have hfree : (m.flash.trial.isSome && !m.flash.booted) = false := by
    rcases h with h | h
    · simp [h]
    · simp [h]
  unfold Hw.fwStageReply
  simp only [judge_cons, judge_nil, hfree, Bool.false_eq_true, if_false]
  cases imageFault m.fuses img with
  | some status => exact ⟨m, status, rfl, rfl, nofun, fun _ => rfl⟩
  | none => exact ⟨_, 0, rfl, rfl, fun _ => rfl, fun hne => absurd rfl hne⟩

/-! ### ECHO (14 R365) -/

theorem len_le_of_headCheck (h : m.headCheck p c = none) : p.len ≤ 224 := by
  unfold Hw.headCheck at h
  split at h
  · cases h
  · next hlen =>
    simp only [Bool.or_eq_true, decide_eq_true_eq, not_or, Nat.not_lt] at hlen
    obtain ⟨⟨⟨-, hmax⟩, -⟩, -⟩ := hlen
    exact hmax

theorem argBytes_length (p : Pair) (off n : Nat) : (p.argBytes off n).length = n := by simp [Pair.argBytes, rdN]

theorem exec_echo {pair : Nat} (h : (s.m.espor.pair pair).len ≤ 224) : exec (.echo pair) s = .next { s with
    m := s.m.serve pair (echoCmd (s.m.espor.pair pair).len) fun q =>
      .done s.m (q.argBytes 0 (s.m.espor.pair pair).len) } := by
  change execEcho pair s = _
  simp only [execEcho, onHw_next, Nat.min_eq_left h]

/-- Settles O56: each command's reply is one change, and the answer that follows touches its pair and message vectors only. -/
theorem configurationCommandsSetWhatTheyName : Obligations.ConfigurationCommandsSetWhatTheyName := by
  intro s pair p same
  refine ⟨?_, ?_, ?_, ?_, ?_, ?_, ?_, ?_, ?_, ?_, ?_, ?_, ?_, ?_⟩
  · intro x ht hx hwait hfast hslow
    exact ⟨_, leaves_of_done rfl ht (ctxSetReply_eq hx hwait hfast hslow), ⟨rfl, rfl, rfl⟩, mget_mset_self _ _ _⟩
  · intro x ht hx
    obtain ⟨out, hreply⟩ := ctxFaultsReply_eq hx
    exact ⟨_, leaves_of_done rfl ht hreply, ⟨rfl, rfl, rfl⟩, mget_mset_self _ _ _⟩
  · intro hint q k ht hba hlow hhigh hk hq
    exact ⟨_, leaves_of_done rfl ht (subqCreateReply_eq hba hlow hhigh hk hq), ⟨rfl, rfl, rfl⟩,
      answer_resp _ pair false 0 0 (leBytes_length 2 q) (by decide), mget_mset_self _ _ _⟩
  · intro x k ht hx hring hba hlow hhigh hk hmd
    exact ⟨_, leaves_of_done rfl ht (evringCreateReply_eq hx hring hba hlow hhigh hk hmd), ⟨rfl, rfl, rfl⟩,
      mget_mset_self _ _ _, rfl⟩
  · intro ht hlow hhigh hkind hoff hun hsource hfree
    exact ⟨_, leaves_of_done rfl ht (intrBindReply_eq hlow hhigh hkind hoff hun hsource hfree), ⟨rfl, rfl, rfl⟩,
      (vecOf_notify ..).trans (vecOf_move ..), (notify_holdoff ..).trans (move_holdoff ..)⟩
  · refine fun ht hva hw hown => ⟨fun hmap => ?_, fun hmap => ?_⟩
    · refine ⟨_, leaves_of_done rfl ht (apertureReply_eq (Nat.le_of_eq hmap) hva hw hown), ⟨rfl, rfl, rfl⟩, ?_⟩
      refine (congrArg (mget · _) (notify_windows ..)).trans ?_
      exact (congrArg (mget · _) (if_pos hmap)).trans (mget_mset_self _ _ _)
    · have hle := Nat.le_trans (Nat.le_of_eq hmap) (Nat.zero_le 1)
      refine ⟨_, leaves_of_done rfl ht (apertureReply_eq hle hva hw hown), ⟨rfl, rfl, rfl⟩, ?_⟩
      exact (notify_windows ..).trans (if_neg fun h => absurd (hmap.symm.trans h) Nat.zero_ne_one)
  · intro ht hflags hport hlen hvlan h4 h6
    exact ⟨_, leaves_of_done rfl ht (portCfgReply_eq hflags hport hvlan h4 h6), ⟨rfl, rfl, rfl⟩,
      congrArg Port.cfg (port_setPort _ hlen)⟩
  · intro ht hlow hhigh hthresh
    exact ⟨_, leaves_of_done rfl ht (scrubCfgReply_eq hlow hhigh hthresh), ⟨rfl, rfl, rfl⟩, rfl, rfl⟩
  · intro ht hlow hhigh
    exact ⟨_, leaves_of_done rfl ht (capstanCfgReply_eq hlow hhigh), ⟨rfl, rfl, rfl⟩, rfl⟩
  · intro ht hstep hlow hhigh htop hpl hph
    have hkept := retune_limitsOf (s.m.updPower fun w => { w with clkLimit := p.arg 0 2, pwrLimit := p.arg 2 1 * 100 })
    simp only [limitsOf, Prod.mk.injEq] at hkept
    obtain ⟨hcores, hram, hmarks, hclk, hpwr⟩ := hkept
    exact ⟨_, leaves_of_done rfl ht (powerLimitReply_eq hstep hlow hhigh htop hpl hph), ⟨hram, hmarks, hcores⟩, hclk,
      hpwr⟩
  · intro ht harg hstreams hjobs hfixed hps htarget
    exact ⟨_, leaves_of_defer rfl ht (pstateReply_eq harg hstreams hjobs hfixed hps htarget), ⟨rfl, rfl, rfl⟩, hps, rfl⟩
  · intro b ht hfree
    obtain ⟨t, status, hreply, hframe, hstaged, hkept⟩ := fwStageReply_eq (p := p) (pair := pair) (fit p.xlen b) hfree
    have hram : t.mem.ram = s.m.mem.ram := (congrArg (fun x : Hw => x.mem.ram) hframe :)
    have hmarks : t.mem.marks = s.m.mem.marks := (congrArg (fun x : Hw => x.mem.marks) hframe :)
    have hcores : t.cores = s.m.cores := (congrArg Hw.cores hframe :)
    refine ⟨_, leaves_of_defer rfl ht hreply, ⟨?_, ?_, ?_⟩, fun hgood => ?_, fun hbad => ?_⟩
    · rw [answer_mem, Hw.eventDone, event_ram, hram]
    · rw [answer_mem, Hw.eventDone, event_marks, hmarks]
    · rw [answer_cores, Hw.eventDone, event_cores, hcores]
    · rw [answer_flash, Hw.eventDone, event_flash, hstaged hgood]
      exact imageStaged_spec _ _
    · rw [answer_flash, Hw.eventDone, event_flash, hkept hbad]
  · exact fun ht => ⟨_, leaves_of_done rfl ht rfl, ⟨rfl, rfl, rfl⟩, rfl, rfl⟩
  · rintro n rfl ht
    have hlen : p.len ≤ 224 := len_le_of_headCheck ht.2
    rw [Nat.min_eq_left hlen] at ht
    exact ⟨_, leaves_of_done (exec_echo hlen) ht rfl, ⟨rfl, rfl, rfl⟩,
      answer_resp s.m pair false 0 0 (argBytes_length p 0 p.len) hlen⟩

end Sys2Proof
end

section
/-! PROOF. What a scheduling decision changes (15 R390, R391, R394): O33. -/

namespace Sys2Proof

open Machine

/-! ### Ops that count as not started (15 R394) -/

theorem untake_frame (c : Core) (h : OpHdr) : { c.untake h with bols := c.bols } = c := by
  unfold Core.untake
  split <;> rfl

/-- Giving back a take changes the bollard it was made at alone. -/
theorem untake_bol {c : Core} {h : OpHdr} {b : Nat} (hb : ¬ (h.preEn = true ∧ h.preTake = true ∧ h.preBol = b)) :
    (c.untake h).bol b = c.bol b := by
  unfold Core.untake
  split
  · next ht =>
    simp only [Bool.and_eq_true] at ht
    rw [bol_setBol, if_neg fun he => hb ⟨ht.1, ht.2, he.symm⟩]
  · rfl

theorem unstart_frame (c : Core) : { c.unstart with bols := c.bols, threads := c.threads, ops := c.ops } = c := by
  unfold Core.unstart
  refine (congrArg (fun d : Core => { d with bols := c.bols, threads := c.threads, ops := c.ops })
    (foldl_keeps (l := c.ops) (fun d : Core => { d with bols := [], threads := [], ops := [] }) (fun d o _ => ?_) c) :)
  split
  · exact (congrArg (fun d : Core => { d with bols := [], threads := [], ops := [] }) (untake_frame d o.hdr) :)
  · exact (congrArg (fun d : Core => { d with bols := [], threads := [], ops := [] }) (untake_frame d o.hdr) :)
  · rfl

/-- A bollard at which no op in progress took as it started keeps its value. -/
theorem unstart_bol {c : Core} {b : Nat}
    (h : ∀ o ∈ c.ops, ¬ (o.hdr.preEn = true ∧ o.hdr.preTake = true ∧ o.hdr.preBol = b)) : c.unstart.bol b = c.bol b := by
  refine foldl_keeps (fun d : Core => d.bol b) (fun d o ho => ?_) c
  split
  · exact untake_bol (h o ho)
  · exact untake_bol (h o ho)
  · rfl

/-- No op joins those in progress. -/
theorem unstart_ops (c : Core) : ∀ o ∈ c.unstart.ops, o ∈ c.ops := by
  have hops : ∀ (d : Core) (h : OpHdr), (d.untake h).ops = d.ops := fun d h => (congrArg Core.ops (untake_frame d h) :)
  refine List.foldlRecOn (motive := fun d : Core => ∀ o ∈ d.ops, o ∈ c.ops) c.ops _ (fun o ho => ho) fun d hd p _ => ?_
  split
  · exact fun o ho => hd o (hops d p.hdr ▸ (List.mem_filter.1 ho).1)
  · exact fun o ho => hd o (hops d p.hdr ▸ (List.mem_filter.1 ho).1)
  · exact hd

theorem unstart_of_no_ops {c : Core} (h : c.ops = []) : c.unstart = c := by
  rw [Core.unstart, h, List.foldl_nil]

/-- The core after its ops were looked through `n` times for those that count as not started. -/
def unstarted (c : Core) : Nat → Core
  | 0 => c
  | n + 1 => (unstarted c n).unstart

theorem unstarted_add (c : Core) (n p : Nat) : unstarted (unstarted c n) p = unstarted c (n + p) := by
  induction p with
  | zero => rfl
  | succ p ih => exact congrArg Core.unstart ih

theorem unstarted_keeps {β : Type} (g : Core → β) (hg : ∀ d : Core, g d.unstart = g d) (c : Core) (n : Nat) :
    g (unstarted c n) = g c := by
  induction n with
  | zero => rfl
  | succ n ih => exact (hg _).trans ih

theorem unstarted_ops (c : Core) (n : Nat) : ∀ o ∈ (unstarted c n).ops, o ∈ c.ops := by
  induction n with
  | zero => exact fun o ho => ho
  | succ n ih => exact fun o ho => ih o (unstart_ops _ o ho)

theorem unstarted_bol {c : Core} {b : Nat} (n : Nat)
    (h : ∀ o ∈ c.ops, ¬ (o.hdr.preEn = true ∧ o.hdr.preTake = true ∧ o.hdr.preBol = b)) :
    (unstarted c n).bol b = c.bol b := by
  induction n with
  | zero => rfl
  | succ n ih => exact (unstart_bol fun o ho => h o (unstarted_ops c n o ho)).trans ih

theorem unstarted_of_no_ops {c : Core} (h : c.ops = []) (n : Nat) : unstarted c n = c := by
  induction n with
  | zero => rfl
  | succ n ih => rw [unstarted, ih, unstart_of_no_ops h]

/-! ### Contexts that begin to switch (15 R386, R390) -/

/-- What of a context the begin of a switch, and being chosen, leave as it was. -/
def steady (x : Ctx) : Ctx :=
  { x with st := .created, back := .created, chosen := false, rollbackDue := false, displaced := [] }

/-- The context may be switched out at an instant for some candidate, or is being switched out; the shortest time that keeps
it on its cores is that of 15 R390 against an interactive candidate. -/
def Yields (now : Nat) (x : Ctx) : Prop :=
  x.st = .switching ∨
    (x.part = none ∧ (x.passive = true ∨ x.quantumUp = true ∨ x.residentAt + 2000000 ≤ now))

/-- Context `x` is now `y`: chosen or not, in the state it had, or in a switch that it could be made to begin. -/
structure MayBegin (now : Nat) (x y : Ctx) : Prop where
  steady : steady y = steady x
  st : y.st = x.st ∨ (y.st = .switching ∧ Yields now x)

theorem yields_of_preemptible {x c : Ctx} {now : Nat} (hpart : x.part = none) (h : x.preemptible c now = true) :
    Yields now x := by
  have hquantum : 20000000 ≤ x.quantum := Nat.le_max_left ..
  simp only [Ctx.preemptible, Bool.or_eq_true, Bool.and_eq_true, decide_eq_true_eq] at h
  refine .inr ⟨hpart, ?_⟩
  rcases h with ((h | h) | h) | h
  · exact .inl h
  · exact .inr (.inl h)
  · exact .inr (.inr (by omega))
  · exact .inr (.inr h.2)

namespace MayBegin

variable {now : Nat} {x y z : Ctx}

theorem refl (now : Nat) (x : Ctx) : MayBegin now x x := ⟨rfl, .inl rfl⟩

theorem quantumUp (h : MayBegin now x y) : y.quantumUp = x.quantumUp := (congrArg Ctx.quantumUp h.steady :)

theorem yields_iff_of_st (h : MayBegin now x y) (hst : y.st = x.st) : Yields now y ↔ Yields now x := by
  have hpart : y.part = x.part := (congrArg Ctx.part h.steady :)
  have hres : y.residentAt = x.residentAt := (congrArg Ctx.residentAt h.steady :)
  rw [Yields, Yields, Ctx.passive, Ctx.passive, hst, hpart, h.quantumUp, hres]

/-- What could be made to switch, or switches, still can or does. -/
theorem yields (h : MayBegin now x y) (hx : Yields now x) : Yields now y := by
  rcases h.st with hst | ⟨hst, -⟩
  · exact (h.yields_iff_of_st hst).2 hx
  · exact .inl hst

theorem trans (h : MayBegin now x y) (h' : MayBegin now y z) : MayBegin now x z := by
  refine ⟨h'.steady.trans h.steady, ?_⟩
  rcases h.st with hst | ⟨hst, hx⟩
  · exact h'.st.imp (fun hz => hz.trans hst) fun ⟨hz, hy⟩ => ⟨hz, (h.yields_iff_of_st hst).1 hy⟩
  · exact .inr ⟨h'.st.elim (fun hz => hz.trans hst) And.left, hx⟩

end MayBegin

theorem mget_updCtx (m : Hw) (c d : Nat) (f : Ctx → Ctx) :
    mget (m.updCtx c f).ctxs d = if d = c then (mget m.ctxs c).map f else mget m.ctxs d := by
  unfold Hw.updCtx
  split
  · next h =>
    split
    · next hd => rw [hd, h]; rfl
    · rfl
  · next x h =>
    rw [mget_mset, h]
    rfl

/-! ### A decision as a whole -/

/-- `t` is `m` after a decision: contexts may begin to switch, ops that have not passed their wait count as not started on some
cores, and the occasion may be over. -/
structure Decided (m t : Hw) : Prop where
  rest : { t with ctxs := m.ctxs, cores := m.cores, occasion := m.occasion } = m
  cores : ∀ k, ∃ n, t.core k = unstarted (m.core k) n
  contexts : ∀ c x, mget m.ctxs c = some x → ∃ y, mget t.ctxs c = some y ∧ MayBegin m.now x y

namespace Decided

variable {m t u : Hw}

theorem refl (m : Hw) : Decided m m := ⟨rfl, fun _ => ⟨0, rfl⟩, fun _ x hx => ⟨x, hx, .refl _ x⟩⟩

theorem now (h : Decided m t) : t.now = m.now := (congrArg Hw.now h.rest :)
theorem mem (h : Decided m t) : t.mem = m.mem := (congrArg Hw.mem h.rest :)
theorem quay (h : Decided m t) : t.quay = m.quay := (congrArg Hw.quay h.rest :)
theorem plans (h : Decided m t) : t.plans = m.plans := (congrArg Hw.plans h.rest :)
theorem queues (h : Decided m t) : t.queues = m.queues := (congrArg Hw.queues h.rest :)
theorem saves (h : Decided m t) : t.saves = m.saves := (congrArg Hw.saves h.rest :)

theorem trans (h : Decided m t) (h' : Decided t u) : Decided m u where
  rest := ((congrArg (fun d : Hw => { d with ctxs := m.ctxs, cores := m.cores, occasion := m.occasion }) h'.rest).trans
    h.rest :)
  cores k := by
    obtain ⟨n, hn⟩ := h.cores k
    obtain ⟨p, hp⟩ := h'.cores k
    exact ⟨n + p, by rw [hp, hn, unstarted_add]⟩
  contexts c x hx := by
    obtain ⟨y, hy, hxy⟩ := h.contexts c x hx
    obtain ⟨z, hz, hyz⟩ := h'.contexts c y hy
    exact ⟨z, hz, hxy.trans (h.now ▸ hyz)⟩

theorem foldl {α : Type} {f : Hw → α → Hw} (hf : ∀ d x, Decided d (f d x)) (l : List α) (m : Hw) :
    Decided m (l.foldl f m) := by
  induction l generalizing m with
  | nil => exact refl m
  | cons x l ih => exact (hf m x).trans (ih (f m x))

theorem unstartCore (m : Hw) (k : Nat) : Decided m (m.updCore k Core.unstart) := by
  refine ⟨rfl, fun j => ?_, fun _ x hx => ⟨x, hx, .refl _ x⟩⟩
  by_cases h : j = k
  · exact ⟨1, h ▸ core_updCore_same m k Core.unstart⟩
  · exact ⟨0, core_updCore_ne m Core.unstart h⟩

theorem setCtx {c : Nat} {x y : Ctx} (hx : mget m.ctxs c = some x) (h : MayBegin m.now x y) :
    Decided m { m with ctxs := mset m.ctxs c y } := by
  refine ⟨rfl, fun _ => ⟨0, rfl⟩, fun d z hz => ?_⟩
  rw [mget_mset]
  split
  · next hd =>
    rw [hd, hx] at hz
    exact ⟨y, rfl, Option.some.inj hz ▸ h⟩
  · exact ⟨z, hz, .refl _ z⟩

theorem beginOut {y : Nat} {x : Ctx} (hx : mget m.ctxs y = some x) (h : Yields m.now x) : Decided m (m.beginOut y) := by
  unfold Hw.beginOut
  rw [hx]
  refine trans ?_ (foldl (fun d k => unstartCore d k) _ _)
  exact setCtx hx ⟨rfl, .inr ⟨rfl, h⟩⟩

/-- Several switch-outs begin; each context may yield before the first. -/
theorem beginOuts {l : List Nat} (h : ∀ y ∈ l, ∃ x, mget m.ctxs y = some x ∧ Yields m.now x) :
    Decided m (l.foldl (fun m y => m.beginOut y) m) := by
  induction l generalizing m with
  | nil => exact refl m
  | cons y l ih =>
    obtain ⟨x, hx, hyields⟩ := h y List.mem_cons_self
    have hfirst := beginOut hx hyields
    refine hfirst.trans (ih fun w hw => ?_)
    obtain ⟨z, hz, hzy⟩ := h w (List.mem_cons_of_mem _ hw)
    obtain ⟨z', hz', hbegin⟩ := hfirst.contexts w z hz
    exact ⟨z', hz', hfirst.now ▸ hbegin.yields hzy⟩

theorem consider (m : Hw) (c : Nat) : Decided m (m.consider c) := by
  unfold Hw.consider
  split
  · exact refl m
  · next x hx =>
    dsimp only
    split
    · next hchoose =>
      obtain ⟨-, hway⟩ := Bool.and_eq_true_iff.1 hchoose
      have houts : Decided m ((m.inWay c).foldl (fun m y => m.beginOut y) m) := beginOuts fun y hy => by
        have hy := List.all_eq_true.1 hway y hy
        split at hy
        · next z hz =>
          simp only [Bool.and_eq_true, Option.isNone_iff_eq_none] at hy
          obtain ⟨⟨⟨-, hpart⟩, hpre⟩, -⟩ := hy
          exact ⟨z, hz, yields_of_preemptible hpart hpre⟩
        · cases hy
      refine houts.trans ?_
      unfold Hw.updCtx
      split
      · exact refl _
      · next w hw => exact setCtx hw ⟨rfl, .inl rfl⟩
    · exact refl m

theorem decide_ (m : Hw) : Decided m m.decide_ := by
  unfold Hw.decide_
  split
  · refine trans (t := { m with occasion := false }) ⟨rfl, fun _ => ⟨0, rfl⟩, fun _ x hx => ⟨x, hx, .refl _ x⟩⟩ ?_
    exact foldl (fun d c => consider d c) _ _
  · exact refl m

/-- What of a core no op that counts as not started changes is as before. -/
theorem core_keeps {β : Type} (h : Decided m t) (g : Core → β) (hg : ∀ d : Core, g d.unstart = g d) (k : Nat) :
    g (t.core k) = g (m.core k) := by
  obtain ⟨n, hn⟩ := h.cores k
  rw [hn, unstarted_keeps g hg]

theorem bol (h : Decided m t) {k b : Nat}
    (hb : ∀ o ∈ (m.core k).ops, ¬ (o.hdr.preEn = true ∧ o.hdr.preTake = true ∧ o.hdr.preBol = b)) :
    (t.core k).bol b = (m.core k).bol b := by
  obtain ⟨n, hn⟩ := h.cores k
  rw [hn, unstarted_bol n hb]

/-- A core without ops in progress is as before. -/
theorem core_of_no_ops (h : Decided m t) {k : Nat} (hk : (m.core k).ops = []) : t.core k = m.core k := by
  obtain ⟨n, hn⟩ := h.cores k
  exact hn.trans (unstarted_of_no_ops hk n)

end Decided

/-! ### The two commands -/

theorem decide_of_unready {m : Hw} (h : m.quay.st ≠ .ready ∨ m.quay.ps ≠ .run) : m.decide_ = m := by
  have hno : ¬ (m.quay.st == .ready && m.quay.ps == .run) = true := by
    simpa [Decidable.imp_iff_not_or] using h
  rw [Hw.decide_, if_neg hno]

theorem exec_schedulingDecision (s : State) : exec .schedulingDecision s =
    .next { s with m := if s.m.occasion then s.m.decide_ else s.m } := rfl

theorem exec_quantumExpiry {s : State} {c : Nat} {x : Ctx} (hx : mget s.m.ctxs c = some x) (hst : x.st = .resident)
    (hpart : x.part = none) (hq : x.residentAt + x.quantum ≤ s.m.now) : exec (.quantumExpiry c) s =
      .next { s with m := (s.m.updCtx c fun x => { x with quantumUp := true }).decide_ } := by
  change execQuantumExpiry c s = _
  simp [execQuantumExpiry, hx, hst, hpart, hq]

/-- Settles O33: a decision is switch-outs that begin, each of a context that may yield, and contexts that are chosen. -/
theorem decisionsOnlyBeginSwitches : Obligations.DecisionsOnlyBeginSwitches := by
  refine ⟨fun s => ⟨fun h => ?idle, _, exec_schedulingDecision s, ?decision⟩, fun s c x hx hst hpart hq => ?expiry⟩
  case idle =>
    refine (exec_schedulingDecision s).trans ?_
    split
    · next ho =>
      rw [decide_of_unready (by simpa [ho] using h)]
    · rfl
  case decision =>
    have hd : Decided s.m (if s.m.occasion then s.m.decide_ else s.m) := by
      split
      · exact .decide_ s.m
      · exact .refl s.m
    refine ⟨hd.mem, hd.quay, hd.plans, hd.queues, fun k => ⟨?_, ?_, fun b hb => hd.bol hb⟩, fun c x hx => ?_⟩
    · exact hd.core_keeps Core.hold (fun d => (congrArg Core.hold (unstart_frame d) :)) k
    · exact hd.core_keeps Core.ctx (fun d => (congrArg Core.ctx (unstart_frame d) :)) k
    · obtain ⟨y, hy, hbegin⟩ := hd.contexts c x hx
      refine ⟨y, hy, ?_⟩
      rcases hbegin.st with hsame | ⟨hout, hswitching | ⟨hpart, -⟩⟩
      · exact .inl hsame
      · exact .inl (hout.trans hswitching.symm)
      · exact .inr ⟨hout, hpart⟩
  case expiry =>
    have hup : mget (s.m.updCtx c fun x => { x with quantumUp := true }).ctxs c = some { x with quantumUp := true } := by
      rw [mget_updCtx, if_pos rfl, hx]; rfl
    have hd := Decided.decide_ (s.m.updCtx c fun x => { x with quantumUp := true })
    obtain ⟨y, hy, hbegin⟩ := hd.contexts c _ hup
    exact ⟨_, exec_quantumExpiry hx hst hpart hq, by rw [hy]; exact congrArg some hbegin.quantumUp,
      hd.mem.trans (updCtx_mem s.m c _)⟩

end Sys2Proof
end

section
/-! PROOF. The switch-out of a drained context (15 R393, R394): O34. -/

namespace Sys2Proof

open Machine

theorem mget_map {α : Type} {f : Nat × α → Nat × α} (hf : ∀ e, (f e).1 = e.1) (l : Map α) (k : Nat) :
    mget (l.map f) k = (mget l k).map fun v => (f (k, v)).2 := by
  induction l with
  | nil => rfl
  | cons e t ih =>
    obtain ⟨j, v⟩ := e
    simp only [List.map_cons, mget, hf]
    split
    · next h => rw [h, Option.map_some]
    · exact ih

theorem saveKey_ne (c : Nat) {k j : Nat} (h : j ≠ k) : saveKey c j ≠ saveKey c k := by
  simpa [saveKey] using h

theorem updCtx_frame (m : Hw) (c : Nat) (f : Ctx → Ctx) : { m.updCtx c f with ctxs := m.ctxs } = m := by
  unfold Hw.updCtx
  split <;> rfl

@[simp] theorem updCtx_saves (m : Hw) (c : Nat) (f : Ctx → Ctx) : (m.updCtx c f).saves = m.saves :=
  (congrArg Hw.saves (updCtx_frame m c f) :)

theorem ctxCores_nodup (m : Hw) (c : Nat) : (m.ctxCores c).Nodup := by
  unfold Hw.ctxCores
  split
  · exact .nil
  · exact List.nodup_range.filter _

/-- A list without repetition around one of its elements. -/
theorem exists_around_of_nodup {l : List Nat} {k : Nat} (hl : l.Nodup) (hk : k ∈ l) :
    ∃ before after, l = before ++ k :: after ∧ k ∉ before ∧ k ∉ after := by
  obtain ⟨before, after, rfl⟩ := List.append_of_mem hk
  obtain ⟨-, hrest, hapart⟩ := List.nodup_append.1 hl
  exact ⟨before, after, rfl, fun h => hapart k h k List.mem_cons_self rfl, (List.nodup_cons.1 hrest).1⟩

/-! ### Counts of a module without a module ring -/

section
variable {m : Hw} (h : m.moduleRing = none)
include h

/-- An event of no context finds no ring where no module ring is: it is counted. -/
theorem putRing_of_no_ring (code p : Nat) : { (m.putRing code none p).1 with counters := m.counters } = m := by
  have hnone : m.ringOwner none = none := by simp [Hw.ringOwner, h]
  rw [Hw.putRing, hnone]

theorem toRing_of_no_ring (code p : Nat) : { m.toRing code none p with counters := m.counters } = m := by
  have hfirst := putRing_of_no_ring h code p
  unfold Hw.toRing
  dsimp only
  split
  · have hring : (m.putRing code none p).1.moduleRing = none := (congrArg Hw.moduleRing hfirst :).trans h
    exact ((congrArg (fun d : Hw => { d with counters := m.counters }) (putRing_of_no_ring hring 0x0681 _)).trans hfirst :)
  · exact hfirst

theorem count_of_no_ring (b i w n : Nat) : { m.count b i w n with counters := m.counters } = m := by
  unfold Hw.count
  dsimp only
  split
  · exact (congrArg (fun d : Hw => { d with counters := m.counters })
      (toRing_of_no_ring (m := { m with counters := (countAdd m.counters b i w n).1 }) h 0x0681 _) :)
  · rfl

end

/-! ### One core leaves -/

/-- What of a context the account of displaced bytes leaves. -/
def undisplaced (x : Ctx) : Ctx := { x with displaced := [] }

/-- A map that changes the displaced bytes of contexts at most. -/
theorem mget_map_undisplaced {f : Nat × Ctx → Nat × Ctx} (hkey : ∀ e, (f e).1 = e.1)
    (hf : ∀ e, undisplaced (f e).2 = undisplaced e.2) (l : Map Ctx) (d : Nat) :
    (mget (l.map f) d).map undisplaced = (mget l d).map undisplaced := by
  rw [mget_map hkey, Option.map_map]
  exact congrArg (Option.map · _) (funext fun v => hf (d, v))

/-- What the slipway saves of core `k` as context `c` leaves it. -/
def leftBy (m : Hw) (c : Nat) (bare : Bool) (k : Nat) : CoreSave :=
  if bare then (m.core k).saveBare else (m.core k).save (m.bindingImages c k (m.core k).acc)

section
variable (m : Hw) (c : Nat) (bare : Bool) (k : Nat)

theorem outCore_bytesOf : bytesOf (m.outCore c bare k) = bytesOf m := (Booked.count _ _ _ _ _).bytesOf

theorem outCore_core (j : Nat) : (m.outCore c bare k).core j =
    if j = k then { Core.cleared with inbox := (m.core k).inbox } else m.core j := by
  rw [Hw.outCore, (Booked.count _ _ _ _ _).core, Hw.clearCore, core_setCore]
  rfl

theorem outCore_saves : (m.outCore c bare k).saves = mset m.saves (saveKey c k) (leftBy m c bare k) := by
  rw [Hw.outCore, count_saves]
  rfl

/-- As a core leaves, its bytes are put to the account of the contexts chosen for its place. -/
theorem outCore_eq : ∃ (f : Nat × Ctx → Nat × Ctx) (n : Nat), (∀ e, (f e).1 = e.1) ∧
    (∀ e, undisplaced (f e).2 = undisplaced e.2) ∧ m.outCore c bare k =
      ({ m with saves := mset m.saves (saveKey c k) (leftBy m c bare k), ctxs := m.ctxs.map f }.clearCore k).count
        8 c (6 + k / 64) n := by
  refine ⟨_, _, fun e => ?_, fun e => ?_, rfl⟩
  all_goals
    dsimp only
    split <;> rfl

theorem outCore_known (d : Nat) : (mget (m.outCore c bare k).ctxs d).isSome = (mget m.ctxs d).isSome := by
  obtain ⟨f, n, hkey, -, hout⟩ := outCore_eq m c bare k
  rw [hout]
  have hcount := congrArg Option.isSome ((Booked.count ({ m with
    saves := mset m.saves (saveKey c k) (leftBy m c bare k), ctxs := m.ctxs.map f }.clearCore k) 8 c (6 + k / 64)
    n).contexts d)
  rw [Option.isSome_map, Option.isSome_map] at hcount
  rw [hcount]
  exact (congrArg Option.isSome (mget_map hkey m.ctxs d)).trans Option.isSome_map

end

/-! ### What the binding images depend on -/

/-- `t` is `m` but for cores, what is saved of them, counters, and the account of displaced bytes. -/
structure MovedOnly (m t : Hw) : Prop where
  rest : { t with ctxs := m.ctxs, cores := m.cores, saves := m.saves, counters := m.counters } = m
  contexts : ∀ d, (mget t.ctxs d).map undisplaced = (mget m.ctxs d).map undisplaced

theorem locOf_eq (m : Hw) (c va : Nat) : m.locOf c va = ((mget m.ctxs c).bind fun x => x.walk va).map fun e =>
    (e.1, e.2, m.pageLoc c e.1.pdi e.2 (va - e.1.va)) := by
  unfold Hw.locOf
  cases mget m.ctxs c with
  | none => rfl
  | some x =>
    dsimp only [Option.bind_some]
    cases x.walk va <;> rfl

namespace MovedOnly

variable {m t u : Hw}

theorem refl (m : Hw) : MovedOnly m m := ⟨rfl, fun _ => rfl⟩

theorem trans (h : MovedOnly m t) (h' : MovedOnly t u) : MovedOnly m u where
  rest := ((congrArg (fun d : Hw => { d with ctxs := m.ctxs, cores := m.cores, saves := m.saves, counters := m.counters })
    h'.rest).trans h.rest :)
  contexts d := (h'.contexts d).trans (h.contexts d)

theorem moduleRing (h : MovedOnly m t) : t.moduleRing = m.moduleRing := (congrArg Hw.moduleRing h.rest :)

theorem outCore (h : m.moduleRing = none) (c : Nat) (bare : Bool) (k : Nat) : MovedOnly m (m.outCore c bare k) := by
  obtain ⟨f, n, hkey, hf, hout⟩ := outCore_eq m c bare k
  have hcount := count_of_no_ring (m := { m with saves := mset m.saves (saveKey c k) (leftBy m c bare k)
                                                 ctxs := m.ctxs.map f }.clearCore k) h 8 c (6 + k / 64) n
  rw [hout]
  refine ⟨(congrArg (fun d : Hw => { d with ctxs := m.ctxs, cores := m.cores, saves := m.saves, counters := m.counters })
    hcount :), fun d => ?_⟩
  exact (congrArg (fun x : Hw => (mget x.ctxs d).map undisplaced) hcount :).trans (mget_map_undisplaced hkey hf m.ctxs d)

theorem outCores (h : m.moduleRing = none) (c : Nat) (bare : Bool) (l : List Nat) :
    MovedOnly m (l.foldl (fun m k => m.outCore c bare k) m) := by
  induction l generalizing m with
  | nil => exact refl m
  | cons k l ih =>
    have hfirst := outCore h c bare k
    exact hfirst.trans (ih (hfirst.moduleRing.trans h))

/-- What of a context does not depend on its displaced bytes. -/
theorem bind {α : Type} (h : MovedOnly m t) {g : Ctx → Option α} (hg : ∀ x, g (undisplaced x) = g x) (d : Nat) :
    (mget t.ctxs d).bind g = (mget m.ctxs d).bind g := by
  have hbind := congrArg (Option.bind · g) (h.contexts d)
  simpa only [Option.bind_map, Function.comp_def, hg] using hbind

theorem locOf (h : MovedOnly m t) (c va : Nat) : t.locOf c va = m.locOf c va := by
  have hplace : t.pageLoc = m.pageLoc := (congrArg Hw.pageLoc h.rest :)
  rw [locOf_eq, locOf_eq, h.bind fun _ => rfl, hplace]

theorem pointerWord (h : MovedOnly m t) (off : Nat) : pointerWord t off = pointerWord m off := by
  have hjobs : t.jobs = m.jobs := (congrArg Hw.jobs h.rest :)
  have hqueues : t.queues = m.queues := (congrArg Hw.queues h.rest :)
  simp only [Machine.pointerWord, hjobs, hqueues, h.bind (g := Ctx.ring) fun _ => rfl]

theorem quayWord (h : MovedOnly m t) (off : Nat) : quayWord t off = quayWord m off := by
  have hfixed : quayFixed t off = quayFixed m off := (congrArg (fun d : Hw => quayFixed d off) h.rest :)
  have hreset : t.inReset = m.inReset := (congrArg Hw.inReset h.rest :)
  have hnow : t.now = m.now := (congrArg Hw.now h.rest :)
  have hespor : t.espor = m.espor := (congrArg Hw.espor h.rest :)
  have hquay : t.quay = m.quay := (congrArg Hw.quay h.rest :)
  have hsnap : t.snap = m.snap := (congrArg Hw.snap h.rest :)
  simp only [Machine.quayWord, queueWord, hfixed, hreset, hnow, hespor, hquay, hsnap, h.pointerWord]

theorem readLoc (h : MovedOnly m t) (l : Loc) (n : Nat) : t.readLoc l n = m.readLoc l n := by
  have hmem : t.mem = m.mem := (congrArg Hw.mem h.rest :)
  cases l with
  | ram k => simp only [Hw.readLoc, hmem]
  | host a => simp only [Hw.readLoc, hmem]
  | quay o => simp only [Hw.readLoc, quayByte, h.quayWord]

theorem peek (h : MovedOnly m t) (c va n : Nat) : t.peek c va n = m.peek c va n := by
  simp only [Hw.peek, h.locOf, h.readLoc]

theorem streamFrom (h : MovedOnly m t) (c n a : Nat) : t.streamFrom c n a = m.streamFrom c n a := by
  induction n generalizing a with
  | zero => rfl
  | succ n ih => simp only [Hw.streamFrom, h.peek, ih]

theorem bindingImages (h : MovedOnly m t) (c k : Nat) (acc : Map Word32) :
    t.bindingImages c k acc = m.bindingImages c k acc := by
  have hplan : t.planOn c k = m.planOn c k := (congrArg (fun d : Hw => d.planOn c k) h.rest :)
  have hstreams : t.streamsOn c k = m.streamsOn c k := by simp only [Hw.streamsOn, hplan, h.streamFrom]
  rw [Hw.bindingImages, Hw.bindings, hstreams]
  rfl

end MovedOnly

/-! ### The cores of a context leave one by one -/

/-- The module as the context has left these cores. -/
def movedOut (m : Hw) (c : Nat) (bare : Bool) (l : List Nat) : Hw := l.foldl (fun m k => m.outCore c bare k) m

section
variable (m : Hw) (c : Nat) (bare : Bool) {l : List Nat} {k : Nat}

theorem movedOut_bytesOf (l : List Nat) : bytesOf (movedOut m c bare l) = bytesOf m :=
  foldl_keeps bytesOf (fun d j _ => outCore_bytesOf d c bare j) m

theorem movedOut_known (l : List Nat) (d : Nat) : (mget (movedOut m c bare l).ctxs d).isSome = (mget m.ctxs d).isSome :=
  foldl_keeps (fun t : Hw => (mget t.ctxs d).isSome) (fun t j _ => outCore_known t c bare j d) m

theorem movedOut_core_of_not_mem (hk : k ∉ l) : (movedOut m c bare l).core k = m.core k :=
  foldl_keeps (fun d : Hw => d.core k)
    (fun d j hj => (outCore_core d c bare j k).trans (if_neg fun he : k = j => hk (he ▸ hj))) m

theorem movedOut_saves_of_not_mem (hk : k ∉ l) :
    mget (movedOut m c bare l).saves (saveKey c k) = mget m.saves (saveKey c k) :=
  foldl_keeps (fun d : Hw => mget d.saves (saveKey c k))
    (fun d j hj => by rw [outCore_saves, mget_mset_ne _ _ (saveKey_ne c fun he : k = j => hk (he ▸ hj))]) m

/-- A core of the set is cleared, and what the slipway holds of it is what it held. -/
theorem movedOut_at (hl : l.Nodup) (hk : k ∈ l) : ∃ d : Hw, d.core k = m.core k ∧
    (m.moduleRing = none → MovedOnly m d) ∧ mget (movedOut m c bare l).saves (saveKey c k) = some (leftBy d c bare k) ∧
    (movedOut m c bare l).core k = { Core.cleared with inbox := (m.core k).inbox } := by
  obtain ⟨before, after, rfl, hbefore, hafter⟩ := exists_around_of_nodup hl hk
  have hsplit : movedOut m c bare (before ++ k :: after) =
      movedOut ((movedOut m c bare before).outCore c bare k) c bare after := by
    simp only [movedOut, List.foldl_append, List.foldl_cons]
  have hcore := movedOut_core_of_not_mem m c bare hbefore
  refine ⟨movedOut m c bare before, hcore, fun h => .outCores h c bare before, ?_, ?_⟩
  · rw [hsplit, movedOut_saves_of_not_mem _ c bare hafter, outCore_saves, mget_mset_self]
  · rw [hsplit, movedOut_core_of_not_mem _ c bare hafter, outCore_core, if_pos rfl, hcore]

end

/-! ### The command -/

/-- The context with its cores left: in the state it goes back to. -/
def switchedOut (m : Hw) (c : Nat) (bare : Bool) : Hw :=
  (movedOut m c bare (m.ctxCores c)).updCtx c fun x => { x with st := x.back, quantumUp := false }

theorem exec_switchOut {s : State} {c : Nat} {x : Ctx} (hx : mget s.m.ctxs c = some x) (hst : x.st = .switching)
    (hdet : x.detected = []) (hclk : s.m.clocked = true) (hdrained : s.m.drained c = true)
    (hwhole : ∀ k ∈ s.m.ctxCores c, (s.m.core k).broken = none) (hdue : x.rollbackDue = false ∨ x.back = .stopped) :
    exec (.switchOut c) s = .next { s with m := (switchedOut s.m c (x.back == .stopped)).decide_ } := by
  have hgoes : (x.st == .switching && x.detected.isEmpty && s.m.clocked && s.m.drained c
      && (s.m.ctxCores c).all fun k => (s.m.core k).broken.isNone) = true := by
    simpa [hst, hdet, hclk, hdrained] using hwhole
  have hplain : (x.rollbackDue && !(x.back == .stopped)) = false := by
    rcases hdue with h | h
    · simp [h]
    · simp [h]
  change execSwitchOut c s = _
  simp only [execSwitchOut, onHw_next, hx, hgoes, hplain, if_true, Bool.false_eq_true, if_false]
  rfl

/-- Settles O34: each core of the set is saved as it stands and cleared, and the decision that follows touches no cleared core. -/
theorem switchOutSavesThenClears : Obligations.SwitchOutSavesThenClears := by
  intro s c x hx hst hdet hclk hdrained hwhole hdue
  refine ⟨_, exec_switchOut hx hst hdet hclk hdrained hwhole hdue, ?_⟩
  generalize hbare : (x.back == CtxState.stopped) = bare
  have hd := Decided.decide_ (switchedOut s.m c bare)
  have hbytes : bytesOf (switchedOut s.m c bare).decide_ = bytesOf s.m := by
    rw [bytesOf, hd.mem, switchedOut, updCtx_mem]
    exact movedOut_bytesOf s.m c bare _
  have hup : (mget (switchedOut s.m c bare).decide_.ctxs c).map Ctx.quantumUp = some false := by
    have hsome := movedOut_known s.m c bare (s.m.ctxCores c) c
    rw [hx, Option.isSome_some, Option.isSome_iff_exists] at hsome
    obtain ⟨y, hy⟩ := hsome
    obtain ⟨z, hz, hbegin⟩ := hd.contexts c { y with st := y.back, quantumUp := false } (by
      rw [switchedOut, mget_updCtx, if_pos rfl, hy, Option.map_some])
    rw [hz]
    exact congrArg some hbegin.quantumUp
  refine ⟨congrArg Prod.fst hbytes, congrArg Prod.snd hbytes, hup, fun k hk => ?_⟩
  obtain ⟨d, hcore, honly, hsave, hcleared⟩ := movedOut_at s.m c bare (ctxCores_nodup s.m c) hk
  rw [← updCtx_core _ c (fun x => { x with st := x.back, quantumUp := false })] at hcleared
  have hleft := (hd.core_of_no_ops (congrArg Core.ops hcleared :)).trans hcleared
  have hsaved : mget (switchedOut s.m c bare).decide_.saves (saveKey c k) = some (leftBy d c bare k) := by
    rw [hd.saves, switchedOut, updCtx_saves, hsave]
  rw [hleft, hsaved]
  refine ⟨rfl, rfl, fun _ => rfl, fun hstop => ?_, fun hgo => ⟨d.bindingImages c k (s.m.core k).acc, ?_, fun hring => ?_⟩⟩
  · rw [← hbare, beq_iff_eq.2 hstop, leftBy, if_pos rfl, hcore]
  · rw [← hbare, beq_eq_false_iff_ne.2 hgo, leftBy, hcore]
    rfl
  · exact (honly hring).bindingImages c k _

end Sys2Proof
end

section
/-! PROOF. The switch-in of a chosen context (15 R394, R395): O35. -/

namespace Sys2Proof

open Machine

variable {m : Hw} {c k : Nat}

theorem mget_mdel_ne {α : Type} (l : Map α) {k j : Nat} (h : j ≠ k) : mget (mdel l k) j = mget l j := by
  induction l with
  | nil => rfl
  | cons e t ih =>
    obtain ⟨i, v⟩ := e
    rw [mdel]
    split
    · next hi => rw [mget, if_neg fun he => h (he.symm.trans hi)]
    · simp only [mget, ih]

@[simp] theorem updCtx_now (m : Hw) (c : Nat) (f : Ctx → Ctx) : (m.updCtx c f).now = m.now :=
  (congrArg Hw.now (updCtx_frame m c f) :)

/-! ### The cores of a context come back one by one -/

/-- What the slipway saved of core `k` for context `c`. -/
def savedFor (m : Hw) (c k : Nat) : CoreSave := mgetD m.saves (saveKey c k) CoreSave.empty

theorem inCore_core (m : Hw) (c k j : Nat) : (m.inCore c k).1.core j =
    if j = k then { (savedFor m c k).restore c m.now (m.cyc k) with inbox := (m.core k).inbox } else m.core j := by
  rw [Hw.inCore, (Booked.count _ _ _ _ _).core, core_setCore]
  rfl

theorem inCore_saves (m : Hw) (c k : Nat) : (m.inCore c k).1.saves = mdel m.saves (saveKey c k) := by
  rw [Hw.inCore, count_saves]
  rfl

theorem inCore_ram (m : Hw) (c k : Nat) : (m.inCore c k).1.mem.ram = m.mem.ram := by
  rw [Hw.inCore, count_ram]
  rfl

theorem inCore_now (m : Hw) (c k : Nat) : (m.inCore c k).1.now = m.now := (Booked.count _ _ _ _ _).now

theorem inCore_held (m : Hw) (c k d : Nat) :
    (mget (m.inCore c k).1.ctxs d).map Ctx.held = (mget m.ctxs d).map Ctx.held :=
  (Posted.ofBooked (.count _ _ _ _ _)).ctx (fun _ => rfl) d

/-- The module as the context is back on these cores. -/
def broughtIn (m : Hw) (c : Nat) (l : List Nat) : Hw := l.foldl (fun m k => (m.inCore c k).1) m

theorem broughtIn_ram (m : Hw) (c : Nat) (l : List Nat) : (broughtIn m c l).mem.ram = m.mem.ram :=
  foldl_keeps (fun d : Hw => d.mem.ram) (fun d j _ => inCore_ram d c j) m

theorem broughtIn_now (m : Hw) (c : Nat) (l : List Nat) : (broughtIn m c l).now = m.now :=
  foldl_keeps Hw.now (fun d j _ => inCore_now d c j) m

theorem broughtIn_held (m : Hw) (c : Nat) (l : List Nat) (d : Nat) :
    (mget (broughtIn m c l).ctxs d).map Ctx.held = (mget m.ctxs d).map Ctx.held :=
  foldl_keeps (fun t : Hw => (mget t.ctxs d).map Ctx.held) (fun t j _ => inCore_held t c j d) m

theorem broughtIn_core_of_not_mem (m : Hw) (c : Nat) {l : List Nat} (hk : k ∉ l) : (broughtIn m c l).core k = m.core k :=
  foldl_keeps (fun d : Hw => d.core k)
    (fun d j hj => (inCore_core d c j k).trans (if_neg fun he : k = j => hk (he ▸ hj))) m

theorem broughtIn_saves_of_not_mem (m : Hw) (c : Nat) {l : List Nat} (hk : k ∉ l) :
    savedFor (broughtIn m c l) c k = savedFor m c k := by
  refine foldl_keeps (fun d : Hw => savedFor d c k) (fun d j hj => ?_) m
  rw [savedFor, inCore_saves, mgetD, mget_mdel_ne _ (saveKey_ne c fun he : k = j => hk (he ▸ hj))]
  rfl

/-- A core of the set is restored from what was saved of it. -/
theorem broughtIn_at (m : Hw) (c : Nat) {l : List Nat} (hl : l.Nodup) (hk : k ∈ l) : ∃ now cyc inbox,
    (broughtIn m c l).core k = { (savedFor m c k).restore c now cyc with inbox := inbox } := by
  obtain ⟨before, after, rfl, hbefore, hafter⟩ := exists_around_of_nodup hl hk
  have hsplit : broughtIn m c (before ++ k :: after) = broughtIn ((broughtIn m c before).inCore c k).1 c after := by
    simp only [broughtIn, List.foldl_append, List.foldl_cons]
  rw [hsplit, broughtIn_core_of_not_mem _ c hafter, inCore_core, if_pos rfl, broughtIn_saves_of_not_mem m c hbefore]
  exact ⟨_, _, _, rfl⟩

/-- The context with its cores back, before the updates held for it. -/
def cameIn (m : Hw) (c t : Nat) : Hw :=
  (broughtIn m c (m.ctxCores c)).updCtx c fun x =>
    { x with chosen := false, lastSwitchIn := t, residentAt := m.now, quantumUp := false, displaced := [0, 0, 0, 0] }

theorem switchIn_eq {x : Ctx} (hx : mget m.ctxs c = some x) : ∃ t, m.switchIn c = (cameIn m c t).applyHeld c := by
  have hcores : ∀ l : List Nat, (((m.ctxCores c).foldl (fun (a : Hw × List Nat) k =>
      ((a.1.inCore c k).1, addAt a.2 (k / 64) (a.1.inCore c k).2)) (m, l))).1 = broughtIn m c (m.ctxCores c) := fun l =>
    (List.foldl_hom (init := (m, l)) Prod.fst fun _ _ => rfl).symm
  unfold Hw.switchIn
  rw [hx]
  dsimp only
  rw [hcores]
  exact ⟨_, rfl⟩

/-! ### A core that is back -/

/-- What a core that is back shares with what was saved, beside its bollards. -/
def landed (x : Core) : Option Nat × Memory × Map Word32 × Map Nat × Map LandState :=
  (x.ctx, x.hold, x.acc, x.credits, x.lands)

/-- Core `x` runs context `c` as `d` was saved, with no op in progress; its bollards are those that were saved where `same`
holds. -/
structure BackOn (c : Nat) (d : CoreSave) (same : Prop) (x : Core) : Prop where
  landed : landed x = (some c, d.hold, d.acc, d.credits, d.lands)
  ops : x.ops = []
  bols : same → x.bols = d.bols

namespace BackOn

variable {d : CoreSave} {same : Prop} {x : Core}

/-- An update leaves all but the bollards; none comes where the bollards are to stay. -/
theorem apply (h : BackOn c d same x) (hsame : ¬ same) (cyc : Nat) (s : Signal) : BackOn c d same (x.apply cyc s) := by
  refine ⟨?_, ?_, fun hs => absurd hs hsame⟩
  · rw [← h.landed]
    exact (congrArg Sys2Proof.landed (checkWaits_frame (putSignal x cyc s) s.bol) :).trans
      (congrArg Sys2Proof.landed (portBare_putSignal x cyc s) :)
  · rw [apply_eq, checkWaits_ops, putSignal_ops, h.ops, List.map_nil]

theorem startRun (h : BackOn c d same x) (now : Nat) (e : CoreEntry) : BackOn c d same (x.startRun now e) :=
  ⟨h.landed, h.ops, h.bols⟩

theorem updCore (j : Nat) {f : Core → Core} (hf : ∀ y, BackOn c d same y → BackOn c d same (f y))
    (h : BackOn c d same (m.core k)) : BackOn c d same ((m.updCore j f).core k) := by
  by_cases hk : k = j
  · rw [← hk, core_updCore_same]
    exact hf _ h
  · rwa [core_updCore_ne m f hk]

end BackOn

theorem broughtIn_backOn (m : Hw) (same : Prop) (hk : k ∈ m.ctxCores c) :
    BackOn c (savedFor m c k) same ((broughtIn m c (m.ctxCores c)).core k) := by
  obtain ⟨now, cyc, inbox, hcore⟩ := broughtIn_at m c (ctxCores_nodup m c) hk
  rw [hcore]
  exact ⟨rfl, rfl, fun _ => rfl⟩

/-! ### Held updates (15 R395) -/

/-- State, quantum flag and time of residence of a context. -/
def residency (x : Ctx) : CtxState × Bool × Nat := (x.st, x.quantumUp, x.residentAt)

/-- Updates of one core after another change cores alone. -/
theorem foldl_updCore_eq {α : Type} (key : α → Nat) (g : Hw → α → Core → Core) (l : List α) (m : Hw) :
    ∃ cs, l.foldl (fun m e => m.updCore (key e) (g m e)) m = { m with cores := cs } := by
  induction l generalizing m with
  | nil => exact ⟨m.cores, rfl⟩
  | cons e l ih =>
    obtain ⟨cs, hcs⟩ := ih (m.updCore (key e) (g m e))
    exact ⟨cs, hcs⟩

theorem applyHeld_eq {x : Ctx} (hx : mget m.ctxs c = some x) :
    ∃ cs, m.applyHeld c = { m with ctxs := mset m.ctxs c { x with held := [] }, cores := cs } := by
  unfold Hw.applyHeld
  rw [hx]
  exact foldl_updCore_eq _ _ x.held _

theorem applyHeld_backOn {d : CoreSave} {same : Prop} {x : Ctx} (hx : mget m.ctxs c = some x)
    (hheld : same → x.held = []) (h : BackOn c d same (m.core k)) : BackOn c d same ((m.applyHeld c).core k) := by
  unfold Hw.applyHeld
  rw [hx]
  refine List.foldlRecOn (motive := fun t : Hw => BackOn c d same (t.core k)) x.held _ h fun t ht u hu => ?_
  exact ht.updCore u.core fun y hy => hy.apply (fun hs => List.ne_nil_of_mem hu (hheld hs)) _ _

/-! ### Runs that start (14 R375) -/

/-- Runs start from `m` to `t`: memory, time and the residency of contexts are as they were, and cores that are back stay so. -/
structure RunsStarted (m t : Hw) : Prop where
  mem : t.mem = m.mem
  now : t.now = m.now
  contexts : ∀ d, (mget t.ctxs d).map residency = (mget m.ctxs d).map residency
  cores : ∀ {c k d same}, BackOn c d same (m.core k) → BackOn c d same (t.core k)

namespace RunsStarted

variable {t u : Hw}

theorem refl (m : Hw) : RunsStarted m m := ⟨rfl, rfl, fun _ => rfl, id⟩

theorem trans (h : RunsStarted m t) (h' : RunsStarted t u) : RunsStarted m u :=
  ⟨h'.mem.trans h.mem, h'.now.trans h.now, fun d => (h'.contexts d).trans (h.contexts d), fun hb => h'.cores (h.cores hb)⟩

theorem foldl {α : Type} {f : Hw → α → Hw} (hf : ∀ d x, RunsStarted d (f d x)) (l : List α) (m : Hw) :
    RunsStarted m (l.foldl f m) := by
  induction l generalizing m with
  | nil => exact refl m
  | cons x l ih => exact (hf m x).trans (ih (f m x))

theorem startCore (m : Hw) (e : CoreEntry) : RunsStarted m (m.updCore e.core fun c => c.startRun m.now e) :=
  ⟨rfl, rfl, fun _ => rfl, fun h => h.updCore e.core fun _ hy => hy.startRun m.now e⟩

theorem clearSnaps (m : Hw) (c : Nat) : RunsStarted m (m.updCtx c fun x => { x with snaps := [] }) := by
  refine ⟨updCtx_mem m c _, updCtx_now m c _, fun d => ?_, fun h => by rwa [updCtx_core]⟩
  rw [mget_updCtx]
  split
  · next hd =>
    rw [hd, Option.map_map]
    rfl
  · rfl

theorem startRun (m : Hw) (plan : Nat) : RunsStarted m (m.startRun plan) := by
  unfold Hw.startRun
  split
  · exact refl m
  · next p _ =>
    split
    · exact refl m
    · exact refl m
    · next r _ _ =>
      refine trans (t := { m with plans := mset m.plans plan { p with run := some { r with started := true } } })
        ⟨rfl, rfl, fun _ => rfl, id⟩ ?_
      exact (foldl startCore p.cores _).trans (clearSnaps _ p.ctx)

theorem startRuns (m : Hw) (c : Nat) : RunsStarted m (m.startRuns c) := foldl (fun d (p : Nat × Plan) => startRun d p.1) _ m

end RunsStarted

/-! ### The command -/

theorem exec_switchIn {s : State} {x : Ctx} (hx : mget s.m.ctxs c = some x) (hchosen : x.chosen = true)
    (hst : x.st = .runnable) (hclk : s.m.clocked = true) (hfree : ∀ k ∈ s.m.ctxCores c, (s.m.core k).ctx = none) :
    exec (.switchIn c) s = .next { s with
      m := (((if x.rollbackDue then (s.m.switchIn c).recover c else s.m.switchIn c).updCtx c fun y =>
        { y with st := .resident }).startRuns c).decide_ } := by
  have hgoes : (x.chosen && x.st == .runnable && s.m.clocked
      && (s.m.ctxCores c).all fun k => (s.m.core k).ctx.isNone) = true := by
    simpa [hchosen, hst, hclk] using hfree
  change execSwitchIn c s = _
  simp only [execSwitchIn, onHw_next, hx, hgoes, if_true]

/-- A context that has just come in yields its cores to no candidate. -/
theorem not_yields_of_just_in {now : Nat} {x : Ctx} (h : residency x = (.resident, false, now)) : ¬ Yields now x := by
  simp only [residency, Prod.mk.injEq] at h
  obtain ⟨hst, hup, hat⟩ := h
  simp [Yields, Ctx.passive, hst, hup, hat]

/-- The context as it is resident, its runs started. -/
def resumed (m : Hw) (c : Nat) : Hw := ((m.switchIn c).updCtx c fun y => { y with st := .resident }).startRuns c

theorem cameIn_kept (m : Hw) (c t : Nat) : (cameIn m c t).mem.ram = m.mem.ram ∧ (cameIn m c t).now = m.now := by
  rw [cameIn, updCtx_mem, updCtx_now, broughtIn_ram, broughtIn_now]
  exact ⟨rfl, rfl⟩

section
variable {x : Ctx} (hx : mget m.ctxs c = some x)
include hx

/-- As its cores are back, the context has what was held for it, and its time of residence begins. -/
theorem cameIn_ctx (t : Nat) : ∃ y, mget (cameIn m c t).ctxs c = some y ∧ y.held = x.held ∧ y.quantumUp = false ∧
    y.residentAt = m.now := by
  have hheld := broughtIn_held m c (m.ctxCores c) c
  rw [hx, Option.map_some, Option.map_eq_some_iff] at hheld
  obtain ⟨y, hy, hyheld⟩ := hheld
  rw [cameIn, mget_updCtx, if_pos rfl, hy]
  exact ⟨_, rfl, hyheld, rfl, rfl⟩

/-- The module as the context is back, the updates held for it applied. -/
theorem switchIn_spec : (m.switchIn c).mem.ram = m.mem.ram ∧ (m.switchIn c).now = m.now ∧
    (∃ z, mget (m.switchIn c).ctxs c = some z ∧ z.quantumUp = false ∧ z.residentAt = m.now) ∧
    ∀ k ∈ m.ctxCores c, BackOn c (savedFor m c k) (x.held = []) ((m.switchIn c).core k) := by
  obtain ⟨t, ht⟩ := switchIn_eq hx
  obtain ⟨y, hy, hheld, hup, hat⟩ := cameIn_ctx hx t
  obtain ⟨cs, hcs⟩ := applyHeld_eq hy
  obtain ⟨hram, hnow⟩ := cameIn_kept m c t
  refine ⟨?_, ?_, ⟨{ y with held := [] }, ?_, hup, hat⟩, fun k hk => ?_⟩
  · rw [ht, hcs, ← hram]
  · rw [ht, hcs, ← hnow]
    rfl
  · rw [ht, hcs, mget_mset_self]
  · rw [ht]
    refine applyHeld_backOn hy (fun h => hheld.trans h) ?_
    rw [cameIn, updCtx_core]
    exact broughtIn_backOn m _ hk

/-- The module as the context is resident and its runs have started. -/
theorem resumed_spec : (resumed m c).mem.ram = m.mem.ram ∧ (resumed m c).now = m.now ∧
    (mget (resumed m c).ctxs c).map residency = some (.resident, false, m.now) ∧
    ∀ k ∈ m.ctxCores c, BackOn c (savedFor m c k) (x.held = []) ((resumed m c).core k) := by
  obtain ⟨hram, hnow, ⟨z, hz, hup, hat⟩, hback⟩ := switchIn_spec hx
  have hruns := RunsStarted.startRuns ((m.switchIn c).updCtx c fun y => { y with st := .resident }) c
  refine ⟨?_, ?_, ?_, fun k hk => hruns.cores ?_⟩
  · rw [resumed, hruns.mem, updCtx_mem, hram]
  · rw [resumed, hruns.now, updCtx_now, hnow]
  · rw [resumed, hruns.contexts, mget_updCtx, if_pos rfl, hz]
    simp only [Option.map_some, residency, hup, hat]
  · rw [updCtx_core]
    exact hback k hk

end

/-- Settles O35: what was saved comes back core by core, and the decision that follows finds the context's quantum unspent. -/
theorem switchInRestores : Obligations.SwitchInRestores := by
  intro s c x hx hchosen hst hclk hfree
  have hexec := exec_switchIn hx hchosen hst hclk hfree
  refine ⟨fun hplain => ?_, fun hdue => by rwa [hdue, if_pos rfl] at hexec⟩
  have hresumed : exec (.switchIn c) s = .next { s with m := (resumed s.m c).decide_ } := by
    rwa [hplain, if_neg Bool.false_ne_true] at hexec
  obtain ⟨hram, hnow, hres, hback⟩ := resumed_spec hx
  have hd := Decided.decide_ (resumed s.m c)
  refine ⟨_, hresumed, ?_, ?_, fun k hk => ?_⟩
  · obtain ⟨y, hy, hyres⟩ := Option.map_eq_some_iff.1 hres
    obtain ⟨z, hz, hbegin⟩ := hd.contexts c y hy
    have hstays := hbegin.st.resolve_right fun h => not_yields_of_just_in (hnow ▸ hyres) h.2
    rw [hz]
    exact congrArg some (hstays.trans (congrArg Prod.fst hyres))
  · rw [hd.mem, hram]
  · obtain ⟨hland, hops, hbols⟩ := hback k hk
    dsimp only
    rw [hd.core_of_no_ops hops]
    simp only [landed, Prod.mk.injEq] at hland
    obtain ⟨hctx, hhold, hacc, hcredits, hlands⟩ := hland
    exact ⟨hctx, hhold, hacc, hcredits, hlands, hbols⟩

end Sys2Proof
end

section
/-! PROOF. Splitting measured energy by weights, and the accounts it is added to (15 R397, R398): O38. -/

namespace Sys2Proof

open Machine

/-! ### Splits -/

theorem foldl_add_snd (l : List (Nat × Nat)) : l.foldl (fun a w => a + w.2) 0 = (l.map (·.2)).sum := by
  rw [List.sum_eq_foldl, List.foldl_map]

/-- A share is rounded down; without any weight it is nothing, as a division by 0 is. -/
theorem splitBy_eq (n : Nat) (ws : List (Nat × Nat)) :
    splitBy n ws = ws.map fun w => (w.1, n * w.2 / (ws.map (·.2)).sum) := by
  rw [splitBy, foldl_add_snd]
  refine List.map_congr_left fun w _ => ?_
  split
  · next h => rw [h, Nat.div_zero]
  · rfl

/-- Quotients rounded down one by one add up to no more than the quotient of the sum. -/
theorem sum_div_le (n t : Nat) (ws : List (Nat × Nat)) :
    (ws.map fun w => n * w.2 / t).sum ≤ n * (ws.map (·.2)).sum / t := by
  induction ws with
  | nil => exact Nat.zero_le _
  | cons w ws ih =>
    simp only [List.map_cons, List.sum_cons, Nat.mul_add]
    exact Nat.le_trans (Nat.add_le_add_left ih _) (Nat.div_add_div_le_add_div ..)

theorem splitBy_sum_le (n : Nat) (ws : List (Nat × Nat)) : ((splitBy n ws).map (·.2)).sum ≤ n := by
  rw [splitBy_eq, List.map_map]
  exact Nat.le_trans (sum_div_le n _ ws) (Nat.div_le_of_le_mul (Nat.le_of_eq (Nat.mul_comm ..)))

theorem splitBy_keys (n : Nat) (ws : List (Nat × Nat)) : (splitBy n ws).map (·.1) = ws.map (·.1) := by
  rw [splitBy, List.map_map]
  rfl

/-! ### One measured energy -/

/-- What each context gets of an energy: of its static part, and of the rest. -/
def energyShares (m : Hw) (q idle n : Nat) : List (Nat × Nat) :=
  splitBy (min idle n) (m.residents q) ++
    splitBy (n - min idle n) (m.ctxs.map fun c => (c.1, m.activity q c.1 c.2))

theorem energyShares_sum_le (m : Hw) (q idle n : Nat) : ((energyShares m q idle n).map (·.2)).sum ≤ n := by
  have hstill := splitBy_sum_le (min idle n) (m.residents q)
  have hmoving := splitBy_sum_le (n - min idle n) (m.ctxs.map fun c => (c.1, m.activity q c.1 c.2))
  rw [energyShares, List.map_append, List.sum_append]
  omega

/-- `t` is `m` but for the books, and its unowned account has not fallen. -/
structure Apportioned (m t : Hw) : Prop where
  rest : { t with ctxs := m.ctxs, mem := m.mem, host := m.host, counters := m.counters, unowned := m.unowned } = m
  ram : t.mem.ram = m.mem.ram
  unowned : m.unowned ≤ t.unowned

namespace Apportioned

variable {m t u : Hw}

theorem refl (m : Hw) : Apportioned m m := ⟨rfl, rfl, Nat.le_refl _⟩

theorem trans (h : Apportioned m t) (h' : Apportioned t u) : Apportioned m u where
  rest := ((congrArg (fun x : Hw => { x with ctxs := m.ctxs, mem := m.mem, host := m.host, counters := m.counters
                                             unowned := m.unowned }) h'.rest).trans h.rest :)
  ram := h'.ram.trans h.ram
  unowned := Nat.le_trans h.unowned h'.unowned

theorem foldl {α : Type} {f : Hw → α → Hw} (hf : ∀ d x, Apportioned d (f d x)) (l : List α) (m : Hw) :
    Apportioned m (l.foldl f m) := by
  induction l generalizing m with
  | nil => exact refl m
  | cons x l ih => exact (hf m x).trans (ih (f m x))

theorem cores (h : Apportioned m t) : t.cores = m.cores := (congrArg Hw.cores h.rest :)
theorem quay (h : Apportioned m t) : t.quay = m.quay := (congrArg Hw.quay h.rest :)
theorem plans (h : Apportioned m t) : t.plans = m.plans := (congrArg Hw.plans h.rest :)
theorem idle (h : Apportioned m t) : t.idle = m.idle := (congrArg Hw.idle h.rest :)

end Apportioned

/-- The counts of the shares are books. -/
theorem countShares_booked (m : Hw) (l : List (Nat × Nat)) :
    Booked m (l.foldl (fun (m : Hw) p => m.count 8 p.1 22 p.2) m) := .foldl (fun d _ => .count d _ _ _ _) l m

theorem apportion_unowned (m : Hw) (q idle n : Nat) :
    (m.apportion q idle n).unowned = m.unowned + (n - ((energyShares m q idle n).map (·.2)).sum) := by
  rw [← foldl_add_snd]
  exact congrArg (· + _) (congrArg Hw.unowned (countShares_booked m (energyShares m q idle n)).rest :)

theorem apportion_apportioned (m : Hw) (q idle n : Nat) : Apportioned m (m.apportion q idle n) where
  rest := (congrArg (fun x : Hw => { x with unowned := m.unowned })
    (countShares_booked m (energyShares m q idle n)).rest :)
  ram := (countShares_booked m (energyShares m q idle n)).ram
  unowned := by
    rw [apportion_unowned]
    exact Nat.le_add_right ..

/-! ### The energies of an interval -/

/-- The module after the energies of some quarters; no apportionment changes the idle rates. -/
def quartersApportioned (m : Hw) (measured : List Nat) (l : List Nat) : Hw :=
  l.foldl (fun d q => d.apportion q (lget m.idle q 0) (lget measured q 0)) m

theorem quartersApportioned_eq (m : Hw) (measured : List Nat) (l : List Nat) :
    l.foldl (fun d q => d.apportion q (lget d.idle q 0) (lget measured q 0)) m = quartersApportioned m measured l := by
  suffices h : ∀ d : Hw, d.idle = m.idle → l.foldl (fun d q => d.apportion q (lget d.idle q 0) (lget measured q 0)) d =
      l.foldl (fun d q => d.apportion q (lget m.idle q 0) (lget measured q 0)) d from h m rfl
  induction l with
  | nil => exact fun _ _ => rfl
  | cons q l ih =>
    intro d hd
    simp only [List.foldl_cons, hd]
    exact ih _ ((apportion_apportioned d q _ _).idle.trans hd)

/-- The module after every energy of the interval. -/
def energiesApportioned (m : Hw) (measured : List Nat) (hub : Nat) : Hw :=
  (quartersApportioned m measured (List.range 4)).apportion 4 0 hub

/-- Every context's next interval begins (15 R398). -/
def intervalBegun (m : Hw) : Hw := { m with ctxs := m.ctxs.map fun c => (c.1, { c.2 with metered := m.meters c.1 }) }

theorem intervalBegun_apportioned (m : Hw) : Apportioned m (intervalBegun m) := ⟨rfl, rfl, Nat.le_refl _⟩

theorem energiesApportioned_apportioned (m : Hw) (measured : List Nat) (hub : Nat) :
    Apportioned m (energiesApportioned m measured hub) :=
  .trans (.foldl (fun d q => apportion_apportioned d q _ _) (List.range 4) m) (apportion_apportioned _ 4 0 hub)

theorem exec_energyApportionment {s : State} (measured : List Nat) (hub : Nat) (h : s.m.boot = .done) :
    exec (.energyApportionment measured hub) s =
      .next { s with m := intervalBegun (energiesApportioned s.m measured hub) } := by
  change execEnergyApportionment measured hub s = _
  rw [execEnergyApportionment, onHw_next, if_pos (beq_iff_eq.2 h), quartersApportioned_eq]
  rfl

/-- Settles O38: shares rounded down stay within what is split, and what they leave goes to the unowned account. -/
theorem energyIsSplitNotInvented : Obligations.EnergyIsSplitNotInvented := by
  refine ⟨fun n ws => ⟨splitBy_sum_le n ws, splitBy_keys n ws, fun c w hw _ => ?_⟩, fun m q idle n => ?_,
    fun s measured hub hdone => ?_⟩
  · rw [splitBy_eq]
    exact List.mem_map.2 ⟨(c, w), hw, rfl⟩
  · have hsum := energyShares_sum_le m q idle n
    have hunowned := apportion_unowned m q idle n
    change (m.apportion q idle n).unowned + ((energyShares m q idle n).map (·.2)).sum = m.unowned + n
    omega
  · have h := (energiesApportioned_apportioned s.m measured hub).trans (intervalBegun_apportioned _)
    exact ⟨_, exec_energyApportionment measured hub hdone, rfl, h.ram, h.cores, h.quay, h.plans, h.unowned⟩

end Sys2Proof
end

section
/-! PROOF. Ticks of tide (16 R414): O42. -/

namespace Sys2Proof

open Machine

/-! ### Ticks (16 R414) -/

/-- Ticks by rounding up and down: what lies at or before an instant, for a rate of at most one tick a nanosecond. -/
theorem mul_div_le_div (n d a : Nat) : n * a / d * d / a ≤ n :=
  Nat.div_le_of_le_mul (by rw [Nat.mul_comm a n]; exact Nat.div_mul_le_self (n * a) d)

theorem lt_mul_div_of_lt {n d a : Nat} (ha : 0 < a) (had : a ≤ d) : n < (n * a / d + 2) * d / a := by
  have hd : 0 < d := Nat.lt_of_lt_of_le ha had
  have hnext : n * a < (n * a / d + 1) * d := by
    rw [Nat.mul_comm _ d]; exact Nat.lt_mul_div_succ (n * a) hd
  rw [Nat.lt_iff_add_one_le, Nat.le_div_iff_mul_le ha]
  calc (n + 1) * a = n * a + a := by ring
    _ ≤ (n * a / d + 1) * d + d := by omega
    _ = (n * a / d + 2) * d := by ring

variable {t : TideCfg} {now k : Nat}

theorem tickAt_eq_none : t.tickAt now = none ↔ now < t.tick0 ∨ t.num = 0 ∨ t.den = 0 := by
  unfold TideCfg.tickAt
  split
  · next h => simpa [or_assoc] using h
  · next h =>
    simp only [Bool.or_eq_true, decide_eq_true_eq, or_assoc] at h
    simp only [h, iff_false]
    split <;> exact nofun

/-- The tick of an instant: the quotient of the time since tick 0 by the period, or the next where rounding down the instants of
ticks has let that one begin. -/
theorem tickAt_eq_some (h : t.tickAt now = some k) : (t.tick0 ≤ now ∧ 0 < t.num ∧ 0 < t.den) ∧
    ((k = (now - t.tick0) * t.num / (10 ^ 9 * t.den) + 1 ∧ t.at k ≤ now) ∨
      (k = (now - t.tick0) * t.num / (10 ^ 9 * t.den) ∧ now < t.at (k + 1))) := by
  have hset : ¬(now < t.tick0 ∨ t.num = 0 ∨ t.den = 0) := fun hn => by
    rw [tickAt_eq_none.2 hn] at h
    cases h
  refine ⟨by omega, ?_⟩
  unfold TideCfg.tickAt at h
  rw [if_neg (by simpa [or_assoc] using hset)] at h
  dsimp only at h
  split at h
  · next hle => cases h; exact .inl ⟨rfl, hle⟩
  · next hgt => cases h; exact .inr ⟨rfl, Nat.lt_of_not_le hgt⟩

theorem at_quotient_le (hle : t.tick0 ≤ now) :
    t.at ((now - t.tick0) * t.num / (10 ^ 9 * t.den)) ≤ now := by
  have h := mul_div_le_div (now - t.tick0) (10 ^ 9 * t.den) t.num
  rw [TideCfg.at, Nat.mul_assoc]
  omega

theorem lt_at_quotient_add_two (hnum : 0 < t.num) (hrate : t.num ≤ 10 ^ 9 * t.den) :
    now < t.at ((now - t.tick0) * t.num / (10 ^ 9 * t.den) + 2) := by
  have h := lt_mul_div_of_lt (n := now - t.tick0) hnum hrate
  rw [TideCfg.at, Nat.mul_assoc]
  omega

theorem beginTicks_eq {m : Hw} (ht : m.island.tideCfg = some t) :
    m.beginTicks = m.updIsland fun i => { i with tick := t.tickAt m.now } := by
  simp only [Hw.beginTicks, ht]
  split
  · next h => rw [h]; rfl
  · rfl

theorem exec_tideTick {s : State} (hon : s.m.island.on = true) (ht : s.m.island.tideCfg = some t) :
    exec .tideTick s = .next { s with m := s.m.updIsland fun i => { i with tick := t.tickAt s.m.now } } := by
  change execTideTick s = _
  rw [execTideTick, onHw_next, if_pos hon, beginTicks_eq ht]

/-- Settles O42: the tick is a quotient rounded down, or the one after it. -/
theorem currentTickIsTheLastBegun : Obligations.CurrentTickIsTheLastBegun := by
  refine ⟨fun s t hon ht => exec_tideTick hon ht, fun t now k hrate h => ?_, fun _ _ => rfl, fun t now hnum hden => ?_⟩
  · obtain ⟨⟨hle, hnum, -⟩, ⟨rfl, hbegun⟩ | ⟨rfl, hnext⟩⟩ := tickAt_eq_some h
    · exact ⟨hbegun, lt_at_quotient_add_two hnum hrate⟩
    · exact ⟨at_quotient_le hle, hnext⟩
  · rw [tickAt_eq_none]
    omega

end Sys2Proof
end

section
/-! PROOF. Synchronisation with a time transmitter (16 R411 to R413): O41. -/

namespace Sys2Proof

open Machine

/-! ### What the always-on island keeps beside a report -/

/-- A report changes the error log of the island alone. -/
theorem logErrorAt_island (m : Hw) (d code : Nat) (ctx : Option Nat) (recov : Bool) (loc aux : Nat) :
    { (m.logErrorAt d code ctx recov loc aux).island with errlog := m.island.errlog, errNext := m.island.errNext } =
      m.island := by
  unfold Hw.logErrorAt
  dsimp only
  rw [count_island]

theorem event_island (m : Hw) (code : Nat) (ctx : Option Nat) (p : List (Nat × Nat)) :
    { (m.event code ctx p).island with errlog := m.island.errlog, errNext := m.island.errNext } = m.island := by
  have hring := toRing_island m code ctx (packFields p)
  unfold Hw.event Hw.eventAux Hw.eventAs
  dsimp only
  split
  · rw [← hring]
    exact logErrorAt_island _ _ _ _ _ _ _
  · rw [hring]

section
variable (m : Hw) (code : Nat) (ctx : Option Nat) (p : List (Nat × Nat))

@[simp] theorem event_sync : (m.event code ctx p).island.sync = m.island.sync :=
  (congrArg Island.sync (event_island m code ctx p) :)
@[simp] theorem event_gm : (m.event code ctx p).island.gm = m.island.gm := (congrArg Island.gm (event_island m code ctx p) :)
@[simp] theorem event_offset : (m.event code ctx p).island.offset = m.island.offset :=
  (congrArg Island.offset (event_island m code ctx p) :)
@[simp] theorem event_tide : (m.event code ctx p).island.tide = m.island.tide :=
  (congrArg Island.tide (event_island m code ctx p) :)
@[simp] theorem event_announceAt : (m.event code ctx p).island.announceAt = m.island.announceAt :=
  (congrArg Island.announceAt (event_island m code ctx p) :)
@[simp] theorem event_rate : (m.event code ctx p).island.rate = m.island.rate :=
  (congrArg Island.rate (event_island m code ctx p) :)
@[simp] theorem event_tideCfg : (m.event code ctx p).island.tideCfg = m.island.tideCfg :=
  (congrArg Island.tideCfg (event_island m code ctx p) :)

end

/-! ### A change of the synchronisation state (16 R411) -/

/-- What a change of state leaves of tide: transmitter, offset, time, last Announce and rate. -/
def tideOf (i : Island) : Option (Nat × Nat) × Int × Nat × Nat × Int := (i.gm, i.offset, i.tide, i.announceAt, i.rate)

section
variable (m : Hw) (y : Sync)

@[simp] theorem setSync_sync : (m.setSync y).island.sync = y := by
  unfold Hw.setSync
  split
  · next h => exact beq_iff_eq.1 h
  · rw [event_sync]; rfl

@[simp] theorem setSync_tideOf : tideOf (m.setSync y).island = tideOf m.island := by
  unfold Hw.setSync
  split
  · rfl
  · simp only [tideOf, event_gm, event_offset, event_tide, event_announceAt, event_rate]; rfl

@[simp] theorem setSync_ram : (m.setSync y).mem.ram = m.mem.ram := by
  unfold Hw.setSync
  split
  · rfl
  · rw [event_ram]; rfl

@[simp] theorem setSync_cores : (m.setSync y).cores = m.cores := by
  unfold Hw.setSync
  split
  · rfl
  · rw [event_cores]; rfl

end

theorem exec_announceTimeout {s : State} (hon : s.m.island.on = true)
    (hsync : s.m.island.sync = .locked ∨ s.m.island.sync = .acquiring) : exec .announceTimeout s =
      .next { s with m := (s.m.setSync .holdover).updIsland fun i =>
        { i with rate := if s.m.island.sync == .locked then i.rate else 0 } } := by
  change execAnnounceTimeout s = _
  rw [execAnnounceTimeout, onHw_next, if_pos (by simpa [hon] using hsync)]

/-! ### Messages of the transmitter (16 R411 to R413) -/

section
variable {m : Hw} {port gm : Nat}

theorem ptpSync_locked (h : m.island.sync = .locked) (o : Int) : m.ptpSync o =
    if 10000 < o.natAbs then (m.updIsland fun i => { i with offset := o }).setSync .acquiring
    else m.updIsland fun i => { i with offset := o } := by
  have hset : (m.updIsland fun i => { i with offset := o }).island.sync = .locked := h
  unfold Hw.ptpSync
  dsimp only
  rw [hset]

/-- The module knows its transmitter; a new one is reported. -/
def announced (m : Hw) (port gm : Nat) : Hw :=
  let n := m.updIsland fun i => { i with announceAt := m.now, gm := some (gm, port) }
  if m.island.gm != some (gm, port) then n.event 0x0582 none [(8, port), (24, 0), (64, gm)] else n

theorem announced_spec (m : Hw) (port gm : Nat) : (announced m port gm).island.sync = m.island.sync ∧
    tideOf (announced m port gm).island = (some (gm, port), m.island.offset, m.island.tide, m.now, m.island.rate) ∧
    (announced m port gm).mem.ram = m.mem.ram ∧ (announced m port gm).cores = m.cores := by
  unfold announced
  dsimp only
  split
  · simp only [tideOf, event_sync, event_gm, event_offset, event_tide, event_announceAt, event_rate, event_ram, event_cores]
    exact ⟨rfl, rfl, rfl, rfl⟩
  · exact ⟨rfl, rfl, rfl, rfl⟩

/-- The state after a selected Announce. -/
def afterAnnounce (m : Hw) (port gm : Nat) : Sync :=
  if m.island.sync = .free ∨ m.island.sync = .holdover ∨ m.island.gm ≠ some (gm, port) then .acquiring else m.island.sync

theorem setSync_same (m : Hw) : m.setSync m.island.sync = m := by simp [Hw.setSync]

theorem ptpAnnounce_selected (m : Hw) (port gm : Nat) : m.ptpAnnounce port gm true =
    (announced m port gm).setSync (afterAnnounce m port gm) := by
  have hsync := (announced_spec m port gm).1
  have hsame := setSync_same (announced m port gm)
  rw [hsync] at hsame
  change (match (announced m port gm).island.sync with
    | .free => (announced m port gm).setSync .acquiring
    | .holdover => (announced m port gm).setSync .acquiring
    | .acquiring => announced m port gm
    | .locked => if m.island.gm != some (gm, port) then (announced m port gm).setSync .acquiring
        else announced m port gm) = _
  rw [hsync]
  unfold afterAnnounce
  cases h : m.island.sync with
  | free => simp
  | holdover => simp
  | acquiring => simp only [h] at hsame; simp [hsame]
  | locked =>
    simp only [h] at hsame
    by_cases hg : m.island.gm = some (gm, port)
    · simp [hg, hsame]
    · simp [hg]

end

/-- A PTP message is counted at its port, its length being free (log 4). -/
def ptpCounted (m : Hw) (port : Nat) : Hw :=
  ({ m with mem := { m.mem with free := m.mem.free + 1 } }.rxFrame port (Config.freeWord m.mem.free).toNat).count 2 port 11 1

theorem ptpCounted_spec (m : Hw) (port : Nat) : (ptpCounted m port).island = m.island ∧
    (ptpCounted m port).mem.ram = m.mem.ram ∧ (ptpCounted m port).cores = m.cores := by
  simp [ptpCounted, Hw.rxFrame]

section
variable {s : State} {port : Nat} {t : TideCfg}
variable (hon : s.m.island.on = true) (hup : (s.m.port port).up = true) (ht : s.m.island.tideCfg = some t)
  (hport : t.ports.testBit port = true)
include hon hup ht hport

/-- On a port that TIDE_CFG names a message is counted and taken. -/
theorem exec_ptpMessage (msg : PtpMsg) : exec (.ptpMessage port msg) s = .next { s with
    m := match msg with
      | .announce gm selected => (ptpCounted s.m port).ptpAnnounce port gm selected
      | .sync gm offset =>
        if (ptpCounted s.m port).island.gm == some (gm, port) then (ptpCounted s.m port).ptpSync offset else ptpCounted s.m port
      | .other => ptpCounted s.m port } := by
  have hcfg : ({ s.m with mem := { s.m.mem with free := s.m.mem.free + 1 } }.rxFrame port
      (Config.freeWord s.m.mem.free).toNat).island.tideCfg = some t := by
    simpa [Hw.rxFrame] using ht
  change execPtpMessage port msg s = _
  unfold execPtpMessage
  rw [onHw_next, if_neg (by simp [hon, hup])]
  dsimp only
  rw [hcfg]
  dsimp only
  rw [if_neg (by simp [hport])]
  rfl

end

/-- Settles O41: a message is counted, then its transmitter and offset are noted, and the state is set once. -/
theorem tideFollowsItsTimeTransmitter : Obligations.TideFollowsItsTimeTransmitter := by
  intro s hon
  refine ⟨fun port t hup ht hport => ?_, fun hsync => ⟨_, exec_announceTimeout hon hsync, ?_⟩, fun hsync => ?_⟩
  · obtain ⟨hisland, hram, hcores⟩ := ptpCounted_spec s.m port
    have hexec := exec_ptpMessage hon hup ht hport
    refine ⟨fun gm => ⟨_, hexec _, ?_⟩, fun gm o hgm hlocked => ⟨_, hexec _, ?_⟩, fun gm o hgm => ⟨_, hexec _, ?_⟩⟩
    · obtain ⟨-, htide, hramA, hcoresA⟩ := announced_spec (ptpCounted s.m port) port gm
      have hafter := (setSync_tideOf _ (afterAnnounce (ptpCounted s.m port) port gm)).trans htide
      simp only [tideOf, Prod.mk.injEq] at hafter
      obtain ⟨hgm, -, -, hat, -⟩ := hafter
      dsimp only
      rw [ptpAnnounce_selected]
      refine ⟨hgm, ?_, ?_, ?_, ?_⟩
      · rw [setSync_sync, afterAnnounce, hisland]
      · rw [hat, Hw.now, hisland]; rfl
      · rw [setSync_ram, hramA, hram]
      · rw [setSync_cores, hcoresA, hcores]
    · have hlock : (ptpCounted s.m port).island.sync = .locked := by rw [hisland, hlocked]
      dsimp only
      rw [if_pos (by rw [hisland, hgm]; exact beq_self_eq_true _), ptpSync_locked hlock]
      split
      · have htide := setSync_tideOf ((ptpCounted s.m port).updIsland fun i => { i with offset := o }) .acquiring
        simp only [tideOf, Prod.mk.injEq] at htide
        obtain ⟨-, hoff, -⟩ := htide
        refine ⟨hoff, setSync_sync .., ?_, ?_⟩
        · rw [setSync_ram]; exact hram
        · rw [setSync_cores]; exact hcores
      · exact ⟨rfl, hlock, hram, hcores⟩
    · dsimp only
      rw [if_neg (by rw [hisland]; exact mt beq_iff_eq.1 hgm), hisland]
      exact ⟨rfl, rfl, rfl⟩
  · have htide := setSync_tideOf s.m .holdover
    simp only [tideOf, Prod.mk.injEq] at htide
    obtain ⟨-, -, htime, -, hrate⟩ := htide
    refine ⟨setSync_sync .., htime, ?_, setSync_ram ..⟩
    rw [← hrate]
    simp only [updIsland_island, beq_iff_eq]
  · change execAnnounceTimeout s = _
    rw [execAnnounceTimeout, onHw_next, if_neg (by rcases hsync with h | h <;> simp [h])]

end Sys2Proof
end

section
/-! PROOF. The end of a TIDE_WAIT (16 R417) and the deadline of a marshalling stage (03 R90): O24. -/

namespace Sys2Proof

open Machine

/-! ### An op leaves, whatever it signals and reports (02 R37) -/

/-- The ops of core `core` in progress are the same in `m` and `t`. -/
def SameOps (core : Nat) (m t : Hw) : Prop := (t.core core).ops = (m.core core).ops

namespace SameOps

variable {core : Nat} {m t u : Hw}

theorem refl (core : Nat) (m : Hw) : SameOps core m m := rfl

theorem trans (h : SameOps core m t) (h' : SameOps core t u) : SameOps core m u := Eq.trans h' h

theorem ite {p : Prop} [Decidable p] {a : Hw} (ha : SameOps core m a) : SameOps core m (if p then a else m) := by
  split
  · exact ha
  · exact refl core m

theorem updCore (m : Hw) {f : Core → Core} (hf : (f (m.core core)).ops = (m.core core).ops) :
    SameOps core m (m.updCore core f) := by
  rw [SameOps, core_updCore_same, hf]

theorem signal (m : Hw) (src ctx e tgt bol : Nat) (set : Bool) (val : Word32) :
    SameOps core m (m.signal src ctx e tgt bol set val) := by
  rw [SameOps, signal_core]
  split <;> rfl

theorem threadEvent (m : Hw) (thread ctx code : Nat) (p : List (Nat × Nat)) :
    SameOps core m (m.threadEvent core thread ctx code p) := by
  unfold Hw.threadEvent
  dsimp only
  split
  · exact updCore m rfl
  · rw [SameOps, (Posted.event _ _ _ _).core, (Booked.traffic _ _ _ _ _ _).core, core_updCore_same]
    rfl

theorem stepped (m : Hw) (ctx : Nat) :
    SameOps core m (((m.updCore core Core.stepRecord).countCore core cSTEPS 1).epochMark ctx) := by
  rw [SameOps, Hw.epochMark, updCtx_core, (Booked.countCore _ _ _ _).core, core_updCore_same]
  rfl

end SameOps

section
variable (m : Hw) (core ctx : Nat) (o : OpRec)

/-- The signal of op `o` itself, if it is one. -/
def ownSignal : Hw :=
  match o.eff.signal with
  | some g => m.signal core ctx (m.core core).recs g.1 g.2.1 g.2.2.1 g.2.2.2
  | none => m

/-- The event of a value for the host, if op `o` has one. -/
def hostTold : Hw :=
  match o.eff.hostVal with
  | some v => m.threadEvent core o.thread ctx 0x0190 [(32, o.hdr.tag), (8, core), (2, o.thread), (22, 0), (32, v.toNat)]
  | none => m

theorem ownSignal_sameOps : SameOps core m (ownSignal m core ctx o) := by
  unfold ownSignal
  split
  · exact .signal _ _ _ _ _ _ _ _
  · exact .refl core m

theorem hostTold_sameOps : SameOps core m (hostTold m core ctx o) := by
  unfold hostTold
  split
  · exact .threadEvent _ _ _ _ _
  · exact .refl core m

theorem posted_sameOps : SameOps core m (posted m core ctx o) := .ite (.signal _ _ _ _ _ _ _ _)

/-- What op `o` signals and reports as it leaves: rows that came back, its own signals, events and step. -/
def reported : Hw :=
  let d := o.eff.rets.foldl (fun m r => m.signal core ctx (m.core core).recs r.1 r.2 false 1#32) m
  let d := posted (hostTold (ownSignal d core ctx o) core ctx o) core ctx o
  let d := if o.hdr.evt then d.threadEvent core o.thread ctx 0x0191 [(32, o.hdr.tag), (8, core), (2, o.thread)] else d
  if o.hdr.step then ((d.updCore core Core.stepRecord).countCore core cSTEPS 1).epochMark ctx else d

theorem reported_sameOps : SameOps core m (reported m core ctx o) := by
  have hrets : SameOps core m
      (o.eff.rets.foldl (fun m r => m.signal core ctx (m.core core).recs r.1 r.2 false 1#32) m) :=
    foldl_keeps (fun d : Hw => (d.core core).ops) (fun d _ _ => SameOps.signal d _ _ _ _ _ _ _) m
  have hposted := ((hrets.trans (ownSignal_sameOps _ core ctx o)).trans (hostTold_sameOps _ core ctx o)).trans
    (posted_sameOps _ core ctx o)
  exact (hposted.trans (.ite (.threadEvent _ _ _ _ _))).trans (.ite (.stepped _ _))

end

theorem retire_eq (m : Hw) (core ctx : Nat) (o : OpRec) : m.retire core ctx o =
    ((reported (accsLeft (outOfCore m core o) core o) core ctx o).updCore core fun c =>
      (c.threadEnd o.thread).fill).chargeFetch core o.thread := rfl

/-- No op with the number of the one that leaves is in progress any more. -/
theorem retire_no (m : Hw) (core ctx : Nat) (o : OpRec) : o.no ∉ ((m.retire core ctx o).core core).ops.map (·.no) := by
  have hout : o.no ∉ ((outOfCore m core o).core core).ops.map (·.no) := by
    rw [outOfCore_ops]
    simp
  have hreported : ((reported (accsLeft (outOfCore m core o) core o) core ctx o).core core).ops =
      ((outOfCore m core o).core core).ops :=
    (show _ = _ from reported_sameOps (accsLeft (outOfCore m core o) core o) core ctx o).trans (accsLeft_ops ..)
  rw [retire_eq]
  refine fun h => hout ?_
  have hfilled := (Leaving.chargeFetch (core := core) _ o.thread).nos o.no h
  rw [core_updCore_same, fill_map _ fun _ => rfl, (congrArg Core.ops (threadEnd_frame _ o.thread) :), hreported] at hfilled
  exact hfilled

/-! ### TIDE_WAIT_TARGET (16 R417) -/

section
variable {m : Hw} {core x : Nat} {o : OpRec}

theorem retireIf_of_signalOk (hx : (m.core core).ctx = some x) (h : (m.core core).signalOk o = true) :
    m.retireIf core o = m.retire core x o := by
  simp only [Hw.retireIf, hx, h, if_true]

theorem retireIf_of_not_signalOk (hx : (m.core core).ctx = some x) (h : (m.core core).signalOk o = false) :
    ((m.retireIf core o).core core).ops =
      (m.core core).ops.map fun (p : OpRec) => if p.no == o.no then { p with cond := .done } else p := by
  simp only [Hw.retireIf, hx, h, Bool.false_eq_true, if_false, core_updCore_same]

/-- Op `p` of the thread is a TIDE_WAIT whose target has come. -/
def targetCome (now thread : Nat) (p : OpRec) : Bool :=
  p.thread == thread && (match p.cond with | .tide g _ => decide (g ≤ now) | _ => false)

theorem exec_tideWaitTarget {s : State} {thread : Nat}
    (h : (s.m.core core).ops.find? (targetCome s.m.now thread) = some o) :
    exec (.tideWaitTarget core thread) s = .next { s with m := s.m.retireIf core o } := by
  change Host.Outcome.next { s with m := match (s.m.core core).ops.find? (targetCome s.m.now thread) with
    | some o => s.m.retireIf core o
    | none => s.m } = _
  rw [h]

end

/-! ### MARSHALLING_DEADLINE (03 R90) -/

/-- The thread's deadline mark is set. -/
def deadlineMarked (m : Hw) (core thread : Nat) : Hw :=
  m.updCore core fun c => c.setThread thread { (m.core core).thread thread with mshDl := true }

theorem exec_marshallingDeadline {s : State} {core thread : Nat} {e : Env} (he : s.m.envOf core thread = some e)
    (hop : e.h.opcode = 0x01) (hmarshal : e.matmul.marshal = true) (hpred : e.predOk = true) (hdl : e.matmul.mshDl ≠ 0)
    (hrow : 1 ≤ ((s.m.core core).bol e.matmul.mshBol).toNat)
    (hpast : max (mgetD (s.m.core core).rise e.matmul.mshBol 0) ((s.m.core core).thread thread).mshDone + e.matmul.mshDl ≤
      s.m.cyc core) :
    exec (.marshallingDeadline core thread) s = .next { s with m := deadlineMarked s.m core thread } := by
  change execMarshallingDeadline core thread s = _
  simp only [execMarshallingDeadline, onHw_next, Hw.mshDeadline, he]
  rw [if_pos (by simp [hop, hmarshal, hpred, hdl, hrow, hpast])]
  rfl

/-- Settles O24: an op whose target has come leaves or waits for its signal alone; a deadline sets one mark. -/
theorem tideAndMarshallingWaits : Obligations.TideAndMarshallingWaits := by
  refine ⟨fun s core thread o hfind => ⟨exec_tideWaitTarget hfind, fun hctx => ⟨_, exec_tideWaitTarget hfind, ?_⟩⟩,
    fun s core thread e he hop hmarshal hpred hdl hrow hpast hth =>
      ⟨_, exec_marshallingDeadline he hop hmarshal hpred hdl hrow hpast, ?_⟩⟩
  · obtain ⟨x, hx⟩ := Option.ne_none_iff_exists'.1 hctx
    refine ⟨fun hok p hp hno => ?_, fun hno p hp hpo => ?_⟩
    · rw [retireIf_of_signalOk hx hok] at hp
      exact retire_no s.m core x o (hno ▸ List.mem_map_of_mem hp)
    · rw [retireIf_of_not_signalOk hx hno] at hp
      obtain ⟨q, -, rfl⟩ := List.mem_map.1 hp
      by_cases hq : q.no = o.no
      · simp [hq]
      · simp [hq] at hpo
  · refine ⟨?_, rfl, ?_, ?_, fun k hk => core_updCore_ne _ _ hk⟩
    · rw [deadlineMarked, core_updCore_same, thread_setThread_same _ hth]
    · rw [deadlineMarked, core_updCore_same]; rfl
    · rw [deadlineMarked, core_updCore_same]; rfl

end Sys2Proof
end

section
/-! PROOF. One nanosecond without a command (16 R410, R412, 19 R481): O2. -/

namespace Sys2Proof

open Machine

/-- `t` is `m` but for counters, host memory, event rings and the virtual times of contexts. -/
structure Charged (m t : Hw) : Prop where
  rest : { t with ctxs := m.ctxs, mem := m.mem, host := m.host, counters := m.counters } = m
  ram : t.mem.ram = m.mem.ram
  marks : t.mem.marks = m.mem.marks
  leaves : ∀ c, (mget t.ctxs c).map Ctx.leaves = (mget m.ctxs c).map Ctx.leaves

namespace Charged

variable {m t u : Hw}

theorem refl (m : Hw) : Charged m m := ⟨rfl, rfl, rfl, fun _ => rfl⟩

theorem trans (h : Charged m t) (h' : Charged t u) : Charged m u where
  rest := ((congrArg (fun x : Hw => { x with ctxs := m.ctxs, mem := m.mem, host := m.host, counters := m.counters })
    h'.rest).trans h.rest :)
  ram := h'.ram.trans h.ram
  marks := h'.marks.trans h.marks
  leaves c := (h'.leaves c).trans (h.leaves c)

theorem ofBooked (h : Booked m t) : Charged m t :=
  ⟨h.rest, h.ram, h.marks, fun c => map_of_ringless (fun _ => rfl) (h.contexts c)⟩

theorem ite {p : Prop} [Decidable p] {a b : Hw} (ha : Charged m a) (hb : Charged m b) : Charged m (if p then a else b) := by
  split
  · exact ha
  · exact hb

theorem updCtx (m : Hw) (c : Nat) {f : Ctx → Ctx} (hf : ∀ x, (f x).leaves = x.leaves) : Charged m (m.updCtx c f) where
  rest := by unfold Hw.updCtx; split <;> rfl
  ram := by rw [updCtx_mem]
  marks := by rw [updCtx_mem]
  leaves d := by
    rw [mget_updCtx]
    split
    · next h => rw [h, Option.map_map]; exact congrArg (Option.map · _) (funext hf)
    · rfl

theorem chargeCore (k n : Nat) (m : Hw) : Charged m (chargeCore k n m) := by
  have hbusy : Charged m (if (m.core k).ops.isEmpty then m else m.countCore k cBUSY n) :=
    ite (refl m) (ofBooked (Booked.countCore _ _ _ _))
  unfold Machine.chargeCore
  dsimp only
  split
  · exact hbusy
  · refine hbusy.trans (trans (ite (refl _) (ofBooked (Booked.count _ _ _ _ _))) (updCtx _ _ fun x => ?_))
    split <;> rfl

theorem chargeAll (before after : List Nat) (l : List Nat) (m : Hw) : Charged m (chargeAll before after l m) := by
  induction l generalizing m with
  | nil => exact refl m
  | cons k l ih => exact trans (ite (refl m) (chargeCore _ _ _)) (ih _)

end Charged

/-- The module with its island `i`, after the cycles of one nanosecond at clocks that run. -/
def cyclesPassed (m : Hw) (i : Island) : Hw :=
  let n := { m with island := i }
  if n.clocked then
    chargeAll m.cycles (tickCycles m.cycles m.power.clocks) (m.cores.map (·.1))
      { n with cycles := tickCycles m.cycles m.power.clocks }
  else n

theorem passTime_of_off {m : Hw} (h : m.island.on = false) : passTime m = m := by
  simp [passTime, h]

theorem passTime_of_up {m : Hw} (hon : m.island.on = true) (hcoming : m.coming = none) :
    passTime m = cyclesPassed m m.island.advance.reply := by
  have hup : ({ m with island := m.island.advance.reply } : Hw).comeUp = { m with island := m.island.advance.reply } := by
    unfold Hw.comeUp
    dsimp only
    rw [hcoming]
  unfold passTime
  rw [if_neg (by simp [hon]), hup]
  rfl

theorem advance_of_nominal {i : Island} (hrate : i.rate = 0) (hfrac : i.frac = 0) :
    i.advance = { i with tide := i.tide + 1 } := by
  simp only [Island.advance, hrate, hfrac]
  rfl

theorem reply_of_none {i : Island} (h : i.asked = none) : i.reply = i := by
  simp only [Island.reply, h]

theorem reply_of_some {i : Island} {a : SbAnswer} (h : i.asked = some a) :
    i.reply = { i with asked := none, answer := some a } := by
  simp only [Island.reply, h]

/-- Beside island and cycle counts, what passes in a nanosecond is charged. -/
theorem cyclesPassed_charged (m : Hw) (i : Island) : ∃ cycles, Charged { m with island := i, cycles := cycles } (cyclesPassed m i) := by
  unfold cyclesPassed
  dsimp only
  split
  · exact ⟨_, .chargeAll _ _ _ _⟩
  · exact ⟨m.cycles, .refl _⟩

theorem step_of_empty {s : State} (h : s.pending = []) : step s = .next { s with m := passTime s.m } := by
  simp only [step, h]

/-- Settles O2: the island advances and answers; the rest of the step charges counters and virtual times. -/
theorem idleStepLetsTimePass : Obligations.IdleStepLetsTimePass := by
  intro s hs
  refine ⟨fun hoff => ?_, fun hon hcoming hrate hfrac => ⟨_, step_of_empty hs, hs, ?_⟩⟩
  · rw [step_of_empty hs, passTime_of_off hoff]
  · rw [passTime_of_up hon hcoming, advance_of_nominal hrate hfrac]
    obtain ⟨cycles, hrest, hram, hmarks, hleaves⟩ := cyclesPassed_charged s.m
      ({ s.m.island with tide := s.m.island.tide + 1 } : Island).reply
    have hisland := (congrArg Hw.island hrest :)
    refine ⟨fun h => hisland.trans (reply_of_none h), fun a h => hisland.trans (reply_of_some h), hram, hmarks, ?_, ?_,
      fun k => ?_, hleaves⟩
    · exact (congrArg Hw.quay hrest :)
    · exact (congrArg Hw.plans hrest :)
    · exact (congrArg (fun x : Hw => x.core k) hrest :)

end Sys2Proof
end

section
/-! PROOF. What guards TIDE_CFG (16 R415) and the mode of an upload job (12 R332): O58. -/

namespace Sys2Proof

open Machine

/-! ### TIDE_CFG (16 R415) -/

/-- The configuration that a request of TIDE_CFG names. -/
def tideOfArgs (p : Pair) : TideCfg := ⟨p.arg 0 1, p.arg 1 1, p.arg 2 1, p.arg 4 4, p.arg 8 4, p.arg 16 8⟩

section
variable {m : Hw} {p : Pair}
variable (hprofile : p.arg 0 1 ≤ 1) (hsome : 1 ≤ p.arg 2 1) (hfour : p.arg 2 1 ≤ 15) (hden : 1 ≤ p.arg 8 4)
  (hslow : p.arg 8 4 ≤ p.arg 4 4) (hfast : p.arg 4 4 ≤ 1000 * p.arg 8 4)
  (hports : ∀ i, i < 4 → (p.arg 2 1).testBit i = true → (m.port i).cfg ≠ none)
include hprofile hsome hfour hden hslow hfast hports

/-- With its fields in their ranges only the use of tide refuses. -/
theorem tideCfgReply_eq : m.tideCfgReply p = if !m.streams.isEmpty || m.tideWaits then .refuse 0x0504 0 else
    let n := m.updIsland fun i => { i with
      tideCfg := some (tideOfArgs p), tick := (tideOfArgs p).tickAt m.now
      gm := m.island.gm.filter fun g => bitb (p.arg 2 1) g.2 }
    .done (if (m.island.gm.filter fun g => bitb (p.arg 2 1) g.2) == m.island.gm then n
      else n.event 0x0582 none [(8, 0), (24, 0), (64, 0)]) [] := by
  have hnum : p.arg 4 4 ≠ 0 := by omega
  have hnamed : ((List.range 4).any fun i => bitb (p.arg 2 1) i && (m.port i).cfg.isNone) = false := by
    rw [List.any_eq_false]
    intro i hi
    rw [Bool.and_eq_true, Option.isNone_iff_eq_none]
    exact fun h => hports i (List.mem_range.1 hi) h.1 h.2
  simp only [Hw.tideCfgReply, judge_cons, judge_nil, Nat.not_lt.2 hprofile, Nat.not_lt.2 hfour, hnamed,
    Nat.not_lt.2 hslow, Nat.not_lt.2 hfast, hnum, Nat.ne_of_gt hden, Nat.ne_of_gt hsome, beq_iff_eq, decide_false, Bool.or_false,
    Bool.false_eq_true, if_false]
  rfl

end

theorem exec_tideCfg (s : State) (pair : Nat) : exec (.tideCfg pair) s =
    .next { s with m := s.m.serve pair tideCfgCmd s.m.tideCfgReply } := rfl

/-! ### The mode of a job (12 R332) -/

section
variable (c : Nat) (l : List Byte)

theorem clusters_parse : (Job.parse c l).clusters =
    (((List.range (numAt l 46 1)).map fun i => numAt l (48 + i) 1 / 8).eraseDups).length := by
  simp only [Job.clusters, Job.parse, List.map_map]
  rfl

/-- The mode of a job suits its consumer clusters. -/
def modeSuits (j : Job) : Bool := decide (if j.division then 3 ≤ j.clusters else j.clusters ≤ 3)

theorem modeSuits_parse (hmode : numAt l 15 1 ≤ 1) : modeSuits (Job.parse c l) = true ↔
    (numAt l 15 1 = 0 ∧ (Job.parse c l).clusters ≤ 3) ∨ (numAt l 15 1 = 1 ∧ 3 ≤ (Job.parse c l).clusters) := by
  have hdivision : (Job.parse c l).division = (numAt l 15 1 == 1) := rfl
  unfold modeSuits
  rw [hdivision]
  rcases Nat.le_one_iff_eq_zero_or_eq_one.1 hmode with h | h
  · simp [h]
  · simp [h]

end

theorem exec_jobEnable (s : State) (pair num : Nat) (b : List Byte) : exec (.jobEnable pair num ⟨some b, false⟩) s =
    .next { s with m := s.m.serve pair jobEnableCmd fun p => s.m.jobEnableReply false num p (fit p.xlen b) } := rfl

/-- The job's engines are free, and it has decoders and tensorizers. -/
def enginesSuit (m : Hw) (j : Job) : Bool :=
  1 ≤ j.ndec && j.ndec ≤ m.engineFree 8 Job.ndec && 1 ≤ j.ntz && j.ntz ≤ m.engineFree 8 Job.ntz
    && j.nenc ≤ m.engineFree 4 Job.nenc

/-- The job's encoder configuration, if it has one, is in its ranges. -/
def encSuits (j : Job) : Bool :=
  match j.enc with
  | some e => e.ok j.maxF
  | none => true

theorem encSuits_of_ok {j : Job} (h : ∀ e, j.enc = some e → e.ok j.maxF = true) : encSuits j = true := by
  unfold encSuits
  split
  · next e he => exact h e he
  · rfl

/-- The module with job `n` enabled, its queue's producer word written. -/
def jobEnabled (m : Hw) (c n : Nat) (j : Job) : Hw :=
  let d := m.hubWrite c j.qVa (leBytes 8 (2 ^ 64 - 1)) false
  { d with jobs := mset d.jobs n j, counters := countClear d.counters 5 n }

theorem jobEnabled_jobs (m : Hw) (c n : Nat) (j : Job) : mget (jobEnabled m c n j).jobs n = some j := mget_mset_self _ _ _

/-- With reserved bytes, address and maxima in order, the mode is the first thing that may refuse. -/
theorem jobEnableReply_eq {m : Hw} {p : Pair} {l : List Byte} {x : Ctx} {num n : Nat} (hx : mget m.ctxs p.ctxNo = some x)
    (hn : chooseKey m.jobs num 64 = some n) (hreserved : jobReserved l = false)
    (hba : (Job.parse p.ctxNo l).ba % 64 = 0) (hmaxima : (Job.parse p.ctxNo l).maxima = true) (hmode : numAt l 15 1 ≤ 1)
    (htz : tzReserved (l.drop 56) = false) (henc : encReserved (l.drop 120) = false) :
    m.jobEnableReply false num p l = judge [(!modeSuits (Job.parse p.ctxNo l), 0x0305, atField 15),
      (!enginesSuit m (Job.parse p.ctxNo l), 0x0306, atField 12), (!m.jobRanges x (Job.parse p.ctxNo l), 0x0307, atField 0),
      (!(Job.parse p.ctxNo l).tz.ok, 0x0308, atField 56), (!encSuits (Job.parse p.ctxNo l), 0x0309, atField 120)]
      fun _ => .done (jobEnabled m p.ctxNo n (Job.parse p.ctxNo l)) (leBytes 2 n ++ leBytes 1 n) := by
  unfold Hw.jobEnableReply
  dsimp only
  rw [hx, hn]
  dsimp only
  rw [judge_cons, if_neg (by simp [hba]), judge_cons, if_neg (by simp [hmaxima]), judge_cons, if_neg (by simp [hreserved]),
    judge_cons, if_neg (by simp [Nat.not_lt.2 hmode, htz, henc])]
  rfl

/-- Settles O58: past the checks of the fields, use of tide alone refuses one command, and the mode the other. -/
theorem tideAndJobModesAreGuarded : Obligations.TideAndJobModesAreGuarded := by
  refine ⟨fun s pair htaken => ?_, fun s pair num n b x htaken => ?_⟩
  · intro p hprofile hsome hfour hden hslow hfast hports
    have hreply := tideCfgReply_eq hprofile hsome hfour hden hslow hfast hports
    refine ⟨fun hused => ?_, fun hstreams hwaits => ?_⟩
    · rw [if_pos (by simpa using hused)] at hreply
      rw [Leaves, exec_tideCfg, serve_refuse htaken hreply]
    · rw [if_neg (by simp [hstreams, hwaits])] at hreply
      refine ⟨_, leaves_of_done rfl htaken hreply, ?_, ?_⟩
      · rw [answer_island]
        split
        · rfl
        · rw [event_tideCfg]; rfl
      · rw [answer_mem]
        split
        · rfl
        · rw [event_ram]; rfl
  · intro p l j clusters mode hx hn hreserved hba hmaxima hmode htz henc
    have hreply := jobEnableReply_eq (m := s.m) (p := p) hx hn hreserved hba hmaxima hmode htz henc
    have hmodes : modeSuits j = true ↔ (mode = 0 ∧ clusters ≤ 3) ∨ (mode = 1 ∧ 3 ≤ clusters) := by
      have h := modeSuits_parse p.ctxNo l hmode
      rwa [clusters_parse] at h
    refine ⟨fun hbad => ?_, fun hgood hdec hdec8 htzs htz8 henc4 hranges htzOk hencOk => ?_⟩
    · rw [judge_cons, if_pos (by simpa using mt hmodes.1 hbad)] at hreply
      rw [Leaves, exec_jobEnable, serve_refuse htaken hreply]
    · have hengines : enginesSuit s.m j = true := by simp [enginesSuit, hdec, hdec8, htzs, htz8, henc4]
      rw [judge_cons, if_neg (by simpa using hmodes.2 hgood), judge_cons, if_neg (by simpa using hengines), judge_cons,
        if_neg (by simpa using hranges), judge_cons, if_neg (by simpa using htzOk), judge_cons,
        if_neg (by simpa using encSuits_of_ok hencOk), judge_nil] at hreply
      refine ⟨_, leaves_of_done rfl htaken hreply, ?_⟩
      beta_reduce
      rw [answer_jobs, jobEnabled_jobs]

end Sys2Proof
end

section
/-! PROOF. What the quay window shows beside a report: an event, a counter or a cause of vector 0 (13 R356, 14 R382) changes no
other register, no power setting, no core and no byte or mark of module memory. -/

namespace Sys2Proof

open Machine

/-- `t` is `m` but for counters, host memory, event rings, the always-on island, the host link and causes that have come. -/
structure Shown (m t : Hw) : Prop where
  rest : { t with ctxs := m.ctxs, mem := m.mem, host := m.host, counters := m.counters, island := m.island
                  quay := m.quay } = m
  quay : { t.quay with cause := m.quay.cause } = m.quay
  causes : ∀ i, m.quay.cause.getLsbD i = true → t.quay.cause.getLsbD i = true
  ram : t.mem.ram = m.mem.ram
  marks : t.mem.marks = m.mem.marks

namespace Shown

variable {m t u : Hw}

theorem refl (m : Hw) : Shown m m := ⟨rfl, rfl, fun _ => id, rfl, rfl⟩

theorem trans (h : Shown m t) (h' : Shown t u) : Shown m u where
  rest := ((congrArg (fun x : Hw => { x with ctxs := m.ctxs, mem := m.mem, host := m.host, counters := m.counters
                                             island := m.island, quay := m.quay }) h'.rest).trans h.rest :)
  quay := ((congrArg (fun q : Quay => { q with cause := m.quay.cause }) h'.quay).trans h.quay :)
  causes i := h'.causes i ∘ h.causes i
  ram := h'.ram.trans h.ram
  marks := h'.marks.trans h.marks

theorem ofPosted (h : Posted m t) : Shown m t where
  rest := (congrArg (fun x : Hw => { x with quay := m.quay }) h.rest :)
  quay := congrArg (fun q : Quay => { q with cause := m.quay.cause }) (congrArg Hw.quay h.rest :)
  causes i hi := by rwa [(congrArg Hw.quay h.rest :)]
  ram := h.ram
  marks := h.marks

theorem count (m : Hw) (b i w n : Nat) : Shown m (m.count b i w n) := ofPosted (.ofBooked (.count m b i w n))

theorem event (m : Hw) (code : Nat) (ctx : Option Nat) (p : List (Nat × Nat)) : Shown m (m.event code ctx p) :=
  ofPosted (.event m code ctx p)

theorem cause (m : Hw) (i : Nat) : Shown m (m.cause i) := by
  unfold Hw.cause
  split
  · exact refl m
  · refine ⟨rfl, rfl, fun j hj => ?_, rfl, rfl⟩
    dsimp only
    rw [BitVec.getLsbD_or, hj, Bool.true_or]

theorem power (h : Shown m t) : t.power = m.power := (congrArg Hw.power h.rest :)
theorem cores (h : Shown m t) : t.cores = m.cores := (congrArg Hw.cores h.rest :)

/-- A register of the window that causes are no part of. -/
theorem register {α : Type} (h : Shown m t) {g : Quay → α} (hg : ∀ q c, g { q with cause := c } = g q) :
    g t.quay = g m.quay := by
  have hquay := congrArg g h.quay
  rwa [hg] at hquay

/-- New power settings go beside what is shown. -/
theorem withPower (h : Shown m t) (p : Power) : Shown { m with power := p } { t with power := p } where
  rest := (congrArg (fun x : Hw => { x with power := p }) h.rest :)
  quay := h.quay
  causes := h.causes
  ram := h.ram
  marks := h.marks

/-- A register of the window is set beside what is shown. -/
theorem withQuay (h : Shown m t) {f : Quay → Quay} (hf : ∀ q c, f { q with cause := c } = { f q with cause := c }) :
    Shown { m with quay := f m.quay } { t with quay := f t.quay } := by
  have hcause : ∀ q, (f q).cause = q.cause := fun q => (congrArg Quay.cause (hf q q.cause) :)
  refine ⟨(congrArg (fun x : Hw => { x with quay := f m.quay }) h.rest :), ?_, fun i hi => ?_, h.ram, h.marks⟩
  · dsimp only
    rw [hcause, ← hf, h.quay]
  · dsimp only at hi ⊢
    rw [hcause] at hi ⊢
    exact h.causes i hi

end Shown

theorem cause_self (m : Hw) {i : Nat} (hi : i < 64) : (m.cause i).quay.cause.getLsbD i = true := by
  unfold Hw.cause
  split
  · assumption
  · simp [hi]

/-! ### Registers with a cause of their own (13 R354, R356) -/

/-- QW_STATUS with its THROTTLE bit set to `b`. -/
def withThrottle (m : Hw) (b : Bool) : Hw := { m with quay := { m.quay with throttle := b } }

theorem Shown.withThrottle {m t : Hw} (h : Shown m t) (b : Bool) :
    Shown (Sys2Proof.withThrottle m b) (Sys2Proof.withThrottle t b) :=
  h.withQuay (f := fun q => { q with throttle := b }) fun _ _ => rfl

theorem setThrottle_shown (m : Hw) (b : Bool) : Shown (withThrottle m b) (m.setThrottle b) := by
  unfold Sys2Proof.withThrottle Hw.setThrottle
  split
  · next h => rw [← h]; exact .refl m
  · exact .cause _ 0

theorem setWarn_shown (m : Hw) (b : Bool) : Shown { m with quay := { m.quay with warn := b } } (m.setWarn b) := by
  unfold Hw.setWarn
  split
  · next h => rw [← h]; exact .refl m
  · exact .cause _ 1

theorem setWarn_cause {m : Hw} {b : Bool} (h : m.quay.warn ≠ b) : (m.setWarn b).quay.cause.getLsbD 1 = true := by
  rw [Hw.setWarn, if_neg h]
  exact cause_self _ (by decide)

theorem setStatus_shown (m : Hw) (st : ModState) (r : BitVec 16) :
    Shown { m with quay := { m.quay with st := st, reason := r } } (m.setStatus st r) := by
  unfold Hw.setStatus
  dsimp only
  split
  · exact .cause _ 0
  · exact .refl _

theorem setPs_shown (m : Hw) (p : PState) : Shown { m with quay := { m.quay with ps := p } } (m.setPs p) := by
  unfold Hw.setPs
  split
  · next h => rw [← beq_iff_eq.1 h]; exact .refl m
  · exact (Shown.cause _ 0).trans (.event _ _ _ _)

theorem setPs_cause {m : Hw} {p : PState} (h : m.quay.ps ≠ p) : (m.setPs p).quay.cause.getLsbD 0 = true := by
  rw [Hw.setPs, if_neg (mt beq_iff_eq.1 h)]
  exact (Shown.event _ _ _ _).causes 0 (cause_self _ (by decide))

/-- A supply or thermal throttle is in effect. -/
def throttled (p : Power) : Bool := p.brown || p.bus48 || p.hot != 0#4 || p.inlet

theorem showThrottle_shown (m : Hw) : Shown (withThrottle m (throttled m.power)) m.showThrottle := setThrottle_shown m _

end Sys2Proof
end

section
/-! PROOF. Clocks and their limits (16 R424, R428, R432): what new clocks leave of the power settings. -/

namespace Sys2Proof

open Machine

theorem guaranteeAll_posted (m : Hw) (suspended : Bool) : Posted m (m.guaranteeAll suspended) :=
  .foldl (fun d _ => .event d _ _ _) _ m

/-! ### Partitions that a thermal limit takes below their clock (16 R432) -/

/-- `t` is `m` after reports on partitions: of the power settings the partitions noted as too slow alone change. -/
def PartsNoted (m t : Hw) : Prop := ∃ l, Shown { m with power := { m.power with hotParts := l } } t

namespace PartsNoted

variable {m t u : Hw}

theorem refl (m : Hw) : PartsNoted m m := ⟨m.power.hotParts, .refl m⟩

theorem trans (h : PartsNoted m t) (h' : PartsNoted t u) : PartsNoted m u := by
  obtain ⟨k, h⟩ := h
  obtain ⟨l, h'⟩ := h'
  have hset := h.withPower { t.power with hotParts := l }
  rw [h.power] at hset h'
  exact ⟨l, hset.trans h'⟩

theorem foldl {α : Type} {f : Hw → α → Hw} (hf : ∀ d x, PartsNoted d (f d x)) (l : List α) (m : Hw) :
    PartsNoted m (l.foldl f m) := by
  induction l generalizing m with
  | nil => exact refl m
  | cons x l ih => exact (hf m x).trans (ih (f m x))

theorem thermalGuarantee (m : Hw) : PartsNoted m m.thermalGuarantee := by
  refine foldl (fun d p => ?_) _ m
  split
  · exact ⟨_, .event _ _ _ _⟩
  · exact refl d

theorem thermalRestored (m : Hw) : PartsNoted m m.thermalRestored := by
  refine foldl (fun d p => ?_) _ m
  split
  · exact refl d
  · exact ⟨_, .event _ _ _ _⟩

end PartsNoted

end Sys2Proof
end

section
/-! PROOF. New clocks (16 R424, R428): clocks come down to their limits, and a restore that is over ends the throttles. -/

namespace Sys2Proof

open Machine

/-- The settings once the restore after a supply throttle is over, with `d` dips counted. -/
def restoredPower (w : Power) (d : Nat) : Power :=
  { w with brown := false, bus48 := false, restoring := false, riseAt := none, rise48At := none, dips := d }

/-- The reports that end a restore: THROTTLE is shown, and nothing else changes. -/
theorem restoreReports_shown {m t : Hw} (h : Shown m t) (bus48 : Bool) (p : List (Nat × Nat)) : ∃ b,
    Shown (withThrottle m b) ((if bus48 then t.event 0x058A none p else t).guaranteeAll false).showThrottle := by
  have hbus : Shown t (if bus48 then t.event 0x058A none p else t) := by
    split
    · exact .event t _ _ _
    · exact .refl t
  have hparts := (h.trans hbus).trans (.ofPosted (guaranteeAll_posted _ false))
  exact ⟨_, (hparts.withThrottle _).trans (showThrottle_shown _)⟩

/-- A restore either goes on, or it was under way and is over. -/
theorem finishRestore_cases (m : Hw) : m.finishRestore = m ∨ m.power.restoring = true ∧ ∃ d b,
    Shown (withThrottle { m with power := restoredPower m.power d } b) m.finishRestore := by
  unfold Hw.finishRestore
  dsimp only
  split
  case isFalse => exact .inl rfl
  case isTrue hover =>
    refine .inr ⟨(Bool.and_eq_true_iff.1 hover).1, ?_⟩
    by_cases hbrown : m.power.brown = true
    · refine ⟨m.power.dips + 1, restoreReports_shown ?_ m.power.bus48 _⟩
      rw [if_pos hbrown]
      exact (Shown.count { m with power := restoredPower m.power (m.power.dips + 1) } 1 0 0 1).trans (.event _ _ _ _)
    · refine ⟨m.power.dips, restoreReports_shown ?_ m.power.bus48 _⟩
      rw [if_neg hbrown]
      exact .refl { m with power := restoredPower m.power m.power.dips }

/-- The clocks of the 32 clusters, none above its limit. -/
def clocksDown (m : Hw) : List Nat := (List.range 32).map fun i => min (lget m.power.clocks i 0) (m.clockLimit i)

/-- The settings when clocks follow their limits, with `q` asked of the capstan and `l` the partitions noted as too slow. -/
def tuned (m : Hw) (q : List CapReq) (l : List Nat) : Hw :=
  { m with power := { m.power with clocks := clocksDown m, queue := m.power.queue ++ q, hotParts := l } }

/-- A step up is asked of the capstan, if there is room and none is asked for yet. -/
def stepAsked (m : Hw) : Hw :=
  if (List.range 32).any m.below && !(m.power.queue.any fun r => r.kind == 2) && m.power.queue.length < 32 then
    m.updPower fun w => { w with queue := w.queue ++ [⟨2, w.stepQ, m.now, false⟩] }
  else m

theorem retune_eq (m : Hw) :
    m.retune = (stepAsked { m with power := { m.power with clocks := clocksDown m } }).thermalRestored.finishRestore := rfl

theorem stepAsked_thermalRestored (m : Hw) :
    ∃ q l, Shown (tuned m q l) (stepAsked { m with power := { m.power with clocks := clocksDown m } }).thermalRestored := by
  obtain ⟨l, h⟩ := PartsNoted.thermalRestored (stepAsked { m with power := { m.power with clocks := clocksDown m } })
  have hasked : ∃ q, stepAsked { m with power := { m.power with clocks := clocksDown m } } =
      { m with power := { m.power with clocks := clocksDown m, queue := m.power.queue ++ q } } := by
    unfold stepAsked
    split
    · exact ⟨_, rfl⟩
    · exact ⟨[], by rw [List.append_nil]⟩
  obtain ⟨q, hq⟩ := hasked
  rw [hq] at h
  exact ⟨q, l, hq ▸ h⟩

/-- Clocks follow their limits; that may end a restore. -/
theorem retune_cases (m : Hw) : ∃ q l, Shown (tuned m q l) m.retune ∨ m.power.restoring = true ∧ ∃ d b,
    Shown (withThrottle { m with power := restoredPower (tuned m q l).power d } b) m.retune := by
  obtain ⟨q, l, h⟩ := stepAsked_thermalRestored m
  refine ⟨q, l, ?_⟩
  rw [retune_eq]
  obtain hsame | ⟨hrestoring, d, b, hover⟩ := finishRestore_cases
    (stepAsked { m with power := { m.power with clocks := clocksDown m } }).thermalRestored
  · exact .inl (by rwa [hsame])
  · rw [h.power] at hrestoring hover
    exact .inr ⟨hrestoring, d, b, ((h.withPower _).withThrottle b).trans hover⟩

end Sys2Proof
end
section
/-! PROOF. What new clocks leave as it was, and the bound they meet (16 R424). -/

namespace Sys2Proof

open Machine

/-- Power settings that new clocks leave as they are. -/
def settings (p : Power) : Power :=
  { p with clocks := [], queue := [], hotParts := [], brown := false, bus48 := false, restoring := false, riseAt := none
           rise48At := none, dips := 0 }

/-- `t` is `m` once its clocks follow their limits. -/
structure Retuned (m t : Hw) : Prop where
  ram : t.mem.ram = m.mem.ram
  cores : t.cores = m.cores
  settings : settings t.power = settings m.power
  quay : { t.quay with cause := m.quay.cause, throttle := m.quay.throttle } = m.quay
  causes : ∀ i, m.quay.cause.getLsbD i = true → t.quay.cause.getLsbD i = true
  queue : ∃ more, t.power.queue = m.power.queue ++ more
  clocks : ∀ i < 32, lget t.power.clocks i 0 ≤ t.clockLimit i
  still : m.power.restoring = false → t.quay.throttle = m.quay.throttle ∧ t.power.brown = m.power.brown ∧
    t.power.bus48 = m.power.bus48 ∧ t.power.restoring = false
  restores : m.power.restoring = true → t.power.restoring = true ∨ t.power.brown = false ∧ t.power.bus48 = false

theorem lget_clocksDown (m : Hw) {i : Nat} (hi : i < 32) :
    lget (clocksDown m) i 0 = min (lget m.power.clocks i 0) (m.clockLimit i) := by
  simp [lget, clocksDown, hi]

theorem Shown.clockLimit {m t : Hw} (h : Shown m t) (i : Nat) : t.clockLimit i = m.clockLimit i := by
  have hfuses : t.fuses = m.fuses := (congrArg Hw.fuses h.rest :)
  rw [Hw.clockLimit, h.power, hfuses]
  rfl

/-- Without a restore the supply throttles and their limits stay. -/
theorem Retuned.ofTuned {m t : Hw} {q : List CapReq} {l : List Nat} (h : Shown (tuned m q l) t) : Retuned m t where
  ram := h.ram
  cores := h.cores
  settings := by rw [h.power]; rfl
  quay := (congrArg (fun x : Quay => { x with throttle := m.quay.throttle }) h.quay :)
  causes := h.causes
  queue := ⟨q, by rw [h.power]; rfl⟩
  clocks i hi := by
    rw [h.clockLimit, h.power]
    exact (lget_clocksDown m hi).trans_le (min_le_right _ _)
  still hr := by
    rw [h.power]
    exact ⟨h.register fun _ _ => rfl, rfl, rfl, hr⟩
  restores hr := by
    rw [h.power]
    exact .inl hr

/-- A restore that is over leaves no supply throttle; its limits did not count before. -/
theorem Retuned.ofRestored {m t : Hw} {q : List CapReq} {l : List Nat} {d : Nat} {b : Bool}
    (hrestoring : m.power.restoring = true)
    (h : Shown (withThrottle { m with power := restoredPower (tuned m q l).power d } b) t) : Retuned m t where
  ram := h.ram
  cores := h.cores
  settings := by rw [h.power]; rfl
  quay := (congrArg (fun x : Quay => { x with throttle := m.quay.throttle }) h.quay :)
  causes := h.causes
  queue := ⟨q, by rw [h.power]; rfl⟩
  clocks i hi := by
    have hlimit : m.clockLimit i = (withThrottle { m with power := restoredPower (tuned m q l).power d } b).clockLimit i := by
      simp [Hw.clockLimit, hrestoring, restoredPower, tuned, withThrottle, Power.thermalOf]
    rw [h.clockLimit, h.power, ← hlimit]
    exact (lget_clocksDown m hi).trans_le (min_le_right _ _)
  still hr := by rw [hrestoring] at hr; contradiction
  restores _ := by
    rw [h.power]
    exact .inr ⟨rfl, rfl⟩

theorem retune_retuned (m : Hw) : Retuned m m.retune := by
  obtain ⟨q, l, h | ⟨hrestoring, d, b, h⟩⟩ := retune_cases m
  · exact .ofTuned h
  · exact .ofRestored hrestoring h

/-- A register of the window that new clocks are no part of. -/
theorem Retuned.register {m t : Hw} (h : Retuned m t) {α : Type} {g : Quay → α}
    (hg : ∀ q c b, g { q with cause := c, throttle := b } = g q) : g t.quay = g m.quay := by
  have hquay := congrArg g h.quay
  rwa [hg] at hquay

/-- A setting that new clocks are no part of. -/
theorem Retuned.setting {m t : Hw} (h : Retuned m t) {α : Type} {g : Power → α} (hg : ∀ p, g (Sys2Proof.settings p) = g p) :
    g t.power = g m.power := by
  rw [← hg t.power, h.settings, hg]

/-- Under a supply throttle that is not being restored no cluster runs above F_MIN. -/
theorem clockLimit_le_fMin {m : Hw} (h : m.power.brown = true ∨ m.power.bus48 = true) (hr : m.power.restoring = false)
    (i : Nat) : m.clockLimit i ≤ 400 := by
  have hthrottle : ((m.power.brown || m.power.bus48) && !m.power.restoring) = true := by
    simpa [hr] using h
  rw [Hw.clockLimit, if_pos hthrottle]
  exact min_le_right _ _

end Sys2Proof
end

section
/-! PROOF. Supply warnings and their recovery (16 R426, R428). -/

namespace Sys2Proof

open Machine

/-- A supply throttle that is not being restored holds every cluster at or below F_MIN, and new clocks leave it in effect. -/
theorem Retuned.supply {m t : Hw} (h : Retuned m t) (hon : m.power.brown = true ∨ m.power.bus48 = true)
    (hr : m.power.restoring = false) : (∀ i < 32, lget t.power.clocks i 0 ≤ 400) ∧ throttled t.power = true := by
  obtain ⟨-, hbrown, hbus, hstill⟩ := h.still hr
  have hont : t.power.brown = true ∨ t.power.bus48 = true := by rwa [hbrown, hbus]
  refine ⟨fun i hi => (h.clocks i hi).trans (clockLimit_le_fMin hont hstill i), ?_⟩
  rcases hont with h | h <;> simp [throttled, h]

/-- The settings at a crossing of 340 V. -/
def browned (m : Hw) (v400 v48 : Nat) : Hw :=
  ((m.setV400 v400).setV48 v48).updPower fun w =>
    { w with brown := true, restoring := false, riseAt := none
             dipUs := if !m.power.brown then 0 else w.dipUs
             vmin := if !m.power.brown then v400 else min w.vmin v400 }

/-- After a crossing WARN and THROTTLE are shown. -/
theorem brownCross_shown (m : Hw) (v400 v48 : Nat) :
    Shown (((browned m v400 v48).retune.setWarn true).showThrottle.cause 0) (m.brownCross v400 v48) :=
  (Shown.event _ _ _ _).trans (.ofPosted (guaranteeAll_posted _ true))

theorem brownCross_spec (m : Hw) (v w : Nat) (hwarn : m.quay.warn = false) :
    let t := m.brownCross v w
    t.quay.warn = true ∧ t.quay.throttle = true ∧ t.quay.v400 = v ∧ t.quay.v48 = w ∧ t.quay.cause.getLsbD 1 = true ∧
      t.quay.cause.getLsbD 0 = true ∧ t.power.brown = true ∧ (∀ i, i < 32 → lget t.power.clocks i 0 ≤ 400) ∧
      t.mem.ram = m.mem.ram ∧ t.cores = m.cores := by
  have hretuned := retune_retuned (browned m v w)
  obtain ⟨hclocks, hthrottled⟩ := hretuned.supply (.inl rfl) rfl
  obtain ⟨-, hbrown, -, -⟩ := hretuned.still rfl
  have hposted := brownCross_shown m v w
  generalize (browned m v w).retune = u at *
  have hwarning := setWarn_shown u true
  have hthrottle := showThrottle_shown (u.setWarn true)
  rw [hwarning.power, hthrottled] at hthrottle
  have hrest := hthrottle.trans ((Shown.cause _ 0).trans hposted)
  have hall := (hwarning.withThrottle true).trans hrest
  have hfresh : u.quay.warn ≠ true := by
    rw [hretuned.register (g := Quay.warn) fun _ _ _ => rfl]
    exact (Bool.eq_false_iff.1 hwarn :)
  refine ⟨hall.register fun _ _ => rfl, hall.register fun _ _ => rfl, ?_, ?_, hrest.causes 1 (setWarn_cause hfresh),
    hposted.causes 0 (cause_self _ (by decide)), ?_, ?_, hall.ram.trans hretuned.ram, hall.cores.trans hretuned.cores⟩
  · exact (hall.register (g := Quay.v400) fun _ _ => rfl).trans (hretuned.register (g := Quay.v400) fun _ _ _ => rfl)
  · exact (hall.register (g := Quay.v48) fun _ _ => rfl).trans (hretuned.register (g := Quay.v48) fun _ _ _ => rfl)
  · rw [hall.power]
    exact hbrown
  · rw [hall.power]
    exact hclocks

/-- The settings at a crossing of 44 V. -/
def busDropped (m : Hw) (v400 v48 : Nat) : Hw :=
  ((m.setV400 v400).setV48 v48).updPower fun w =>
    { w with bus48 := true, bus48Warn := true, restoring := false, rise48At := none }

/-- BUS48_THROTTLE at a crossing of 44 V. -/
def busCross (m : Hw) (v400 v48 : Nat) : Hw :=
  ((((busDropped m v400 v48).retune.showThrottle).count 1 0 1 (b2n !m.power.bus48)).event 0x058A none
    [(16, v400), (16, v48), (8, 1)]).guaranteeAll true

theorem busCross_spec (m : Hw) (v w : Nat) :
    let t := busCross m v w
    t.quay.throttle = true ∧ t.power.bus48 = true ∧ t.capstanShut = true ∧ (∀ i, i < 32 → lget t.power.clocks i 0 ≤ 400) ∧
      t.mem.ram = m.mem.ram := by
  have hretuned := retune_retuned (busDropped m v w)
  obtain ⟨hclocks, hthrottled⟩ := hretuned.supply (.inr rfl) rfl
  obtain ⟨-, -, hbus, -⟩ := hretuned.still rfl
  have hposted : Shown (busDropped m v w).retune.showThrottle (busCross m v w) :=
    ((Shown.count _ _ _ _ _).trans (.event _ _ _ _)).trans (.ofPosted (guaranteeAll_posted _ true))
  generalize (busDropped m v w).retune = u at *
  have hthrottle := showThrottle_shown u
  rw [hthrottled] at hthrottle
  have hall := hthrottle.trans hposted
  refine ⟨hall.register fun _ _ => rfl, ?_, ?_, ?_, hall.ram.trans hretuned.ram⟩
  · rw [hall.power]
    exact hbus
  · have hshut : u.power.bus48Warn = true := hretuned.setting (g := Power.bus48Warn) fun _ => rfl
    rw [Hw.capstanShut, hall.power]
    exact Bool.or_eq_true_iff.2 (.inr hshut)
  · rw [hall.power]
    exact hclocks

theorem setWarn_false_spec (m : Hw) : (m.setWarn false).quay.warn = false ∧ (m.setWarn false).power = m.power ∧
    (m.setWarn false).mem = m.mem := by
  have h := setWarn_shown m false
  refine ⟨h.register fun _ _ => rfl, h.power, ?_⟩
  unfold Hw.setWarn
  split
  · rfl
  · exact cause_mem _ _

/-- Settles O47: each crossing by what it shows and the limit it sets, each end by its timer. -/
theorem supplyWarningsThrottle : Obligations.SupplyWarningsThrottle := by
  intro s hon
  refine ⟨fun v w hv hwarn => ⟨s.m.brownCross v w, ?_, brownCross_spec s.m v w hwarn⟩, fun v w hv hwarn => ?_,
    fun v b hv hbrown hr => ?_, fun v w hw hwarn => ⟨busCross s.m v w, ?_, busCross_spec s.m v w⟩,
    fun v w hw hbus hr => ?_, fun hany hr hshut hrise hrise48 => ?_, fun v hv hwarn => ?_, fun v hv hwarn => ?_⟩
  · change execBrownWarning v w s = _
    rw [execBrownWarning, onHw_next, if_neg (by simp [hon, hv]), if_neg (by simp [hwarn])]
  · refine ⟨((s.m.setV400 v).setV48 w).updPower fun p => { p with vmin := min p.vmin v }, ?_, rfl, rfl, rfl, rfl⟩
    change execBrownWarning v w s = _
    rw [execBrownWarning, onHw_next, if_neg (by simp [hon, hv]), if_pos hwarn]
  · obtain ⟨hwarn, hpower, hmem⟩ := setWarn_false_spec ((s.m.setV400 v).updPower fun w =>
      { w with riseAt := some s.m.now, dipUs := w.dipUs + if s.m.quay.warn then b else 0 })
    refine ⟨_, ?_, hwarn, ?_, ?_, hmem⟩
    · change execBrownWarningClear v b s = _
      rw [execBrownWarningClear, onHw_next, if_pos (by simp [hon, hv, hbrown, hr])]
    · rw [hpower]
      rfl
    · rw [hpower]
      exact hbrown
  · change execBus48Throttle v w s = _
    rw [execBus48Throttle, onHw_next, if_neg (by simp [hon, hw, hwarn])]
    rfl
  · refine ⟨((s.m.setV400 v).setV48 w).updPower fun p => { p with bus48Warn := false, rise48At := some s.m.now }, ?_, rfl,
      rfl, rfl⟩
    change execBus48Clear v w s = _
    rw [execBus48Clear, onHw_next, if_pos (by simp [hon, hw, hbus, hr])]
  · have h := retune_retuned (s.m.updPower fun w => { w with restoring := true })
    refine ⟨_, ?_, h.restores rfl, h.ram⟩
    change execRecoveryTimer s = _
    rw [execRecoveryTimer, onHw_next]
    dsimp only
    rw [if_pos (by simp [hon, hany, hr, hshut, hrise, hrise48])]
  · have h := Shown.event ((s.m.setV400 v).updPower fun w => { w with overWarn := true }) 0x0588 none [(16, v)]
    refine ⟨_, ?_, ?_, h.register (g := Quay.v400) fun _ _ => rfl, h.ram⟩
    · change execInputOvervoltageWarning v s = _
      rw [execInputOvervoltageWarning, onHw_next, if_pos (by simp [hon, hv, hwarn])]
    · rw [h.power]
      rfl
  · refine ⟨(s.m.setV400 v).updPower fun w => { w with overWarn := false }, ?_, rfl, rfl, rfl⟩
    change execInputOvervoltageClear v s = _
    rw [execInputOvervoltageClear, onHw_next, if_pos (by simp [hon, hv, hwarn])]

end Sys2Proof
end

section
/-! PROOF. The capstan, the power cap and conversion units (16 R422 to R425, R431). -/

namespace Sys2Proof

open Machine

/-- A request that takes effect leaves the capstan's queue and its record of admissions. -/
theorem capstanServe_keeps (m : Hw) (r : CapReq) :
    let t := m.capstanServe r
    (t.power.queue, t.power.recent, t.mem, t.cores) = (m.power.queue, m.power.recent, m.mem, m.cores) := by
  unfold Hw.capstanServe
  split
  · rfl
  · rfl
  · unfold Hw.clockStep
    split <;> rfl

/-- The oldest request is taken off the capstan's queue and noted. -/
def admitted (m : Hw) (r : CapReq) (rest : List CapReq) : Hw :=
  m.updPower fun w =>
    { w with queue := rest
             recent := (m.now, r.kind, reqCurrent r.kind) :: w.recent.filter fun a => m.now < a.1 + 10 ^ 7 }

theorem capstanAdmission_spec (m : Hw) (r : CapReq) (rest : List CapReq) :
    let t := ((admitted m r rest).capstanServe r).retune
    (∃ more, t.power.queue = rest ++ more) ∧ t.power.recent.head? = some (m.now, r.kind, reqCurrent r.kind) ∧
      (∀ i, i < 32 → lget t.power.clocks i 0 ≤ t.clockLimit i) ∧ t.mem.ram = m.mem.ram ∧ t.cores = m.cores := by
  have hserved := capstanServe_keeps (admitted m r rest) r
  generalize (admitted m r rest).capstanServe r = u at hserved
  simp only [Prod.mk.injEq] at hserved
  obtain ⟨hqueue, hrecent, hmem, hcores⟩ := hserved
  have hretuned := retune_retuned u
  refine ⟨?_, ?_, hretuned.clocks, ?_, hretuned.cores.trans hcores⟩
  · obtain ⟨more, h⟩ := hretuned.queue
    exact ⟨more, by rw [h, hqueue]; rfl⟩
  · rw [hretuned.setting (g := Power.recent) fun _ => rfl, hrecent]
    rfl
  · rw [hretuned.ram, hmem]
    rfl

/-! ### A late request -/

/-- The requests with `r` marked as late. -/
def lateMarked (r : CapReq) (l : List CapReq) : List CapReq := l.map fun x => if x = r then { x with warned := true } else x

theorem lateMarked_mem {r : CapReq} {l : List CapReq} (h : r ∈ l) : { r with warned := true } ∈ lateMarked r l :=
  List.mem_map.2 ⟨r, h, if_pos rfl⟩

theorem lateMarked_other {r x : CapReq} {l : List CapReq} (hx : x ∈ l) (hne : x ≠ r) : x ∈ lateMarked r l :=
  List.mem_map.2 ⟨x, hx, if_neg hne⟩

theorem lateMarked_kinds (r : CapReq) (l : List CapReq) : (lateMarked r l).map CapReq.kind = l.map CapReq.kind := by
  rw [lateMarked, List.map_map]
  refine List.map_congr_left fun x _ => ?_
  dsimp only [Function.comp]
  split <;> rfl

/-! ### The power cap -/

/-- New cap clocks go to the clusters of the shared pool alone, and nothing else of the state changes but clocks. -/
structure Capped (m t : Hw) : Prop where
  pIn : t.quay.pIn = m.quay.pIn
  capClk : ∀ i < 32, m.poolClusters.contains i = false → lget t.power.capClk i 400 = lget m.power.capClk i 400
  ram : t.mem.ram = m.mem.ram
  cores : t.cores = m.cores

theorem lget_map_range {α : Type} (f : Nat → α) (d : α) {n i : Nat} (hi : i < n) : lget ((List.range n).map f) i d = f i := by
  simp [lget, hi]

theorem Capped.ofRetune {m u : Hw} (hpIn : u.quay.pIn = m.quay.pIn) (hram : u.mem.ram = m.mem.ram) (hcores : u.cores = m.cores)
    (hcap : ∀ i < 32, m.poolClusters.contains i = false → lget u.power.capClk i 400 = lget m.power.capClk i 400) :
    Capped m u.retune := by
  have h := retune_retuned u
  refine ⟨(h.register (g := Quay.pIn) fun _ _ _ => rfl).trans hpIn, fun i hi hout => ?_, h.ram.trans hram, h.cores.trans hcores⟩
  rw [h.setting (g := Power.capClk) fun _ => rfl, hcap i hi hout]

theorem capLower_capped (m : Hw) : Capped m m.capLower := by
  refine .ofRetune rfl rfl rfl fun i hi hout => ?_
  dsimp only [Hw.updPower]
  rw [lget_map_range _ _ hi, hout, Bool.false_and, if_neg Bool.false_ne_true]
  rfl

theorem capRaise_capped (m : Hw) : Capped m m.capRaise := by
  refine .ofRetune rfl rfl rfl fun i hi hout => ?_
  dsimp only [Hw.updPower]
  rw [lget_map_range _ _ hi, hout, if_neg Bool.false_ne_true]
  rfl

/-- What POWER_CAP_EVALUATION does once the power is shown. -/
def capEvaluated (m : Hw) (watts : Nat) : Hw :=
  if m.power.limitW < watts then
    let m := m.updPower fun w => { w with overSince := w.overSince <|> some m.now }
    if m.power.noted then m else m.capLower
  else if 100 * watts < 95 * m.power.limitW then m.capRaise
  else m.updPower fun w => { w with overSince := none, noted := false }

theorem capEvaluated_capped (m : Hw) (watts : Nat) : Capped m (capEvaluated m watts) := by
  unfold capEvaluated
  split
  · dsimp only
    split
    · exact ⟨rfl, fun _ _ _ => rfl, rfl, rfl⟩
    · have h := capLower_capped (m.updPower fun w => { w with overSince := w.overSince <|> some m.now })
      exact ⟨h.pIn, h.capClk, h.ram, h.cores⟩
  · split
    · exact capRaise_capped m
    · exact ⟨rfl, fun _ _ _ => rfl, rfl, rfl⟩

/-! ### A conversion unit -/

/-- CONVERSION_UNIT_LOSS of a powered island. -/
def convLost (m : Hw) (group unit : Nat) : Hw :=
  let n := lget m.power.lost group 0 + 1
  let left := if group = 0 then 6 - n else (Config.freeWord m.mem.free).toNat % 256
  let cap := if group = 0 && n = 2 then 4100 else Config.convPower group left
  let m := { m with mem := { m.mem with free := m.mem.free + 1 } }
  let m := m.updPower fun w =>
    { w with lost := lset w.lost group n
             convCap := if n < 2 then w.convCap
               else some (match w.convCap with | none => cap | some c => min c cap) }
  m.dirty.event 0x0589 none [(8, group), (8, unit), (8, left)]

theorem lget_lset_self {α : Type} {l : List α} {i : Nat} (hi : i < l.length) (v d : α) : lget (lset l i v) i d = v := by
  simp [lget, lset, hi]

/-- Settles O49: the capstan by what serving a request keeps, the cap by the clusters it passes over. -/
theorem capstanAndPowerCap : Obligations.CapstanAndPowerCap := by
  intro s
  refine ⟨fun r rest hqueue hon hst hshut hadmits => ?_, fun r hfind => ?_, fun w hhub => ?_,
    fun t hover hhub hnoted hlong hslow => ?_, fun g u hon hg => ?_⟩
  · refine ⟨_, ?_, capstanAdmission_spec s.m r rest⟩
    change execCapstanAdmission s = _
    rw [execCapstanAdmission, onHw_next, hqueue]
    dsimp only
    rw [if_neg (by simp [hon, hst, hshut, hadmits])]
    rfl
  · have hmem := List.mem_of_find?_eq_some hfind
    have h : Shown (s.m.updPower fun w => { w with queue := lateMarked r w.queue }) _ :=
      (Shown.event _ 0x0583 none [(8, r.kind), (8, if r.kind = 1 then 4 else r.q), (16, 0),
        (32, (s.m.now - r.at_) / 1000)]).trans (.count _ 1 0 3 1)
    refine ⟨_, ?_, ?_, ?_, ?_, h.ram, h.cores⟩
    · change execWakeBoundExpiry s = _
      rw [execWakeBoundExpiry, onHw_next, hfind]
      rfl
    all_goals rw [h.power]
    · exact lateMarked_mem hmem
    · exact lateMarked_kinds r s.m.power.queue
    · exact fun x hx hne => lateMarked_other hx hne
  · have h := capEvaluated_capped { s.m with quay := { s.m.quay with pIn := w } } w
    refine ⟨_, ?_, h.pIn, h.capClk, h.ram, h.cores⟩
    change execPowerCapEvaluation w s = _
    rw [execPowerCapEvaluation, onHw_next, if_neg (by simp [hhub])]
    rfl
  · have h := Shown.event (s.m.updPower fun w => { w with noted := true }) 0x0584 none
      [(16, s.m.quay.pIn), (16, s.m.power.limitW)]
    refine ⟨_, ?_, ?_, h.ram, h.cores⟩
    · change execPowerLimitNotMet s = _
      rw [execPowerLimitNotMet, onHw_next, hover]
      dsimp only
      have hall : (s.m.poolClusters.all fun i => decide (lget s.m.power.clocks i 0 ≤ fMin)) = true :=
        List.all_eq_true.2 fun i hi => decide_eq_true (hslow i hi)
      rw [if_pos (by rw [hhub, hnoted, hall, decide_eq_true (show t + 10 ^ 7 ≤ s.m.now from hlong)]; rfl)]
    · rw [h.power]
      rfl
  · refine ⟨convLost s.m g u, ?_, ?_, ?_, ?_, ?_⟩
    · change execConversionUnitLoss g u s = _
      rw [execConversionUnitLoss, onHw_next, if_neg (by simp [hon])]
      rfl
    all_goals unfold convLost
    · rw [event_power]
      exact lget_lset_self hg _ _
    · exact (congrArg (fun i : Island => i.health.dirty) (event_island _ _ _ _) :)
    · exact event_ram _ _ _ _
    · exact event_cores _ _ _ _

end Sys2Proof
end

section
/-! PROOF. Thermal limits (16 R432): what a change of throttle shows, and the limit of a quarter. -/

namespace Sys2Proof

open Machine

/-- `t` is `m` with its thermal throttles shown. -/
structure ThermalShown (m t : Hw) : Prop where
  settings : settings t.power = settings m.power
  clocks : t.power.clocks = m.power.clocks
  throt : t.quay.throt = (m.power.hot != 0#4 || m.power.inlet)
  throttle : t.quay.throttle = throttled m.power
  cause : t.quay.cause.getLsbD 2 = true
  tcool : t.quay.tcool = m.quay.tcool
  ram : t.mem.ram = m.mem.ram
  cores : t.cores = m.cores

theorem thermalChange_shown (m : Hw) (site : Nat) (begun : Bool) (temp limit : Nat) :
    ThermalShown m (m.thermalChange site begun temp limit) := by
  let u : Hw := { m with quay := { m.quay with throt := m.power.hot != 0#4 || m.power.inlet } }
  have hposted := (Shown.count (u.cause 2) 1 0 2 (b2n begun)).trans
    (.event _ 0x058B none [(8, site), (8, b2n begun), (16, temp), (16, limit)])
  obtain ⟨l, hparts⟩ := PartsNoted.thermalGuarantee (Hw.showThrottle
    (((u.cause 2).count 1 0 2 (b2n begun)).event 0x058B none [(8, site), (8, b2n begun), (16, temp), (16, limit)]))
  change Shown _ (m.thermalChange site begun temp limit) at hparts
  generalize ((u.cause 2).count 1 0 2 (b2n begun)).event 0x058B none _ = r at *
  have hreports : Shown u r := (Shown.cause u 2).trans hposted
  have hthrottle := showThrottle_shown r
  rw [hreports.power] at hthrottle
  have hshown := (hreports.withThrottle (throttled u.power)).trans hthrottle
  rw [hshown.power] at hparts
  have hall := (hshown.withPower _).trans hparts
  have hcause : r.quay.cause.getLsbD 2 = true := hposted.causes 2 (cause_self u (by decide))
  refine ⟨?_, ?_, hall.register fun _ _ => rfl, hall.register fun _ _ => rfl, hparts.causes 2 (hthrottle.causes 2 hcause),
    hall.register (g := Quay.tcool) fun _ _ => rfl, hall.ram, hall.cores⟩
  · rw [hall.power]
    rfl
  · rw [hall.power]
    rfl

/-- The bit of quarter `q` among the quarters. -/
theorem quarterBit {q : Nat} (hq : q < 4) : (1#4 <<< q).getLsbD q = true := by
  interval_cases q <;> decide

theorem ne_zero_of_getLsbD {b : BitVec 4} {q : Nat} (h : b.getLsbD q = true) : (b != 0#4) = true := by
  rw [bne_iff_ne]
  rintro rfl
  simp at h

/-- With the inlet limit in effect every cluster is held at or below F_MIN. -/
theorem clockLimit_le_of_inlet {m : Hw} (h : m.power.inlet = true) (i : Nat) : m.clockLimit i ≤ 400 := by
  have hlimit : m.clockLimit i ≤ m.power.thermalOf (i / 8) := by
    unfold Hw.clockLimit
    dsimp only
    split <;> omega
  rwa [Power.thermalOf, if_pos h] at hlimit

/-- A quarter's limit falls, and clocks follow. -/
theorem thermalFall_retuned (m : Hw) (q : Nat) : Retuned
    (m.updPower fun w => { w with thermal := lset w.thermal q (max fMin (lget w.thermal q fMin - 100))
                                  lastThermal := lset w.lastThermal q m.now }) (m.thermalFall q) := retune_retuned _

/-- A setting that a thermal change is no part of. -/
theorem ThermalShown.setting {m t : Hw} (h : ThermalShown m t) {α : Type} {g : Power → α}
    (hg : ∀ p, g (Sys2Proof.settings p) = g p) : g t.power = g m.power := by
  rw [← hg t.power, h.settings, hg]

/-- Quarter `q` at 105 °C: its reading and its throttle. -/
def heated (m : Hw) (q temp : Nat) : Hw := (m.setTq q temp).updPower fun w => { w with hot := w.hot ||| (1#4 <<< q) }

/-- QUARTER_THERMAL_THROTTLE of a powered quarter. -/
def quarterThrottled (m : Hw) (q temp : Nat) : Hw :=
  ((heated m q temp).thermalFall q).thermalChange q true temp (lget ((heated m q temp).thermalFall q).power.thermal q fMin)

theorem quarterThrottled_spec (m : Hw) {q : Nat} (temp : Nat) (hq : q < m.power.thermal.length) (hfour : q < 4) :
    let t := quarterThrottled m q temp
    t.power.hot.getLsbD q = true ∧ t.quay.throt = true ∧ t.quay.throttle = true ∧ t.quay.cause.getLsbD 2 = true ∧
      lget t.power.thermal q 400 = max 400 (lget m.power.thermal q 400 - 100) ∧ t.mem.ram = m.mem.ram ∧
      t.cores = m.cores := by
  have hfall := thermalFall_retuned (heated m q temp) q
  unfold quarterThrottled
  generalize (heated m q temp).thermalFall q = u at *
  have hchange := thermalChange_shown u q true temp (lget u.power.thermal q fMin)
  have hhot : u.power.hot.getLsbD q = true := by
    rw [hfall.setting (g := Power.hot) fun _ => rfl]
    change (m.power.hot ||| 1#4 <<< q).getLsbD q = true
    rw [BitVec.getLsbD_or, quarterBit hfour, Bool.or_true]
  have hnonzero := ne_zero_of_getLsbD hhot
  refine ⟨?_, ?_, ?_, hchange.cause, ?_, hchange.ram.trans hfall.ram, hchange.cores.trans hfall.cores⟩
  · rw [hchange.setting (g := Power.hot) fun _ => rfl, hhot]
  · rw [hchange.throt, hnonzero, Bool.true_or]
  · rw [hchange.throttle, throttled, hnonzero, Bool.or_true, Bool.true_or]
  · rw [hchange.setting (g := Power.thermal) fun _ => rfl, hfall.setting (g := Power.thermal) fun _ => rfl]
    exact lget_lset_self hq _ _

/-- A further fall of a throttled quarter. -/
theorem thermalFall_spec (m : Hw) {q : Nat} (hq : q < m.power.thermal.length) :
    let t := (m.thermalFall q).thermalGuarantee
    t.power.hot = m.power.hot ∧ lget t.power.thermal q 400 = max 400 (lget m.power.thermal q 400 - 100) ∧
      t.mem.ram = m.mem.ram := by
  have hfall := thermalFall_retuned m q
  obtain ⟨l, hparts⟩ := PartsNoted.thermalGuarantee (m.thermalFall q)
  refine ⟨?_, ?_, hparts.ram.trans hfall.ram⟩
  · rw [hparts.power]
    exact hfall.setting (g := Power.hot) fun _ => rfl
  · rw [hparts.power, show Power.thermal _ = _ from hfall.setting (g := Power.thermal) fun _ => rfl]
    exact lget_lset_self hq _ _

/-- Quarter `q` at 100 °C or less: its throttle ends and its limit is the maximum clock. -/
def cooled (m : Hw) (q temp : Nat) : Hw :=
  (m.setTq q temp).updPower fun w =>
    { w with hot := w.hot &&& ~~~(1#4 <<< q), thermal := lset w.thermal q m.fuses.clk }

theorem cooled_spec (m : Hw) {q : Nat} (temp : Nat) (hq : q < m.power.thermal.length) (hfour : q < 4) :
    let t := ((cooled m q temp).thermalChange q false temp m.fuses.clk).retune
    t.power.hot.getLsbD q = false ∧ lget t.power.thermal q 400 = m.fuses.clk ∧ t.mem.ram = m.mem.ram := by
  have hchange := thermalChange_shown (cooled m q temp) q false temp m.fuses.clk
  have hretuned := retune_retuned ((cooled m q temp).thermalChange q false temp m.fuses.clk)
  refine ⟨?_, ?_, hretuned.ram.trans hchange.ram⟩
  · rw [hretuned.setting (g := Power.hot) fun _ => rfl, hchange.setting (g := Power.hot) fun _ => rfl]
    change (m.power.hot &&& ~~~(1#4 <<< q)).getLsbD q = false
    rw [BitVec.getLsbD_and, BitVec.getLsbD_not, quarterBit hfour, Bool.not_true, Bool.and_false, Bool.and_false]
  · rw [hretuned.setting (g := Power.thermal) fun _ => rfl, hchange.setting (g := Power.thermal) fun _ => rfl]
    exact lget_lset_self hq _ _

/-- The coolant inlet limit with its reading. -/
def inletSet (m : Hw) (temp : Nat) (b : Bool) : Hw :=
  { m with quay := { m.quay with tcool := temp } }.updPower fun w => { w with inlet := b }

theorem inletLimit_spec (m : Hw) (temp : Nat) :
    let t := (inletSet m temp true).retune.thermalChange 5 true temp fMin
    t.power.inlet = true ∧ t.quay.tcool = temp ∧ t.quay.throt = true ∧ (∀ i, i < 32 → lget t.power.clocks i 0 ≤ 400) ∧
      t.mem.ram = m.mem.ram := by
  have hretuned := retune_retuned (inletSet m temp true)
  have hchange := thermalChange_shown (inletSet m temp true).retune 5 true temp fMin
  have hinlet : (inletSet m temp true).retune.power.inlet = true := hretuned.setting (g := Power.inlet) fun _ => rfl
  refine ⟨(hchange.setting (g := Power.inlet) fun _ => rfl).trans hinlet, ?_, ?_, fun i hi => ?_,
    hchange.ram.trans hretuned.ram⟩
  · exact hchange.tcool.trans (hretuned.register (g := Quay.tcool) fun _ _ _ => rfl)
  · rw [hchange.throt, hinlet, Bool.or_true]
  · rw [hchange.clocks]
    exact (hretuned.clocks i hi).trans (clockLimit_le_of_inlet hinlet i)

theorem inletClear_spec (m : Hw) (temp limit : Nat) :
    let t := ((inletSet m temp false).thermalChange 5 false temp limit).retune
    t.power.inlet = false ∧ t.quay.tcool = temp ∧ t.mem.ram = m.mem.ram := by
  have hchange := thermalChange_shown (inletSet m temp false) 5 false temp limit
  have hretuned := retune_retuned ((inletSet m temp false).thermalChange 5 false temp limit)
  refine ⟨?_, ?_, hretuned.ram.trans hchange.ram⟩
  · exact (hretuned.setting (g := Power.inlet) fun _ => rfl).trans (hchange.setting (g := Power.inlet) fun _ => rfl)
  · exact (hretuned.register (g := Quay.tcool) fun _ _ _ => rfl).trans hchange.tcool

/-- Settles O50: each limit by the settings that new clocks and reports keep. -/
theorem thermalLimitsAct : Obligations.ThermalLimitsAct := by
  intro s hon
  refine ⟨fun q t hq ht hup hhot => ?_, fun q t hq hhot hlong => ?_, fun q t hq hfour ht hhot => ?_, fun t ht hinlet => ?_,
    fun t ht hinlet => ?_⟩
  · refine ⟨_, ?_, quarterThrottled_spec s.m t hq (BitVec.lt_of_getLsbD hup)⟩
    change execQuarterThermalThrottle q t s = _
    rw [execQuarterThermalThrottle, onHw_next, if_pos (by simp [hon, ht, hup, hhot])]
    rfl
  · have hexec : exec (.thermalLimitStep q t) s = .next { s with m :=
        if 250 ≤ t then ((s.m.setTq q t).thermalFall q).thermalGuarantee else s.m.setTq q t } := by
      change execThermalLimitStep q t s = _
      rw [execThermalLimitStep, onHw_next, if_pos (by simp [hon, hhot, hlong])]
    refine ⟨_, hexec, ?_⟩
    split
    · obtain ⟨hkept, hthermal, hram⟩ := thermalFall_spec (s.m.setTq q t) hq
      exact ⟨(congrArg (·.getLsbD q) hkept).trans hhot, hthermal, hram⟩
    · exact ⟨hhot, rfl, rfl⟩
  · refine ⟨_, ?_, cooled_spec s.m t hq hfour⟩
    change execThermalRecovery q t s = _
    rw [execThermalRecovery, onHw_next, if_pos (by simp [hon, ht, hhot])]
    rfl
  · refine ⟨_, ?_, inletLimit_spec s.m t⟩
    change execCoolantInletLimit t s = _
    rw [execCoolantInletLimit, onHw_next, if_pos (by simp [hon, ht, hinlet])]
    rfl
  · refine ⟨_, ?_, inletClear_spec s.m t s.m.fuses.clk⟩
    change execCoolantInletClear t s = _
    rw [execCoolantInletClear, onHw_next, if_pos (by simp [hon, ht, hinlet])]
    rfl

end Sys2Proof
end

section
/-! PROOF. Work of contexts and cores leaves the quay window, the power settings, flash, fuses and time: what is rolled back,
saved, restored or abandoned (15 R393, R394, R400), and what a stop removes (16 R430). -/

namespace Sys2Proof

open Machine

/-- The quay window, the power settings, flash, fuses and time. -/
def plantOf (m : Hw) : Quay × Power × Flash × Fuses × Nat := (m.quay, m.power, m.flash, m.fuses, m.now)

@[simp] theorem count_plantOf (m : Hw) (b i w n : Nat) : plantOf (m.count b i w n) = plantOf m := by
  simp [plantOf, Hw.now]

@[simp] theorem logErrorAt_plantOf (m : Hw) (t code : Nat) (ctx : Option Nat) (recov : Bool) (loc aux : Nat) :
    plantOf (m.logErrorAt t code ctx recov loc aux) = plantOf m := by
  simp [plantOf, logErrorAt_now]

theorem posted_plantOf {m t : Hw} (h : Posted m t) (hnow : t.now = m.now) : plantOf t = plantOf m := by
  have hrest := congrArg (fun x : Hw => (x.quay, x.power, x.flash, x.fuses)) h.rest
  simp only [Prod.mk.injEq] at hrest
  obtain ⟨hquay, hpower, hflash, hfuses⟩ := hrest
  simp only [plantOf, hquay, hpower, hflash, hfuses, hnow]

@[simp] theorem event_plantOf (m : Hw) (code : Nat) (ctx : Option Nat) (p : List (Nat × Nat)) :
    plantOf (m.event code ctx p) = plantOf m := posted_plantOf (.event m code ctx p) (event_now m code ctx p)

@[simp] theorem updCtx_plantOf (m : Hw) (c : Nat) (f : Ctx → Ctx) : plantOf (m.updCtx c f) = plantOf m :=
  (congrArg plantOf (updCtx_frame m c f) :)

theorem loseWork_plantOf (m : Hw) (c : Nat) : plantOf (m.loseWork c) = plantOf m :=
  (congrArg plantOf (loseWork_frame m c) :)

/-! ### Translations and pages -/

theorem growPoolN_plantOf (n : Nat) (m : Hw) (c : Nat) : plantOf (Hw.growPoolN n m c) = plantOf m := by
  induction n generalizing m with
  | zero => rfl
  | succ n ih =>
    unfold Hw.growPoolN
    split
    · rfl
    · split
      · rfl
      · split
        · exact ih _
        · split
          · exact ih _
          · rfl

theorem growPool_plantOf (m : Hw) (c : Nat) : plantOf (m.growPool c) = plantOf m := by
  unfold Hw.growPool
  split
  · rfl
  · exact growPoolN_plantOf _ _ _

theorem poke_plantOf (m : Hw) (c va : Nat) (bs : List Byte) : plantOf (m.poke c va bs) = plantOf m := by
  refine foldl_keeps (fun a : Hw × List Byte => plantOf a.1) (fun a p _ => ?_) (m, bs)
  dsimp only
  unfold Hw.pokePiece
  split
  · next l _ => cases l <;> rfl
  · rfl

theorem putSeq_plantOf (m : Hw) (c s : Nat) (d : SeqDesc) : plantOf (m.putSeq c s d) = plantOf m := by
  unfold Hw.putSeq
  split
  · rfl
  · exact poke_plantOf _ _ _ _

theorem freePage_plantOf (m : Hw) (p : PageDesc) : plantOf (m.freePage p) = plantOf m := by
  unfold Hw.freePage
  split <;> rfl

theorem reformPage_plantOf (m : Hw) (c : Nat) (s : List SeqSnap) (i : Nat) (p : PageDesc) :
    plantOf (m.reformPage c s i p) = plantOf m := by
  unfold Hw.reformPage
  split
  · rfl
  · exact updCtx_plantOf _ _ _

theorem recount_plantOf (m : Hw) (c : Nat) (s : List SeqSnap) (back : List Leaf) : plantOf (m.recount c s back) = plantOf m := by
  unfold Hw.recount
  split
  · rfl
  · refine foldl_keeps plantOf (fun d e _ => ?_) m
    dsimp only
    split
    · exact freePage_plantOf _ _
    · exact updCtx_plantOf _ _ _

theorem restoreSeqs_plantOf (m : Hw) (c : Nat) (s : List SeqSnap) : plantOf (m.restoreSeqs c s) = plantOf m := by
  unfold Hw.restoreSeqs
  split
  · rfl
  · dsimp only
    rw [foldl_keeps plantOf fun d o _ => putSeq_plantOf d c o.seq o.desc, growPool_plantOf]
    refine (recount_plantOf _ _ _ _).trans ((foldl_keeps plantOf (fun d i _ => ?_) _).trans (updCtx_plantOf _ _ _))
    split
    · exact reformPage_plantOf _ _ _ _ _
    · rfl

/-! ### Rollbacks and their reports -/

theorem corePost_plantOf (m : Hw) (core phys : Nat) (recov : Bool) : plantOf (m.corePost core phys recov) = plantOf m := by
  have hring := posted_plantOf (.ofBooked (.toRing m 0x0680 none (packFields
    [(8, core / 64), (8, phys), (8, core), (8, (m.physQ (core / 64)).goodLeft)]))) (Booked.toRing _ _ _ _).now
  unfold Hw.corePost Hw.eventAs
  dsimp only
  split
  · exact (logErrorAt_plantOf _ _ _ _ _ _ _).trans hring
  · exact hring

theorem rollTo_plantOf (m : Hw) (c e : Nat) : plantOf (m.rollTo c e) = plantOf m := by
  have hcores : plantOf ((m.ctxCores c).foldl (fun (m : Hw) k =>
      (m.updCore k fun x => x.rollTo m.now (m.cyc k) e (m.bindingImages c k)).countCore k cROLLBACKS 1) m) = plantOf m := by
    refine foldl_keeps plantOf (fun d k _ => ?_) m
    exact count_plantOf _ _ _ _ _
  unfold Hw.rollTo
  dsimp only
  rw [updCtx_plantOf, ← hcores]
  split
  · exact restoreSeqs_plantOf _ _ _
  · rfl

theorem coreFaultLog_plantOf (m : Hw) (c e : Nat) (back : Bool) : plantOf (m.coreFaultLog c e back) = plantOf m := by
  unfold Hw.coreFaultLog
  split
  · rfl
  · rw [updCtx_plantOf]
    refine foldl_keeps plantOf (fun d r _ => ?_) m
    dsimp only
    refine (corePost_plantOf _ _ _ _).trans ?_
    split
    · rw [event_plantOf, logErrorAt_plantOf]
    · exact logErrorAt_plantOf _ _ _ _ _ _ _

theorem rollbackLog_plantOf (m : Hw) (c e : Nat) : plantOf (m.rollbackLog c e) = plantOf m := by
  unfold Hw.rollbackLog
  dsimp only
  split
  · exact coreFaultLog_plantOf _ _ _ _
  · rw [updCtx_plantOf]
    split
    · exact coreFaultLog_plantOf _ _ _ _
    · rw [logErrorAt_plantOf, coreFaultLog_plantOf]

/-! ### Runs -/

theorem startRun_plantOf (m : Hw) (plan : Nat) : plantOf (m.startRun plan) = plantOf m := by
  unfold Hw.startRun
  split
  · rfl
  · split
    · rfl
    · rfl
    · rw [updCtx_plantOf]
      refine foldl_keeps plantOf (fun d e _ => ?_) _
      rfl

theorem nextRun_plantOf (m : Hw) (plan : Nat) (p : Plan) (r : Run) : plantOf (m.nextRun plan p r) = plantOf m := by
  unfold Hw.nextRun
  split
  · exact loseWork_plantOf _ _
  · dsimp only
    split
    · exact startRun_plantOf _ _
    · rfl

theorem dropPlan_plantOf (m : Hw) (plan : Nat) : plantOf (m.dropPlan plan) = plantOf m := by
  unfold Hw.dropPlan
  split
  · rfl
  · dsimp only
    refine (loseWork_plantOf _ _).trans (foldl_keeps plantOf (fun d e _ => ?_) m)
    split <;> split <;> rfl

theorem runEnded_plantOf (m : Hw) (plan : Nat) (p : Plan) (r : Run) : plantOf (m.runEnded plan p r) = plantOf m := by
  unfold Hw.runEnded
  split
  · exact nextRun_plantOf _ _ _ _
  · exact (foldl_keeps plantOf (fun _ _ _ => event_plantOf _ _ _ _) _).trans (dropPlan_plantOf _ _)

theorem endCore_plantOf (m : Hw) (c k : Nat) : plantOf (m.endCore c k) = plantOf m := by
  unfold Hw.endCore
  split
  · rfl
  · split <;> rfl

theorem abandonRuns_plantOf (m : Hw) (c : Nat) : plantOf (m.abandonRuns c) = plantOf m := by
  refine foldl_keeps plantOf (fun d p _ => ?_) m
  split
  · rfl
  · split
    · rw [runEnded_plantOf, event_plantOf]
      exact foldl_keeps plantOf (fun _ _ _ => endCore_plantOf _ _ _) _
    · rfl

theorem recover_plantOf (m : Hw) (c : Nat) : plantOf (m.recover c) = plantOf m := by
  unfold Hw.recover
  dsimp only
  split
  · rw [rollbackLog_plantOf, rollTo_plantOf]
  · rw [updCtx_plantOf, coreFaultLog_plantOf, abandonRuns_plantOf]

/-! ### The slipway -/

theorem outCore_plantOf (m : Hw) (c : Nat) (bare : Bool) (k : Nat) : plantOf (m.outCore c bare k) = plantOf m :=
  count_plantOf _ _ _ _ _

theorem outAll_plantOf (m : Hw) : plantOf m.outAll = plantOf m := by
  unfold Hw.outAll
  refine Eq.trans (foldl_keeps plantOf (fun d c _ => ?_) _) (rfl : plantOf m.mayDecide = plantOf m)
  dsimp only
  rw [updCtx_plantOf, foldl_keeps plantOf fun _ _ _ => outCore_plantOf _ _ _ _]
  split
  · exact recover_plantOf _ _
  · rfl

end Sys2Proof
end

section
/-! PROOF. Power states (16 R418 to R420, 13 R362): entry to Hold and Anchor, the wake, and the writes held meanwhile. -/

namespace Sys2Proof

open Machine

/-! ### Runs that start -/

theorem startRuns_plantOf (m : Hw) (c : Nat) : plantOf (m.startRuns c) = plantOf m :=
  foldl_keeps plantOf (fun d p _ => startRun_plantOf d p.1) m

theorem decide_plantOf (m : Hw) : plantOf m.decide_ = plantOf m := (congrArg plantOf (Decided.decide_ m).rest :)

theorem quay_of_plantOf {m t : Hw} (h : plantOf t = plantOf m) : t.quay = m.quay := congrArg Prod.fst h
theorem power_of_plantOf {m t : Hw} (h : plantOf t = plantOf m) : t.power = m.power := congrArg (·.2.1) h

/-! ### Run (16 R419) -/

/-- The power state and the writes held. -/
def wakeOf (m : Hw) : PState × List HeldWrite := (m.quay.ps, m.quay.held)

theorem toRun_wakeOf (m : Hw) : wakeOf m.toRun = (.run, m.quay.held) := by
  have hps := setPs_shown m .run
  have hruns : plantOf m.toRun = plantOf (m.setPs .run) :=
    (decide_plantOf _).trans (foldl_keeps plantOf (fun d c _ => startRuns_plantOf d c.1) _)
  rw [wakeOf, quay_of_plantOf hruns]
  exact Prod.ext (hps.register (g := Quay.ps) fun _ _ => rfl) (hps.register (g := Quay.held) fun _ _ => rfl)

/-! ### Writes that were held take effect -/

theorem cause_wakeOf (m : Hw) (i : Nat) : wakeOf (m.cause i) = wakeOf m :=
  Prod.ext ((Shown.cause m i).register (g := Quay.ps) fun _ _ => rfl)
    ((Shown.cause m i).register (g := Quay.held) fun _ _ => rfl)

theorem hosterr_wakeOf (m : Hw) (e : HostErr) : wakeOf (m.hosterr e) = wakeOf m := by
  unfold Hw.hosterr
  cases e
  all_goals
    dsimp only
    split
    · exact cause_wakeOf _ 6
    · rfl

theorem signal_wakeOf (m : Hw) (src ctx e tgt bol : Nat) (set : Bool) (val : Word32) :
    wakeOf (m.signal src ctx e tgt bol set val) = wakeOf m :=
  (congrArg wakeOf (Booked.traffic _ _ _ _ _ _).rest :)

theorem unhold_of_run {m : Hw} (h : m.quay.ps = .run) : m.unhold = m := by
  rw [Hw.unhold, h, if_neg (by decide)]

theorem bollardBell_wakeOf {m : Hw} (h : m.quay.ps = .run) (core : Nat) (v : BitVec 64) :
    wakeOf (m.bollardBell core v) = wakeOf m := by
  unfold Hw.bollardBell
  dsimp only
  split
  · exact hosterr_wakeOf _ _
  · split
    · rfl
    · rw [signal_wakeOf, unhold_of_run h]

theorem unknownCmd_wakeOf (m : Hw) (pair : Nat) : wakeOf (m.unknownCmd pair) = wakeOf m := by
  unfold Hw.unknownCmd
  split
  · rw [wakeOf, answer_quay]
    rfl
  · rfl

theorem mailBell_wakeOf (m : Hw) (pair : Nat) (v : BitVec 64) : wakeOf (m.mailBell pair v) = wakeOf m := by
  unfold Hw.mailBell
  dsimp only
  split
  · exact unknownCmd_wakeOf _ _
  · exact hosterr_wakeOf _ _

theorem submitTail_wakeOf {m : Hw} (h : m.quay.ps = .run) (queue : Nat) (v : BitVec 32) :
    wakeOf (m.submitTail queue v) = wakeOf m := by
  unfold Hw.submitTail
  split
  · exact hosterr_wakeOf _ _
  · split
    · refine (congrArg wakeOf (unhold_of_run ?_)).trans ?_
      · exact h
      · rfl
    · exact hosterr_wakeOf _ _

theorem intakeTail_wakeOf (m : Hw) (ring : Nat) (v : BitVec 32) : wakeOf (m.intakeTail ring v) = wakeOf m := by
  unfold Hw.intakeTail
  split
  · exact hosterr_wakeOf _ _
  · split
    · rfl
    · exact hosterr_wakeOf _ _

theorem applyWrite_wakeOf {m : Hw} (h : m.quay.ps = .run) (w : HeldWrite) : wakeOf (m.applyWrite w) = wakeOf m := by
  cases w with
  | bollard core v => exact bollardBell_wakeOf h core v
  | mailbox pair v => exact mailBell_wakeOf m pair v
  | submitTail q v => exact submitTail_wakeOf h q v
  | intakeTail r v => exact intakeTail_wakeOf m r v

theorem applyWrites_wakeOf {m : Hw} {held : List HeldWrite} (h : wakeOf m = (.run, held)) (l : List HeldWrite) :
    wakeOf (l.foldl Hw.applyWrite m) = (.run, held) := by
  refine List.foldlRecOn (motive := fun t => wakeOf t = (.run, held)) l _ h fun t ht w _ => ?_
  rw [applyWrite_wakeOf (congrArg Prod.fst ht), ht]

/-! ### The commands -/

/-- The contexts whose cores come back at a wake are resident again. -/
def comeBack (m : Hw) : Hw :=
  (m.ctxs.filter fun c => c.2.part.isSome && c.2.lastSwitchIn != 0 && !m.onCores c.1).foldl (fun (m : Hw) (c : Nat × Ctx) =>
    (m.switchIn c.1).updCtx c.1 fun x => { x with st := if x.st == .runnable then .resident else x.st }) m

/-- The wake is over: the module runs, and the writes that were held take effect. -/
def woken (m : Hw) : Hw :=
  (comeBack m).quay.held.foldl Hw.applyWrite
    { comeBack m with quay := { (comeBack m).quay with held := [] } }.toRun

theorem woken_wakeOf (m : Hw) : wakeOf (woken m) = (.run, []) := applyWrites_wakeOf (toRun_wakeOf _) _

/-- The hub and the four quarters are asked for as Waking begins. -/
def waking (m : Hw) : Hw :=
  (m.setPs .waking).updPower fun w =>
    { w with queue := ⟨1, 0, m.now, false⟩ :: (List.range 4).map fun q => ⟨0, q, m.now, false⟩ }

theorem waking_spec (m : Hw) : (waking m).quay.ps = .waking ∧ (waking m).quay.held = m.quay.held ∧
    (waking m).power.queue.map CapReq.kind = [1, 0, 0, 0, 0] ∧ (waking m).mem.ram = m.mem.ram ∧
    (waking m).cores = m.cores := by
  have h := setPs_shown m .waking
  exact ⟨h.register (g := Quay.ps) fun _ _ => rfl, h.register (g := Quay.held) fun _ _ => rfl, rfl, h.ram, h.cores⟩

/-- A report of a link's state changes counters, the port and event rings alone. -/
theorem portLink_kept (m : Hw) (p : Nat) (l : LinkReport) : (m.portLink p l).quay = m.quay ∧
    (m.portLink p l).power = m.power ∧ (m.portLink p l).mem.ram = m.mem.ram ∧ (m.portLink p l).cores = m.cores := by
  unfold Hw.portLink
  dsimp only
  split
  · simp
  · simp [Hw.setPort]

theorem pstateDone_shown (m : Hw) (pair seq : Nat) : Shown m (m.pstateDone pair seq) := by
  unfold Hw.pstateDone Hw.eventDone
  exact .event _ _ _ _

theorem pstateDone_plantOf (m : Hw) (pair seq : Nat) : plantOf (m.pstateDone pair seq) = plantOf m := event_plantOf m _ _ _

/-- The slipway has saved the state on cores, and the command's pair is told. -/
def allOut (m : Hw) (pair seq : Nat) : Hw := (m.updPower fun w => { w with target := none }).outAll.pstateDone pair seq

theorem allOut_plantOf (m : Hw) (pair seq : Nat) :
    plantOf (allOut m pair seq) = plantOf (m.updPower fun w => { w with target := none }) := by
  rw [allOut, pstateDone_plantOf, outAll_plantOf]

/-- Anchor is reached, and the quarters and the hub go off. -/
def anchored (m : Hw) (pair seq : Nat) : Hw :=
  ((allOut m pair seq).setPs .anchor).keepPtrs.updPower fun w =>
    { w with quartersUp := 0#4, hubUp := false, queue := [], clocks := List.replicate 32 0 }

theorem anchored_spec (m : Hw) (pair seq : Nat) (hps : m.quay.ps ≠ .anchor) :
    let t := anchored m pair seq
    t.quay.ps = .anchor ∧ t.power.target = none ∧ t.power.quartersUp = 0#4 ∧ t.power.hubUp = false ∧
      t.quay.cause.getLsbD 0 = true := by
  have hquay := quay_of_plantOf (allOut_plantOf m pair seq)
  have htarget := congrArg Power.target (power_of_plantOf (allOut_plantOf m pair seq))
  unfold anchored
  generalize allOut m pair seq = u at *
  have h := setPs_shown u .anchor
  have hold : u.quay.ps ≠ .anchor := by
    rw [hquay]
    exact hps
  exact ⟨h.register (g := Quay.ps) fun _ _ => rfl, (congrArg Power.target h.power).trans htarget, rfl, rfl, setPs_cause hold⟩

/-- Hold is reached. -/
def onHold (m : Hw) (pair seq : Nat) : Hw := ((m.updPower fun w => { w with target := none }).pstateDone pair seq).setPs .hold

theorem onHold_spec (m : Hw) (pair seq : Nat) (hps : m.quay.ps ≠ .hold) :
    let t := onHold m pair seq
    t.quay.ps = .hold ∧ t.power.target = none ∧ t.quay.cause.getLsbD 0 = true ∧ t.mem.ram = m.mem.ram ∧
      t.cores = m.cores := by
  have hdone := pstateDone_shown (m.updPower fun w => { w with target := none }) pair seq
  unfold onHold
  generalize (m.updPower fun w => { w with target := none }).pstateDone pair seq = u at *
  have h := setPs_shown u .hold
  have hold : u.quay.ps ≠ .hold := by
    rw [hdone.register (g := Quay.ps) fun _ _ => rfl]
    exact hps
  exact ⟨h.register (g := Quay.ps) fun _ _ => rfl, (congrArg Power.target (h.power.trans hdone.power) :), setPs_cause hold,
    h.ram.trans hdone.ram, h.cores.trans hdone.cores⟩

/-- Settles O52: entry and wake by what the work of contexts leaves of the window and the power settings. -/
theorem powerStatesChange : Obligations.PowerStatesChange := by
  intro s
  refine ⟨fun pair seq htarget hruns hhub hps => ?_, fun pair seq htarget hruns hhub hctxs => ?_,
    fun hlive hps => ⟨fun hheld => ?_, fun hheld => ?_, fun p b corr uncorr hp hcfg hup => ?_⟩,
    fun hlive hps hquarters hhub => ?_⟩
  · refine ⟨_, ?_, onHold_spec s.m pair seq hps⟩
    change execHoldEntryComplete s = _
    rw [execHoldEntryComplete, onHw_next, htarget]
    dsimp only
    rw [if_neg (by simp [hruns, hhub, hps])]
    rfl
  · have hps : s.m.quay.ps ≠ .anchor := by
      intro h
      simp [Hw.hubOn, h] at hhub
    refine ⟨_, ?_, anchored_spec s.m pair seq hps⟩
    have hready : ((s.m.ctxs.any fun c => c.2.st == .switching) || !(s.m.ctxs.all fun c => s.m.drained c.1)) = false := by
      simp only [Bool.or_eq_false_iff, List.any_eq_false, Bool.not_eq_false', List.all_eq_true, beq_iff_eq]
      exact ⟨fun c hc => (hctxs c hc).1, fun c hc => (hctxs c hc).2⟩
    change execHoldEntryComplete s = _
    rw [execHoldEntryComplete, onHw_next, htarget]
    dsimp only
    rw [if_neg (by simp [hruns, hhub, hps]), hready, if_neg Bool.false_ne_true]
    rfl
  · obtain ⟨h1, h2, h3, h4, h5⟩ := waking_spec s.m
    refine ⟨waking s.m, ?_, h1, h2, h3, h4, h5⟩
    change execAnchorWake .heldWrite s = _
    rw [execAnchorWake, onHw_next, if_neg (by simp [hlive, hps])]
    dsimp only
    rw [if_neg (by simp [hheld])]
    rfl
  · change execAnchorWake .heldWrite s = _
    rw [execAnchorWake, onHw_next, if_neg (by simp [hlive, hps])]
    dsimp only
    rw [if_pos (by simp [hheld])]
  · obtain ⟨h1, -, h3, h4, h5⟩ := waking_spec s.m
    obtain ⟨hquay, hpower, hram, hcores⟩ := portLink_kept (waking s.m) p ⟨b, corr, uncorr⟩
    refine ⟨(waking s.m).portLink p ⟨b, corr, uncorr⟩, ?_, by rw [hquay, h1], by rw [hpower, h3], by rw [hram, h4],
      by rw [hcores, h5]⟩
    change execAnchorWake (.portLink p ⟨b, corr, uncorr⟩) s = _
    rw [execAnchorWake, onHw_next, if_neg (by simp [hlive, hps])]
    dsimp only
    rw [if_pos (by simp [hp, hup, Option.isSome_iff_ne_none.2 hcfg])]
    rfl
  · have h := woken_wakeOf s.m
    refine ⟨woken s.m, ?_, congrArg Prod.fst h, congrArg Prod.snd h⟩
    change execWakeComplete s = _
    rw [execWakeComplete, onHw_next, if_pos (by simp [hlive, hps, hquarters, hhub])]
    rfl

end Sys2Proof
end

section
/-! PROOF. Orderly stops and their end (16 R426, R429, R430, R432). -/

namespace Sys2Proof

open Machine

/-! ### Every BUSY pair completes (14 R364) -/

/-- A BUSY pair of a list is answered. -/
def answerIfBusy (status : Nat) (m : Hw) (p : Nat × Pair) : Hw :=
  if p.2.st == .busy then m.answer p.1 false status 0 [] else m

theorem answerIfBusy_not_busy {status : Nat} {m : Hw} {n : Nat} (h : (m.espor.pair n).st ≠ .busy) (p : Nat × Pair) :
    ((answerIfBusy status m p).espor.pair n).st ≠ .busy := by
  unfold answerIfBusy
  split
  · by_cases hn : n = p.1
    · subst hn
      rw [answer_pair_self]
      exact PairState.noConfusion
    · rwa [answer_pair_ne m false status 0 [] hn]
  · exact h

theorem answers_not_busy {status : Nat} {m : Hw} {n : Nat} (h : (m.espor.pair n).st ≠ .busy) (l : List (Nat × Pair)) :
    ((l.foldl (answerIfBusy status) m).espor.pair n).st ≠ .busy :=
  List.foldlRecOn (motive := fun t : Hw => (t.espor.pair n).st ≠ .busy) l _ h fun _ ht p _ => answerIfBusy_not_busy ht p

/-- A pair that was BUSY stands in the list, and is done from there on. -/
theorem answerBusy_pair (m : Hw) (status n : Nat) : ((m.answerBusy status).espor.pair n).st ≠ .busy := by
  change ((m.espor.pairs.foldl (answerIfBusy status) m).espor.pair n).st ≠ .busy
  by_cases hbusy : (m.espor.pair n).st = .busy
  · have hmem : (n, m.espor.pair n) ∈ m.espor.pairs := by
      refine mem_of_mget ?_
      rcases hp : mget m.espor.pairs n with _ | p
      · simp [Espor.pair, mgetD, hp, Pair.idle] at hbusy
      · simp [Espor.pair, mgetD, hp]
    obtain ⟨before, after, hsplit⟩ := List.append_of_mem hmem
    rw [hsplit, List.foldl_append, List.foldl_cons]
    refine answers_not_busy ?_ after
    rw [answerIfBusy, if_pos (by rw [hbusy]; rfl), answer_pair_self]
    exact PairState.noConfusion
  · exact answers_not_busy hbusy _

theorem answerBusy_frame (m : Hw) (status : Nat) :
    let t := m.answerBusy status
    (t.quay, t.boot, t.coming, t.cores, t.mem) = (m.quay, m.boot, m.coming, m.cores, m.mem) := by
  refine foldl_keeps (fun t : Hw => (t.quay, t.boot, t.coming, t.cores, t.mem)) (fun d p _ => ?_) m
  split <;> rfl

/-! ### The stop -/

/-- The stop before its BUSY pairs are answered. -/
def stopShown (m : Hw) (reason : Nat) : Hw :=
  let u : Hw := { m with boot := .done, coming := none, cores := m.cores.map fun (c : Nat × Core) => (c.1, c.2.stopAll) }
  let t := u.setStatus .stopping (BitVec.ofNat 16 reason)
  (t.event 0x0587 none [(16, reason), (16, t.quay.v400)]).logError reason none false
    (packFields [(16, reason), (16, t.quay.v400)]) 0

theorem orderlyStop_eq {m : Hw} (h : m.stoppable = true) (reason : Nat) :
    m.orderlyStop reason = (stopShown m reason).answerBusy 0x0009 := by
  rw [Hw.orderlyStop, h, if_neg (by decide)]
  rfl

theorem stopShown_shown (m : Hw) (reason : Nat) :
    Shown { m with boot := .done, coming := none, cores := m.cores.map fun (c : Nat × Core) => (c.1, c.2.stopAll)
                   quay := { m.quay with st := .stopping, reason := BitVec.ofNat 16 reason } } (stopShown m reason) :=
  (setStatus_shown { m with boot := .done, coming := none
                            cores := m.cores.map fun (c : Nat × Core) => (c.1, c.2.stopAll) } .stopping
    (BitVec.ofNat 16 reason)).trans ((Shown.event _ _ _ _).trans (.ofPosted (.logErrorAt _ _ _ _ _ _ _)))

/-- A stopped core runs none of its threads 0 to 3 and has no op of theirs in progress. -/
theorem stopAll_idle (c : Core) :
    (∀ t, t < 4 → (c.stopAll.thread t).st ≠ .running) ∧ ∀ o ∈ c.stopAll.ops, 4 ≤ o.thread := by
  refine ⟨fun t ht => (threadStopped_stopAll c ht).1, fun o ho => ?_⟩
  by_contra hlow
  exact (threadStopped_stopAll c (Nat.lt_of_not_le hlow)).2 o ho rfl

/-- What a stop leaves of module `m`. -/
structure Stopping (m : Hw) (reason : BitVec 16) (t : Hw) : Prop where
  st : t.quay.st = .stopping
  reason : t.quay.reason = reason
  boot : t.boot = .done
  coming : t.coming = none
  cores : ∀ c ∈ t.cores, (∀ k, k < 4 → (c.2.thread k).st ≠ .running) ∧ ∀ o ∈ c.2.ops, 4 ≤ o.thread
  pairs : ∀ n, (t.espor.pair n).st ≠ .busy
  ram : t.mem.ram = m.mem.ram
  marks : t.mem.marks = m.mem.marks

theorem orderlyStop_stopping {m : Hw} (h : m.stoppable = true) (reason : Nat) :
    Stopping m (BitVec.ofNat 16 reason) (m.orderlyStop reason) := by
  rw [orderlyStop_eq h]
  have hshown := stopShown_shown m reason
  have hframe := answerBusy_frame (stopShown m reason) 0x0009
  have hpairs := answerBusy_pair (stopShown m reason) 0x0009
  generalize stopShown m reason = u at *
  simp only [Prod.mk.injEq] at hframe
  obtain ⟨hquay, hboot, hcoming, hcores, hmem⟩ := hframe
  refine ⟨?_, ?_, ?_, ?_, fun c hc => ?_, hpairs, ?_, ?_⟩
  · rw [hquay, hshown.register (g := Quay.st) fun _ _ => rfl]
  · rw [hquay, hshown.register (g := Quay.reason) fun _ _ => rfl]
  · exact hboot.trans (congrArg Hw.boot hshown.rest :)
  · exact hcoming.trans (congrArg Hw.coming hshown.rest :)
  · rw [hcores, hshown.cores] at hc
    obtain ⟨d, -, rfl⟩ := List.mem_map.1 hc
    exact stopAll_idle d.2
  · rw [hmem, hshown.ram]
  · rw [hmem, hshown.marks]

/-! ### What begins a stop -/

/-- A reading that a stop begins with leaves the always-on island, STATE and memory. -/
theorem after_orderlyStop {i : Instr} {s : State} {m : Hw} {r : Nat} (hexec : exec i s = .next { s with m := m.orderlyStop r })
    (hisland : m.island = s.m.island) (hst : m.quay.st = s.m.quay.st) (hmem : m.mem = s.m.mem)
    (h : s.m.stoppable = true) : After i s (Stopping s.m (BitVec.ofNat 16 r)) := by
  have hm : m.stoppable = true := by
    rwa [Hw.stoppable, hisland, hst]
  have hstop := orderlyStop_stopping hm r
  exact ⟨_, hexec, { hstop with ram := by rw [hstop.ram, hmem], marks := by rw [hstop.marks, hmem] }⟩

/-- The reading of a site, and the mark of a critical temperature. -/
def critical (m : Hw) (site temp : Nat) : Hw :=
  let m := if site < 4 then m.setTq site temp else { m with quay := { m.quay with thub := temp } }
  if m.quay.crit then m else { m with quay := { m.quay with crit := true } }.cause 2

theorem critical_kept (m : Hw) (site temp : Nat) :
    (critical m site temp).island = m.island ∧ (critical m site temp).quay.st = m.quay.st ∧
      (critical m site temp).mem = m.mem := by
  have hread : ∀ u : Hw, u.island = m.island → u.quay.st = m.quay.st → u.mem = m.mem →
      let t := if u.quay.crit then u else { u with quay := { u.quay with crit := true } }.cause 2
      t.island = m.island ∧ t.quay.st = m.quay.st ∧ t.mem = m.mem := by
    intro u hisland hst hmem
    dsimp only
    split
    · exact ⟨hisland, hst, hmem⟩
    · have h := (Shown.cause { u with quay := { u.quay with crit := true } } 2).register (g := Quay.st) fun _ _ => rfl
      exact ⟨(cause_island _ _).trans hisland, h.trans hst, (cause_mem _ _).trans hmem⟩
  unfold critical
  split
  · exact hread (m.setTq site temp) rfl rfl rfl
  · exact hread { m with quay := { m.quay with thub := temp } } rfl rfl rfl

/-! ### The end of a stop (16 R430) -/

theorem freeFrames_plantOf (m : Hw) (x : Ctx) : plantOf (m.freeFrames x) = plantOf m := by
  unfold Hw.freeFrames
  dsimp only
  refine Eq.trans (foldl_keeps plantOf (fun _ _ _ => ?_) _) ?_
  · rfl
  · refine Eq.trans (foldl_keeps plantOf (fun _ _ _ => ?_) _) ?_
    · rfl
    · exact foldl_keeps plantOf (fun d p _ => freePage_plantOf d p.2) m

/-- Every context is removed and the power goes off. -/
def emptied (m : Hw) : Hw :=
  { m.destroyAll with mem := m.destroyAll.mem.lost }.updPower fun w =>
    { w with quartersUp := 0#4, hubUp := false, queue := [], clocks := List.replicate 32 0, steadyFrom := m.destroyAll.now }

/-- The window, flash, fuses and time outlast the contexts. -/
theorem destroyAll_kept (m : Hw) : m.destroyAll.quay = m.quay ∧ m.destroyAll.flash = m.flash ∧
    m.destroyAll.fuses = m.fuses ∧ m.destroyAll.now = m.now := by
  have hfold : plantOf (m.ctxs.foldl (fun m c => (m.coreFaultLog c.1 0 false).freeFrames c.2) m) = plantOf m := by
    refine foldl_keeps plantOf (fun d c _ => ?_) m
    rw [freeFrames_plantOf, coreFaultLog_plantOf]
  simp only [plantOf, Prod.mk.injEq] at hfold
  obtain ⟨hquay, -, hflash, hfuses, hnow⟩ := hfold
  exact ⟨hquay, hflash, hfuses, hnow⟩

/-- Settles O48: the stops by one lemma over the reading they begin with, the end by what outlasts the contexts. -/
theorem stopsAreOrderly : Obligations.StopsAreOrderly := by
  refine ⟨fun s hon hst hst' i reason hi => ?_, fun s hlive hst => ?_, fun s => ?_⟩
  · have hstoppable : s.m.stoppable = true := by simp [Hw.stoppable, hon, hst, hst']
    have hstop : After i s (Stopping s.m reason) := by
      rcases hi with ⟨v, rfl, hv, rfl⟩ | ⟨v, rfl, hv, rfl⟩ | ⟨v, rfl, hv, rfl⟩ | ⟨v, rfl, hv, rfl⟩ | ⟨site, v, rfl, hv, rfl⟩
      · refine after_orderlyStop (m := s.m.setV400 v) (r := 0x0510) ?_ rfl rfl rfl hstoppable
        change execInputUndervoltageStop v s = _
        rw [execInputUndervoltageStop, onHw_next, if_pos (by simp [hon, hv])]
      · refine after_orderlyStop (m := s.m.setV400 v) (r := 0x0511) ?_ rfl rfl rfl hstoppable
        change execInputOvervoltageStop v s = _
        rw [execInputOvervoltageStop, onHw_next, if_pos (by simp [hon, hv])]
      · refine after_orderlyStop (m := s.m.setV48 v) (r := 0x0512) ?_ rfl rfl rfl hstoppable
        change execBus48Stop v s = _
        rw [execBus48Stop, onHw_next, if_pos (by simp [hon, hv])]
      · refine after_orderlyStop (m := { s.m with quay := { s.m.quay with v12 := v } }) (r := 0x0513) ?_ rfl rfl rfl hstoppable
        change execRail12Stop v s = _
        rw [execRail12Stop, onHw_next, if_pos (by simp [hon, hv])]
      · obtain ⟨hisland, hquay, hmem⟩ := critical_kept s.m site v
        refine after_orderlyStop (m := critical s.m site v) (r := 0x0514) ?_ hisland hquay hmem hstoppable
        change execCriticalTemperature site v s = _
        rw [execCriticalTemperature, onHw_next, if_pos (by simp [hon, hv])]
        rfl
    obtain ⟨m, hexec, h⟩ := hstop
    exact ⟨m, hexec, h.st, h.reason, h.boot, h.coming, h.cores, h.pairs, h.ram, h.marks⟩
  · obtain ⟨hquay, hflash, hfuses, hnow⟩ := destroyAll_kept s.m
    have hshown := setStatus_shown (emptied s.m) .stopped (emptied s.m).quay.reason
    refine ⟨(emptied s.m).setStatus .stopped (emptied s.m).quay.reason, ?_, ?_⟩
    · change execOrderlyStopComplete s = _
      rw [execOrderlyStopComplete, onHw_next, if_pos (by simp [hlive, hst])]
      rfl
    · refine ⟨hshown.register (g := Quay.st) fun _ _ => rfl,
        (hshown.register (g := Quay.reason) fun _ _ => rfl).trans (congrArg Quay.reason hquay :), ?_⟩
      simp only [setStatus_ctxs, setStatus_plans, setStatus_queues, setStatus_jobs, setStatus_streams, setStatus_cores,
        setStatus_mem, setStatus_power, setStatus_flash, setStatus_fuses]
      exact ⟨rfl, rfl, rfl, rfl, rfl, rfl, rfl, rfl, rfl, hnow, hflash, hfuses⟩
  · exact ⟨_, rfl, rfl, rfl, rfl, rfl, rfl, rfl, rfl, rfl⟩

end Sys2Proof
end

section
/-! PROOF. A step on a queue that is not empty: O1. -/

namespace Sys2Proof

open Machine

/-- Settles O1: the front of a queue that is not empty decides the step. -/
theorem stepRunsFrontCommand : Obligations.StepRunsFrontCommand := fun _ _ _ => rfl

end Sys2Proof
end

section
/-! PROOF. Snapshots of the counters and their arming (18 R455 to R457), and the firmware's beat (13 R355): O46 and O59. -/

namespace Sys2Proof

open Machine

/-! ### Ticks and publications (18 R455 to R457) -/

/-- The snapshot state once tick `n`, at instant `t`, has copied every counter. -/
def snapTaken (m : Hw) (n t : Nat) : Snap :=
  { m.snap with shadow := m.counters, shadowTick := n, shadowTide := t, publishing := true, epoch := m.snap.epoch + 1
                epochB := m.snap.epoch + 1 }.rearm n

/-- The snapshot state once tick `n` has been skipped. -/
def snapSkipped (m : Hw) (n : Nat) : Snap := { m.snap with skipped := min (m.snap.skipped + 1) 0xFFFFFFFF }.rearm n

/-- The snapshot state once the copy is the published area. -/
def snapPublished (m : Hw) : Snap :=
  { m.snap with publishing := false, area := m.snap.shadow, areaTick := m.snap.shadowTick, areaTide := m.snap.shadowTide
                areaPeriod := m.snap.period, areaArmed := m.snap.armTick.isSome, areaSkipped := m.snap.skipped
                epochE := m.snap.epoch }

theorem snapDue_of_armed {m : Hw} {n : Nat} {t : TideCfg} (harm : m.snap.armTick = some n) (ht : m.island.tideCfg = some t)
    (hat : t.at n ≤ m.now) : m.snapDue = some (n, t.at n) := by
  simp only [Hw.snapDue, harm, ht, hat, if_true]

section
variable {s : State}

theorem idles_snapshotTick (h : s.m.snapDue = none) : Idles .snapshotTick s := by
  change execSnapshotTick s = _
  rw [execSnapshotTick, onHw_next, h]

variable (hon : s.m.hubOn = true)
include hon

theorem leaves_snapshotTick_taken {n t : Nat} (hdue : s.m.snapDue = some (n, t)) (hpub : s.m.snap.publishing = false) :
    Leaves .snapshotTick s { s.m with snap := snapTaken s.m n t } := by
  change execSnapshotTick s = _
  rw [execSnapshotTick, onHw_next, hdue]
  dsimp only
  rw [if_neg (by simp [hon]), if_neg (by simp [hpub])]
  rfl

theorem leaves_snapshotTick_skipped {n t : Nat} (hdue : s.m.snapDue = some (n, t)) (hpub : s.m.snap.publishing = true) :
    Leaves .snapshotTick s { s.m with snap := snapSkipped s.m n } := by
  change execSnapshotTick s = _
  rw [execSnapshotTick, onHw_next, hdue]
  dsimp only
  rw [if_neg (by simp [hon]), if_pos hpub]
  rfl

theorem leaves_snapshotPublication (hpub : s.m.snap.publishing = true) :
    Leaves .snapshotPublication s { s.m with snap := snapPublished s.m } := by
  change execSnapshotPublication s = _
  rw [execSnapshotPublication, onHw_next, if_pos (by simp [hpub, hon])]
  rfl

end

/-! ### The firmware's beat (13 R355) -/

/-- The beat has stopped: firmware loses the commands it has in hand. -/
def beatLost (m : Hw) : Hw :=
  { m with quay := { m.quay with fwAlive := false }, espor := { m.espor with order := [] } }

theorem leaves_fwBeat {s : State} (h : s.m.fwRuns = true) : Leaves .fwBeat s
    { s.m with quay := { s.m.quay with fwBeat := s.m.quay.fwBeat + 1, fwBeatAt := s.m.now, fwAlive := true } } := by
  change execFwBeat s = _
  rw [execFwBeat, onHw_next, if_pos h]

theorem leaves_fwDead {s : State} (halive : s.m.quay.fwAlive = true) (hlate : s.m.quay.fwBeatAt + 1000000000 ≤ s.m.now) :
    Leaves .fwDead s ((beatLost s.m).cause 4) := by
  change execFwDead s = _
  rw [execFwDead, onHw_next, if_pos (by simpa [halive] using hlate)]
  rfl

/-- Settles O46: a tick and a publication set the snapshot state alone; the end of the beat is one change and a cause. -/
theorem snapshotsAreTakenWhole : Obligations.SnapshotsAreTakenWhole := by
  intro s
  refine ⟨fun n t hdue hon => ⟨fun hpub => ?_, fun hpub => ?_⟩, idles_snapshotTick, fun hpub hon => ?_, leaves_fwBeat,
    fun halive hlate => ?_⟩
  · exact ⟨_, leaves_snapshotTick_taken hon hdue hpub, rfl, rfl⟩
  · exact leaves_snapshotTick_skipped hon hdue hpub
  · exact ⟨_, leaves_snapshotPublication hon hpub, rfl, rfl, rfl, rfl, rfl, rfl, rfl⟩
  · refine ⟨_, leaves_fwDead halive hlate, ?_, cause_self _ (by decide), ?_, ?_, ?_, ?_⟩
    · exact (Shown.cause (beatLost s.m) 4).register (g := Quay.fwAlive) fun _ _ => rfl
    · rw [cause_espor]; rfl
    · rw [cause_espor]; rfl
    · rw [cause_mem]; rfl
    · rw [cause_cores]; rfl

/-! ### Arming (18 R455) -/

section
variable {m : Hw} {p : Pair} {t : TideCfg}

theorem tooFast_iff (n : Nat) : t.tooFast n = true ↔ n ≠ 0 ∧ n * (10 ^ 9 * t.den / t.num) < 10 ^ 6 := by
  rw [TideCfg.tooFast, Bool.and_eq_true, bne_iff_ne, decide_eq_true_iff]

theorem snapArmReply_of_untimed (h : m.island.tideCfg = none) : m.snapArmReply p = .refuse 0x000A (atParam 0) := by
  rw [Hw.snapArmReply, h]

variable (ht : m.island.tideCfg = some t)
include ht

/-- With a tick rate set, the tick that has begun is the first thing that may refuse, the period the second. -/
theorem snapArmReply_eq : m.snapArmReply p = if t.at (p.arg 0 8) ≤ m.now then .refuse 0x000A (atParam 0)
    else if t.tooFast (p.arg 8 4) = true then .refuse 0x000A (atParam 8)
    else .done { m with snap := { m.snap with armTick := some (p.arg 0 8), period := p.arg 8 4 } }
      (leBytes 4 (m.snap.epoch + 1)) := by
  simp only [Hw.snapArmReply, ht, judge_cons, judge_nil, decide_eq_true_eq]

theorem snapArmReply_refuses (h : t.at (p.arg 0 8) ≤ m.now ∨ t.tooFast (p.arg 8 4) = true) :
    ∃ d, m.snapArmReply p = .refuse 0x000A d := by
  rw [snapArmReply_eq ht]
  split
  · exact ⟨_, rfl⟩
  · next hbegun => exact ⟨_, if_pos (h.resolve_left hbegun)⟩

theorem snapArmReply_done (hahead : m.now < t.at (p.arg 0 8)) (hslow : ¬t.tooFast (p.arg 8 4) = true) :
    m.snapArmReply p = .done { m with snap := { m.snap with armTick := some (p.arg 0 8), period := p.arg 8 4 } }
      (leBytes 4 (m.snap.epoch + 1)) := by
  rw [snapArmReply_eq ht, if_neg (Nat.not_le.2 hahead), if_neg hslow]

end

theorem exec_snapArm (s : State) (pair : Nat) : exec (.snapArm pair) s =
    .next { s with m := s.m.serve pair snapArmCmd s.m.snapArmReply } := rfl

theorem exec_snapCancel (s : State) (pair : Nat) : exec (.snapCancel pair) s =
    .next { s with m := s.m.serve pair snapCancelCmd s.m.snapCancelReply } := rfl

/-- Settles O59: a request arms as its reply says; a due tick re-arms whether it takes a copy or is skipped. -/
theorem snapshotsAreArmedAndCancelled : Obligations.SnapshotsAreArmedAndCancelled := by
  refine ⟨fun s pair htaken => ?_, fun s n t hon harm ht hat => ?_, fun s pair htaken => ?_, fun s hpub hon => ?_⟩
  · have hrefused : (∃ d, s.m.snapArmReply (s.m.espor.pair pair) = .refuse 0x000A d) →
        ∃ d, Leaves (.snapArm pair) s (s.m.answer pair false 0x000A d []) := fun ⟨d, h⟩ =>
      ⟨d, by rw [Leaves, exec_snapArm, serve_refuse htaken h]⟩
    refine ⟨fun hnone => hrefused ⟨_, snapArmReply_of_untimed hnone⟩, fun t ht => ⟨fun h => ?_, fun hahead hslow => ?_⟩⟩
    · exact hrefused (snapArmReply_refuses ht (h.imp_right (tooFast_iff _).2))
    · refine ⟨_, leaves_of_done (exec_snapArm s pair) htaken (snapArmReply_done ht hahead fun h => hslow ((tooFast_iff _).1 h)),
        answer_snap .., answer_resp _ _ _ _ _ (leBytes_length _ _) (by decide), answer_mem .., answer_cores ..⟩
  · have hdue := snapDue_of_armed harm ht hat
    by_cases hpub : s.m.snap.publishing = true
    · exact ⟨_, leaves_snapshotTick_skipped hon hdue hpub, rfl, fun h => absurd (hpub.symm.trans h) (by decide)⟩
    · exact ⟨_, leaves_snapshotTick_taken hon hdue (by simpa using hpub), rfl, fun _ => ⟨rfl, rfl, rfl, rfl⟩⟩
  · exact ⟨_, leaves_of_done (exec_snapCancel s pair) htaken rfl, answer_snap .., answer_mem .., answer_cores ..⟩
  · exact ⟨_, leaves_snapshotPublication hon hpub, rfl, rfl, rfl⟩

end Sys2Proof
end

section
/-! PROOF. The sideband (19 R480 to R483): O57. -/

namespace Sys2Proof

open Machine

/-! ### The island takes a request (19 R481) -/

section
variable {m : Hw} {a : SbAnswer}

theorem sb_of_off (h : m.island.on = false) : m.sb a = m := by
  simp [Hw.sb, h]

theorem sb_of_free (hon : m.island.on = true) (hfree : m.island.asked = none) :
    m.sb a = { m with island := { m.island with asked := some a } } := by
  simp [Hw.sb, hon, hfree]

theorem sb_of_held (hon : m.island.on = true) (hheld : m.island.asked.isSome = true) :
    m.sb a = { m with island := { m.island with answer := some .notReady } } := by
  obtain ⟨b, hb⟩ := Option.isSome_iff_exists.1 hheld
  simp [Hw.sb, hon, hb]

end

section
variable {s : State}

theorem tells_of_sb {i : Instr} {a : SbAnswer} (h : exec i s = .next { s with m := s.m.sb a }) : Tells i s a where
  left hoff := by rw [Idles, h, sb_of_off hoff]
  right.left hon hfree := by rw [Leaves, h, sb_of_free hon hfree]
  right.right hon hheld := by rw [Leaves, h, sb_of_held hon hheld]

/-! ### Endpoint and PLDM types (19 R480) -/

theorem exec_setEndpointId (e : Nat) : exec (.setEndpointId e) s = .next { s with m :=
    (if !s.m.island.on then s.m
    else if e = 0 || 255 ≤ e then s.m.sb .invalid
    else if s.m.island.asked.isSome then s.m.sb .notReady
    else { s.m with island := { s.m.island with eid := e } }.sb (.endpoint e)) } := rfl

theorem idles_setEndpointId_of_off {e : Nat} (hoff : s.m.island.on = false) : Idles (.setEndpointId e) s := by
  rw [Idles, exec_setEndpointId, if_pos (by simp [hoff])]

theorem tells_setEndpointId_of_none {e : Nat} (he : e = 0 ∨ 255 ≤ e) : Tells (.setEndpointId e) s .invalid := by
  refine tells_of_sb ?_
  rw [exec_setEndpointId]
  by_cases hon : s.m.island.on = true
  · rw [if_neg (by simp [hon]), if_pos (by simpa using he)]
  · have hoff : s.m.island.on = false := by simpa using hon
    rw [if_pos (by simp [hoff]), sb_of_off hoff]

/-- 1 to 254 are identifiers of endpoints. -/
theorem endpoint_named {e : Nat} (hlow : 1 ≤ e) (hhigh : e ≤ 254) : ¬(decide (e = 0) || decide (255 ≤ e)) = true := by
  rw [Bool.or_eq_true, decide_eq_true_iff, decide_eq_true_iff]
  omega

section
variable {e : Nat} (hlow : 1 ≤ e) (hhigh : e ≤ 254) (hon : s.m.island.on = true)
include hlow hhigh hon

theorem leaves_setEndpointId_of_free (hfree : s.m.island.asked = none) : Leaves (.setEndpointId e) s
    { s.m with island := { s.m.island with eid := e, asked := some (.endpoint e) } } := by
  rw [Leaves, exec_setEndpointId, if_neg (by simp [hon]), if_neg (endpoint_named hlow hhigh), if_neg (by simp [hfree])]
  exact congrArg (fun m => Host.Outcome.next { s with m := m })
    (sb_of_free (m := { s.m with island := { s.m.island with eid := e } }) hon hfree)

theorem leaves_setEndpointId_of_held (hheld : s.m.island.asked.isSome = true) : Leaves (.setEndpointId e) s
    { s.m with island := { s.m.island with answer := some .notReady } } := by
  rw [Leaves, exec_setEndpointId, if_neg (by simp [hon]), if_neg (endpoint_named hlow hhigh), if_pos hheld, sb_of_held hon hheld]

end

theorem pldmTypes_contains {t : Nat} : pldmTypes.contains t = true ↔ t ∈ [0, 2, 4] := List.contains_iff_mem

theorem exec_getPldmCommands {t : Nat} (ht : t ∈ [0, 2, 4]) : exec (.getPldmCommands t) s =
    .next { s with m := s.m.sb (.commands (pldmCommands t)) } := by
  change execGetPldmCommands t s = _
  rw [execGetPldmCommands, onHw_next, if_pos (pldmTypes_contains.2 ht)]

theorem exec_getPldmCommands_of_not_mem {t : Nat} (ht : t ∉ [0, 2, 4]) : exec (.getPldmCommands t) s =
    .next { s with m := s.m.sb .invalid } := by
  change execGetPldmCommands t s = _
  rw [execGetPldmCommands, onHw_next, if_neg (mt pldmTypes_contains.1 ht)]

/-- The module as a free value has been taken. -/
def freeTaken (m : Hw) : Hw := { m with mem := { m.mem with free := m.mem.free + 1 } }

theorem exec_getPldmVersion {t : Nat} (ht : t ∈ [0, 2, 4]) : exec (.getPldmVersion t) s = 
    .next { s with m := (freeTaken s.m).sb (.versions [(Config.freeWord s.m.mem.free).toNat]) } := by
  change execGetPldmVersion t s = _
  rw [execGetPldmVersion, onHw_next, if_pos (pldmTypes_contains.2 ht)]
  rfl

theorem exec_getPldmVersion_of_not_mem {t : Nat} (ht : t ∉ [0, 2, 4]) : exec (.getPldmVersion t) s =
    .next { s with m := s.m.sb .invalid } := by
  change execGetPldmVersion t s = _
  rw [execGetPldmVersion, onHw_next, if_neg (mt pldmTypes_contains.1 ht)]

/-- The version of a type takes a free value; beside that the island alone changes. -/
theorem after_getPldmVersion {t : Nat} (ht : t ∈ [0, 2, 4]) (hon : s.m.island.on = true) : After (.getPldmVersion t) s fun m =>
    (s.m.island.asked = none → ∃ v, m.island = { s.m.island with asked := some (.versions [v]) }) ∧
    (s.m.island.asked.isSome = true → m.island = { s.m.island with answer := some .notReady }) ∧
    { m with island := s.m.island, mem := s.m.mem } = s.m ∧ m.mem = { s.m.mem with free := s.m.mem.free + 1 } := by
  refine ⟨_, exec_getPldmVersion ht, ?_⟩
  cases hasked : s.m.island.asked with
  | none =>
    rw [sb_of_free (m := freeTaken s.m) hon hasked]
    exact ⟨fun _ => ⟨_, rfl⟩, fun h => absurd h (by simp), rfl, rfl⟩
  | some a =>
    rw [sb_of_held (m := freeTaken s.m) hon (congrArg Option.isSome hasked)]
    exact ⟨fun h => absurd h (by simp), fun _ => rfl, rfl, rfl⟩

theorem tells_unsupportedPldmCommand {t c : Nat} (h : (pldmCommands t).contains c = false) :
    Tells (.unsupportedPldmCommand t c) s .unsupported := by
  refine tells_of_sb ?_
  change execUnsupportedPldmCommand t c s = _
  rw [execUnsupportedPldmCommand, onHw_next, if_neg (Bool.eq_false_iff.1 h)]

/-! ### Sensors and FRU data (19 R482, R483) -/

theorem tells_getPdr_of_none {h : Nat} (hh : h = 0 ∨ 14 < h) : Tells (.getPdr h) s .invalid := by
  refine tells_of_sb ?_
  change execGetPdr h s = _
  rw [execGetPdr, onHw_next]
  rcases hh with rfl | hh
  · rfl
  · have hnone : sensorIds[h - 1]? = none := by
      have hlen : sensorIds.length = 14 := rfl
      exact List.getElem?_eq_none (by omega)
    rw [if_neg (by omega), hnone]
    rfl

/-- Sensors 5 to 8 are those of the quarters. -/
theorem sensorReading_quarter (m : Hw) {q : Nat} (hq : q < 4) : m.sensorReading (5 + q) =
    if m.power.quartersUp.getLsbD q then .reading (halfDegrees (lget m.quay.tq q 0)) else .unavailable := by
  interval_cases q <;> rfl

theorem tells_getSensorReading_quarter {q : Nat} (hq : q < 4) : Tells (.getSensorReading (5 + q)) s
    (if s.m.power.quartersUp.getLsbD q then .reading (halfDegrees (lget s.m.quay.tq q 0)) else .unavailable) := by
  rw [← sensorReading_quarter s.m hq]
  exact tells_of_sb rfl

/-- The stepping that QW_ID shows. -/
theorem stepping_of_qwId {m : Hw} (hletter : m.fuses.stepL < 16) (hdigit : m.fuses.stepD < 16) :
    bits (quayWord m 0) 19 12 = m.fuses.stepL + 16 * m.fuses.stepD := by
  have hword : quayWord m 0 = qwId m := rfl
  simp only [hword, bits, qwId, packFields, Nat.shiftRight_eq_div_pow]
  omega

theorem tells_getFruRecordTable (hletter : s.m.fuses.stepL < 16) (hdigit : s.m.fuses.stepD < 16) : Tells .getFruRecordTable s
    (.fru (ascii "Cithaelle Systems") s.m.fuses.partName [BitVec.ofNat 8 (bits (quayWord s.m 0) 19 12)] s.m.fuses.serial
      s.m.fuses.made s.m.fuses.macs) := by
  rw [stepping_of_qwId hletter hdigit]
  exact tells_of_sb rfl

end

/-- Settles O57: each request is one answer of the table handed to the island. -/
theorem sidebandAnswersItsTable : Obligations.SidebandAnswersItsTable := by
  intro s hletter hdigit
  refine ⟨fun e hlow hhigh => ⟨idles_setEndpointId_of_off, leaves_setEndpointId_of_free hlow hhigh,
    leaves_setEndpointId_of_held hlow hhigh⟩, fun e he => tells_setEndpointId_of_none he, ?_⟩
  refine ⟨tells_of_sb rfl, tells_of_sb rfl, tells_of_sb rfl, tells_of_sb rfl, tells_of_sb rfl, fun t ht =>
    ⟨tells_of_sb (exec_getPldmCommands ht), after_getPldmVersion ht⟩, fun t ht =>
    ⟨tells_of_sb (exec_getPldmCommands_of_not_mem ht), tells_of_sb (exec_getPldmVersion_of_not_mem ht)⟩, ?_⟩
  refine ⟨tells_of_sb rfl, tells_of_sb rfl, tells_of_sb rfl, tells_of_sb rfl, tells_of_sb rfl, tells_of_sb rfl,
    fun h hh => tells_getPdr_of_none hh, ?_⟩
  refine ⟨tells_of_sb rfl, tells_of_sb rfl, tells_of_sb rfl, tells_of_sb rfl, fun q hq => tells_getSensorReading_quarter hq,
    tells_of_sb rfl, tells_of_sb rfl, ?_⟩
  exact ⟨tells_of_sb rfl, tells_of_sb rfl, tells_of_sb rfl, tells_of_sb rfl, tells_getFruRecordTable hletter hdigit,
    fun t c h => tells_unsupportedPldmCommand h⟩

end Sys2Proof
end

section
/-! PROOF. Rollback to the newest complete epoch (18 R467, R469): O27. -/

namespace Sys2Proof

open Machine

/-! ### A core goes back to its record -/

/-- Thread `t` of a core that goes back to record `r`. -/
def rolledThread (c : Core) (now : Nat) (r : StepRec) (t : Nat) : Thread :=
  let x := c.thread t
  let nx := lget r.nexts t none
  { Thread.idle with
    st := if nx.isSome then .running else if x.entry = 0 then .idle else .ended
    entry := x.entry, loop := x.loop, next := nx, waitSince := now, lastTick := lget r.ticks t none
    posted := lget r.posted t 0, suppress := lget r.posted t 0 }

section
variable {c : Core} {now cyc e : Nat} {images : Map Word32 → Map Word32} {r : StepRec}
variable (h : (c.steps.find? fun r => r.no == e) = some r)
include h

theorem core_rollTo_state : let d := c.rollTo now cyc e images
    d.bols = r.bolsNow ∧ d.acc = images r.acc ∧ d.hold = [] ∧ d.ops = [] ∧ d.reqs = [] ∧ d.voyages = [] ∧ d.recs = e ∧
      d.ctx = c.ctx ∧ d.inbox = c.inbox := by
  rw [Core.rollTo, h]
  exact ⟨rfl, rfl, rfl, rfl, rfl, rfl, rfl, rfl, rfl⟩

theorem core_rollTo_next {t : Nat} (ht : t < 4) : ((c.rollTo now cyc e images).thread t).next = lget r.nexts t none := by
  rw [Core.rollTo, h]
  exact (congrArg Thread.next (lget_map_range (rolledThread c now r) Thread.idle ht) :)

end

/-! ### A context recovers -/

theorem recover_of_epoch {m : Hw} {c : Nat} (h : m.epochOf c ≠ 0) :
    m.recover c = (m.rollTo c (m.epochOf c)).rollbackLog c (m.epochOf c) := by
  simp only [Hw.recover, bne_iff_ne, ne_eq, h, not_false_eq_true, if_true]

theorem recover_of_no_epoch {m : Hw} {c : Nat} (h : m.epochOf c = 0) : m.recover c =
    ((m.abandonRuns c).coreFaultLog c 0 false).updCtx c fun y => { y with rollbackDue := false, stopFault := none } := by
  simp only [Hw.recover, h, bne_self_eq_false, Bool.false_eq_true, if_false]

/-- A context whose core faults are handled, or a stopped one whose fault log is empty again, goes back once it has settled. -/
theorem exec_rollback {s : State} {c : Nat} {x : Ctx} (hx : mget s.m.ctxs c = some x)
    (hdue : ((x.st = .resident ∨ x.st = .enabled) ∧ x.recov ≠ []) ∨ (x.st = .stopped ∧ x.faults = []))
    (hdet : x.detected = []) (hsettled : s.m.settled c = true) (hplaced : s.m.placed c = true) (hplans : s.m.plansOf c ≠ []) :
    exec (.rollback c) s = .next { s with m :=
      (if s.m.onCores c = true then ((s.m.recover c).resumeState c).startRuns c
      else if s.m.epochOf c = 0 then (s.m.recover c).resumeState c
      else { s.m with ctxs := mset s.m.ctxs c { x with rollbackDue := true } }.resumeState c) } := by
  have hgoes : ((((x.st == .resident || x.st == .enabled) && !x.recov.isEmpty)
      || (x.st == .stopped && x.faults.isEmpty && x.detected.isEmpty))
      && s.m.settled c && s.m.placed c && x.detected.isEmpty && !(s.m.plansOf c).isEmpty) = true := by
    simpa [hdet, hsettled, hplaced, hplans] using hdue
  change execRollback c s = _
  simp only [execRollback, onHw_next, hx, hgoes, if_true]

/-- Settles O27: a core's record by its fields, a context's recovery by its epoch, the command by where the context is. -/
theorem rollbackRestoresTheRecord : Obligations.RollbackRestoresTheRecord := by
  refine ⟨fun c now cyc e images r h => ?_, fun m c => ⟨recover_of_epoch, recover_of_no_epoch⟩,
    fun s c x hx hdue hdet hsettled hplaced hplans => ?_⟩
  · obtain ⟨hbols, hacc, hhold, hops, hreqs, hvoyages, hrecs, hctx, hinbox⟩ :=
      core_rollTo_state (now := now) (cyc := cyc) (images := images) h
    exact ⟨hbols, hacc, hhold, hops, hreqs, hvoyages, hrecs, hctx, hinbox, fun t ht => core_rollTo_next h ht⟩
  · have hexec := exec_rollback hx hdue hdet hsettled hplaced hplans
    refine ⟨fun hon => ?_, fun hoff hnone => ?_, fun hoff hepoch => ?_⟩
    · rw [Leaves, hexec, if_pos hon]
    · rw [Leaves, hexec, if_neg (by simp [hoff]), if_pos hnone]
    · rw [Leaves, hexec, if_neg (by simp [hoff]), if_neg hepoch]

end Sys2Proof
end

section
/-! PROOF. Core faults and the positions they leave (18 R464, R466, 15 R400, 17 R441): O26. -/

namespace Sys2Proof

open Machine

/-! ### Lists of positions -/

/-- A list entry that is replaced by one with the same part `g` keeps that part of every entry. -/
theorem lget_lset_keeps {α β : Type} (g : α → β) {l : List α} {i : Nat} {v d : α} (hv : g v = g (lget l i d)) (j : Nat) :
    g (lget (lset l i v) j d) = g (lget l j d) := by
  by_cases hj : j = i
  · subst hj
    by_cases hlen : j < l.length
    · rw [lget_lset_self hlen, hv]
    · simp [lget, lset, Nat.not_lt.1 hlen]
  · simp [lget, lset, List.getElem?_set_ne (Ne.symm hj)]

theorem lt_length_of_lget_ne {α : Type} {l : List α} {i : Nat} {d : α} (h : lget l i d ≠ d) : i < l.length := by
  by_contra hlen
  exact h (by simp [lget, Nat.not_lt.1 hlen])

/-! ### Positions and the physical cores that fill them (01 R13) -/

section
variable {m : Hw} {k p : Nat}

theorem physOf_eq (m : Hw) (k : Nat) : m.physOf k = lget (m.physQ (k / 64)).fills (k % 64) none := rfl

theorem physOf_congr {t : Hw} (h : t.phys = m.phys) : t.physOf k = m.physOf k := by
  rw [Hw.physOf, h, Hw.physOf]

/-- A position that is filled stands in its quarter's list. -/
theorem filled_lt (h : m.physOf k = some p) : k / 64 < m.phys.length ∧ k % 64 < (m.physQ (k / 64)).fills.length := by
  have hpos : k % 64 < (m.physQ (k / 64)).fills.length :=
    lt_length_of_lget_ne (d := none) (by rw [← physOf_eq, h]; exact Option.some_ne_none p)
  refine ⟨?_, hpos⟩
  by_contra hlen
  simp [Hw.physQ, lget, Nat.not_lt.1 hlen] at hpos

theorem setFill_physOf_self (h : m.physOf k = some p) (f : Option Nat) : (m.setFill k f).physOf k = f := by
  obtain ⟨hquarter, hpos⟩ := filled_lt h
  have hphys : (m.setFill k f).physQ (k / 64) =
      { m.physQ (k / 64) with fills := lset (m.physQ (k / 64)).fills (k % 64) f } := lget_lset_self hquarter _ _
  rw [physOf_eq, hphys]
  exact lget_lset_self hpos _ _

/-- A core that leaves GOOD stays where it is until its position is filled anew. -/
theorem badPhys_physOf (m : Hw) (q i k : Nat) : (m.badPhys q i).physOf k = m.physOf k :=
  congrArg (fun l => lget l (k % 64) none) (lget_lset_keeps (l := m.phys) (d := ⟨0#68, []⟩)
    (v := { m.physQ q with good := (m.physQ q).good &&& ~~~(1#68 <<< i) }) Phys.fills rfl (k / 64) :)

/-- A core that leaves GOOD was no spare while it filled a position. -/
theorem badPhys_spare (h : m.physOf k = some p) :
    ((m.badPhys (k / 64) p).physQ (k / 64)).spare = (m.physQ (k / 64)).spare := by
  obtain ⟨hquarter, hpos⟩ := filled_lt h
  have hphys : (m.badPhys (k / 64) p).physQ (k / 64) =
      { m.physQ (k / 64) with good := (m.physQ (k / 64)).good &&& ~~~(1#68 <<< p) } := lget_lset_self hquarter _ _
  have hmem : (m.physQ (k / 64)).fills.contains (some p) = true := by
    rw [List.contains_iff_mem, ← h, physOf_eq, lget, List.getD_eq_getElem _ _ hpos]
    exact List.getElem_mem hpos
  rw [hphys, Phys.spare, Phys.spare]
  refine List.find?_congr fun i hi => ?_
  have hlt : i < 68 := List.mem_range.1 hi
  dsimp only
  by_cases hip : i = p
  · rw [hip, hmem, Bool.not_true, Bool.and_false, Bool.and_false]
  · have hbit : (1#68 <<< p).getLsbD i = false := by
      have hone : i < 68 → p ≤ i → ¬i - p = 0 := fun _ _ => by omega
      simpa [BitVec.getLsbD_shiftLeft] using hone
    simp only [BitVec.getLsbD_and, BitVec.getLsbD_not, hbit, hlt, decide_true, Bool.not_false, Bool.and_self, Bool.and_true]

end

/-! ### A core that the fault stops no longer, in a context whose threads have stopped (18 R464, R466) -/

/-- A core after its fault has been handled. -/
def unbroken (c : Core) : Core := { c with broken := none }

theorem unbroken_stopped {m t : Hw} {c core : Nat}
    (h : ∀ k, t.core k = ((m.stopThreads c).updCore core unbroken).core k) :
    (t.core core).broken = none ∧ ∀ k ∈ m.ctxCores c, (m.core k).ctx = some c →
      ∀ i, i < 4 → ((t.core k).thread i).st ≠ .running := by
  refine ⟨?_, fun k hk hc i hi => ?_⟩
  · rw [h, core_updCore_same]
    rfl
  · have hstopped := (stopThreads_stops hk hc hi).1
    by_cases hcore : k = core
    · rw [h, hcore, core_updCore_same, ← hcore]
      exact hstopped
    · rw [h, core_updCore_ne _ _ hcore]
      exact hstopped

theorem publishCores_frame (m : Hw) (q : Nat) : { m.publishCores q with quay := m.quay, host := m.host } = m :=
  setTopo_frame m _

theorem takeStandby_frame (m : Hw) (core part s : Nat) : { m.takeStandby core part s with
    phys := m.phys, outOfService := m.outOfService, quay := m.quay, parts := m.parts } = m := by
  unfold Hw.takeStandby
  dsimp only
  split <;> rfl

/-! ### A position is filled (18 R464, 15 R400) -/

/-- The failed core is out, its position filled by the context's standby or else by the lowest spare. -/
def positionFilled (m : Hw) (ctx core phys : Nat) : Hw :=
  let d := m.badPhys (core / 64) phys
  match m.standbyOf ctx (core / 64) with
  | some s => d.takeStandby core s.1 s.2
  | none => d.setFill core (d.physQ (core / 64)).spare

/-- A context that notes a fault to recover from. -/
def recoveryNoted (r : Recov) (x : Ctx) : Ctx :=
  { x with recov := x.recov ++ [r], rollbackDue := x.rollbackDue || x.st == .switching }

section
variable (m : Hw) (ctx core phys array tide : Nat)

theorem positionFilled_frame : { positionFilled m ctx core phys with
    phys := m.phys, outOfService := m.outOfService, quay := m.quay, parts := m.parts, island := m.island } = m := by
  unfold positionFilled
  dsimp only
  split
  · exact (congrArg (fun x : Hw => { x with phys := m.phys, quay := m.quay, island := m.island })
      (takeStandby_frame (m.badPhys (core / 64) phys) core _ _) :)
  · rfl

theorem refillPosition_eq : m.refillPosition ctx core phys array tide =
    (((positionFilled m ctx core phys).updCore core unbroken).publishCores (core / 64)).updCtx ctx
      (recoveryNoted ⟨core, phys, array, tide, (m.standbyOf ctx (core / 64)).map (·.2)⟩) := rfl

theorem refillPosition_core (k : Nat) :
    (m.refillPosition ctx core phys array tide).core k = (m.updCore core unbroken).core k := by
  rw [refillPosition_eq, updCtx_core]
  exact (congrArg (fun x : Hw => x.core k) (publishCores_frame _ _) :).trans
    (congrArg (fun x : Hw => (x.updCore core unbroken).core k) (positionFilled_frame m ctx core phys) :)

theorem refillPosition_ctx : mget (m.refillPosition ctx core phys array tide).ctxs ctx = (mget m.ctxs ctx).map
    (recoveryNoted ⟨core, phys, array, tide, (m.standbyOf ctx (core / 64)).map (·.2)⟩) := by
  rw [refillPosition_eq, mget_updCtx, if_pos rfl]
  refine congrArg (fun l => (mget l ctx).map _) ?_
  exact (congrArg Hw.ctxs (publishCores_frame _ _) :).trans (congrArg Hw.ctxs (positionFilled_frame m ctx core phys) :)

variable {m core phys}

theorem refillPosition_physOf (h : m.physOf core = some phys) (hnone : m.standbyOf ctx (core / 64) = none) :
    (m.refillPosition ctx core phys array tide).physOf core = (m.physQ (core / 64)).spare := by
  have hbad : (m.badPhys (core / 64) phys).physOf core = some phys := (badPhys_physOf ..).trans h
  have hfilled : (positionFilled m ctx core phys).physOf core = (m.physQ (core / 64)).spare := by
    rw [positionFilled, hnone, ← badPhys_spare h]
    exact setFill_physOf_self hbad _
  rw [refillPosition_eq, ← hfilled]
  exact (congrArg (fun x : Hw => x.physOf core) (updCtx_frame _ _ _) :).trans
    (congrArg (fun x : Hw => x.physOf core) (publishCores_frame _ _) :)

end

/-! ### A position is lost (18 R466) -/

/-- The failed core is out, and its position out of service. -/
def positionGone (m : Hw) (core phys : Nat) : Hw :=
  let d := (m.badPhys (core / 64) phys).setFill core none
  ({ d with outOfService := d.outOfService ||| (1#256 <<< core) }.degrade.updCore core unbroken).publishCores (core / 64)

/-- A context stops with a position that is lost; one that is switching stops once it has switched out. -/
def contextLost (x : Ctx) : Ctx :=
  if x.st == .switching then { x with back := .stopped } else { x with st := .stopped, chosen := false }

/-- A context whose fault log takes a record, or counts it as lost. -/
def faultLogged (x : Ctx) (r : FaultRec) : Ctx :=
  let r := { r with num := x.faultNext }
  let x := if x.faults.length < 64 then { x with faults := x.faults ++ [r], faultNext := x.faultNext + 1 }
    else { x with faultLost := x.faultLost + 1, faultNext := x.faultNext + 1 }
  { x with stopFault := x.stopFault <|> some r }

theorem faultLogged_states (x : Ctx) (r : FaultRec) : (faultLogged x r).st = x.st ∧ (faultLogged x r).back = x.back := by
  unfold faultLogged
  dsimp only
  split <;> exact ⟨rfl, rfl⟩

theorem faultLogged_faults {x : Ctx} (h : x.faults.length < 64) (r : FaultRec) :
    (faultLogged x r).faults = x.faults ++ [{ r with num := x.faultNext }] := by
  unfold faultLogged
  dsimp only
  rw [if_pos h]

theorem contextLost_faults (x : Ctx) : (contextLost x).faults = x.faults := by
  unfold contextLost
  split <;> rfl

theorem contextLost_st {x : Ctx} (h : x.st ≠ .switching) : (contextLost x).st = .stopped := by
  rw [contextLost, if_neg (by simpa using h)]

theorem contextLost_switching {x : Ctx} (h : x.st = .switching) :
    (contextLost x).st = .switching ∧ (contextLost x).back = .stopped := by
  rw [contextLost, if_pos (by simp [h])]
  exact ⟨h, rfl⟩

theorem recordFault_posted {m : Hw} {c : Nat} {x : Ctx} (hx : mget m.ctxs c = some x) (r : FaultRec) :
    Posted { m with ctxs := mset m.ctxs c (faultLogged x r) } (m.recordFault c r) := by
  unfold Hw.recordFault
  rw [hx]
  dsimp only
  split
  · exact (Posted.event _ _ _ _).trans (Posted.logErrorAt _ _ _ _ _ _ _)
  · exact Posted.event _ _ _ _

theorem Posted.positions {m t : Hw} (h : Posted m t) : t.phys = m.phys ∧ t.outOfService = m.outOfService :=
  ⟨(congrArg Hw.phys h.rest :), (congrArg Hw.outOfService h.rest :)⟩

theorem corePost_posted (m : Hw) (core phys : Nat) (recov : Bool) : Posted m (m.corePost core phys recov) := by
  unfold Hw.corePost Hw.eventAs
  exact (Posted.ofBooked (.toRing m _ _ _)).trans (Posted.logErrorAt _ _ _ _ _ _ _)

/-- The module as the position is lost, with contexts `l` and a decision due. -/
def contextGone (m : Hw) (core phys : Nat) (l : Map Ctx) : Hw := { positionGone m core phys with ctxs := l, occasion := true }

/-- The record of a core fault that stops a context. -/
def lostRecord (m : Hw) (ctx core array tide tag thread : Nat) : FaultRec :=
  { FaultRec.base m 0x0181 core thread tag ctx with array := array, tide := tide }

section
variable (m : Hw) (core phys : Nat)

theorem positionGone_core (k : Nat) : (positionGone m core phys).core k = (m.updCore core unbroken).core k :=
  (congrArg (fun x : Hw => x.core k) (publishCores_frame _ _) :)

theorem positionGone_ctxs : (positionGone m core phys).ctxs = m.ctxs := (congrArg Hw.ctxs (publishCores_frame _ _) :)

theorem positionGone_outOfService (hcore : core < 256) : (positionGone m core phys).outOfService.getLsbD core = true := by
  have hset : (positionGone m core phys).outOfService = m.outOfService ||| (1#256 <<< core) :=
    (congrArg Hw.outOfService (publishCores_frame _ _) :)
  rw [hset]
  simp [hcore]

variable {m core phys}

theorem positionGone_physOf (h : m.physOf core = some phys) : (positionGone m core phys).physOf core = none := by
  have hbad : (m.badPhys (core / 64) phys).physOf core = some phys := (badPhys_physOf ..).trans h
  exact (congrArg (fun x : Hw => x.physOf core) (publishCores_frame _ _) :).trans (setFill_physOf_self hbad none :)

end

section
variable {m : Hw} {ctx core phys : Nat} {y : Ctx} (array tide tag thread : Nat) (hy : mget m.ctxs ctx = some y)
include hy

theorem contextLost_gone : ((positionGone m core phys).updCtx ctx contextLost).mayDecide =
    contextGone m core phys (mset (positionGone m core phys).ctxs ctx (contextLost y)) := by
  have hpos : mget (positionGone m core phys).ctxs ctx = some y := by rw [positionGone_ctxs, hy]
  rw [Hw.updCtx, hpos]
  rfl

theorem losePosition_eq : m.losePosition ctx core phys array tide tag thread =
    (((contextGone m core phys (mset (positionGone m core phys).ctxs ctx (contextLost y))).recordFault ctx
      (lostRecord m ctx core array tide tag thread)).logErrorAt tide 0x0181 (some ctx) false (coreLoc core phys array) 0).corePost
        core phys false := by
  rw [← contextLost_gone hy]
  rfl

/-- Beside the loss and its record in the fault log, a lost position is reported alone. -/
theorem losePosition_posted : ∃ l, mget l ctx = some (faultLogged (contextLost y) (lostRecord m ctx core array tide tag thread)) ∧
    Posted (contextGone m core phys l) (m.losePosition ctx core phys array tide tag thread) := by
  refine ⟨_, mget_mset_self (mset (positionGone m core phys).ctxs ctx (contextLost y)) ctx _, ?_⟩
  rw [losePosition_eq array tide tag thread hy]
  refine Posted.trans (Posted.trans ?_ (.logErrorAt _ _ _ _ _ _ _)) (corePost_posted _ _ _ _)
  exact recordFault_posted (m := contextGone m core phys _) (mget_mset_self _ _ _) _

theorem losePosition_core (k : Nat) :
    (m.losePosition ctx core phys array tide tag thread).core k = (m.updCore core unbroken).core k := by
  obtain ⟨l, -, hposted⟩ := losePosition_posted (core := core) (phys := phys) array tide tag thread hy
  exact (hposted.core k).trans (positionGone_core m core phys k)

/-- The position names no core and is out of service. -/
theorem losePosition_position (hphys : m.physOf core = some phys) (hcore : core < 256) :
    (m.losePosition ctx core phys array tide tag thread).physOf core = none ∧
    (m.losePosition ctx core phys array tide tag thread).outOfService.getLsbD core = true := by
  obtain ⟨l, -, hposted⟩ := losePosition_posted (core := core) (phys := phys) array tide tag thread hy
  obtain ⟨hfills, hservice⟩ := hposted.positions
  rw [physOf_congr hfills, hservice]
  exact ⟨positionGone_physOf hphys, positionGone_outOfService m core phys hcore⟩

/-- The context is stopped, or stops once it has switched out, and its fault log takes the fault. -/
theorem losePosition_ctx : ∃ z, mget (m.losePosition ctx core phys array tide tag thread).ctxs ctx = some z ∧
    (y.st ≠ .switching → z.st = .stopped) ∧ (y.st = .switching → z.st = .switching ∧ z.back = .stopped) ∧
    (y.faults.length < 64 → ∃ r, z.faults = y.faults ++ [r] ∧ r.code = 0x0181 ∧ r.core = core ∧ r.array = array) := by
  obtain ⟨l, hl, hposted⟩ := losePosition_posted (core := core) (phys := phys) array tide tag thread hy
  have hview := hposted.ctx (g := fun x => (x.st, x.back, x.faults)) (fun _ => rfl) ctx
  have hview := hview.trans (congrArg _ hl)
  rw [Option.map_some, Option.map_eq_some_iff] at hview
  obtain ⟨z, hz, hzview⟩ := hview
  simp only [Prod.mk.injEq] at hzview
  obtain ⟨hst, hback, hfaults⟩ := hzview
  obtain ⟨hloggedSt, hloggedBack⟩ := faultLogged_states (contextLost y) (lostRecord m ctx core array tide tag thread)
  refine ⟨z, hz, fun h => ?_, fun h => ?_, fun h => ?_⟩
  · rw [hst, hloggedSt, contextLost_st h]
  · obtain ⟨hlostSt, hlostBack⟩ := contextLost_switching h
    exact ⟨by rw [hst, hloggedSt, hlostSt], by rw [hback, hloggedBack, hlostBack]⟩
  · have hlog := hfaults.trans (faultLogged_faults (x := contextLost y) (by rwa [contextLost_faults]) _)
    rw [contextLost_faults] at hlog
    exact ⟨_, hlog, rfl, rfl, rfl⟩

end

/-! ### The commands -/

/-- The context can go back, and a spare or a standby of fixed-timing mode can fill the position of the failed core. -/
def Recoverable (m : Hw) (ctx core : Nat) : Prop :=
  m.canRollBack ctx (m.epochOf ctx) = true ∧
    ((m.physQ (core / 64)).spare ≠ none ∨ (m.isFixed ctx = true ∧ m.standbyOf ctx (core / 64) ≠ none))

section
variable {s : State} {core ctx phys : Nat} {b : Nat × Nat × Nat × Nat} (hctx : (s.m.core core).ctx = some ctx)
  (hb : (s.m.core core).broken = some b) (hphys : s.m.physOf core = some phys)
  (hfirst : ∀ d ∈ s.m.cores, d.1 ≠ core → d.1 / 64 = core / 64 → ∀ o, d.2.broken = some o →
    b.2.1 < o.2.1 ∨ (b.2.1 = o.2.1 ∧ core < d.1))
include hctx hb hphys hfirst

/-- The earliest fault of its quarter is handled: its context's threads stop, then its position is filled or lost. -/
theorem exec_coreFaultHandling : exec (.coreFaultHandling core) s = .next { s with m :=
    (if ((s.m.stopThreads ctx).canRollBack ctx ((s.m.stopThreads ctx).epochOf ctx) &&
        (((s.m.stopThreads ctx).physQ (core / 64)).spare.isSome ||
          ((s.m.stopThreads ctx).isFixed ctx && ((s.m.stopThreads ctx).standbyOf ctx (core / 64)).isSome))) = true then
      (s.m.stopThreads ctx).refillPosition ctx core phys b.1 b.2.1
    else (s.m.stopThreads ctx).losePosition ctx core phys b.1 b.2.1 b.2.2.1 b.2.2.2) } := by
  change execCoreFaultHandling core s = _
  rw [execCoreFaultHandling, onHw_next]
  dsimp only
  rw [hctx, hb, hphys]
  dsimp only
  rw [if_pos]
  refine List.all_eq_true.2 fun d hd => ?_
  by_cases hcore : d.1 = core
  · simp [hcore]
  · by_cases hquarter : d.1 / 64 = core / 64
    · cases ho : d.2.broken with
      | none => simp
      | some o => simpa [hcore, hquarter] using hfirst d hd hcore hquarter o ho
    · simp [hquarter]

theorem leaves_coreFaultHandling_refill (h : Recoverable (s.m.stopThreads ctx) ctx core) :
    Leaves (.coreFaultHandling core) s ((s.m.stopThreads ctx).refillPosition ctx core phys b.1 b.2.1) := by
  rw [Leaves, exec_coreFaultHandling hctx hb hphys hfirst, if_pos]
  simpa [Recoverable, Option.isSome_iff_ne_none] using h

theorem leaves_coreFaultHandling_lose (h : ¬Recoverable (s.m.stopThreads ctx) ctx core) :
    Leaves (.coreFaultHandling core) s
      ((s.m.stopThreads ctx).losePosition ctx core phys b.1 b.2.1 b.2.2.1 b.2.2.2) := by
  rw [Leaves, exec_coreFaultHandling hctx hb hphys hfirst, if_neg]
  simpa [Recoverable, Option.isSome_iff_ne_none] using h

end


/-- A used standby takes the spare of its quarter, if there is one, and its refill is no longer due. -/
theorem after_standbyRefill {s : State} {part quarter : Nat} {y : Part} {r : Nat × Nat} (hy : mget s.m.parts part = some y)
    (hr : lget y.refill quarter none = some r) : After (.standbyRefill part quarter) s fun m =>
      mget m.parts part = some { y with
        refill := lset y.refill quarter none
        standby := if (s.m.physQ quarter).spare = none then y.standby else lset y.standby quarter (some r.1) } := by
  refine ⟨_, (onHw_next _ s : execStandbyRefill part quarter s = _), ?_⟩
  dsimp only
  rw [hy]
  dsimp only
  rw [hr]
  dsimp only
  split
  · next hspare =>
    have hnone : (s.m.physQ quarter).spare = none := hspare
    rw [event_parts, if_pos hnone]
    exact mget_mset_self _ _ _
  · next p hspare =>
    have hsome : (s.m.physQ quarter).spare ≠ none := Option.ne_none_iff_exists'.2 ⟨p, hspare⟩
    rw [event_parts, if_neg hsome]
    exact (congrArg (fun x : Hw => mget x.parts part) (publishCores_frame _ _) :).trans (mget_mset_self _ _ _)

/-- Settles O26: a fault is handled by filling its position or by losing it, and either change keeps every stopped thread. -/
theorem coreFaultIsRecoveredOrStopsTheContext : Obligations.CoreFaultIsRecoveredOrStopsTheContext := by
  refine ⟨fun s core x phys y b hctx hb hphys hy hcore hfirst => ?_, fun s part quarter y r hy hquarter hr => ?_⟩
  · have hframe := stopThreads_frame s.m x
    have hstopped : mget (s.m.stopThreads x).ctxs x = some y := (congrArg (fun d : Hw => mget d.ctxs x) hframe :).trans hy
    have hfilled : (s.m.stopThreads x).physOf core = some phys := (congrArg (fun d : Hw => d.physOf core) hframe :).trans hphys
    refine ⟨fun h => ?_, fun h => ?_⟩
    · have hexec := leaves_coreFaultHandling_refill hctx hb hphys hfirst h
      refine ⟨hexec, _, hexec, unbroken_stopped (refillPosition_core _ _ _ _ _ _), fun hnone => ?_, ?_⟩
      · exact (refillPosition_physOf _ _ _ hfilled hnone).trans (congrArg (fun d : Hw => (d.physQ (core / 64)).spare) hframe :)
      · rw [refillPosition_ctx, hstopped]
        exact ⟨_, rfl, rfl, rfl, rfl⟩
    · have hexec := leaves_coreFaultHandling_lose hctx hb hphys hfirst h
      obtain ⟨hposition, hservice⟩ := losePosition_position b.1 b.2.1 b.2.2.1 b.2.2.2 hstopped hfilled hcore
      exact ⟨hexec, _, hexec, unbroken_stopped (losePosition_core _ _ _ _ hstopped), hposition, hservice,
        losePosition_ctx _ _ _ _ hstopped⟩
  · obtain ⟨m, hexec, hparts⟩ := after_standbyRefill hy hr
    refine ⟨m, hexec, _, hparts, lget_lset_self hquarter _ _, fun hstandby => ?_⟩
    dsimp only
    split
    · rfl
    · exact lget_lset_self hstandby _ _

end Sys2Proof
end

section
/-! PROOF. What every command does: it completes, but for an address that does not exist, and it keeps the module sound
(O3, O4, O5, O6). -/

namespace Sys2Proof

open Machine

/-! ### Every command completes inside the BARs -/

/-- A command that faults exactly where `p` holds and elsewhere changes the module alone stops only beyond the BARs, where
`p` is what lies beyond them. -/
theorem stops_iff_of_guarded {i : Instr} {s : State} {p : Prop} [Decidable p] {f : Hw → Hw} (hb : beyond i s.m = decide p)
    (hi : exec i s = if p then .fault .noSuchAddress else onHw f s) :
    (beyond i s.m = true → exec i s = .fault .noSuchAddress) ∧
      (beyond i s.m = false → ∃ m, exec i s = .next { s with m := m }) := by
  refine ⟨fun h => ?_, fun h => ?_⟩
  · rw [hi, if_pos (of_decide_eq_true (hb.symm.trans h))]
  · exact ⟨_, by rw [hi, if_neg (of_decide_eq_false (hb.symm.trans h)), onHw_next]⟩

/-- What a register write inside the offsets of BAR0, BAR4 and configuration space leaves: each region has its own effect. -/
def regWritten (off : Nat) (bs : List Byte) (m : Hw) : Hw :=
  if 0x410000 ≤ off then m.configWrite (off - 0x410000) bs
  else if 0x400000 ≤ off then (if m.hostOn then m.bar4Write (off - 0x400000) bs else m)
  else if !m.hostOn then m
  else if !quayShape off bs.length true then m.hosterr .badacc
  else if off / 8 = 0x1038 / 8 then m.clearCause (BitVec.ofNat 64 (leNat bs * 256 ^ (off % 8)))
  else if off / 8 = 0x1040 / 8 then (if off % 8 = 0 then m.setCauseEn (BitVec.ofNat 64 (leNat bs)) else m)
  else if m.inReset then m
  else if 0x10000 ≤ off && off < 0x18000 then m.pairWrite (off - 0x10000) bs
  else if 0x20000 ≤ off && off < 0x30000 then m.pointerWrite (off - 0x20000) (leNat bs) (bs.length == 8)
  else if inDoorbells off then m.bellWrite (off - 0x200000) (BitVec.ofNat 64 (leNat bs))
  else m

theorem exec_registerWrite (off : Nat) (bs : List Byte) (s : State) : exec (.registerWrite off bs) s =
    if 0x411000 ≤ off then .fault .noSuchAddress else onHw (regWritten off bs) s := by
  change execRegisterWrite off bs s = _
  unfold execRegisterWrite regWritten
  refine ite_congr rfl (fun _ => rfl) fun _ => ?_
  by_cases hconf : 0x410000 ≤ off
  · rw [if_pos hconf, onHw_next, onHw_next, if_pos hconf]
  · by_cases hbar4 : 0x400000 ≤ off
    · rw [if_neg hconf, if_pos hbar4, onHw_next, onHw_next, if_neg hconf, if_pos hbar4]
    · rw [if_neg hconf, if_neg hbar4, onHw_next, onHw_next, if_neg hconf, if_neg hbar4]

/-- Settles O3: four commands look at an address first; every other one is a change of the module. -/
theorem stopsOnlyBeyondTheBars : Obligations.StopsOnlyBeyondTheBars := by
  intro i s
  cases i with
  | registerWrite off bs => exact stops_iff_of_guarded rfl (exec_registerWrite off bs s)
  | quayRefusedAccess => exact stops_iff_of_guarded rfl rfl
  | bar2Read => exact stops_iff_of_guarded rfl rfl
  | bar2Write => exact stops_iff_of_guarded rfl rfl
  | _ => exact ⟨Bool.noConfusion, fun _ => ⟨_, rfl⟩⟩

/-! ### Reset -/

/-- Settles O4: at reset every map is empty, and the registers are read off. -/
theorem resetRegisters : Obligations.ResetRegisters :=
  ⟨rfl, rfl, rfl, rfl, rfl, rfl, by decide +kernel, fun _ => rfl, fun _ _ => rfl, rfl, rfl, rfl, rfl⟩

/-- Settles O5: at reset no memory holds a byte. -/
theorem resetIsSound : Obligations.ResetIsSound := ⟨rfl, rfl⟩

end Sys2Proof
end

section
/-! PROOF. Every command keeps canonical memories and the reserved bits of QW_CAUSE and QW_CAUSE_EN (O6): what is left after
the laws of the shared operations is what each command's own body adds to them. -/

namespace Sys2Proof

open Machine

/-- A command's meaning keeps the module sound. -/
def Keeps (x : State → Host.Outcome State Fault Refusal) : Prop := ∀ s t, Sd s.m → x s = .next t → Sd t.m

theorem onHw_sd {f : Hw → Hw} {s t : State} (hs : Sd s.m) (hf : ∀ m, Sd m → Sd (f m)) (ht : onHw f s = .next t) : Sd t.m := by
  cases ht
  exact hf _ hs

theorem keeps_onHw {f : Hw → Hw} (hf : ∀ m, Sd m → Sd (f m)) : Keeps (onHw f) := fun _ _ hs ht => onHw_sd hs hf ht

/-- A change of the module behind an address check. -/
theorem keeps_guarded {p : State → Prop} [DecidablePred p] {e : Fault} {f : Hw → Hw} (hf : ∀ m, Sd m → Sd (f m)) :
    Keeps fun s => if p s then .fault e else onHw f s := by
  intro s t hs ht
  dsimp only at ht
  split at ht
  · cases ht
  · exact onHw_sd hs hf ht

theorem sd_ite {p : Prop} [Decidable p] {a b : Hw} (ha : Sd a) (hb : Sd b) : Sd (if p then a else b) := by
  split
  · exact ha
  · exact hb

/-! ### Families of commands -/

theorem keeps_startOp {core thread : Nat} {kind : Env → Bool} {body : Env → Body} :
    Keeps (onHw fun m => m.startOp core thread kind body) := keeps_onHw fun _ h => Hw_startOp_sd h

theorem keeps_startWith {core thread : Nat} {kind : Env → Bool} {body : Env → Body} {cond : Env → Cond}
    {f : Env → OpRec → OpRec} {after : Env → Hw → Hw} (ha : ∀ e m, Sd m → Sd (after e m)) :
    Keeps (onHw fun m => m.startWith core thread kind body cond f after) := keeps_onHw fun _ h => Hw_startWith_sd h ha

theorem keeps_serve {n : Nat} {c : CmdSpec} {f : Hw → Pair → Reply} (hf : ∀ m p, Sd m → Reply.Ok (f m p)) :
    Keeps (onHw fun m => m.serve n c (f m)) := keeps_onHw fun m h => serve_sd h fun p => hf m p h

theorem keeps_serveBlock {n : Nat} {c : CmdSpec} {block : Option (List Byte)} {f : Hw → Pair → List Byte → Reply}
    (hf : ∀ m p b, Sd m → Reply.Ok (f m p b)) : Keeps (onHw fun m => m.serveBlock n c block (f m)) :=
  keeps_onHw fun m h => serveBlock_sd h fun p b => hf m p b h

/-- A served command that may have to wait. -/
theorem keeps_serve_unless {n : Nat} {c : CmdSpec} {waits : Hw → Bool} {f : Hw → Pair → Reply}
    (hf : ∀ m p, Sd m → Reply.Ok (f m p)) : Keeps (onHw fun m => if waits m then m else m.serve n c (f m)) :=
  keeps_onHw fun m h => sd_ite h (serve_sd h fun p => hf m p h)

theorem keeps_if {p : Hw → Bool} {f : Hw → Hw} (hf : ∀ m, Sd m → Sd (f m)) :
    Keeps (onHw fun m => if p m then f m else m) := keeps_onHw fun m h => sd_ite (hf m h) h

theorem keeps_unless {p : Hw → Bool} {f : Hw → Hw} (hf : ∀ m, Sd m → Sd (f m)) :
    Keeps (onHw fun m => if p m then m else f m) := keeps_onHw fun m h => sd_ite h (hf m h)

theorem keeps_sb {a : Hw → SbAnswer} : Keeps (onHw fun m => m.sb (a m)) := keeps_onHw fun _ h => Hw_sb_sd h

theorem keeps_hostWrite {w : HeldWrite} : Keeps (onHw fun m => m.hostWrite w) := keeps_onHw fun _ h => Hw_hostWrite_sd h

theorem keeps_withEnds {ends : List ReadEnd} {f : Hw → Hw} (hf : ∀ m, Sd m → Sd (f m)) :
    Keeps (onHw fun m => m.withEnds ends f) := keeps_onHw fun _ h => withEnds_sd h hf

/-! ### Ferries and links -/

theorem execBatchEmission_keeps {core land : Nat} : Keeps (execBatchEmission core land) := by
  refine keeps_onHw fun m h => ?_
  split
  · exact h
  · exact sd_ite (Hw_emitBatch_sd h) h

theorem execFlushDl_keeps {core land : Nat} : Keeps (execFlushDl core land) := by
  refine keeps_onHw fun m h => ?_
  split
  · exact h
  · exact sd_ite (updCore_sd h fun _ hc => hc) h

theorem execFerryArrival_keeps {src dst land : Nat} : Keeps (execFerryArrival src dst land) := by
  refine keeps_onHw fun m h => ?_
  split
  · exact h
  · exact sd_ite (sd_ite (Hw_acked_sd (foldl_sd (fun _ _ hm => Hw_landRow_sd hm) _ _ h)) (Hw_landNotice_sd h)) h

theorem execReturnArrival_keeps {src dst : Nat} : Keeps (execReturnArrival src dst) := by
  refine keeps_onHw fun m h => ?_
  split
  · exact h
  · split
    · exact h
    · exact sd_ite (Hw_acked_sd (Hw_returnRow_sd h)) h

theorem execCreditReturn_keeps {src dst land : Nat} : Keeps (execCreditReturn src dst land) := by
  refine keeps_onHw fun m h => ?_
  split
  · exact Hw_pumpFerries_sd (updCore_sd h fun _ hc => hc)
  · exact h
  · exact h

theorem execStallNotice_keeps {core : Nat} : Keeps (execStallNotice core) := by
  refine keeps_onHw fun m h => ?_
  split
  · exact sd_ite (foldl_sd (fun _ _ hm => Hw_launch_sd hm) _ _ (Hw_setOp_sd h)) h
  · exact h

theorem execLaneReplacement_keeps {link lane : Nat} : Keeps (execLaneReplacement link lane) := by
  refine keeps_onHw fun m h => ?_
  have posted : Sd (((m.setLink link { m.link link with spares := (m.link link).spares - 1 }).count 3 link 3 1).event 0x0888 none
    [(8, link), (8, lane)]) := Hw_event_sd (Hw_count_sd (Hw_setLink_sd h))
  exact sd_ite (sd_ite (Hw_topoLink_sd (Hw_event_sd posted)) (Hw_topoLink_sd posted)) h

/-! ### Bollards and waits -/

theorem execBollardUpdate_keeps {core bol : Nat} : Keeps (execBollardUpdate core bol) :=
  keeps_onHw fun _ h => Hw_portTake_sd (foldl_sd (fun _ _ hm => Hw_applySignal_sd hm) _ _ (updCore_sd h fun _ hc => hc))

theorem execWaitBoundExpiry_keeps {core thread : Nat} : Keeps (execWaitBoundExpiry core thread) := by
  refine keeps_onHw fun m h => ?_
  extract_lets c
  split
  · exact h
  · extract_lets w
    clear_value w
    split
    · exact Hw_fault_sd h
    · split
      · split
        · exact sd_ite (Hw_fault_sd h) h
        · exact h
      · exact h

theorem execTideWait_keeps {core thread : Nat} : Keeps (execTideWait core thread) := by
  refine keeps_onHw fun m h => ?_
  split
  · exact h
  · exact Hw_startWith_sd h fun _ _ hm => Env_tideStart_sd hm

theorem execTideWaitTarget_keeps {core thread : Nat} : Keeps (execTideWaitTarget core thread) := by
  refine keeps_onHw fun m h => ?_
  extract_lets c
  split
  · exact Hw_retireIf_sd h
  · exact h

/-! ### Scheduling, switching and runs -/

theorem execQuantumExpiry_keeps {ctx : Nat} : Keeps (execQuantumExpiry ctx) := by
  refine keeps_onHw fun m h => ?_
  split
  · exact sd_ite (Hw_decide__sd (Hw_updCtx_sd h)) h
  · exact h

theorem execSwitchOut_keeps {ctx : Nat} : Keeps (execSwitchOut ctx) := by
  refine keeps_onHw fun m h => ?_
  split
  · exact h
  · exact sd_ite (Hw_decide__sd (Hw_updCtx_sd (foldl_sd (fun _ _ hm => Hw_outCore_sd hm) _ _ (sd_ite (Hw_recover_sd h) h)))) h

theorem execSwitchIn_keeps {ctx : Nat} : Keeps (execSwitchIn ctx) := by
  refine keeps_onHw fun m h => ?_
  have hin : Sd (m.switchIn ctx) := Hw_switchIn_sd h
  split
  · exact h
  · exact sd_ite (Hw_decide__sd (Hw_startRuns_sd (Hw_updCtx_sd (sd_ite (Hw_recover_sd hin) hin)))) h

theorem execSubmitEntryTake_keeps {queue : Nat} {entry : List Byte} : Keeps (execSubmitEntryTake queue entry) := by
  refine keeps_onHw fun m h => ?_
  split
  · exact h
  · exact sd_ite (Hw_takeEntry_sd h) h

theorem execRunEnd_keeps {plan : Nat} : Keeps (execRunEnd plan) := by
  refine keeps_onHw fun m h => ?_
  split
  · exact h
  · split
    · exact h
    · refine sd_ite (Hw_runEnded_sd ?_) h
      exact sd_ite (Hw_event_sd h) h

theorem execEnergyApportionment_keeps {measured : List Nat} {hub : Nat} : Keeps (execEnergyApportionment measured hub) := by
  refine keeps_onHw fun m h => sd_ite ?_ h
  extract_lets m1
  have h1 : Sd m1 := Hw_apportion_sd (foldl_sd (fun _ _ hm => Hw_apportion_sd hm) _ _ h)
  clear_value m1
  exact h1

/-! ### Core faults and rollback -/

theorem execResidueMismatch_keeps {core thread : Nat} {site : ResidueAt} : Keeps (execResidueMismatch core thread site) := by
  refine keeps_onHw fun m h => ?_
  extract_lets c
  split
  · exact sd_ite (Hw_breakCore_sd h) h
  · exact h

theorem execHoldError_keeps {core : Nat} {err : HoldErr} : Keeps (execHoldError core err) :=
  keeps_onHw fun _ h => sd_ite h (sd_ite (Hw_countCore_sd h) (sd_ite (Hw_breakCore_sd h) h))

theorem execCoreFaultHandling_keeps {core : Nat} : Keeps (execCoreFaultHandling core) := by
  refine keeps_onHw fun m h => ?_
  extract_lets c
  split
  · next x _ _ _ _ _ =>
    have hstop : Sd (m.stopThreads x) := Hw_stopThreads_sd h
    exact sd_ite (sd_ite (Hw_refillPosition_sd hstop) (Hw_losePosition_sd hstop)) h
  · exact h

theorem execRollback_keeps {ctx : Nat} : Keeps (execRollback ctx) := by
  refine keeps_onHw fun m h => ?_
  have hback : Sd ((m.recover ctx).resumeState ctx) := Hw_resumeState_sd (Hw_recover_sd h)
  split
  · exact h
  · next x _ =>
    exact sd_ite (sd_ite (Hw_startRuns_sd hback) (sd_ite hback
      (Hw_resumeState_sd (m := { m with ctxs := mset m.ctxs ctx { x with rollbackDue := true } }) h))) h

theorem execStandbyRefill_keeps {part quarter : Nat} : Keeps (execStandbyRefill part quarter) := by
  refine keeps_onHw fun m h => ?_
  split
  · exact h
  · split
    · exact h
    · next r _ =>
      extract_lets m1 post
      have h1 : Sd m1 := h
      split
      · exact Hw_event_sd h1
      · next p _ =>
        have hfill : Sd (m1.setFill r.1 (some p)) := Hw_setFill_sd h1
        exact Hw_event_sd (Hw_publishCores_sd hfill)

/-! ### Requests and memory -/

theorem execRequestIssue_keeps {core : Nat} : Keeps (execRequestIssue core) := by
  refine keeps_onHw fun m h => ?_
  split
  · exact h
  · refine sd_ite h ?_
    split
    · exact h
    · exact Hw_issueOne_sd h

theorem execRequestComplete_keeps {core req : Nat} {rb : ReadBack} : Keeps (execRequestComplete core req rb) := by
  refine keeps_onHw fun m h => ?_
  extract_lets c
  split
  · split
    · exact sd_ite (Hw_respond_sd h) h
    · exact h
  · exact h

theorem execLateResponseBound_keeps {core req : Nat} : Keeps (execLateResponseBound core req) := by
  refine keeps_onHw fun m h => ?_
  extract_lets c
  split
  · split
    · refine sd_ite (updCore_sd ?_ fun c hc => (congrArg Memory.wf (fill_hold c)).trans hc) h
      refine foldl_sd (fun _ _ hm => Hw_endWith_sd hm) _ _ (Hw_lateNote_sd (updCore_sd ?_ fun _ hc => hc))
      exact sd_ite (Hw_lateStore_sd h) h
    · exact h
  · exact h

theorem execLateArrival_keeps {core req : Nat} : Keeps (execLateArrival core req) := by
  refine keeps_onHw fun m h => ?_
  split
  · exact h
  · dsimp only
    split
    · exact Hw_count_sd h
    · exact h

theorem execContextFaultStop_keeps {ctx : Nat} : Keeps (execContextFaultStop ctx) := by
  refine keeps_onHw fun m h => ?_
  split
  · exact h
  · exact sd_ite h (foldl_sd (fun _ _ hm => Hw_recordFault_sd hm) _ _
      (Hw_updCtx_sd (Hw_mayDecide_sd (Hw_stopThreads_sd h))))

theorem execOpComplete_keeps {core thread : Nat} : Keeps (execOpComplete core thread) := by
  refine keeps_onHw fun m h => ?_
  extract_lets c
  split
  · split
    · exact Hw_fault_sd h
    · exact sd_ite h (Hw_complete_sd h)
  · exact h

theorem scrubStart_sd {m : Hw} (h : Sd m) : Sd m.scrubStart := by
  obtain hm | ⟨p, hm⟩ := scrubStart_cases m
  · rw [hm]
    exact h
  · rw [hm]
    exact h

theorem scrubRead_sd {m : Hw} {k : Nat} {rb : ReadBack} {r : WordRead} (h : Sd m) : Sd (scrubRead m k rb r) := by
  have hc : Sd (m.corrected k) := Hw_corrected_sd h
  have hd : Sd (m.count 7 (m.chanOf k) 1 1).dirty := Hw_dirty_sd (Hw_count_sd h)
  unfold scrubRead
  split
  · exact ⟨hc.1, rewrite_wf hc.2.1, hc.2.2⟩
  · generalize (m.count 7 (m.chanOf k) 1 1).dirty = t at hd
    exact Hw_eventAux_sd (m := { t with mem := t.mem.poison k 64 }) hd
  · exact h

theorem scrubbedAt_sd {m : Hw} {k : Nat} (h : Sd m) : Sd (scrubbedAt m k) := h

theorem execPatrolScrub_keeps {quarter tier word : Nat} {rb : ReadBack} :
    Keeps (exec (.patrolScrub quarter tier word rb)) := by
  intro s t hs ht
  have hstart : Sd s.m.scrubStart := scrubStart_sd hs
  by_cases h : s.m.scrubStart.boot = .done ∧ quarter < 4 ∧ tier < 2 ∧ s.m.scrubStart.scrubs quarter tier word = true
  · obtain ⟨hboot, hquarter, htier, hscrubs⟩ := h
    rw [exec_patrolScrub rb rfl hboot hquarter htier hscrubs] at ht
    cases ht
    exact scrubRead_sd (scrubbedAt_sd hstart)
  · change execPatrolScrub quarter tier word rb s = _ at ht
    rw [execPatrolScrub, onHw_next, if_neg (by simpa [and_assoc] using h)] at ht
    cases ht
    exact hstart

/-! ### Ingest and tide -/

theorem execEthernetFrameReceive_keeps {port : Nat} {frame : EthFrame} : Keeps (execEthernetFrameReceive port frame) := by
  intro s t hs ht
  refine onHw_sd hs (fun m h => ?_) ht
  refine sd_ite h ?_
  exact Hw_receive_sd (foldl_sd (fun _ _ hm => Hw_receiveEarly_sd hm) _ _ h)

theorem execFrameDl_keeps {run : HubRun} : Keeps (execFrameDl run) := by
  refine keeps_withEnds fun m h => ?_
  split
  · split
    · exact h
    · exact sd_ite (Hw_closeFrame_sd h) h
  · exact h

theorem execSenderLockRelease_keeps {entry : Nat} : Keeps (execSenderLockRelease entry) := by
  refine keeps_onHw fun m h => ?_
  split
  · exact h
  · next f _ =>
    exact sd_ite (Hw_count_sd (Hw_event_sd (m := { m with flows := mset m.flows entry { f with lock := none } }) h)) h

theorem execControlProtocolMessage_keeps {port : Nat} {frame : CtlFrame} : Keeps (execControlProtocolMessage port frame) := by
  refine keeps_onHw fun m h => ?_
  extract_lets x n _ m1
  have h1 : Sd m1 := Hw_rxFrame_sd (m := { m with mem := { m.mem with free := m.mem.free + 1 } }) h
  refine sd_ite h ?_
  split
  · exact sd_ite (Hw_count_sd h1) (Hw_stranger_sd h1)
  · split
    · exact sd_ite (Hw_setPort_sd h1) (Hw_stranger_sd h1)
    · exact Hw_stranger_sd h1

theorem execPtpMessage_keeps {port : Nat} {msg : PtpMsg} : Keeps (execPtpMessage port msg) := by
  refine keeps_onHw fun m h => ?_
  extract_lets n _ m1 m2
  have h1 : Sd m1 := Hw_rxFrame_sd (m := { m with mem := { m.mem with free := m.mem.free + 1 } }) h
  refine sd_ite h ?_
  split
  · exact Hw_stranger_sd h1
  · refine sd_ite (Hw_stranger_sd h1) ?_
    have h2 : Sd m2 := Hw_count_sd h1
    split
    · exact Hw_ptpAnnounce_sd h2
    · exact sd_ite (Hw_ptpSync_sd h2) h2
    · exact h2

/-! ### Telemetry and resets -/

theorem execSnapshotTick_keeps : Keeps execSnapshotTick := by
  refine keeps_onHw fun m h => ?_
  split
  · exact h
  · exact sd_ite h (sd_ite h h)

theorem execFwDead_keeps : Keeps execFwDead := by
  refine keeps_onHw fun m h => sd_ite (cause4_sd ?_) h
  exact h

theorem execLinkDown_keeps : Keeps execLinkDown := by
  refine keeps_onHw fun m h => ?_
  have hreset : Sd (m.resetFunction PcieCfg.afterHot) := Hw_resetFunction_sd h
  exact sd_ite hreset h

theorem execPcieLinkTraining_keeps {speed width : Nat} : Keeps (execPcieLinkTraining speed width) := by
  refine keeps_onHw fun m h => ?_
  extract_lets ok q q' _ _ m1
  have h1 : Sd m1 := h
  exact sd_ite h (sd_ite h1 (cause5_sd h1))

theorem execPowerOnReset_keeps {found : Found} : Keeps (execPowerOnReset found) :=
  keeps_onHw fun _ h => sd_ite h (sd_ite Hw_bringUp_sd Hw_bringUp_sd)

theorem execAutomaticReset_keeps {run : AutoReset} : Keeps (execAutomaticReset run) :=
  keeps_onHw fun _ h => sd_ite h (sd_ite Hw_bringUp_sd (Hw_setV400_sd h))

theorem execTrialImageTimeout_keeps {found : Found} : Keeps (execTrialImageTimeout found) := by
  refine keeps_onHw fun m h => ?_
  split
  · exact h
  · next c _ =>
    have hwiped : Sd (m.wiped c.kind) := Hw_wiped_sd
    exact sd_ite hwiped h

/-- The state of a module without power is that of a reset. -/
theorem execInputPowerLoss_keeps : Keeps execInputPowerLoss := by
  refine keeps_onHw fun m _ => ?_
  have hreset : Sd Hw.reset := (sound_iff _).1 ⟨rfl, rfl⟩
  exact hreset

/-! ### Power -/

theorem execCapstanAdmission_keeps : Keeps execCapstanAdmission := by
  refine keeps_onHw fun m h => ?_
  split
  · exact h
  · exact sd_ite h (Hw_retune_sd (Hw_capstanServe_sd (Hw_updPower_sd h)))

theorem execWakeBoundExpiry_keeps : Keeps execWakeBoundExpiry := by
  refine keeps_onHw fun m h => ?_
  split
  · exact h
  · exact Hw_count_sd (Hw_event_sd (Hw_updPower_sd h))

theorem execPowerCapEvaluation_keeps {watts : Nat} : Keeps (execPowerCapEvaluation watts) := by
  refine keeps_onHw fun m h => sd_ite h ?_
  extract_lets _ m1 limit m2
  have h1 : Sd m1 := h
  have h2 : Sd m2 := Hw_updPower_sd h1
  exact sd_ite (sd_ite h2 (Hw_capLower_sd h2)) (sd_ite (Hw_capRaise_sd h1) (Hw_updPower_sd h1))

theorem execPowerLimitNotMet_keeps : Keeps execPowerLimitNotMet := by
  refine keeps_onHw fun m h => ?_
  split
  · exact h
  · exact sd_ite (Hw_event_sd (Hw_updPower_sd h)) h

theorem execBrownWarning_keeps {v400 v48 : Nat} : Keeps (execBrownWarning v400 v48) :=
  keeps_onHw fun _ h => sd_ite h (sd_ite (Hw_updPower_sd (Hw_setV48_sd (Hw_setV400_sd h))) (Hw_brownCross_sd h))

theorem execBrownWarningClear_keeps {v400 below : Nat} : Keeps (execBrownWarningClear v400 below) :=
  keeps_onHw fun _ h => sd_ite (Hw_setWarn_sd (Hw_updPower_sd (Hw_setV400_sd h))) h

theorem execRecoveryTimer_keeps : Keeps execRecoveryTimer :=
  keeps_onHw fun _ h => sd_ite (Hw_retune_sd (Hw_updPower_sd h)) h

theorem execBus48Throttle_keeps {v400 v48 : Nat} : Keeps (execBus48Throttle v400 v48) := by
  refine keeps_onHw fun m h => sd_ite h ?_
  exact Hw_guaranteeAll_sd (Hw_event_sd (Hw_count_sd (Hw_showThrottle_sd (Hw_retune_sd
    (Hw_updPower_sd (Hw_setV48_sd (Hw_setV400_sd h)))))))

theorem execBus48Clear_keeps {v400 v48 : Nat} : Keeps (execBus48Clear v400 v48) :=
  keeps_onHw fun _ h => sd_ite (Hw_updPower_sd (Hw_setV48_sd (Hw_setV400_sd h))) h

theorem execInputOvervoltageWarning_keeps {v400 : Nat} : Keeps (execInputOvervoltageWarning v400) :=
  keeps_onHw fun _ h => sd_ite (Hw_event_sd (Hw_updPower_sd (Hw_setV400_sd h))) h

theorem execInputOvervoltageClear_keeps {v400 : Nat} : Keeps (execInputOvervoltageClear v400) :=
  keeps_onHw fun _ h => sd_ite (Hw_updPower_sd (Hw_setV400_sd h)) h

theorem execRail12Stop_keeps {v12 : Nat} : Keeps (execRail12Stop v12) :=
  keeps_onHw fun m h => sd_ite (Hw_orderlyStop_sd (m := { m with quay := { m.quay with v12 := v12 } }) h) h

theorem execOrderlyStopComplete_keeps : Keeps execOrderlyStopComplete := by
  refine keeps_onHw fun m h => ?_
  have hgone : Sd m.destroyAll := Hw_destroyAll_sd h
  have hlost : Sd { m.destroyAll with mem := m.destroyAll.mem.lost } := kept_ram_nil hgone
  exact sd_ite (Hw_setStatus_sd (Hw_updPower_sd hlost)) h

theorem execConversionUnitLoss_keeps {group unit : Nat} : Keeps (execConversionUnitLoss group unit) := by
  refine keeps_onHw fun m h => sd_ite h ?_
  exact Hw_event_sd (Hw_dirty_sd (Hw_updPower_sd (m := { m with mem := { m.mem with free := m.mem.free + 1 } }) h))

theorem execQuarterThermalThrottle_keeps {quarter temp : Nat} : Keeps (execQuarterThermalThrottle quarter temp) :=
  keeps_onHw fun _ h => sd_ite (Hw_thermalChange_sd (Hw_thermalFall_sd (Hw_updPower_sd (Hw_setTq_sd h)))) h

theorem execThermalLimitStep_keeps {quarter temp : Nat} : Keeps (execThermalLimitStep quarter temp) :=
  keeps_onHw fun _ h => sd_ite (sd_ite (Hw_thermalGuarantee_sd (Hw_thermalFall_sd (Hw_setTq_sd h))) (Hw_setTq_sd h)) h

theorem execThermalRecovery_keeps {quarter temp : Nat} : Keeps (execThermalRecovery quarter temp) :=
  keeps_onHw fun _ h => sd_ite (Hw_retune_sd (Hw_thermalChange_sd (Hw_updPower_sd (Hw_setTq_sd h)))) h

theorem execCoolantInletLimit_keeps {temp : Nat} : Keeps (execCoolantInletLimit temp) := by
  refine keeps_onHw fun m h => sd_ite ?_ h
  exact Hw_thermalChange_sd (Hw_retune_sd (Hw_updPower_sd (m := { m with quay := { m.quay with tcool := temp } }) h))

theorem execCoolantInletClear_keeps {temp : Nat} : Keeps (execCoolantInletClear temp) := by
  refine keeps_onHw fun m h => sd_ite ?_ h
  exact Hw_retune_sd (Hw_thermalChange_sd (Hw_updPower_sd (m := { m with quay := { m.quay with tcool := temp } }) h))

theorem execCriticalTemperature_keeps {site temp : Nat} : Keeps (execCriticalTemperature site temp) := by
  refine keeps_onHw fun m h => sd_ite ?_ h
  extract_lets _ m1 _ m2
  have h1 : Sd m1 := sd_ite (Hw_setTq_sd h) h
  have h2 : Sd m2 := sd_ite h1 (cause2_sd (m := { m1 with quay := { m1.quay with crit := true } }) h1)
  exact Hw_orderlyStop_sd h2

/-! ### Power states -/

theorem execHoldEntryComplete_keeps : Keeps execHoldEntryComplete := by
  refine keeps_onHw fun m h => ?_
  split
  · exact h
  · refine sd_ite h ?_
    extract_lets go
    have hgo : Sd go := Hw_updPower_sd h
    split
    · exact Hw_setPs_sd (Hw_pstateDone_sd hgo)
    · exact sd_ite h (Hw_updPower_sd (Hw_keepPtrs_sd (Hw_setPs_sd (Hw_pstateDone_sd (Hw_outAll_sd hgo)))))
    · exact h
    · exact h

theorem execAnchorWake_keeps {src : WakeSource} : Keeps (execAnchorWake src) := by
  refine keeps_onHw fun m h => sd_ite h ?_
  extract_lets wake
  have hwake : Sd (wake m) := Hw_updPower_sd (Hw_setPs_sd h)
  split
  · exact sd_ite h hwake
  · exact sd_ite (Hw_portLink_sd hwake) h

theorem execWakeComplete_keeps : Keeps execWakeComplete := by
  refine keeps_onHw fun m h => sd_ite ?_ h
  extract_lets back m1 held _ m2
  have h1 : Sd m1 := foldl_sd (fun _ _ hm => Hw_updCtx_sd (Hw_switchIn_sd hm)) _ _ h
  have h2 : Sd m2 := Hw_toRun_sd (m := { m1 with quay := { m1.quay with held := [] } }) h1
  exact foldl_sd (fun _ _ hm => Hw_applyWrite_sd hm) _ _ h2

/-! ### Upload jobs -/

theorem execIntakeEntryFetch_keeps {job : Nat} {run : IntakeRun} : Keeps (execIntakeEntryFetch job run) := by
  refine keeps_withEnds fun m h => ?_
  split
  · exact h
  · exact sd_ite h (Hw_jobPump_sd (Hw_notify_sd (Hw_setJob_sd h)))

theorem execDecodeStart_keeps {job seq : Nat} {run : DecodeRun} : Keeps (execDecodeStart job seq run) := by
  refine keeps_withEnds fun m h => ?_
  split
  · exact h
  · split
    · exact h
    · exact sd_ite h (sd_ite (Hw_jobPump_sd (Hw_setJob_sd (Hw_hostDecoded_sd h)))
        (sd_ite h (Hw_jobPump_sd (Hw_setJob_sd h))))

theorem execDecodeComplete_keeps {job seq : Nat} {done : DecodeDone} : Keeps (execDecodeComplete job seq done) := by
  refine keeps_withEnds fun m h => ?_
  split
  · exact h
  · next j _ =>
    split
    · exact h
    · next s _ =>
      have put : ∀ (m : Hw) (s : Sample), Sd m → Sd ((m.setJob job (j.setSample seq s)).jobPump job) :=
        fun m s hm => Hw_jobPump_sd (Hw_setJob_sd hm)
      have hread : Sd (m.hubRead j.ctx s.inVa s.inLen).2 := Hw_hubRead_sd h
      generalize m.hubRead j.ctx s.inVa s.inLen = r at hread
      refine sd_ite h ?_
      cases done.how with
      | larger hdr =>
        dsimp only
        split
        · exact put _ _ h
        · exact h
      | undecodable => exact put _ _ hread
      | unsupported => exact put _ _ hread
      | unreadable => exact put _ _ hread
      | frames fs => exact sd_ite (put _ _ h) (sd_ite (put _ _ hread) (put _ _ (Hw_count_sd hread)))

theorem execTensorizerWrite_keeps {job : Nat} {run : TensorRun} : Keeps (execTensorizerWrite job run) := by
  refine keeps_withEnds fun m h => ?_
  split
  · exact h
  · split
    · exact h
    · exact sd_ite (Hw_jobPump_sd (Hw_writeSample_sd h)) h

theorem execBatchDl_keeps {run : HubRun} : Keeps (execBatchDl run) := by
  refine keeps_withEnds fun m h => ?_
  split
  · exact h
  · split
    · exact h
    · exact sd_ite (Hw_jobPump_sd (Hw_setJob_sd h)) h

theorem execReleaseWordPoll_keeps {run : HubRun} : Keeps (execReleaseWordPoll run) := by
  refine keeps_withEnds fun m h => ?_
  split
  · exact h
  · exact sd_ite h (Hw_jobPump_sd (Hw_setJob_sd (Hw_hubInt64_sd h)))

theorem execDecoderOccupancySample_keeps {job busy : Nat} : Keeps (execDecoderOccupancySample job busy) := by
  refine keeps_onHw fun m h => ?_
  split
  · exact h
  · have post : ∀ (j : Job) (l : List (Nat × Nat)) (c : Option Nat), Sd (((m.setJob job j).event 0x0390 c l).count 5 job 4 1) :=
      fun j l c => Hw_count_sd (Hw_event_sd (Hw_setJob_sd h))
    have quiet : ∀ j, Sd (m.setJob job j) := fun j => Hw_setJob_sd h
    refine sd_ite h (sd_ite (sd_ite (post _ _ _) (quiet _)) (sd_ite ?_ (quiet _)))
    split
    · exact quiet _
    · exact sd_ite (post _ _ _) (quiet _)

theorem execGuideDl_keeps {job seq frame : Nat} : Keeps (execGuideDl job seq frame) := by
  refine keeps_onHw fun m h => ?_
  split
  · exact h
  · split
    · exact sd_ite (Hw_putSample_sd (Hw_guideMiss_sd h)) h
    · exact h

theorem encodeEnd_sd {m : Hw} {n : Nat} {j : Job} {e : EncCfg} {seq frame : Nat} {x z : Sample} {qs : List (List Int)}
    (h : Sd m) : Sd (encodeEnd m n j e seq frame x z qs) := by
  unfold encodeEnd
  exact sd_ite (Hw_putSample_sd (Hw_count_sd (Hw_event_sd h))) (Hw_putSample_sd (Hw_hubWrite_sd h))

theorem recordRead_sd {m : Hw} {j : Job} {e : EncCfg} {seq frame : Nat} {g : Bool} (h : Sd m) :
    Sd (recordRead m j e seq frame g).2 := by
  unfold recordRead
  split
  · exact Hw_hubRead_sd h
  · exact h

theorem frameCounted_sd {m : Hw} {n : Nat} {j : Job} {seq : Nat} {x : Sample} {ok : Bool} (h : Sd m) :
    Sd (frameCounted m n j seq x ok).1 := by
  cases ok with
  | true => exact Hw_count_sd h
  | false => exact Hw_guideMiss_sd (Hw_count_sd (Hw_count_sd h))

theorem frameEncoded_sd {m : Hw} {n : Nat} {j : Job} {e : EncCfg} {seq frame : Nat} {x : Sample} {g : Bool} (h : Sd m) :
    Sd (frameEncoded m n j e seq frame x g) := encodeEnd_sd (frameCounted_sd (recordRead_sd h))

theorem execEncodeFrame_keeps {job seq frame : Nat} {ends : List ReadEnd} : Keeps (execEncodeFrame job seq frame ends) := by
  refine keeps_withEnds fun m h => ?_
  split
  · exact h
  · next j _ =>
    split
    · next x e _ _ =>
      have hcoded : Sd (frameEncoded m job j e seq frame x (!x.guideUp && m.guided j e seq frame)) := frameEncoded_sd h
      exact sd_ite h hcoded
    · exact h

/-! ### Commands that are one change, or one where it may happen -/

theorem execMarshallingDeadline_keeps {core thread : Nat} : Keeps (execMarshallingDeadline core thread) :=
  keeps_onHw fun _ h => Hw_mshDeadline_sd h

theorem execMigrationStepLate_keeps {quarter slot : Nat} : Keeps (execMigrationStepLate quarter slot) :=
  keeps_onHw fun _ h => Hw_granuleLate_sd h

theorem execMigrationEnd_keeps {quarter slot : Nat} : Keeps (execMigrationEnd quarter slot) :=
  keeps_onHw fun _ h => Hw_migEnd_sd h

theorem execQwResetWarm_keeps {value : BitVec 64} {found : Found} : Keeps (execQwResetWarm value found) :=
  keeps_onHw fun _ h => Hw_resetWrite_sd h

theorem execQwResetCold_keeps {value : BitVec 64} {found : Found} : Keeps (execQwResetCold value found) :=
  keeps_onHw fun _ h => Hw_resetWrite_sd h

theorem execBar2Resize_keeps {log2 : Nat} : Keeps (execBar2Resize log2) := keeps_onHw fun _ h => Hw_resizeBar2_sd h

theorem execFlitRetry_keeps {link : Nat} : Keeps (execFlitRetry link) := keeps_if fun _ h => Hw_count_sd h

theorem execLinkRetirement_keeps {link : Nat} : Keeps (execLinkRetirement link) :=
  keeps_onHw fun _ h => sd_ite (Hw_retireLink_sd h) h

theorem execHalfLinkRetirement_keeps {quarter half : Nat} : Keeps (execHalfLinkRetirement quarter half) :=
  keeps_if fun _ h => Hw_retireLink_sd h

theorem execMigrationGranuleMove_keeps {quarter : Nat} {run : GranuleRun} : Keeps (execMigrationGranuleMove quarter run) :=
  keeps_if fun _ h => Hw_granuleMove_sd h

theorem execSchedulingDecision_keeps : Keeps execSchedulingDecision := keeps_if fun _ h => Hw_decide__sd h

theorem execAnnounceTimeout_keeps : Keeps execAnnounceTimeout := keeps_if fun _ h => Hw_updIsland_sd (Hw_setSync_sd h)

theorem execPortLinkStateChange_keeps {port : Nat} {link : LinkReport} : Keeps (execPortLinkStateChange port link) :=
  keeps_if fun _ h => Hw_portLink_sd h

theorem execTideTick_keeps : Keeps execTideTick := keeps_if fun _ h => Hw_beginTicks_sd h

theorem execSnapshotPublication_keeps : Keeps execSnapshotPublication := keeps_if fun _ h => h

theorem execFwBeat_keeps : Keeps execFwBeat := keeps_if fun _ h => h

theorem execInputUndervoltageStop_keeps {v400 : Nat} : Keeps (execInputUndervoltageStop v400) :=
  keeps_if fun _ h => Hw_orderlyStop_sd (Hw_setV400_sd h)

theorem execInputOvervoltageStop_keeps {v400 : Nat} : Keeps (execInputOvervoltageStop v400) :=
  keeps_if fun _ h => Hw_orderlyStop_sd (Hw_setV400_sd h)

theorem execBus48Stop_keeps {v48 : Nat} : Keeps (execBus48Stop v48) :=
  keeps_if fun _ h => Hw_orderlyStop_sd (Hw_setV48_sd h)

theorem execFunctionLevelReset_keeps : Keeps execFunctionLevelReset := keeps_if fun _ h => Hw_resetFunction_sd h

theorem execHotReset_keeps : Keeps execHotReset := keeps_if fun _ h => Hw_resetFunction_sd h

theorem execQwCauseWrite_keeps {value : BitVec 64} : Keeps (execQwCauseWrite value) :=
  keeps_if fun _ h => Hw_clearCause_sd h

theorem execQwCauseEnWrite_keeps {value : BitVec 64} : Keeps (execQwCauseEnWrite value) :=
  keeps_if fun _ h => Hw_setCauseEn_sd h

theorem execQwHosterrRead_keeps : Keeps execQwHosterrRead := keeps_if fun _ h => Hw_readHosterr_sd h

theorem execBollardDoorbellAdd_keeps {core : Nat} {value : BitVec 64} : Keeps (execBollardDoorbellAdd core value) :=
  keeps_unless fun _ h => Hw_hostWrite_sd h

theorem execBollardDoorbellSet_keeps {core : Nat} {value : BitVec 64} : Keeps (execBollardDoorbellSet core value) :=
  keeps_if fun _ h => Hw_hostWrite_sd h

theorem execMsixVectorUnmask_keeps {vec : Nat} : Keeps (execMsixVectorUnmask vec) := keeps_if fun _ h => Hw_setMask_sd h

theorem execMsixHoldoffExpiry_keeps {vec : Nat} : Keeps (execMsixHoldoffExpiry vec) := keeps_if fun _ h => sd_host h

theorem execUnsupportedPldmCommand_keeps {type cmd : Nat} : Keeps (execUnsupportedPldmCommand type cmd) :=
  keeps_unless fun _ h => Hw_sb_sd h

/-! ### The host link -/

theorem execBar2Read_keeps {off : Nat} {read : HostRead} : Keeps (execBar2Read off read) := by
  refine keeps_guarded fun m h => ?_
  refine sd_ite h ?_
  split
  · exact Hw_hosterr_sd (Hw_readDone_sd h)
  · exact withEnds_sd h fun x hx => Hw_readDone_sd (Hw_count_sd (Hw_hubRead_sd hx))

theorem execBar2Write_keeps {off : Nat} {bs : List Byte} {store : HostStore} : Keeps (execBar2Write off bs store) := by
  refine keeps_guarded fun m h => ?_
  refine sd_ite h ?_
  split
  · exact Hw_hosterr_sd h
  · exact sd_ite (Hw_hosterr_sd h) (withEnds_sd h fun x hx => Hw_hubWrite_sd (Hw_count_sd hx))

theorem execQuayRefusedAccess_keeps {off len : Nat} {write : Bool} : Keeps (execQuayRefusedAccess off len write) := by
  refine keeps_guarded fun m h => ?_
  refine sd_ite h ?_
  split
  · split
    · exact Hw_readHosterr_sd h
    · exact h
  · exact Hw_hosterr_sd (sd_ite h (Hw_readDone_sd h))

theorem regWritten_sd {off : Nat} {bs : List Byte} {m : Hw} (h : Sd m) : Sd (regWritten off bs m) := by
  unfold regWritten
  refine sd_ite (Hw_configWrite_sd h) (sd_ite (sd_ite (Hw_bar4Write_sd h) h) (sd_ite h (sd_ite (Hw_hosterr_sd h) ?_)))
  refine sd_ite (Hw_clearCause_sd h) (sd_ite (sd_ite (Hw_setCauseEn_sd h) h) (sd_ite h ?_))
  exact sd_ite (Hw_pairWrite_sd h) (sd_ite (Hw_pointerWrite_sd h) (sd_ite (Hw_bellWrite_sd h) h))

theorem exec_registerWrite_keeps {off : Nat} {bs : List Byte} : Keeps (exec (.registerWrite off bs)) := by
  intro s t hs ht
  rw [exec_registerWrite] at ht
  exact keeps_guarded (p := fun _ => 0x411000 ≤ off) (fun m h => regWritten_sd h) s t hs ht

theorem execEventHeadWrite_keeps {ctx : Nat} {value : BitVec 32} : Keeps (execEventHeadWrite ctx value) :=
  keeps_onHw fun _ h => sd_ite h (Hw_eventHead_sd h)

/-! ### Mailbox commands -/

theorem execCtxCreate_keeps {pair num tableQ : Nat} : Keeps (execCtxCreate pair num tableQ) :=
  keeps_serve fun _ _ h => Hw_ctxCreateReply_sd h

theorem execCtxSet_keeps {pair : Nat} : Keeps (execCtxSet pair) := keeps_serve fun _ _ h => Hw_ctxSetReply_sd h

theorem execCtxFaults_keeps {pair : Nat} : Keeps (execCtxFaults pair) := keeps_serve fun _ _ h => Hw_ctxFaultsReply_sd h

theorem execPlanEnable_keeps {pair : Nat} {run : EnableRun} : Keeps (execPlanEnable pair run) :=
  keeps_serve fun _ _ h => replyOver_ok (Hw_planEnableReply_sd h)

theorem execPlanDisable_keeps {pair : Nat} : Keeps (execPlanDisable pair) :=
  keeps_serve fun _ _ h => Hw_planDisableReply_sd h

theorem execFsetLoad_keeps {run : LoadRun} : Keeps (execFsetLoad run) :=
  keeps_serve fun _ _ h => replyOver_ok (Hw_fsetLoadReply_sd h)

theorem execRouteLoad_keeps {run : LoadRun} : Keeps (execRouteLoad run) :=
  keeps_serve fun _ _ h => replyOver_ok (Hw_routeLoadReply_sd h)

theorem execSubqCreate_keeps {run : RingRun} {queue : Nat} : Keeps (execSubqCreate run queue) :=
  keeps_serve fun _ _ h => Hw_subqCreateReply_sd h

theorem execSubqDestroy_keeps {pair : Nat} : Keeps (execSubqDestroy pair) :=
  keeps_serve fun _ _ h => Hw_subqDestroyReply_sd h

theorem execMap_keeps {pair frame : Nat} : Keeps (execMap pair frame) := keeps_serve fun _ _ h => Hw_mapReply_sd h

theorem execUnmap_keeps {pair : Nat} : Keeps (execUnmap pair) := keeps_serve_unless fun _ _ h => Hw_unmapReply_sd h

theorem execMapAttr_keeps {pair : Nat} : Keeps (execMapAttr pair) :=
  keeps_serve_unless fun _ _ h => Hw_mapAttrReply_sd h

theorem execMigrate_keeps {pair : Nat} : Keeps (execMigrate pair) := keeps_serve fun _ _ h => Hw_migrateReply_sd h

theorem execRetireFrame_keeps {pair : Nat} : Keeps (execRetireFrame pair) :=
  keeps_serve fun _ _ h => Hw_retireFrameReply_sd h

theorem execRetireUnit_keeps {pair : Nat} : Keeps (execRetireUnit pair) :=
  keeps_serve fun _ _ h => Hw_retireUnitReply_sd h

theorem execScrubCfg_keeps {pair : Nat} : Keeps (execScrubCfg pair) := keeps_serve fun _ _ h => Hw_scrubCfgReply_sd h

theorem execAperture_keeps {pair : Nat} : Keeps (execAperture pair) := keeps_serve fun _ _ h => Hw_apertureReply_sd h

theorem execSeqTable_keeps {pair : Nat} : Keeps (execSeqTable pair) :=
  keeps_serve_unless fun _ _ h => Hw_seqTableReply_sd h

theorem execSeqDefine_keeps {pair : Nat} : Keeps (execSeqDefine pair) :=
  keeps_serve_unless fun _ _ h => Hw_seqDefineReply_sd h

theorem execSeqRelease_keeps {pair : Nat} : Keeps (execSeqRelease pair) :=
  keeps_serve_unless fun _ _ h => Hw_seqReleaseReply_sd h

theorem execPortCfg_keeps {pair : Nat} : Keeps (execPortCfg pair) := keeps_serve fun _ _ h => Hw_portCfgReply_sd h

theorem execFlowWrite_keeps {pair : Nat} : Keeps (execFlowWrite pair) := keeps_serve fun _ _ h => Hw_flowWriteReply_sd h

theorem execStreamEnable_keeps {pair : Nat} : Keeps (execStreamEnable pair) :=
  keeps_serve fun _ _ h => Hw_streamEnableReply_sd h

theorem execStreamDisable_keeps {pair : Nat} : Keeps (execStreamDisable pair) :=
  keeps_serve fun _ _ h => Hw_streamDisableReply_sd h

theorem execQuarClear_keeps {pair : Nat} : Keeps (execQuarClear pair) := keeps_serve fun _ _ h => Hw_quarClearReply_sd h

theorem execJobEnable_keeps {pair job : Nat} {block : JobBlock} : Keeps (execJobEnable pair job block) :=
  keeps_serveBlock fun _ _ _ h => Hw_jobEnableReply_sd h

theorem execJobDisable_keeps {pair : Nat} : Keeps (execJobDisable pair) :=
  keeps_serve fun _ _ h => Hw_jobDisableReply_sd h

theorem execQuarList_keeps {pair : Nat} : Keeps (execQuarList pair) := keeps_serve fun _ _ h => Hw_quarListReply_sd h

theorem execPartCreate_keeps {pair : Nat} : Keeps (execPartCreate pair) :=
  keeps_serve fun _ _ h => Hw_partCreateReply_sd h

theorem execPartDestroy_keeps {pair : Nat} : Keeps (execPartDestroy pair) :=
  keeps_serve_unless fun _ _ h => Hw_partDestroyReply_sd h

theorem execPstate_keeps {pair : Nat} : Keeps (execPstate pair) := keeps_serve fun _ _ h => Hw_pstateReply_sd h

theorem execPowerLimit_keeps {pair : Nat} : Keeps (execPowerLimit pair) :=
  keeps_serve fun _ _ h => Hw_powerLimitReply_sd h

theorem execTideCfg_keeps {pair : Nat} : Keeps (execTideCfg pair) := keeps_serve fun _ _ h => Hw_tideCfgReply_sd h

theorem execCapstanCfg_keeps {pair : Nat} : Keeps (execCapstanCfg pair) :=
  keeps_serve fun _ _ h => Hw_capstanCfgReply_sd h

theorem execHealthRead_keeps {pair : Nat} : Keeps (execHealthRead pair) :=
  keeps_serve fun _ _ h => Hw_healthReadReply_sd h

theorem execFwStage_keeps {pair : Nat} {block : Option (List Byte)} : Keeps (execFwStage pair block) :=
  keeps_serveBlock fun _ _ _ h => Hw_fwStageReply_sd h

theorem execTopoAccept_keeps {pair : Nat} : Keeps (execTopoAccept pair) :=
  keeps_serve fun _ _ h => Hw_topoAcceptReply_sd h

theorem execHealthClear_keeps {pair : Nat} : Keeps (execHealthClear pair) :=
  keeps_serve fun _ _ h => Hw_healthClearReply_sd h

theorem execErrlogRead_keeps {pair : Nat} : Keeps (execErrlogRead pair) :=
  keeps_serve fun _ _ h => Hw_errlogReadReply_sd h

theorem execEvringCreate_keeps {run : RingRun} : Keeps (execEvringCreate run) :=
  keeps_serve fun _ _ h => Hw_evringCreateReply_sd h

theorem execEvringDestroy_keeps {pair : Nat} : Keeps (execEvringDestroy pair) :=
  keeps_serve fun _ _ h => Hw_evringDestroyReply_sd h

theorem execIntrBind_keeps {pair : Nat} : Keeps (execIntrBind pair) := keeps_serve fun _ _ h => Hw_intrBindReply_sd h

theorem execSnapArm_keeps {pair : Nat} : Keeps (execSnapArm pair) := keeps_serve fun _ _ h => Hw_snapArmReply_sd h

theorem execSnapCancel_keeps {pair : Nat} : Keeps (execSnapCancel pair) :=
  keeps_serve fun _ _ h => Hw_snapCancelReply_sd h

theorem execEcho_keeps {pair : Nat} : Keeps (execEcho pair) := keeps_onHw fun _ h => serve_sd h fun _ => .done h

theorem execInfo_keeps {pair : Nat} : Keeps (execInfo pair) := keeps_serve fun _ _ h => Hw_infoReply_sd h

theorem execCtxDestroy_keeps {pair : Nat} : Keeps (execCtxDestroy pair) := by
  refine keeps_onHw fun m h => sd_ite h (sd_ite (Hw_stopThreads_sd h) ?_)
  exact serve_sd h fun _ => Hw_ctxDestroyReply_sd h

/-! ### Fetches, walks and swaps -/

theorem execDescriptorRunAheadFetch_keeps {core : Nat} {run : FetchRun} : Keeps (execDescriptorRunAheadFetch core run) := by
  refine keeps_onHw fun m h => ?_
  split
  · exact h
  · split
    · exact h
    · refine sd_ite h (sd_ite h (Hw_chargeFetch_sd (updCore_sd (Hw_fetchReads_sd h) fun c hc => ?_)))
      exact hc

theorem quarterTlb_sd {m : Hw} {l : List (Nat × TlbEntry)} (h : Sd m) : Sd { m with quarterTlb := l } := h

theorem execTlbWalk_keeps {core thread va : Nat} {ends : List ReadEnd} : Keeps (execTlbWalk core thread va ends) := by
  refine keeps_onHw fun m h => ?_
  extract_lets c
  split
  · exact h
  · split
    · exact h
    · refine sd_ite h ?_
      split
      · exact h
      · split
        · exact updCore_sd (Hw_countCore_sd h) fun _ hc => hc
        · have hwalk : ∀ l x, Sd ((((m.countCore core cTLBMISS 1).countCore core cWALKS 1).walkDecoded core l).walkTraffic core x va) :=
            fun l x => Hw_walkTraffic_sd (Hw_walkDecoded_sd (Hw_countCore_sd (Hw_countCore_sd h)))
          refine sd_ite (Hw_walkFault_sd (hwalk _ _)) ?_
          split
          · exact Hw_walkFault_sd (hwalk _ _)
          · exact updCore_sd (quarterTlb_sd (hwalk _ _)) fun _ hc => hc

theorem execFunctionSetSwap_keeps {core : Nat} : Keeps (execFunctionSetSwap core) :=
  keeps_onHw fun _ h => sd_ite (Hw_swapped_sd (updCore_sd h fun _ hc => hc)) h

theorem execRouteTableSwap_keeps {core : Nat} : Keeps (execRouteTableSwap core) :=
  keeps_onHw fun _ h => sd_ite (Hw_swapped_sd (updCore_sd h fun _ hc => hc)) h

/-! ### The sideband -/

theorem execGetEndpointId_keeps : Keeps execGetEndpointId := keeps_sb

theorem execGetMctpVersionSupport_keeps : Keeps execGetMctpVersionSupport := keeps_sb

theorem execGetMessageTypeSupport_keeps : Keeps execGetMessageTypeSupport := keeps_sb

theorem execGetTid_keeps : Keeps execGetTid := keeps_sb

theorem execGetPldmTypes_keeps : Keeps execGetPldmTypes := keeps_sb

theorem execGetPldmCommands_keeps {type : Nat} : Keeps (execGetPldmCommands type) := keeps_sb

theorem execGetPdrRepositoryInfo_keeps : Keeps execGetPdrRepositoryInfo := keeps_sb

theorem execGetPdr_keeps {handle : Nat} : Keeps (execGetPdr handle) := keeps_sb

theorem execGetSensorReading_keeps {sensor : Nat} : Keeps (execGetSensorReading sensor) := keeps_sb

theorem execGetStateSensorReadings_keeps {sensor : Nat} : Keeps (execGetStateSensorReadings sensor) := keeps_sb

theorem execGetFruRecordTableMetadata_keeps : Keeps execGetFruRecordTableMetadata := keeps_sb

theorem execGetFruRecordTable_keeps : Keeps execGetFruRecordTable := keeps_sb

theorem execSetEndpointId_keeps {eid : Nat} : Keeps (execSetEndpointId eid) := by
  refine keeps_onHw fun m h => sd_ite h (sd_ite (Hw_sb_sd h) (sd_ite (Hw_sb_sd h) ?_))
  exact Hw_sb_sd (m := { m with island := { m.island with eid := eid } }) h

theorem execGetPldmVersion_keeps {type : Nat} : Keeps (execGetPldmVersion type) := by
  refine keeps_onHw fun m h => sd_ite ?_ (Hw_sb_sd h)
  exact Hw_sb_sd (m := { m with mem := { m.mem with free := m.mem.free + 1 } }) h

/-! ### Every command, and the passing of time -/

/-- Every command keeps the module sound. -/
theorem exec_keeps (i : Instr) : Keeps (exec i) := by
  cases i with
  | matmul | matvec | conv | convArgmax | cropresize | attnMatFwd | attnMatBwd | attnStream | chainProduct |
    recurStep | stateXferExport | stateXferImport | stateXferZero | elemwise | normApply | move | gather |
    forkSeq | sealPageSeal | sealPageRelease | nop => exact keeps_startOp
  | marshallingStage => exact keeps_startWith fun _ _ h => Env_mshStart_sd h
  | marshallingDeadline => exact execMarshallingDeadline_keeps
  | prefetch => exact keeps_startWith fun _ _ h => Env_prefetchRun_sd h
  | signalAdd | signalSet | signalHost | ferryCombine => exact keeps_startWith fun _ _ h => h
  | wait => exact keeps_startWith fun _ _ h => updCore_sd h fun c hc => (congrArg Memory.wf (checkWaits_hold c _)).trans hc
  | tideWait => exact execTideWait_keeps
  | tideWaitTarget => exact execTideWaitTarget_keeps
  | ferrySend => exact keeps_startWith fun _ _ h => Hw_pumpFerries_sd (updCore_sd h fun _ hc => hc)
  | ferrySendReturn => exact keeps_startWith fun _ _ h => Hw_pumpFerries_sd h
  | sealPageAppend => exact keeps_startWith fun _ _ h => Env_zeroOpened_sd h
  | opComplete => exact execOpComplete_keeps
  | descriptorRunAheadFetch => exact execDescriptorRunAheadFetch_keeps
  | requestIssue => exact execRequestIssue_keeps
  | requestComplete => exact execRequestComplete_keeps
  | lateResponseBound => exact execLateResponseBound_keeps
  | lateArrival => exact execLateArrival_keeps
  | contextFaultStop => exact execContextFaultStop_keeps
  | tlbWalk => exact execTlbWalk_keeps
  | bollardUpdate => exact execBollardUpdate_keeps
  | waitBoundExpiry => exact execWaitBoundExpiry_keeps
  | residueMismatch => exact execResidueMismatch_keeps
  | holdError => exact execHoldError_keeps
  | coreFaultHandling => exact execCoreFaultHandling_keeps
  | rollback => exact execRollback_keeps
  | standbyRefill => exact execStandbyRefill_keeps
  | functionSetSwap => exact execFunctionSetSwap_keeps
  | routeTableSwap => exact execRouteTableSwap_keeps
  | ferryArrival => exact execFerryArrival_keeps
  | returnArrival => exact execReturnArrival_keeps
  | creditReturn => exact execCreditReturn_keeps
  | batchEmission => exact execBatchEmission_keeps
  | flushDl => exact execFlushDl_keeps
  | stallNotice => exact execStallNotice_keeps
  | flitRetry => exact execFlitRetry_keeps
  | laneReplacement => exact execLaneReplacement_keeps
  | linkRetirement => exact execLinkRetirement_keeps
  | halfLinkRetirement => exact execHalfLinkRetirement_keeps
  | migrationGranuleMove => exact execMigrationGranuleMove_keeps
  | migrationStepLate => exact execMigrationStepLate_keeps
  | migrationEnd => exact execMigrationEnd_keeps
  | patrolScrub => exact execPatrolScrub_keeps
  | schedulingDecision => exact execSchedulingDecision_keeps
  | quantumExpiry => exact execQuantumExpiry_keeps
  | switchOut => exact execSwitchOut_keeps
  | switchIn => exact execSwitchIn_keeps
  | submitEntryTake => exact execSubmitEntryTake_keeps
  | runEnd => exact execRunEnd_keeps
  | energyApportionment => exact execEnergyApportionment_keeps
  | ethernetFrameReceive => exact execEthernetFrameReceive_keeps
  | frameDl => exact execFrameDl_keeps
  | senderLockRelease => exact execSenderLockRelease_keeps
  | ptpMessage => exact execPtpMessage_keeps
  | announceTimeout => exact execAnnounceTimeout_keeps
  | controlProtocolMessage => exact execControlProtocolMessage_keeps
  | portLinkStateChange => exact execPortLinkStateChange_keeps
  | tideTick => exact execTideTick_keeps
  | intakeEntryFetch => exact execIntakeEntryFetch_keeps
  | decodeStart => exact execDecodeStart_keeps
  | decodeComplete => exact execDecodeComplete_keeps
  | tensorizerWrite => exact execTensorizerWrite_keeps
  | batchDl => exact execBatchDl_keeps
  | releaseWordPoll => exact execReleaseWordPoll_keeps
  | decoderOccupancySample => exact execDecoderOccupancySample_keeps
  | encodeFrame => exact execEncodeFrame_keeps
  | guideDl => exact execGuideDl_keeps
  | snapshotTick => exact execSnapshotTick_keeps
  | snapshotPublication => exact execSnapshotPublication_keeps
  | fwBeat => exact execFwBeat_keeps
  | fwDead => exact execFwDead_keeps
  | capstanAdmission => exact execCapstanAdmission_keeps
  | wakeBoundExpiry => exact execWakeBoundExpiry_keeps
  | powerCapEvaluation => exact execPowerCapEvaluation_keeps
  | powerLimitNotMet => exact execPowerLimitNotMet_keeps
  | brownWarning => exact execBrownWarning_keeps
  | brownWarningClear => exact execBrownWarningClear_keeps
  | recoveryTimer => exact execRecoveryTimer_keeps
  | inputUndervoltageStop => exact execInputUndervoltageStop_keeps
  | orderlyStopComplete => exact execOrderlyStopComplete_keeps
  | inputOvervoltageWarning => exact execInputOvervoltageWarning_keeps
  | inputOvervoltageClear => exact execInputOvervoltageClear_keeps
  | inputOvervoltageStop => exact execInputOvervoltageStop_keeps
  | inputPowerLoss => exact execInputPowerLoss_keeps
  | bus48Throttle => exact execBus48Throttle_keeps
  | bus48Clear => exact execBus48Clear_keeps
  | bus48Stop => exact execBus48Stop_keeps
  | rail12Stop => exact execRail12Stop_keeps
  | conversionUnitLoss => exact execConversionUnitLoss_keeps
  | quarterThermalThrottle => exact execQuarterThermalThrottle_keeps
  | thermalLimitStep => exact execThermalLimitStep_keeps
  | thermalRecovery => exact execThermalRecovery_keeps
  | coolantInletLimit => exact execCoolantInletLimit_keeps
  | coolantInletClear => exact execCoolantInletClear_keeps
  | criticalTemperature => exact execCriticalTemperature_keeps
  | anchorWake => exact execAnchorWake_keeps
  | wakeComplete => exact execWakeComplete_keeps
  | holdEntryComplete => exact execHoldEntryComplete_keeps
  | automaticReset => exact execAutomaticReset_keeps
  | powerOnReset => exact execPowerOnReset_keeps
  | trialImageTimeout => exact execTrialImageTimeout_keeps
  | functionLevelReset => exact execFunctionLevelReset_keeps
  | hotReset => exact execHotReset_keeps
  | linkDown => exact execLinkDown_keeps
  | pcieLinkTraining => exact execPcieLinkTraining_keeps
  | bar2Read => exact execBar2Read_keeps
  | bar2Write => exact execBar2Write_keeps
  | quayRefusedAccess => exact execQuayRefusedAccess_keeps
  | registerWrite => exact exec_registerWrite_keeps
  | qwCauseWrite => exact execQwCauseWrite_keeps
  | qwCauseEnWrite => exact execQwCauseEnWrite_keeps
  | qwHosterrRead => exact execQwHosterrRead_keeps
  | intakeTailWrite | submitTailWrite | mailboxDoorbell => exact keeps_hostWrite
  | eventHeadWrite => exact execEventHeadWrite_keeps
  | bollardDoorbellAdd => exact execBollardDoorbellAdd_keeps
  | bollardDoorbellSet => exact execBollardDoorbellSet_keeps
  | qwResetWarm => exact execQwResetWarm_keeps
  | qwResetCold => exact execQwResetCold_keeps
  | msixVectorUnmask => exact execMsixVectorUnmask_keeps
  | msixHoldoffExpiry => exact execMsixHoldoffExpiry_keeps
  | ctxCreate => exact execCtxCreate_keeps
  | ctxDestroy => exact execCtxDestroy_keeps
  | ctxSet => exact execCtxSet_keeps
  | ctxFaults => exact execCtxFaults_keeps
  | planEnable => exact execPlanEnable_keeps
  | planDisable => exact execPlanDisable_keeps
  | fsetLoad => exact execFsetLoad_keeps
  | routeLoad => exact execRouteLoad_keeps
  | subqCreate => exact execSubqCreate_keeps
  | subqDestroy => exact execSubqDestroy_keeps
  | map => exact execMap_keeps
  | unmap => exact execUnmap_keeps
  | mapAttr => exact execMapAttr_keeps
  | migrate => exact execMigrate_keeps
  | retireFrame => exact execRetireFrame_keeps
  | retireUnit => exact execRetireUnit_keeps
  | scrubCfg => exact execScrubCfg_keeps
  | aperture => exact execAperture_keeps
  | seqTable => exact execSeqTable_keeps
  | seqDefine => exact execSeqDefine_keeps
  | seqRelease => exact execSeqRelease_keeps
  | portCfg => exact execPortCfg_keeps
  | flowWrite => exact execFlowWrite_keeps
  | streamEnable => exact execStreamEnable_keeps
  | streamDisable => exact execStreamDisable_keeps
  | quarClear => exact execQuarClear_keeps
  | jobEnable => exact execJobEnable_keeps
  | jobDisable => exact execJobDisable_keeps
  | quarList => exact execQuarList_keeps
  | partCreate => exact execPartCreate_keeps
  | partDestroy => exact execPartDestroy_keeps
  | pstate => exact execPstate_keeps
  | powerLimit => exact execPowerLimit_keeps
  | tideCfg => exact execTideCfg_keeps
  | capstanCfg => exact execCapstanCfg_keeps
  | healthRead => exact execHealthRead_keeps
  | fwStage => exact execFwStage_keeps
  | topoAccept => exact execTopoAccept_keeps
  | healthClear => exact execHealthClear_keeps
  | errlogRead => exact execErrlogRead_keeps
  | evringCreate => exact execEvringCreate_keeps
  | evringDestroy => exact execEvringDestroy_keeps
  | intrBind => exact execIntrBind_keeps
  | snapArm => exact execSnapArm_keeps
  | snapCancel => exact execSnapCancel_keeps
  | echo => exact execEcho_keeps
  | info => exact execInfo_keeps
  | setEndpointId => exact execSetEndpointId_keeps
  | getEndpointId => exact execGetEndpointId_keeps
  | getMctpVersionSupport => exact execGetMctpVersionSupport_keeps
  | getMessageTypeSupport => exact execGetMessageTypeSupport_keeps
  | getTid => exact execGetTid_keeps
  | getPldmVersion => exact execGetPldmVersion_keeps
  | getPldmTypes => exact execGetPldmTypes_keeps
  | getPldmCommands => exact execGetPldmCommands_keeps
  | getPdrRepositoryInfo => exact execGetPdrRepositoryInfo_keeps
  | getPdr => exact execGetPdr_keeps
  | getSensorReading => exact execGetSensorReading_keeps
  | getStateSensorReadings => exact execGetStateSensorReadings_keeps
  | getFruRecordTableMetadata => exact execGetFruRecordTableMetadata_keeps
  | getFruRecordTable => exact execGetFruRecordTable_keeps
  | bar2Resize => exact execBar2Resize_keeps
  | unsupportedPldmCommand => exact execUnsupportedPldmCommand_keeps

/-- Settles O6: a command keeps the module sound by its own law, and the passing of time by its. -/
theorem stepKeepsSound : Obligations.StepKeepsSound := by
  intro s t hs ht
  have hm : Sd s.m := (sound_iff _).1 hs
  refine (sound_iff _).2 ?_
  unfold step at ht
  split at ht
  · cases ht
    exact passTime_sd hm
  · next c rest _ => exact exec_keeps c { s with pending := rest } t hm ht

end Sys2Proof
end

section
/-! PROOF. Accesses of the host to BAR2 and the quay window, QW_HOSTERR, QW_CAUSE and message vectors (13 R344 to R350, R356):
O53. -/

namespace Sys2Proof

open Machine

/-! ### What a cause and a counted error leave of the host link -/

theorem raiseFor_reads (h : HostLink) (now v : Nat) (srcs : List (Nat × Nat)) :
    (h.raiseFor now v srcs).rdata = h.rdata ∧ (h.raiseFor now v srcs).rep = h.rep := by
  have hframe := raiseFor_frame h now v srcs
  exact ⟨(congrArg HostLink.rdata hframe :), (congrArg HostLink.rep hframe :)⟩

theorem cause_reads (m : Hw) (i : Nat) : (m.cause i).host.rdata = m.host.rdata ∧ (m.cause i).host.rep = m.host.rep := by
  unfold Hw.cause
  split
  · exact ⟨rfl, rfl⟩
  · dsimp only
    split
    · exact raiseFor_reads _ _ _ _
    · exact ⟨rfl, rfl⟩

theorem cause_quay (m : Hw) (i : Nat) : { (m.cause i).quay with cause := m.quay.cause } = m.quay := by
  unfold Hw.cause
  split <;> rfl

/-- QW_HOSTERR after one more error of a kind. -/
def errCounted (q : Quay) : HostErr → Quay
  | .badacc => { q with badacc := sat16 q.badacc }
  | .bar2miss => { q with bar2miss := sat16 q.bar2miss }
  | .roDrop => { q with roDrop := sat16 q.roDrop }
  | .ptrErr => { q with ptrErr := sat16 q.ptrErr }

theorem hosterr_cases (m : Hw) (e : HostErr) :
    m.hosterr e = { m with quay := errCounted m.quay e } ∨ m.hosterr e = { m with quay := errCounted m.quay e }.cause 6 := by
  cases e
  all_goals
    unfold Hw.hosterr
    dsimp only
    split
    · exact .inr rfl
    · exact .inl rfl

theorem hosterr_quay (m : Hw) (e : HostErr) : { (m.hosterr e).quay with cause := m.quay.cause } = errCounted m.quay e := by
  have hc : (errCounted m.quay e).cause = m.quay.cause := by cases e <;> rfl
  obtain h | h := hosterr_cases m e
  · rw [h, ← hc]
  · rw [h, ← hc]
    exact cause_quay { m with quay := errCounted m.quay e } 6

theorem hosterr_reads (m : Hw) (e : HostErr) :
    (m.hosterr e).host.rdata = m.host.rdata ∧ (m.hosterr e).host.rep = m.host.rep := by
  obtain h | h := hosterr_cases m e
  · rw [h]
    exact ⟨rfl, rfl⟩
  · rw [h]
    exact cause_reads { m with quay := errCounted m.quay e } 6

/-! ### The hub's loads change no byte, no mark and no core -/

/-- `t` has the bytes, the marks and the cores of `m`. -/
structure SameStore (m t : Hw) : Prop where
  cells : SameCells t.mem m.mem
  cores : t.cores = m.cores

namespace SameStore

variable {m t u : Hw}

theorem refl (m : Hw) : SameStore m m := ⟨⟨rfl, rfl⟩, rfl⟩

theorem trans (h : SameStore m t) (h' : SameStore t u) : SameStore m u := ⟨h'.cells.trans h.cells, h'.cores.trans h.cores⟩

theorem ofPosted (h : Posted m t) : SameStore m t := ⟨h.cells, h.cores⟩

theorem requested (m : Hw) (p : PageDesc) (o : Nat) : SameStore m (m.hostFill p o).takeEnd.2 := by
  have hfill : SameStore m (m.hostFill p o) := by
    unfold Hw.hostFill
    dsimp only
    split
    · exact ⟨⟨rfl, rfl⟩, rfl⟩
    · exact refl m
  refine hfill.trans ?_
  unfold Hw.takeEnd
  split
  · exact refl _
  · exact ⟨⟨rfl, rfl⟩, rfl⟩

theorem hubLoad (m : Hw) (c va n : Nat) : SameStore m (m.hubLoad c va n).2 := by
  unfold Hw.hubLoad
  split
  case h_2 => exact refl m
  case h_1 l p loc _ =>
    refine (requested m p (va - l.va)).trans ?_
    generalize (m.hostFill p (va - l.va)).takeEnd = r
    dsimp only
    split
    · exact ofPosted ((Posted.decoded _ _ _ _).trans (.ofBooked (.account _ _ _ _ _ _ _)))
    · exact ⟨⟨rfl, rfl⟩, rfl⟩

theorem hubRead (m : Hw) (c va n : Nat) : SameStore m (m.hubRead c va n).2 := by
  unfold Hw.hubRead
  generalize pieces va n = l
  generalize (⟨[], []⟩ : HubData) = d
  induction l generalizing m d with
  | nil => exact refl m
  | cons p l ih => exact (hubLoad m c p.1 p.2).trans (ih _ _)

end SameStore

/-! ### BAR2 -/

/-- What a read of `n` bytes leaves by the place that BAR2 shows there. -/
def bar2ReadAt (m : Hw) (n : Nat) (es : List ReadEnd) : Option (Nat × Nat) → Hw
  | none => (m.readDone (allOnes n) []).hosterr .bar2miss
  | some (c, va) =>
    let r := (expecting m es).hubRead c va n
    expecting ((r.2.count 8 c 18 n).readDone r.1.bytes (if r.1.bad then r.1.words else [])) []

/-- What a write leaves by the place that BAR2 shows there. -/
def bar2WrittenAt (m : Hw) (bs : List Byte) (st : HostStore) : Option (Nat × Nat) → Hw
  | none => m.hosterr .bar2miss
  | some (c, va) =>
    if m.someRO c va bs.length then m.hosterr .roDrop
    else m.withEnds st.ends fun m => (m.count 8 c 19 bs.length).hubWrite c va bs st.poisoned

section

variable {s : State} {off n : Nat} (hon : s.m.hostOn = true)
include hon

theorem exec_bar2Read (hin : off + n ≤ 2 ^ s.m.host.bar2) (hn : n ≠ 0) (hmax : n ≤ 4096) (es : List ReadEnd) :
    exec (.bar2Read off ⟨n, es⟩) s = .next { s with m := bar2ReadAt s.m n es (s.m.bar2Target off n) } := by
  change execBar2Read off ⟨n, es⟩ s = _
  unfold execBar2Read
  rw [if_neg (Nat.not_lt.2 hin), onHw_next]
  dsimp only
  rw [if_neg (by simp [hon, hn, hmax])]
  cases s.m.bar2Target off n <;> rfl

theorem exec_bar2Write {bs : List Byte} (hin : off + bs.length ≤ 2 ^ s.m.host.bar2) (hn : bs ≠ []) (hmax : bs.length ≤ 4096)
    (st : HostStore) : exec (.bar2Write off bs st) s =
      .next { s with m := bar2WrittenAt s.m bs st (s.m.bar2Target off bs.length) } := by
  change execBar2Write off bs st s = _
  unfold execBar2Write
  rw [if_neg (Nat.not_lt.2 hin), onHw_next]
  dsimp only
  rw [if_neg (by simp [hon, hn, hmax])]
  cases s.m.bar2Target off bs.length <;> rfl

theorem after_bar2Read_missed (hin : off + n ≤ 2 ^ s.m.host.bar2) (hn : n ≠ 0) (hmax : n ≤ 4096)
    (ht : s.m.bar2Target off n = none) (es : List ReadEnd) :
    After (.bar2Read off ⟨n, es⟩) s fun m => m.host.rdata = List.replicate n 0xFF#8 ∧ m.host.rep = [] ∧
      m.quay.bar2miss = min (s.m.quay.bar2miss + 1) 0xFFFF ∧ m.mem = s.m.mem ∧ m.cores = s.m.cores := by
  refine ⟨_, exec_bar2Read hon hin hn hmax es, ?_⟩
  rw [ht]
  obtain ⟨hdata, hrep⟩ := hosterr_reads (s.m.readDone (allOnes n) []) .bar2miss
  have hquay := hosterr_quay (s.m.readDone (allOnes n) []) .bar2miss
  exact ⟨hdata, hrep, (congrArg Quay.bar2miss hquay :), hosterr_mem _ _, hosterr_cores _ _⟩

theorem after_bar2Read_served (hin : off + n ≤ 2 ^ s.m.host.bar2) (hn : n ≠ 0) (hmax : n ≤ 4096) {c va : Nat}
    (ht : s.m.bar2Target off n = some (c, va)) (es : List ReadEnd) :
    let d := ((expecting s.m es).hubRead c va n).1
    After (.bar2Read off ⟨n, es⟩) s fun m => m.host.rdata = d.bytes ∧ m.host.rep = (if d.bad then d.words else []) ∧
      m.mem.ram = s.m.mem.ram ∧ m.mem.marks = s.m.mem.marks ∧ m.cores = s.m.cores := by
  refine ⟨_, exec_bar2Read hon hin hn hmax es, ?_⟩
  rw [ht]
  have hread := SameStore.hubRead (expecting s.m es) c va n
  unfold bar2ReadAt
  dsimp only
  generalize (expecting s.m es).hubRead c va n = r at hread ⊢
  have hcount := hread.trans (.ofPosted (.ofBooked (.count r.2 8 c 18 n)))
  exact ⟨rfl, rfl, hcount.cells.ram, hcount.cells.marks, hcount.cores⟩

end

/-! ### Accesses to the quay window -/

/-- What an access of the right shape leaves by the half of QW_HOSTERR that it reads. -/
def halfRead (m : Hw) : Option Bool → Hw
  | some h => m.readHosterr (some h)
  | none => m

/-- What an access of `n` bytes to the quay window leaves. -/
def quayAccessed (m : Hw) (off n : Nat) (w : Bool) : Hw :=
  if quayShape off n w then halfRead m (hosterrHalf off n w)
  else (if w then m else m.readDone (allOnes n) []).hosterr .badacc

section

variable {s : State} (hon : s.m.hostOn = true)
include hon

theorem exec_quayRefusedAccess {off : Nat} (hoff : off < 0x400000) (n : Nat) (w : Bool) :
    exec (.quayRefusedAccess off n w) s = .next { s with m := quayAccessed s.m off n w } := by
  change execQuayRefusedAccess off n w s = _
  unfold execQuayRefusedAccess quayAccessed
  rw [if_neg (Nat.not_le.2 hoff), onHw_next]
  dsimp only
  rw [if_neg (by simp [hon])]
  split
  · cases hosterrHalf off n w <;> rfl
  · rfl

theorem after_misshapen {off n : Nat} {w : Bool} (hoff : off < 0x400000) (hshape : quayShape off n w = false) :
    After (.quayRefusedAccess off n w) s fun m => m.quay.badacc = min (s.m.quay.badacc + 1) 0xFFFF ∧
      (w = false → m.host.rdata = List.replicate n 0xFF#8) ∧ (w = true → m.host.rdata = s.m.host.rdata) ∧
      m.mem = s.m.mem ∧ m.cores = s.m.cores := by
  refine ⟨_, exec_quayRefusedAccess hon hoff n w, ?_⟩
  rw [quayAccessed, if_neg (by simp [hshape])]
  cases w with
  | true =>
    have hquay := hosterr_quay s.m .badacc
    exact ⟨(congrArg Quay.badacc hquay :), nofun, fun _ => (hosterr_reads _ _).1, hosterr_mem _ _, hosterr_cores _ _⟩
  | false =>
    have hquay := hosterr_quay (s.m.readDone (allOnes n) []) .badacc
    exact ⟨(congrArg Quay.badacc hquay :), fun _ => (hosterr_reads (s.m.readDone (allOnes n) []) _).1, nofun,
      hosterr_mem _ _, hosterr_cores _ _⟩

theorem idles_wellShapen {off n : Nat} {w : Bool} (hoff : off < 0x400000) (hshape : quayShape off n w = true)
    (hother : ¬(w = false ∧ n = 4 ∧ off / 8 = 0x1048 / 8)) : Idles (.quayRefusedAccess off n w) s := by
  have hhalf : hosterrHalf off n w = none := by
    unfold hosterrHalf
    split
    · rfl
    · next h =>
      simp only [Bool.or_eq_true, bne_iff_ne, not_or, Bool.not_eq_true, not_not] at h
      have hreg : off / 8 ≠ 0x1048 / 8 := fun ho => hother ⟨h.1, h.2, ho⟩
      rw [if_neg (by omega), if_neg (by omega)]
  rw [Idles, exec_quayRefusedAccess hon hoff, quayAccessed, if_pos hshape, hhalf, halfRead]

theorem exec_hosterrHalf {off : Nat} {hi : Bool} (hoff : off < 0x400000) (hshape : quayShape off 4 false = true)
    (hhalf : hosterrHalf off 4 false = some hi) :
    exec (.quayRefusedAccess off 4 false) s = .next { s with m := s.m.readHosterr (some hi) } := by
  rw [exec_quayRefusedAccess hon hoff, quayAccessed, if_pos hshape, hhalf, halfRead]

theorem exec_qwHosterrRead : exec .qwHosterrRead s = .next { s with m := s.m.readHosterr none } := by
  change execQwHosterrRead s = _
  rw [execQwHosterrRead, onHw_next, if_pos hon]

theorem after_qwCauseEnWrite (v : BitVec 64) : After (.qwCauseEnWrite v) s fun m =>
    m.quay = { s.m.quay with causeEn := v &&& 0x7F#64 } ∧
    m.host = (if v &&& 0x7F#64 &&& s.m.quay.cause = 0#64 then s.m.host else s.m.host.raise s.m.now 0) ∧
    { m with host := s.m.host, quay := s.m.quay } = s.m := by
  refine ⟨s.m.setCauseEn v, ?_, ?_⟩
  · change execQwCauseEnWrite v s = _
    rw [execQwCauseEnWrite, onHw_next, if_pos hon]
  · unfold Hw.setCauseEn
    dsimp only
    split
    · next h => exact ⟨rfl, (if_neg (bne_iff_ne.1 h)).symm, rfl⟩
    · next h => exact ⟨rfl, (if_pos (by simpa using h)).symm, rfl⟩

end

/-! ### Message vectors -/

theorem vec_of_mset {h : HostLink} {l : Map Vec} {n : Nat} {x : Vec} (hv : h.vecs = mset l n x) : h.vec n = x := by
  simp [HostLink.vec, mgetD, hv]

/-- What the release of a vector does to it and to the messages sent. -/
theorem release_spec (h : HostLink) (now n : Nat) :
    let free := (h.vec n).pend = true ∧ (h.vec n).masked = false ∧ h.cfg.silent = false ∧ (h.vec n).ready now = true
    ((h.release now n).vec n).masked = (h.vec n).masked ∧
    (free → (h.release now n).sent = h.sent ++ [n] ∧ ((h.release now n).vec n).pend = false) ∧
    (¬free → h.release now n = h) := by
  intro free
  unfold HostLink.release
  dsimp only
  split
  · next hfree =>
    simp only [Bool.and_eq_true, Bool.not_eq_true'] at hfree
    obtain ⟨⟨⟨hpend, hmask⟩, hsilent⟩, hready⟩ := hfree
    rw [HostLink.raise, HostLink.raiseFor, if_neg (by simp [hmask, hsilent, hready]), vec_of_mset rfl]
    exact ⟨rfl, fun _ => ⟨rfl, rfl⟩, fun hno => absurd ⟨hpend, hmask, hsilent, hready⟩ hno⟩
  · next hno =>
    have hheld : ¬free := by simpa [free, and_assoc] using hno
    exact ⟨rfl, fun hf => absurd hf hheld, fun _ => rfl⟩

/-- The host link with the mask bit of a vector set to `b`. -/
def maskSet (h : HostLink) (n : Nat) (b : Bool) : HostLink := { h with vecs := mset h.vecs n { h.vec n with masked := b } }

@[simp] theorem maskSet_vec (h : HostLink) (n : Nat) (b : Bool) : (maskSet h n b).vec n = { h.vec n with masked := b } :=
  vec_of_mset rfl

theorem after_msixVectorUnmask {s : State} (hon : s.m.hostOn = true) (n : Nat) :
    After (.msixVectorUnmask n) s fun m => (m.host.vec n).masked = false ∧
      ((s.m.host.vec n).pend = true → s.m.host.cfg.silent = false → (s.m.host.vec n).ready s.m.now = true →
        m.host.sent = s.m.host.sent ++ [n] ∧ (m.host.vec n).pend = false) ∧
      ((s.m.host.vec n).pend = false → m.host.sent = s.m.host.sent) ∧ { m with host := s.m.host } = s.m := by
  refine ⟨s.m.setMask n false, ?_, ?_⟩
  · change execMsixVectorUnmask n s = _
    rw [execMsixVectorUnmask, onHw_next, if_pos hon]
  · obtain ⟨hmask, hfree, hheld⟩ := release_spec (maskSet s.m.host n false) s.m.now n
    rw [maskSet_vec] at hmask hfree hheld
    refine ⟨hmask, fun hpend hsilent hready => hfree ⟨hpend, rfl, hsilent, hready⟩, fun hpend => ?_, rfl⟩
    have hsame := hheld fun h => Bool.false_ne_true (hpend.symm.trans h.1)
    exact (congrArg HostLink.sent hsame :)

theorem after_msixHoldoffExpiry {s : State} (hup : s.m.host.up = true) (n : Nat) :
    After (.msixHoldoffExpiry n) s fun m => (m.host.vec n).masked = (s.m.host.vec n).masked ∧
      m.host.sent = (if (s.m.host.vec n).pend = true ∧ (s.m.host.vec n).masked = false ∧ s.m.host.cfg.silent = false ∧
        (s.m.host.vec n).ready s.m.now = true then s.m.host.sent ++ [n] else s.m.host.sent) ∧
      { m with host := s.m.host } = s.m := by
  refine ⟨{ s.m with host := s.m.host.release s.m.now n }, ?_, ?_⟩
  · change execMsixHoldoffExpiry n s = _
    rw [execMsixHoldoffExpiry, onHw_next, if_pos hup]
  · obtain ⟨hmask, hfree, hheld⟩ := release_spec s.m.host s.m.now n
    refine ⟨hmask, ?_, rfl⟩
    split
    · next h => exact (hfree h).1
    · next h => exact congrArg HostLink.sent (hheld h)

/-- A function that answers memory accesses has its link up. -/
theorem up_of_hostOn {m : Hw} (h : m.hostOn = true) : m.host.up = true := by
  simp only [Hw.hostOn, Bool.and_eq_true] at h
  exact h.1.1.2

/-- Settles O53: each access is one read, one write, one count or one change of a register. -/
theorem hostAccessesAreServedOrCounted : Obligations.HostAccessesAreServedOrCounted := by
  intro s hon
  refine ⟨fun off n hin hn hmax => ⟨fun ht es => after_bar2Read_missed hon hin hn hmax ht es, fun c va es ht =>
      after_bar2Read_served hon hin hn hmax ht es⟩, fun off bs st hin hn hmax => ⟨fun ht => ?missed, fun c va ht =>
      ⟨fun hro => ?readOnly, fun hrw => ?written⟩⟩, fun off n w hoff => ⟨after_misshapen hon hoff,
      idles_wellShapen hon hoff⟩, ⟨_, exec_qwHosterrRead hon, rfl, rfl, rfl, rfl⟩,
      ⟨_, exec_hosterrHalf hon (hi := false) (by decide) rfl rfl, rfl, rfl, rfl⟩,
      ⟨_, exec_hosterrHalf hon (hi := true) (by decide) rfl rfl, rfl, rfl, rfl⟩, fun v => ?cause,
      after_qwCauseEnWrite hon, after_msixVectorUnmask hon, after_msixHoldoffExpiry (up_of_hostOn hon)⟩
  case missed => rw [Leaves, exec_bar2Write hon hin hn hmax, ht, bar2WrittenAt]
  case readOnly => rw [Leaves, exec_bar2Write hon hin hn hmax, ht, bar2WrittenAt, if_pos hro]
  case written => rw [Leaves, exec_bar2Write hon hin hn hmax, ht, bar2WrittenAt, hrw, if_neg Bool.false_ne_true]
  case cause =>
    change execQwCauseWrite v s = _
    rw [execQwCauseWrite, onHw_next, if_pos hon, Hw.clearCause]

end Sys2Proof
end

section
/-! PROOF. Queue pointers, doorbells, register writes and the writes that Anchor holds (13 R350 to R362, 14 R363 to R365): O54. -/

namespace Sys2Proof

open Machine

/-! ### The two ways of a write: applied in Run, held in Anchor and Waking -/

theorem asleep_of_run {q : Quay} (h : q.ps = .run) : q.asleep = false := by
  rw [Quay.asleep, h]
  rfl

theorem asleep_of_anchor {q : Quay} (h : q.ps = .anchor ∨ q.ps = .waking) : q.asleep = true := by
  rw [Quay.asleep]
  obtain h | h := h <;> rw [h] <;> rfl

theorem hostWrite_awake {m : Hw} (hon : m.hostOn = true) (hlive : m.inReset = false) (hrun : m.quay.ps = .run) (w : HeldWrite) :
    m.hostWrite w = m.applyWrite w := by
  rw [Hw.hostWrite, if_neg (by simp [hon, hlive]), if_neg (by simp [asleep_of_run hrun])]

theorem hostWrite_asleep {m : Hw} (hon : m.hostOn = true) (hlive : m.inReset = false) (hps : m.quay.ps = .anchor ∨ m.quay.ps = .waking)
    (w : HeldWrite) : m.hostWrite w = m.hold w := by
  rw [Hw.hostWrite, if_neg (by simp [hon, hlive]), if_pos (asleep_of_anchor hps)]

theorem hold_free {m : Hw} (h : m.quay.held.length < 64) (w : HeldWrite) :
    m.hold w = { m with quay := { m.quay with held := m.quay.held ++ [w] } } := if_pos h

theorem hold_full {m : Hw} (h : 64 ≤ m.quay.held.length) (w : HeldWrite) : m.hold w = m.hosterr .badacc :=
  if_neg (Nat.not_lt.2 h)

/-! ### The commands as writes -/

theorem leaves_of_hostWrite {i : Instr} {s : State} {w : HeldWrite} {t : Hw} (hi : exec i s = onHw (fun m => m.hostWrite w) s)
    (ht : s.m.hostWrite w = t) : Leaves i s t := by
  rw [Leaves, hi, onHw_next, ht]

theorem exec_bellAdd {v : BitVec 64} (hv : v.getLsbD 2 = false) (k : Nat) (s : State) :
    exec (.bollardDoorbellAdd k v) s = onHw (fun m => m.hostWrite (.bollard k v)) s := by
  change execBollardDoorbellAdd k v s = _
  rw [execBollardDoorbellAdd, onHw_next, hv, if_neg Bool.false_ne_true, onHw_next]

theorem exec_bellSet {v : BitVec 64} (hv : v.getLsbD 2 = true) (k : Nat) (s : State) :
    exec (.bollardDoorbellSet k v) s = onHw (fun m => m.hostWrite (.bollard k v)) s := by
  change execBollardDoorbellSet k v s = _
  rw [execBollardDoorbellSet, onHw_next, if_pos hv, onHw_next]

theorem exec_eventHeadWrite {s : State} (hon : s.m.hostOn = true) (hlive : s.m.inReset = false) (c : Nat) (v : BitVec 32) :
    exec (.eventHeadWrite c v) s = .next { s with m := if s.m.quay.asleep then s.m else s.m.eventHead c v } := by
  change execEventHeadWrite c v s = _
  rw [execEventHeadWrite, onHw_next]
  simp only [hon, hlive, Bool.not_true, Bool.false_or]

/-! ### Queue pointers (13 R357) -/

theorem tailOk_iff {v own other : BitVec 32} {n : Nat} :
    tailOk v own other n = true ↔ (v - other).toNat ≤ n ∧ (v - own).toNat ≤ (v - other).toNat := by
  simp [tailOk]

theorem headOk_iff {v own other : BitVec 32} {n : Nat} :
    headOk v own other n = true ↔ (other - v).toNat ≤ n ∧ (v - own).toNat ≤ (other - own).toNat := by
  simp [headOk]

section

variable {m : Hw} {n : Nat} {v : BitVec 32}

theorem intakeTail_none (h : mget m.jobs n = none) : m.intakeTail n v = m.hosterr .badacc := by
  rw [Hw.intakeTail, h]

theorem intakeTail_some {j : Job} (h : mget m.jobs n = some j) : m.intakeTail n v =
    if tailOk v j.tail j.head j.nent then m.setJob n { j with tail := v }
    else (m.setJob n { j with err := true }).hosterr .ptrErr := by
  rw [Hw.intakeTail, h]

theorem submitTail_none (h : mget m.queues n = none) : m.submitTail n v = m.hosterr .badacc := by
  rw [Hw.submitTail, h]

/-- The entries up to the new TAIL are posted under the next number. -/
def postedTo (q : SubQ) (v : BitVec 32) (no : Nat) : SubQ :=
  { q with tail := v, posts := if v = q.tail then q.posts else q.posts ++ [(v.toNat, no)] }

theorem submitTail_some {q : SubQ} (h : mget m.queues n = some q) : m.submitTail n v =
    if tailOk v q.tail q.head q.nent then
      { m with queues := mset m.queues n (postedTo q v m.postNo), postNo := m.postNo + 1 }.unhold
    else { m with queues := mset m.queues n { q with err := true } }.hosterr .ptrErr := by
  rw [Hw.submitTail, h]
  rfl

theorem eventHead_none (h : (mget m.ctxs n).bind Ctx.ring = none) : m.eventHead n v = m.hosterr .badacc := by
  unfold Hw.eventHead
  cases hx : mget m.ctxs n with
  | none => rfl
  | some x =>
    rw [hx] at h
    have hring : x.ring = none := h
    dsimp only
    rw [hring]

theorem eventHead_some {x : Ctx} {r : Ring} (hx : mget m.ctxs n = some x) (hr : x.ring = some r) : m.eventHead n v =
    if headOk v r.head r.tail r.nent then m.dropped n x { r with head := v }
    else { m with ctxs := mset m.ctxs n { x with ring := some { r with err := true } } }.hosterr .ptrErr := by
  unfold Hw.eventHead
  rw [hx]
  dsimp only
  rw [hr]

/-- A ring put back keeps its HEAD, whether or not a record says that some were dropped. -/
theorem dropped_spec (m : Hw) (n : Nat) (x : Ctx) (r : Ring) :
    ((mget (m.dropped n x r).ctxs n).bind Ctx.ring).map Ring.head = some r.head ∧
    (m.dropped n x r).mem.ram = m.mem.ram ∧ (m.dropped n x r).cores = m.cores ∧
    (r.dropped = 0 → (m.dropped n x r).mem.host = m.mem.host) := by
  unfold Hw.dropped
  split
  · exact ⟨by simp, rfl, rfl, fun _ => rfl⟩
  · next hlost =>
    exact ⟨by simp [Ring.put], rfl, rfl, fun h => absurd h (by simp [h] at hlost)⟩

end

/-! ### Doorbells (13 R359, R360, 14 R365) -/

theorem bollardBell_reserved {m : Hw} {k : Nat} {v : BitVec 64} (h : bits v.toNat 15 3 ≠ 0 ∨ bits v.toNat 31 26 ≠ 0) :
    m.bollardBell k v = m.hosterr .badacc := by
  rw [Hw.bollardBell, if_pos (by simpa [bellReserved] using h)]

theorem bollardBell_valid {m : Hw} {k : Nat} {v : BitVec 64} (hlow : bits v.toNat 15 3 = 0) (hhigh : bits v.toNat 31 26 = 0)
    (hcore : m.coreValid k = true) (hrun : m.quay.ps = .run) : m.bollardBell k v =
    m.signal 256 (bits v.toNat 25 16) 0 k (60 + bits v.toNat 1 0) (v.getLsbD 2) (BitVec.ofNat 32 (bits v.toNat 63 32)) := by
  rw [Hw.bollardBell, if_neg (by simp [bellReserved, hlow, hhigh]), if_neg (by simp [hcore]), unhold_of_run hrun]
  rfl

/-- The fields of a mailbox doorbell that is accepted for a pair. -/
def mailOk (p : Pair) (v : Nat) : Prop :=
  bits v 17 16 = 1 ∧ bits v 63 18 = 0 ∧ bits v 15 0 = p.seq ∧ p.st ≠ .busy

/-- The pair turns BUSY, in the order of acceptance while firmware is alive. -/
def mailTaken (m : Hw) (n : Nat) : Hw :=
  { m with espor := { m.espor with
      pairs := mset m.espor.pairs n { m.espor.pair n with st := .busy, resp := [] }
      order := if m.quay.fwAlive then m.espor.order ++ [n] else m.espor.order } }

theorem mailTaken_pair (m : Hw) (n : Nat) :
    (mailTaken m n).espor.pair n = { m.espor.pair n with st := .busy, resp := [] } := by
  simp [mailTaken, Espor.pair, mgetD]

/-- Firmware leaves a command of the catalogue to its own row, and reads none while it is not alive. -/
theorem unknownCmd_known {m : Hw} {n : Nat} (h : catalogue.contains (m.espor.pair n).cmd = true ∨ m.quay.fwAlive = false) :
    m.unknownCmd n = m := by
  rw [Hw.unknownCmd, if_neg (by obtain h | h := h <;> simp only [h, Bool.not_true, Bool.and_false, Bool.false_and] <;> decide)]

theorem mailBell_taken {m : Hw} {n : Nat} {v : BitVec 64} (hok : mailOk (m.espor.pair n) v.toNat)
    (hslot : m.quay.reason ≠ 0x0910#16)
    (hcmd : catalogue.contains (m.espor.pair n).cmd = true ∨ m.quay.fwAlive = false) : m.mailBell n v = mailTaken m n := by
  obtain ⟨hkind, hzero, hseq, hfree⟩ := hok
  rw [Hw.mailBell, if_pos (by simp [hkind, hzero, hseq, hfree, hslot])]
  refine unknownCmd_known (m := mailTaken m n) ?_
  rw [mailTaken_pair]
  exact hcmd

theorem mailBell_refused {m : Hw} {n : Nat} {v : BitVec 64} (h : ¬mailOk (m.espor.pair n) v.toNat) :
    m.mailBell n v = m.hosterr .badacc := by
  rw [Hw.mailBell, if_neg]
  intro htaken
  simp only [Bool.and_eq_true, beq_iff_eq, bne_iff_ne] at htaken
  obtain ⟨⟨⟨⟨hkind, hzero⟩, hseq⟩, hfree⟩, -⟩ := htaken
  exact h ⟨hkind, hzero, hseq, hfree⟩

/-! ### Register writes by region (13 R350, R351, R363, log 56) -/

section

variable {s : State} {off : Nat} {bs : List Byte}

theorem leaves_registerWrite {t : Hw} (hoff : off < 0x411000) (ht : regWritten off bs s.m = t) :
    Leaves (.registerWrite off bs) s t := by
  rw [Leaves, exec_registerWrite, if_neg (Nat.not_le.2 hoff), onHw_next, ht]

theorem regWritten_config (m : Hw) (h : 0x410000 ≤ off) : regWritten off bs m = m.configWrite (off - 0x410000) bs := if_pos h

theorem regWritten_bar4 {m : Hw} (hon : m.hostOn = true) (hlow : 0x400000 ≤ off) (hhigh : off < 0x410000) :
    regWritten off bs m = m.bar4Write (off - 0x400000) bs := by
  rw [regWritten, if_neg (Nat.not_le.2 hhigh), if_pos hlow, if_pos hon]

theorem regWritten_misshapen {m : Hw} (hon : m.hostOn = true) (hoff : off < 0x400000)
    (hshape : quayShape off bs.length true = false) : regWritten off bs m = m.hosterr .badacc := by
  rw [regWritten, if_neg (by omega), if_neg (by omega), if_neg (by simp [hon]), if_pos (by simp [hshape])]

/-- The regions of the quay window that a write of the right shape reaches, but QW_CAUSE and QW_CAUSE_EN. -/
def windowWritten (off : Nat) (bs : List Byte) (m : Hw) : Hw :=
  if 0x10000 ≤ off && off < 0x18000 then m.pairWrite (off - 0x10000) bs
  else if 0x20000 ≤ off && off < 0x30000 then m.pointerWrite (off - 0x20000) (leNat bs) (bs.length == 8)
  else if inDoorbells off then m.bellWrite (off - 0x200000) (BitVec.ofNat 64 (leNat bs))
  else m

theorem regWritten_window {m : Hw} (hon : m.hostOn = true) (hlive : m.inReset = false) (hoff : off < 0x400000)
    (hshape : quayShape off bs.length true = true) (hcause : off / 8 ≠ 0x1038 / 8) (hen : off / 8 ≠ 0x1040 / 8) :
    regWritten off bs m = windowWritten off bs m := by
  rw [regWritten, if_neg (by omega), if_neg (by omega), if_neg (by simp [hon]), if_neg (by simp [hshape]), if_neg hcause,
    if_neg hen, if_neg (by simp [hlive])]
  rfl

theorem windowWritten_pairs (m : Hw) (hlow : 0x10000 ≤ off) (hhigh : off < 0x18000) :
    windowWritten off bs m = m.pairWrite (off - 0x10000) bs := by
  rw [windowWritten, if_pos (by simp [hlow, hhigh])]

theorem windowWritten_pointers (m : Hw) (hlow : 0x20000 ≤ off) (hhigh : off < 0x30000) :
    windowWritten off bs m = m.pointerWrite (off - 0x20000) (leNat bs) (bs.length == 8) := by
  rw [windowWritten, if_neg (by simp; omega), if_pos (by simp [hlow, hhigh])]

theorem windowWritten_bells (m : Hw) (hlow : 0x200000 ≤ off) (hhigh : off < 0x210000) :
    windowWritten off bs m = m.bellWrite (off - 0x200000) (BitVec.ofNat 64 (leNat bs)) := by
  rw [windowWritten, if_neg (by simp; omega), if_neg (by simp; omega), if_pos (by simp [inDoorbells, hlow, hhigh])]

/-- A write of an aligned double word outside the mailbox and snapshot blocks. -/
theorem quayShape_wide (hblocks : inBlocks off = false) (halign : off % 8 = 0) (hlen : bs.length = 8) :
    quayShape off bs.length true = true := by
  simp [quayShape, hblocks, halign, hlen]

/-- A write of 8 bytes, `d` above the base of the pointer blocks or of the doorbells. -/
theorem exec_wide {base d : Nat} (hon : s.m.hostOn = true) (hlive : s.m.inReset = false)
    (hbase : base = 0x20000 ∨ base = 0x200000) (hd : d < 0x10000) (halign : d % 8 = 0) (hlen : bs.length = 8) :
    exec (.registerWrite (base + d) bs) s = .next { s with m := windowWritten (base + d) bs s.m } := by
  refine leaves_registerWrite (by omega) (regWritten_window hon hlive (by omega) (quayShape_wide ?_ (by omega) hlen) (by omega)
    (by omega))
  simp only [inBlocks, Bool.or_eq_false_iff, Bool.and_eq_false_iff, decide_eq_false_iff_not]
  omega

theorem exec_pointer {d : Nat} (hon : s.m.hostOn = true) (hlive : s.m.inReset = false) (hd : d < 0x10000) (halign : d % 8 = 0)
    (hlen : bs.length = 8) :
    exec (.registerWrite (0x20000 + d) bs) s = .next { s with m := s.m.pointerWrite d (leNat bs) true } := by
  rw [exec_wide hon hlive (.inl rfl) hd halign hlen, windowWritten_pointers _ (by omega) (by omega), Nat.add_sub_cancel_left,
    hlen]
  rfl

theorem exec_bell {d : Nat} (hon : s.m.hostOn = true) (hlive : s.m.inReset = false) (hd : d < 0x10000) (halign : d % 8 = 0)
    (hlen : bs.length = 8) : exec (.registerWrite (0x200000 + d) bs) s =
    .next { s with m := s.m.bellWrite d (BitVec.ofNat 64 (leNat bs)) } := by
  rw [exec_wide hon hlive (.inr rfl) hd halign hlen, windowWritten_bells _ (by omega) (by omega), Nat.add_sub_cancel_left]

theorem pointerWrite_tail {m : Hw} {d v : Nat} {w : HeldWrite} (hd : ¬(0x400 ≤ d ∧ d < 0x1000)) (hlast : d < 0xA000)
    (hw : tailAt d (BitVec.ofNat 32 v) = some w) : m.pointerWrite d v true = m.hostWrite w := by
  unfold Hw.pointerWrite
  rw [if_neg (by simpa using hd), if_neg (Nat.not_le.2 hlast), hw]

theorem pointerWrite_head {m : Hw} {c v : Nat} (hc : c < 1024) (hring : (mget m.ctxs c).bind Ctx.ring ≠ none)
    (herr : bitb v 32 = false) : m.pointerWrite (0x1000 + 32 * c + 8) v true =
    if m.quay.asleep then m else m.eventHead c (BitVec.ofNat 32 v) := by
  have htail : tailAt (0x1000 + 32 * c + 8) (BitVec.ofNat 32 v) = none := by
    rw [tailAt, if_neg (by omega), if_pos (by omega)]
  have hat : m.ringAt (0x1000 + 32 * c + 8) = true := by
    rw [Hw.ringAt, if_neg (by omega), if_pos (by omega), show (0x1000 + 32 * c + 8 - 0x1000) / 32 = c by omega]
    cases hx : mget m.ctxs c with
    | none => simp [hx] at hring
    | some x => simpa [hx, Option.isSome_iff_ne_none] using hring
  unfold Hw.pointerWrite
  rw [if_neg (by simp; omega), if_neg (by omega), htail]
  have hword : (0x1000 + 32 * c + 8 - 0x1000) % 32 = 8 := by omega
  have hctx : (0x1000 + 32 * c + 8 - 0x1000) / 32 = c := by omega
  have hlow : 0x1000 ≤ 0x1000 + 32 * c + 8 := by omega
  have hhigh : 0x1000 + 32 * c + 8 < 0x9000 := by omega
  simp only [hat, herr, hword, hctx, hlow, hhigh, if_true, decide_true, Bool.not_true, Bool.false_and, Bool.true_and,
    Bool.false_eq_true, if_false]
  cases m.quay.asleep <;> rfl

theorem bellWrite_bollard (m : Hw) {k : Nat} (hk : k < 256) (v : BitVec 64) :
    m.bellWrite (8 * k) v = m.hostWrite (.bollard k v) := by
  rw [Hw.bellWrite, if_pos (by omega), Nat.mul_div_cancel_left _ (by decide)]

theorem bellWrite_mailbox (m : Hw) {n : Nat} (hn : n < 64) (v : BitVec 64) :
    m.bellWrite (0x2000 + 8 * n) v = m.hostWrite (.mailbox n v) := by
  rw [Hw.bellWrite, if_neg (by omega), if_pos (by simp; omega), Nat.add_sub_cancel_left, Nat.mul_div_cancel_left _ (by decide)]

/-- A write into the request area of pair `n`. -/
theorem exec_requestWrite {n o : Nat} (hon : s.m.hostOn = true) (hlive : s.m.inReset = false) (hn : n < 64) (ho : o < 256)
    (hbs : bs ≠ []) (hword : o % 64 + bs.length ≤ 64) : exec (.registerWrite (0x10000 + 512 * n + o) bs) s =
    .next { s with m := if (s.m.espor.pair n).st == .busy then s.m.hosterr .badacc else { s.m with espor := { s.m.espor with
      pairs := mset s.m.espor.pairs n { s.m.espor.pair n with req := wrN (s.m.espor.pair n).req o bs } } } } := by
  have hpos : 1 ≤ bs.length := List.length_pos_iff.2 hbs
  have hshape : quayShape (0x10000 + 512 * n + o) bs.length true = true := by
    rw [quayShape, if_pos (by simp [inBlocks]; omega)]
    simp
    omega
  have hpair : (0x10000 + 512 * n + o - 0x10000) / 512 = n := by omega
  have hplace : (0x10000 + 512 * n + o - 0x10000) % 512 = o := by omega
  refine leaves_registerWrite (by omega) ?_
  rw [regWritten_window hon hlive (by omega) hshape (by omega) (by omega), windowWritten_pairs _ (by omega) (by omega)]
  unfold Hw.pairWrite
  dsimp only
  rw [hpair, hplace, if_neg (Nat.not_le.2 ho)]

end

/-! ### BAR4 and configuration space (13 R339, R344, R347, log 56) -/

theorem bar4Write_mask (m : Hw) {n : Nat} {bs : List Byte} (hn : n < 64) (hlen : bs.length = 4) :
    m.bar4Write (16 * n + 12) bs = m.setMask n (bitb (leNat bs) 0) := by
  have hplace : (16 * n + 12) % 16 = 12 := by omega
  have hvec : (16 * n + 12) / 16 = n := by omega
  unfold Hw.bar4Write
  dsimp only
  rw [hlen, if_pos (by simp; omega)]
  simp only [Nat.reduceDiv, List.range_one, List.foldl_cons, List.foldl_nil, Nat.mul_zero, Nat.add_zero, List.drop_zero]
  rw [List.take_of_length_le (Nat.le_of_eq hlen), Hw.tableDword]
  dsimp only
  rw [hplace, hvec]
  rfl

theorem release_cfg (h : HostLink) (now v : Nat) : (h.release now v).cfg = h.cfg := by
  unfold HostLink.release
  dsimp only
  split
  · exact (congrArg HostLink.cfg (raiseFor_frame ..) :)
  · rfl

theorem releaseAll_cfg (h : HostLink) (now : Nat) : (h.releaseAll now).cfg = h.cfg := by
  rw [HostLink.releaseAll]
  generalize List.range 64 = l
  induction l generalizing h with
  | nil => rfl
  | cons v l ih => exact (ih _).trans (release_cfg h now v)

/-- The low bits of a double word that is written whole are those written. -/
theorem testBit_dwordWritten (old w : Nat) {i : Nat} (hi : i < 32) :
    (old - (old &&& (2 ^ 32 - 1)) + w).testBit i = w.testBit i := by
  have hmod : (old - (old &&& (2 ^ 32 - 1)) + w) % 2 ^ 32 = w % 2 ^ 32 := by
    rw [Nat.and_two_pow_sub_one_eq_mod]
    omega
  have hlow (x : Nat) : (x % 2 ^ 32).testBit i = x.testBit i := by
    rw [Nat.testBit_mod_two_pow, decide_eq_true hi, Bool.true_and]
  rw [← hlow, hmod, hlow]

/-- The function's configuration with the memory and bus master enables of a command word. -/
def commanded (c : PcieCfg) (w : Nat) : PcieCfg := { c with memEn := bitb w 1, busMaster := bitb w 2 }

theorem setConfig_command (m : Hw) (v w : Nat) :
    m.setConfig 0x04 v w = { m with host := ({ m.host with cfg := commanded m.host.cfg v }).releaseAll m.now } := rfl

theorem configWrite_command {m : Hw} {bs : List Byte} (hup : m.host.up = true) (hboot : m.boot = .done) (hlen : bs.length = 4) :
    m.configWrite 0x04 bs =
    { m with host := ({ m.host with cfg := commanded m.host.cfg (leNat bs) }).releaseAll m.now } := by
  have hwide : 256 ^ 4 - 1 = 2 ^ 32 - 1 := by decide
  have hword (old : Nat) : commanded m.host.cfg (old - (old &&& (2 ^ 32 - 1)) + leNat bs) = commanded m.host.cfg (leNat bs) := by
    rw [commanded, commanded, bitb, bitb, testBit_dwordWritten _ _ (by decide), testBit_dwordWritten _ _ (by decide)]
    rfl
  unfold Hw.configWrite
  dsimp only
  rw [hlen, if_pos (by simp [hboot, hup]), show alignTo 0x04 4 = 0x04 from rfl, Nat.mod_self, Nat.pow_zero, Nat.mul_one,
    Nat.mul_one, hwide, setConfig_command, hword]

theorem after_commandWrite {s : State} {bs : List Byte} (hup : s.m.host.up = true) (hboot : s.m.boot = .done)
    (hlen : bs.length = 4) : After (.registerWrite 0x410004 bs) s fun m =>
    m.host.cfg = commanded s.m.host.cfg (leNat bs) ∧ { m with host := s.m.host } = s.m := by
  have hwritten : regWritten 0x410004 bs s.m = s.m.configWrite 0x04 bs := regWritten_config s.m (by decide)
  rw [configWrite_command hup hboot hlen] at hwritten
  exact ⟨_, leaves_registerWrite (by decide) hwritten,
    releaseAll_cfg { s.m.host with cfg := commanded s.m.host.cfg (leNat bs) } s.m.now, rfl⟩

/-! ### The obligation -/

section

variable {s : State} (hon : s.m.hostOn = true) (hlive : s.m.inReset = false)
include hon hlive

/-- A command that is a write of the host has in Run the effect of that write. -/
theorem leaves_applied (hrun : s.m.quay.ps = .run) {i : Instr} {w : HeldWrite} {t : Hw}
    (hi : exec i s = onHw (fun m => m.hostWrite w) s) (ht : s.m.applyWrite w = t) : Leaves i s t :=
  leaves_of_hostWrite hi ((hostWrite_awake hon hlive hrun w).trans ht)

theorem leaves_held (hps : s.m.quay.ps = .anchor ∨ s.m.quay.ps = .waking) (hfree : s.m.quay.held.length < 64) {i : Instr}
    {w : HeldWrite} (hi : exec i s = onHw (fun m => m.hostWrite w) s) :
    Leaves i s { s.m with quay := { s.m.quay with held := s.m.quay.held ++ [w] } } :=
  leaves_of_hostWrite hi ((hostWrite_asleep hon hlive hps w).trans (hold_free hfree w))

theorem leaves_notHeld (hps : s.m.quay.ps = .anchor ∨ s.m.quay.ps = .waking) (hfull : 64 ≤ s.m.quay.held.length) {i : Instr}
    {w : HeldWrite} (hi : exec i s = onHw (fun m => m.hostWrite w) s) : Leaves i s (s.m.hosterr .badacc) :=
  leaves_of_hostWrite hi ((hostWrite_asleep hon hlive hps w).trans (hold_full hfull w))

theorem intakeTail_inRun (hrun : s.m.quay.ps = .run) (ring : Nat) (v : BitVec 32) :
    (mget s.m.jobs ring = none → Leaves (.intakeTailWrite ring v) s (s.m.hosterr .badacc)) ∧
    (∀ j, mget s.m.jobs ring = some j →
      (((v - j.head).toNat ≤ j.nent ∧ (v - j.tail).toNat ≤ (v - j.head).toNat) →
        Leaves (.intakeTailWrite ring v) s { s.m with jobs := mset s.m.jobs ring { j with tail := v } }) ∧
      (¬((v - j.head).toNat ≤ j.nent ∧ (v - j.tail).toNat ≤ (v - j.head).toNat) →
        Leaves (.intakeTailWrite ring v) s
          ({ s.m with jobs := mset s.m.jobs ring { j with err := true } }.hosterr .ptrErr))) := by
  have happly := fun t (h : s.m.intakeTail ring v = t) =>
    leaves_applied hon hlive hrun (i := .intakeTailWrite ring v) (w := .intakeTail ring v) rfl h
  refine ⟨fun hnone => happly _ (intakeTail_none hnone), fun j hj => ⟨fun hok => happly _ ?_, fun hbad => happly _ ?_⟩⟩
  · rw [intakeTail_some hj, if_pos (tailOk_iff.2 hok), Hw.setJob]
  · rw [intakeTail_some hj, if_neg (mt tailOk_iff.1 hbad), Hw.setJob]

theorem submitTail_inRun (hrun : s.m.quay.ps = .run) (n : Nat) (v : BitVec 32) :
    (mget s.m.queues n = none → Leaves (.submitTailWrite n v) s (s.m.hosterr .badacc)) ∧
    (∀ q, mget s.m.queues n = some q →
      (((v - q.head).toNat ≤ q.nent ∧ (v - q.tail).toNat ≤ (v - q.head).toNat) → After (.submitTailWrite n v) s fun m =>
        (mget m.queues n).map SubQ.tail = some v ∧ (mget m.queues n).map SubQ.err = some q.err ∧
        { m with queues := s.m.queues, postNo := s.m.postNo } = s.m) ∧
      (¬((v - q.head).toNat ≤ q.nent ∧ (v - q.tail).toNat ≤ (v - q.head).toNat) →
        Leaves (.submitTailWrite n v) s
          ({ s.m with queues := mset s.m.queues n { q with err := true } }.hosterr .ptrErr))) := by
  have happly := fun t (h : s.m.submitTail n v = t) =>
    leaves_applied hon hlive hrun (i := .submitTailWrite n v) (w := .submitTail n v) rfl h
  refine ⟨fun hnone => happly _ (submitTail_none hnone), fun q hq => ⟨fun hok => ?accepted, fun hbad => happly _ ?_⟩⟩
  case accepted =>
    refine ⟨{ s.m with queues := mset s.m.queues n (postedTo q v s.m.postNo), postNo := s.m.postNo + 1 }, happly _ ?_, ?_⟩
    · rw [submitTail_some hq, if_pos (tailOk_iff.2 hok)]
      exact unhold_of_run hrun
    · exact ⟨by rw [mget_mset_self]; rfl, by rw [mget_mset_self]; rfl, rfl⟩
  · rw [submitTail_some hq, if_neg (mt tailOk_iff.1 hbad)]

theorem eventHead_inRun (hrun : s.m.quay.ps = .run) (c : Nat) (v : BitVec 32) :
    ((mget s.m.ctxs c).bind Ctx.ring = none → Leaves (.eventHeadWrite c v) s (s.m.hosterr .badacc)) ∧
    (∀ x r, mget s.m.ctxs c = some x → x.ring = some r →
      (((r.tail - v).toNat ≤ r.nent ∧ (v - r.head).toNat ≤ (r.tail - r.head).toNat) → After (.eventHeadWrite c v) s fun m =>
        ((mget m.ctxs c).bind Ctx.ring).map Ring.head = some v ∧ m.mem.ram = s.m.mem.ram ∧ m.cores = s.m.cores ∧
        (r.dropped = 0 → m.mem.host = s.m.mem.host)) ∧
      (¬((r.tail - v).toNat ≤ r.nent ∧ (v - r.head).toNat ≤ (r.tail - r.head).toNat) →
        Leaves (.eventHeadWrite c v) s
          ({ s.m with ctxs := mset s.m.ctxs c { x with ring := some { r with err := true } } }.hosterr .ptrErr))) := by
  have hexec : exec (.eventHeadWrite c v) s = .next { s with m := s.m.eventHead c v } := by
    rw [exec_eventHeadWrite hon hlive, asleep_of_run hrun, if_neg Bool.false_ne_true]
  refine ⟨fun hnone => ?absent, fun x r hx hr => ⟨fun hok => ⟨_, hexec, ?accepted⟩, fun hbad => ?refused⟩⟩
  case absent => rw [Leaves, hexec, eventHead_none hnone]
  case accepted =>
    rw [eventHead_some hx hr, if_pos (headOk_iff.2 hok)]
    exact dropped_spec s.m c x { r with head := v }
  case refused => rw [Leaves, hexec, eventHead_some hx hr, if_neg (mt headOk_iff.1 hbad)]

theorem bollard_inRun (hrun : s.m.quay.ps = .run) (k : Nat) (v : BitVec 64) (hlow : bits v.toNat 15 3 = 0)
    (hhigh : bits v.toNat 31 26 = 0) (hcore : s.m.coreValid k = true) :
    (v.getLsbD 2 = false → Leaves (.bollardDoorbellAdd k v) s
      (s.m.signal 256 (bits v.toNat 25 16) 0 k (60 + bits v.toNat 1 0) false (BitVec.ofNat 32 (bits v.toNat 63 32)))) ∧
    (v.getLsbD 2 = true → Leaves (.bollardDoorbellSet k v) s
      (s.m.signal 256 (bits v.toNat 25 16) 0 k (60 + bits v.toNat 1 0) true (BitVec.ofNat 32 (bits v.toNat 63 32)))) := by
  have hbell := bollardBell_valid hlow hhigh hcore hrun
  refine ⟨fun hmode => leaves_applied hon hlive hrun (exec_bellAdd hmode k s) ?_,
    fun hmode => leaves_applied hon hlive hrun (exec_bellSet hmode k s) ?_⟩ <;>
  · rw [hmode] at hbell
    exact hbell

theorem mailbox_inRun (hrun : s.m.quay.ps = .run) (n : Nat) (v : BitVec 64) :
    let p := s.m.espor.pair n
    (mailOk p v.toNat → s.m.quay.reason ≠ 0x0910#16 → (catalogue.contains p.cmd = true ∨ s.m.quay.fwAlive = false) →
      After (.mailboxDoorbell n v) s fun m => m.espor.pair n = { p with st := .busy, resp := [] } ∧
        m.espor.order = (if s.m.quay.fwAlive then s.m.espor.order ++ [n] else s.m.espor.order) ∧
        { m with espor := s.m.espor } = s.m) ∧
    (¬mailOk p v.toNat → Leaves (.mailboxDoorbell n v) s (s.m.hosterr .badacc)) := by
  have happly := fun t (h : s.m.mailBell n v = t) =>
    leaves_applied hon hlive hrun (i := .mailboxDoorbell n v) (w := .mailbox n v) rfl h
  exact ⟨fun hok hslot hcmd => ⟨_, happly _ (mailBell_taken hok hslot hcmd), mailTaken_pair s.m n, rfl, rfl⟩,
    fun hbad => happly _ (mailBell_refused hbad)⟩

theorem wideWrites {bs : List Byte} (hlen : bs.length = 8) : let v := leNat bs
    exec (.registerWrite 0x1038 bs) s = exec (.qwCauseWrite (BitVec.ofNat 64 v)) s ∧
    exec (.registerWrite 0x1040 bs) s = exec (.qwCauseEnWrite (BitVec.ofNat 64 v)) s ∧
    (∀ off, off < 0x1000 → off % 8 = 0 → Idles (.registerWrite off bs) s) ∧
    (∀ n, n < 64 → mhas s.m.jobs n = true →
      exec (.registerWrite (0x20000 + 16 * n) bs) s = exec (.intakeTailWrite n (BitVec.ofNat 32 v)) s) ∧
    (∀ n, n < 256 → mhas s.m.queues n = true →
      exec (.registerWrite (0x29000 + 16 * n) bs) s = exec (.submitTailWrite n (BitVec.ofNat 32 v)) s) ∧
    (∀ c, c < 1024 → (mget s.m.ctxs c).bind Ctx.ring ≠ none → bitb v 32 = false →
      exec (.registerWrite (0x21000 + 32 * c + 8) bs) s = exec (.eventHeadWrite c (BitVec.ofNat 32 v)) s) ∧
    (∀ k, k < 256 → (bitb v 2 = false →
        exec (.registerWrite (0x200000 + 8 * k) bs) s = exec (.bollardDoorbellAdd k (BitVec.ofNat 64 v)) s) ∧
      (bitb v 2 = true →
        exec (.registerWrite (0x200000 + 8 * k) bs) s = exec (.bollardDoorbellSet k (BitVec.ofNat 64 v)) s)) ∧
    (∀ n, n < 64 → exec (.registerWrite (0x202000 + 8 * n) bs) s = exec (.mailboxDoorbell n (BitVec.ofNat 64 v)) s) := by
  intro v
  have hmode : (BitVec.ofNat 64 v).getLsbD 2 = bitb v 2 := by
    rw [BitVec.getLsbD_ofNat, bitb]
    simp
  have hbollard : ∀ k, k < 256 → exec (.registerWrite (0x200000 + 8 * k) bs) s =
      onHw (fun m => m.hostWrite (.bollard k (BitVec.ofNat 64 v))) s := fun k hk => by
    rw [exec_bell hon hlive (by omega) (by omega) hlen, bellWrite_bollard _ hk, onHw_next]
  refine ⟨?cause, ?causeEn, fun off hoff halign => ?identity, fun n hn _ => ?intake, fun n hn _ => ?submit,
    fun c hc hring herr => ?head, fun k hk => ⟨fun hv => ?add, fun hv => ?set⟩, fun n hn => ?mailbox⟩
  case cause =>
    change _ = execQwCauseWrite _ s
    rw [execQwCauseWrite, onHw_next, if_pos hon]
    refine leaves_registerWrite (by decide) ?_
    rw [regWritten, if_neg (by decide), if_neg (by decide), if_neg (by simp [hon]), hlen, if_neg (by decide), if_pos rfl]
    simp [v]
  case causeEn =>
    change _ = execQwCauseEnWrite _ s
    rw [execQwCauseEnWrite, onHw_next, if_pos hon]
    refine leaves_registerWrite (by decide) ?_
    rw [regWritten, if_neg (by decide), if_neg (by decide), if_neg (by simp [hon]), hlen, if_neg (by decide),
      if_neg (by decide), if_pos rfl, if_pos rfl]
  case identity =>
    refine leaves_registerWrite (by omega) ?_
    have hblocks : inBlocks off = false := by simp [inBlocks]; omega
    rw [regWritten_window hon hlive (by omega) (quayShape_wide hblocks halign hlen) (by omega) (by omega), windowWritten,
      if_neg (by simp; omega), if_neg (by simp; omega), if_neg (by simp [inDoorbells]; omega)]
  case intake =>
    rw [exec_pointer hon hlive (by omega) (by omega) hlen, pointerWrite_tail (w := .intakeTail n (BitVec.ofNat 32 v))
      (by omega) (by omega) (by rw [tailAt, if_pos (by omega), if_pos (by omega), Nat.mul_div_cancel_left _ (by decide)])]
    rfl
  case submit =>
    have htail : tailAt (0x9000 + 16 * n) (BitVec.ofNat 32 v) = some (.submitTail n (BitVec.ofNat 32 v)) := by
      rw [tailAt, if_neg (by omega), if_neg (by omega), if_pos (by omega), Nat.add_sub_cancel_left,
        Nat.mul_div_cancel_left _ (by decide)]
    rw [show 0x29000 + 16 * n = 0x20000 + (0x9000 + 16 * n) by omega, exec_pointer hon hlive (by omega) (by omega) hlen,
      pointerWrite_tail (by omega) (by omega) htail]
    rfl
  case head =>
    rw [show 0x21000 + 32 * c + 8 = 0x20000 + (0x1000 + 32 * c + 8) by omega,
      exec_pointer hon hlive (by omega) (by omega) hlen, pointerWrite_head hc hring herr, exec_eventHeadWrite hon hlive]
  case add => rw [hbollard k hk, exec_bellAdd (hmode.trans hv)]
  case set => rw [hbollard k hk, exec_bellSet (hmode.trans hv)]
  case mailbox =>
    rw [show 0x202000 + 8 * n = 0x200000 + (0x2000 + 8 * n) by omega, exec_bell hon hlive (by omega) (by omega) hlen,
      bellWrite_mailbox _ hn]
    rfl

end

/-- Settles O54: a write goes to one register, pointer or doorbell, which takes it in Run and is held in Anchor and Waking. -/
theorem pointersAndDoorbells : Obligations.PointersAndDoorbells := by
  intro s hon hlive
  refine ⟨fun hrun => ⟨intakeTail_inRun hon hlive hrun, submitTail_inRun hon hlive hrun, eventHead_inRun hon hlive hrun,
      bollard_inRun hon hlive hrun, fun core v hbad hmode => leaves_applied hon hlive hrun (exec_bellAdd hmode core s)
        (bollardBell_reserved hbad), mailbox_inRun hon hlive hrun⟩,
    fun hps hfree => ⟨fun n v => ⟨leaves_held hon hlive hps hfree rfl, leaves_held hon hlive hps hfree rfl⟩,
      fun n v => ⟨leaves_held hon hlive hps hfree rfl, fun hmode => leaves_held hon hlive hps hfree (exec_bellAdd hmode n s),
        fun hmode => leaves_held hon hlive hps hfree (exec_bellSet hmode n s)⟩⟩,
    fun hps hfull => ⟨fun n v => ⟨leaves_notHeld hon hlive hps hfull (w := .submitTail n v) rfl,
      leaves_notHeld hon hlive hps hfull (w := .intakeTail n v) rfl⟩,
      fun n v => leaves_notHeld hon hlive hps hfull (w := .mailbox n v) rfl⟩, fun hps c v => ?headAsleep,
    fun off bs hoff hshape => leaves_registerWrite (by omega) (regWritten_misshapen hon hoff hshape),
    fun bs hlen => wideWrites hon hlive hlen, fun n o bs hn ho hbs hword => ⟨fun hfree => ?request, fun hbusy => ?busy⟩,
    fun off bs hoff => ?bar4, fun off bs hoff => ?config, fun n bs hn hlen => ?mask,
    fun bs hboot hlen => after_commandWrite (up_of_hostOn hon) hboot hlen⟩
  case headAsleep => rw [Idles, exec_eventHeadWrite hon hlive, if_pos (asleep_of_anchor hps)]
  case request => rw [Leaves, exec_requestWrite hon hlive hn ho hbs hword, if_neg (by simpa using hfree)]
  case busy => rw [Leaves, exec_requestWrite hon hlive hn ho hbs hword, if_pos (by simpa using hbusy)]
  case bar4 =>
    refine leaves_registerWrite (by omega) ?_
    rw [regWritten_bar4 hon (by omega) (by omega), Nat.add_sub_cancel_left]
  case config =>
    refine leaves_registerWrite (by omega) ?_
    rw [regWritten_config _ (by omega), Nat.add_sub_cancel_left]
  case mask =>
    refine leaves_registerWrite (by omega) ?_
    rw [regWritten_bar4 hon (by omega) (by omega), Nat.add_sub_cancel_left, bar4Write_mask _ hn hlen]

end Sys2Proof
end

section
/-! PROOF. Module resets, their bring-up and function resets (13 R343 to R345, R354, R361, 16 R430, 17 R435 to R438, R444): O51. -/

namespace Sys2Proof

open Machine

/-! ### What a module reset leaves (17 R435) -/

/-- STATE reset, with the bring-up of a reset of kind `k` to come. -/
def Released (boots k : Nat) (f : Found) (hung : Bool) (t : Hw) : Prop :=
  t.boot = .pending ∧ t.coming = some ⟨k, f, hung, none⟩ ∧ t.quay.st = .reset ∧ t.island.lastReset = k ∧ t.ctxs = [] ∧
  t.plans = [] ∧ t.queues = [] ∧ t.jobs = [] ∧ t.streams = [] ∧ t.cores = [] ∧ (∀ p, (t.port p).cfg = none) ∧
  t.espor.pairs = [] ∧ t.host.windows = [] ∧ t.mem.ram = [] ∧ t.mem.marks = [] ∧ t.power.quartersUp = 0#4 ∧
  t.host.up = false ∧ t.quay.causeEn = 0x7F#64 ∧ t.flash.boots = boots + 1

/-- Tide time, TIDE_CFG and the fuses stay. -/
def Lasting (m t : Hw) : Prop :=
  t.island.tide = m.island.tide ∧ t.island.tideCfg = m.island.tideCfg ∧ t.fuses = m.fuses

/-- The module wiped, with a bring-up to come. -/
def wipedTo (m : Hw) (k : Nat) (f : Found) (hung : Bool) : Hw := { m.wiped k with coming := some ⟨k, f, hung, none⟩ }

theorem wiped_cfg (m : Hw) (k p : Nat) : ((m.wiped k).port p).cfg = none := by
  change (lget (List.replicate 4 (⟨false, none, none⟩ : Port)) p _).cfg = none
  rw [lget, List.getD_eq_getElem?_getD, List.getElem?_replicate]
  split <;> rfl

theorem wipedTo_released (m : Hw) (k : Nat) (f : Found) (hung : Bool) :
    Released m.flash.boots k f hung (wipedTo m k f hung) :=
  ⟨rfl, rfl, rfl, rfl, rfl, rfl, rfl, rfl, rfl, rfl, wiped_cfg m k, rfl, rfl, rfl, rfl, rfl, rfl, rfl, rfl⟩

theorem wipedTo_lasting (m : Hw) (k : Nat) (f : Found) (hung : Bool) : Lasting m (wipedTo m k f hung) := ⟨rfl, rfl, rfl⟩

/-- The health record is all that a waiting HEALTH_CLEAR changes. -/
theorem clearFirst_kept (m : Hw) :
    { m.clearFirst with island := { m.clearFirst.island with health := m.island.health } } = m := by
  unfold Hw.clearFirst
  split <;> rfl

theorem bringUp_released (m : Hw) (k : Nat) (f : Found) : Released m.flash.boots k f false (m.bringUp k f) := by
  have hboots := (congrArg (fun x : Hw => x.flash.boots) (clearFirst_kept m) :)
  dsimp only at hboots
  rw [← hboots]
  exact wipedTo_released m.clearFirst k f false

theorem bringUp_lasting (m : Hw) (k : Nat) (f : Found) : Lasting m (m.bringUp k f) :=
  ⟨(congrArg (fun x : Hw => x.island.tide) (clearFirst_kept m) :),
    (congrArg (fun x : Hw => x.island.tideCfg) (clearFirst_kept m) :), (congrArg Hw.fuses (clearFirst_kept m) :)⟩

theorem bringUp_sync (m : Hw) (k : Nat) (f : Found) : (m.bringUp k f).island.sync = m.island.sync :=
  (congrArg (fun x : Hw => x.island.sync) (clearFirst_kept m) :)

/-! ### The commands that reset the module -/

theorem resetWord_iff {v : BitVec 64} {k : Nat} (hk : k < 65536) : resetWord v k = true ↔ v = BitVec.ofNat 64 (k + 0xC17E * 65536) := by
  rw [resetWord, beq_iff_eq, ← BitVec.toNat_inj, BitVec.toNat_ofNat, Nat.mod_eq_of_lt (by omega)]

section

variable {s : State}

theorem exec_qwResetWarm (v : BitVec 64) (f : Found) :
    exec (.qwResetWarm v f) s = .next { s with m := s.m.resetWrite v 1 2 2 f } := rfl

theorem exec_qwResetCold (v : BitVec 64) (f : Found) :
    exec (.qwResetCold v f) s = .next { s with m := s.m.resetWrite v 2 1 1 f } := rfl

theorem resetWrite_valid {m : Hw} (hon : m.hostOn = true) (hlive : m.inReset = false) {v : BitVec 64} {kind : Nat}
    (hv : resetWord v kind = true) (other n : Nat) (f : Found) :
    m.resetWrite v kind other n f = if m.quay.st == .stopping then m else m.bringUp n f := by
  rw [Hw.resetWrite, if_neg (by simp [hon, hlive]), if_pos hv]

theorem resetWrite_other {m : Hw} (hon : m.hostOn = true) (hlive : m.inReset = false) {v : BitVec 64} {kind other : Nat}
    (hkind : resetWord v kind = false) (hother : resetWord v other = false) (n : Nat) (f : Found) :
    m.resetWrite v kind other n f = m.hosterr .badacc := by
  rw [Hw.resetWrite, if_neg (by simp [hon, hlive]), if_neg (by simp [hkind]), if_neg (by simp [hother])]

theorem after_bringUp {i : Instr} {m : Hw} {k : Nat} {f : Found} (hi : exec i s = .next { s with m := m.bringUp k f })
    (hboots : m.flash.boots = s.m.flash.boots) (hlast : Lasting s.m m) :
    After i s fun t => Released s.m.flash.boots k f false t ∧ Lasting s.m t := by
  obtain ⟨htide, hcfg, hfuses⟩ := hlast
  obtain ⟨htide', hcfg', hfuses'⟩ := bringUp_lasting m k f
  exact ⟨_, hi, hboots ▸ bringUp_released m k f, htide'.trans htide, hcfg'.trans hcfg, hfuses'.trans hfuses⟩

theorem resetWrites (hon : s.m.hostOn = true) (hlive : s.m.inReset = false) (f : Found) :
    (s.m.quay.st ≠ .stopping → After (.qwResetWarm 0xC17E0001#64 f) s fun m =>
      Released s.m.flash.boots 2 f false m ∧ Lasting s.m m) ∧
    (s.m.quay.st ≠ .stopping → After (.qwResetCold 0xC17E0002#64 f) s fun m =>
      Released s.m.flash.boots 1 f false m ∧ Lasting s.m m) ∧
    (s.m.quay.st = .stopping → Idles (.qwResetWarm 0xC17E0001#64 f) s ∧ Idles (.qwResetCold 0xC17E0002#64 f) s) ∧
    (∀ v, v ≠ 0xC17E0001#64 → v ≠ 0xC17E0002#64 → Leaves (.qwResetWarm v f) s (s.m.hosterr .badacc) ∧
      Leaves (.qwResetCold v f) s (s.m.hosterr .badacc)) := by
  have hwarm : resetWord 0xC17E0001#64 1 = true := by decide
  have hcold : resetWord 0xC17E0002#64 2 = true := by decide
  refine ⟨fun hst => after_bringUp (m := s.m) ?_ rfl ⟨rfl, rfl, rfl⟩, fun hst => after_bringUp (m := s.m) ?_ rfl ⟨rfl, rfl, rfl⟩,
    fun hst => ⟨?_, ?_⟩, fun v hnot1 hnot2 => ?_⟩
  · rw [exec_qwResetWarm, resetWrite_valid hon hlive hwarm, if_neg (by simpa using hst)]
  · rw [exec_qwResetCold, resetWrite_valid hon hlive hcold, if_neg (by simpa using hst)]
  · rw [Idles, exec_qwResetWarm, resetWrite_valid hon hlive hwarm, if_pos (by simp [hst])]
  · rw [Idles, exec_qwResetCold, resetWrite_valid hon hlive hcold, if_pos (by simp [hst])]
  · have h1 : resetWord v 1 = false := Bool.eq_false_iff.2 (mt (resetWord_iff (by decide)).1 hnot1)
    have h2 : resetWord v 2 = false := Bool.eq_false_iff.2 (mt (resetWord_iff (by decide)).1 hnot2)
    exact ⟨by rw [Leaves, exec_qwResetWarm, resetWrite_other hon hlive h1 h2],
      by rw [Leaves, exec_qwResetCold, resetWrite_other hon hlive h2 h1]⟩

/-- The input has stayed in its range for 1 s. -/
def Steady (m : Hw) (v : Nat) : Prop := 36000 ≤ v ∧ v ≤ 42000 ∧ m.power.steadyFrom + 10 ^ 9 ≤ m.now

theorem exec_automaticReset (hon : s.m.island.on = true) (hst : s.m.quay.st = .stopped) (v : Nat) (f : Found) :
    exec (.automaticReset ⟨v, f⟩) s = .next { s with
      m := if 36000 ≤ v && v ≤ 42000 && (s.m.setV400 v).power.steadyFrom + 10 ^ 9 ≤ (s.m.setV400 v).now then
        (s.m.setV400 v).bringUp 3 f else s.m.setV400 v } := by
  change execAutomaticReset ⟨v, f⟩ s = _
  rw [execAutomaticReset, onHw_next, if_neg (by simp [hon, hst])]

theorem steadyFrom_setV400 {m : Hw} {v : Nat} (hlow : 36000 ≤ v) (hhigh : v ≤ 42000) :
    (m.setV400 v).power.steadyFrom = m.power.steadyFrom := by
  dsimp only [Hw.setV400]
  rw [if_pos (by simp [hlow, hhigh])]

theorem automaticReset_spec (hon : s.m.island.on = true) (hst : s.m.quay.st = .stopped) (v : Nat) (f : Found) :
    (Steady s.m v → After (.automaticReset ⟨v, f⟩) s fun m => Released s.m.flash.boots 3 f false m ∧ Lasting s.m m) ∧
    (¬Steady s.m v → Leaves (.automaticReset ⟨v, f⟩) s (s.m.setV400 v)) := by
  have hexec := exec_automaticReset hon hst v f
  have hnow : (s.m.setV400 v).now = s.m.now := rfl
  refine ⟨fun ⟨hlow, hhigh, hlong⟩ => after_bringUp (m := s.m.setV400 v) ?_ rfl ⟨rfl, rfl, rfl⟩, fun hno => ?_⟩
  · rw [hexec, steadyFrom_setV400 hlow hhigh, hnow, decide_eq_true hlow, decide_eq_true hhigh, decide_eq_true hlong]
    rfl
  · rw [Leaves, hexec, if_neg]
    simp only [Bool.and_eq_true, decide_eq_true_eq]
    rintro ⟨⟨hlow, hhigh⟩, hlong⟩
    rw [steadyFrom_setV400 hlow hhigh] at hlong
    exact hno ⟨hlow, hhigh, hlong⟩

theorem powerOn_spec (hboot : s.m.boot ≠ .done) (hcoming : s.m.coming = none) (f : Found) :
    (s.m.island.on = false → After (.powerOnReset f) s fun m => Released s.m.flash.boots 0 f false m ∧ m.island.tide = 0 ∧
      m.island.sync = .free) ∧
    (s.m.island.on = true → After (.powerOnReset f) s fun m => Released s.m.flash.boots 0 f false m ∧ Lasting s.m m) := by
  have hexec : exec (.powerOnReset f) s = .next { s with m := if s.m.island.on then s.m.bringUp 0 f else
      { s.m with island := { Island.reset with errNext := s.m.island.errNext } }.bringUp 0 f } := by
    change execPowerOnReset f s = _
    rw [execPowerOnReset, onHw_next, if_neg (by simp [hboot, hcoming])]
  refine ⟨fun hoff => ?_, fun hon => after_bringUp (m := s.m) ?_ rfl ⟨rfl, rfl, rfl⟩⟩
  · rw [hoff, if_neg Bool.false_ne_true] at hexec
    exact ⟨_, hexec, bringUp_released _ _ _, (bringUp_lasting _ _ _).1, bringUp_sync _ _ _⟩
  · rw [hexec, if_pos hon]

theorem trialImageTimeout_spec {c : Coming} {p : Picked} (hcoming : s.m.coming = some c) (hpicked : c.picked = some p)
    (hhung : c.hung = false) (htrial : s.m.flash.trial ≠ none) (f : Found) :
    After (.trialImageTimeout f) s fun m => Released s.m.flash.boots c.kind f true m ∧ Lasting s.m m := by
  refine ⟨wipedTo s.m c.kind f true, ?_, wipedTo_released _ _ _ _, wipedTo_lasting _ _ _ _⟩
  change execTrialImageTimeout f s = _
  rw [execTrialImageTimeout, onHw_next, hcoming]
  dsimp only
  rw [if_pos (by simp [hpicked, hhung, Option.isSome_iff_ne_none, htrial])]
  rfl

end

/-! ### The bring-up as time passes (17 R436 to R438) -/

/-- The module as the island's nanosecond begins. -/
def ticked (m : Hw) : Hw := { m with island := m.island.advance.reply }

/-- Beside what the bring-up does, a nanosecond charges counters and virtual times. -/
theorem step_comingUp {s : State} (hempty : s.pending = []) (hon : s.m.island.on = true) :
    ∃ cycles m, step s = .next { s with m := m } ∧ Charged { (ticked s.m).comeUp with cycles := cycles } m := by
  have hpass : passTime s.m = cyclesPassed (ticked s.m).comeUp (ticked s.m).comeUp.island := by
    rw [passTime, if_neg (by simp [hon])]
    rfl
  obtain ⟨cycles, hcharged⟩ := cyclesPassed_charged (ticked s.m).comeUp (ticked s.m).comeUp.island
  exact ⟨cycles, _, step_of_empty hempty, hpass ▸ hcharged⟩

/-- What a step of the bring-up shows: state of the boot and of the window, and what it asks of the capstan. -/
def bootView (m : Hw) : Boot × Option Coming × Quay × BitVec 32 × Power := (m.boot, m.coming, m.quay, m.fwBuild, m.power)

theorem Charged.bootView {m t : Hw} (h : Charged m t) : bootView t = bootView m :=
  (congrArg (fun x : Hw => Sys2Proof.bootView x) h.rest :)

theorem step_bootView {s : State} (hempty : s.pending = []) (hon : s.m.island.on = true) :
    ∃ m, step s = .next { s with m := m } ∧ bootView m = bootView (ticked s.m).comeUp := by
  obtain ⟨cycles, m, hstep, hcharged⟩ := step_comingUp hempty hon
  exact ⟨m, hstep, hcharged.bootView⟩

section

variable {m : Hw} {c : Coming} (hcoming : m.coming = some c)
include hcoming

theorem comeUp_unpicked (h : c.picked = none) : m.comeUp = m.selfTest c := by
  rw [Hw.comeUp, hcoming]
  dsimp only
  rw [h]

theorem comeUp_picked {p : Picked} (h : c.picked = some p) :
    m.comeUp = if m.power.quartersUp == 0xF#4 && m.power.hubUp then m.finishTest c p else m := by
  rw [Hw.comeUp, hcoming]
  dsimp only
  rw [h]

end

theorem setStatus_status (m : Hw) (st : ModState) (r : BitVec 16) :
    (m.setStatus st r).quay.st = st ∧ (m.setStatus st r).quay.reason = r :=
  ⟨(setStatus_shown m st r).register (g := Quay.st) fun _ _ => rfl,
    (setStatus_shown m st r).register (g := Quay.reason) fun _ _ => rfl⟩

theorem setStatus_coming (m : Hw) (st : ModState) (r : BitVec 16) : (m.setStatus st r).coming = m.coming :=
  (congrArg Hw.coming (setStatus_frame m st r) :)

theorem setStatus_fwBuild (m : Hw) (st : ModState) (r : BitVec 16) : (m.setStatus st r).fwBuild = m.fwBuild :=
  (congrArg Hw.fwBuild (setStatus_frame m st r) :)

theorem selfTest_none {m : Hw} {c : Coming} (h : m.bootSlot c.hung = none) :
    let t := m.selfTest c
    t.boot = .done ∧ t.coming = none ∧ t.quay.st = .notReady ∧ t.quay.reason = 0x0910#16 := by
  unfold Hw.selfTest
  rw [h]
  exact ⟨setStatus_boot _ _ _, setStatus_coming _ _ _, (setStatus_status _ _ _).1, (setStatus_status _ _ _).2⟩

/-- The self-test with image `b` has begun: a power-up is asked for each quarter. -/
structure Testing (c : Coming) (b : Bool) (build : BitVec 32) (t : Hw) (p : Picked) : Prop where
  st : t.quay.st = .selfTest
  reason : t.quay.reason = 0#16
  build : t.fwBuild = build
  queue : t.power.queue.map CapReq.kind = [0, 0, 0, 0]
  coming : t.coming = some { c with picked := some p }
  slot : p.slotB = b
  full : c.kind < 2 → p.full = true

theorem selfTest_some {m : Hw} {c : Coming} {b fb : Bool} {why : Nat} (h : m.bootSlot c.hung = some (b, fb, why)) :
    ∃ p, Testing c b (m.flash.slot b).build (m.selfTest c) p := by
  unfold Hw.selfTest
  rw [h]
  exact ⟨_, (setStatus_status _ _ _).1, (setStatus_status _ _ _).2, setStatus_fwBuild _ _ _,
    congrArg (fun w : Power => w.queue.map CapReq.kind) (setStatus_power _ _ _), setStatus_coming _ _ _, rfl,
    fun hk => by simp [hk]⟩

theorem le_of_ite {p : Prop} [Decidable p] {a b n : Nat} (ha : a ≤ n) (hb : b ≤ n) : (if p then a else b) ≤ n := by
  split
  · exact ha
  · exact hb

theorem agreement_le (fuses : Fuses) (r : Option TopoRec) (f : Found) (good : List (BitVec 68)) (hubOk : Bool) :
    agreement fuses r f good hubOk ≤ 0x0617 := by
  cases r with
  | none => exact Nat.le_of_ble_eq_true rfl
  | some r =>
    unfold agreement
    dsimp only
    iterate 8 refine le_of_ite (by decide) ?_
    exact Nat.zero_le _

theorem setTopo_bring (m : Hw) (t : Topology) : (m.setTopo t).boot = m.boot ∧ (m.setTopo t).coming = m.coming := by
  unfold Hw.setTopo
  split
  · exact ⟨rfl, rfl⟩
  · exact ⟨(congrArg Hw.boot (cause_frame _ 3) :), (congrArg Hw.coming (cause_frame _ 3) :)⟩

/-- The end of the self-test: a state, and no REASON in Ready alone. -/
structure Tested (t : Hw) : Prop where
  boot : t.boot = .done
  coming : t.coming = none
  status : (t.quay.st = .ready ∧ t.quay.reason = 0#16) ∨ (t.quay.st = .notReady ∧ t.quay.reason ≠ 0#16)

theorem tested_ready {m : Hw} (hboot : m.boot = .done) (hcoming : m.coming = none) : Tested (m.setStatus .ready 0#16) :=
  ⟨(setStatus_boot _ _ _).trans hboot, (setStatus_coming _ _ _).trans hcoming, .inl (setStatus_status _ _ _)⟩

theorem tested_notReady {m : Hw} (hboot : m.boot = .done) (hcoming : m.coming = none) {r : BitVec 16} (hr : r ≠ 0#16) :
    Tested (m.setStatus .notReady r) := by
  obtain ⟨hst, hreason⟩ := setStatus_status m .notReady r
  exact ⟨(setStatus_boot _ _ _).trans hboot, (setStatus_coming _ _ _).trans hcoming, .inr ⟨hst, hreason.symm ▸ hr⟩⟩

/-- A trial image that has come up becomes active (17 R444). -/
def trialKept (m : Hw) : Hw :=
  match m.flash.trial with
  | some b => if m.flash.booted then
      { m with flash := { m.flash with activeB := b, trial := none, booted := false }
               fuses := { m.fuses with minSvn := max m.fuses.minSvn (m.flash.slot b).svn } }
    else m
  | none => m

theorem trialKept_bring (m : Hw) : (trialKept m).boot = m.boot ∧ (trialKept m).coming = m.coming := by
  unfold trialKept
  split
  · split <;> exact ⟨rfl, rfl⟩
  · exact ⟨rfl, rfl⟩

/-- The module with the cores, links and health record that step 9 finds, before its state. -/
def stepNineFound (m : Hw) (f : Found) (good : List (BitVec 68)) (h : Health) : Hw :=
  let n := { m with
    phys := (List.range 4).map fun q => Phys.map (lget good q 0#68) (coresOf m.flash.topo (lget good q 0#68) q)
    links := linksOf m.flash.topo f, outOfService := 0#256 }
  let gen := match m.flash.topo with | some r => r.cfgGen | none => 0#32
  ((n.setTopo (n.discovered m.flash.topo f)).setHealth { h with valid := true, cfgGen := gen, good := good }).showDegraded

theorem stepNine_eq (m : Hw) (f : Found) (good : List (BitVec 68)) (hubOk : Bool) (h : Health) : ∃ fuses,
    m.stepNine f good hubOk h =
      let code := agreement fuses m.flash.topo f good hubOk
      if code = 0 then (trialKept (stepNineFound m f good h)).setStatus .ready 0#16
      else (stepNineFound m f good h).setStatus .notReady (BitVec.ofNat 16 code) := ⟨_, rfl⟩

theorem stepNine_tested {m : Hw} (hboot : m.boot = .done) (hcoming : m.coming = none) (f : Found) (good : List (BitVec 68))
    (hubOk : Bool) (h : Health) : Tested (m.stepNine f good hubOk h) := by
  obtain ⟨fuses, heq⟩ := stepNine_eq m f good hubOk h
  have hbring : (stepNineFound m f good h).boot = .done ∧ (stepNineFound m f good h).coming = none :=
    ⟨(setTopo_bring _ _).1.trans hboot, (setTopo_bring _ _).2.trans hcoming⟩
  obtain ⟨hboot', hcoming'⟩ := hbring
  have hle := agreement_le fuses m.flash.topo f good hubOk
  rw [heq]
  generalize agreement fuses m.flash.topo f good hubOk = code at hle
  dsimp only
  split
  · exact tested_ready ((trialKept_bring _).1.trans hboot') ((trialKept_bring _).2.trans hcoming')
  · next hcode =>
    refine tested_notReady hboot' hcoming' fun hr => hcode ?_
    have hnat := congrArg BitVec.toNat hr
    rw [BitVec.toNat_ofNat, Nat.mod_eq_of_lt (by omega)] at hnat
    exact hnat

theorem finishTest_tested (m : Hw) (c : Coming) (p : Picked) : Tested (m.finishTest c p) := stepNine_tested rfl rfl _ _ _ _

theorem bringUp_steps {s : State} (hempty : s.pending = []) (hon : s.m.island.on = true) {c : Coming}
    (hcoming : s.m.coming = some c) :
    (c.picked = none → s.m.bootSlot c.hung = none → ∃ m, step s = .next { s with m := m } ∧ m.boot = .done ∧
      m.coming = none ∧ m.quay.st = .notReady ∧ m.quay.reason = 0x0910#16) ∧
    (∀ b fb why, c.picked = none → s.m.bootSlot c.hung = some (b, fb, why) → ∃ m p, step s = .next { s with m := m } ∧
      m.quay.st = .selfTest ∧ m.quay.reason = 0#16 ∧ m.fwBuild = (s.m.flash.slot b).build ∧
      m.power.queue.map CapReq.kind = [0, 0, 0, 0] ∧ m.coming = some { c with picked := some p } ∧ p.slotB = b ∧
      (c.kind < 2 → p.full = true)) ∧
    (∀ p, c.picked = some p → ¬(s.m.power.quartersUp = 0xF#4 ∧ s.m.power.hubUp = true) → ∃ m,
      step s = .next { s with m := m } ∧ m.coming = some c ∧ m.quay = s.m.quay) ∧
    (∀ p, c.picked = some p → s.m.power.quartersUp = 0xF#4 → s.m.power.hubUp = true → ∃ m,
      step s = .next { s with m := m } ∧ m.boot = .done ∧ m.coming = none ∧
      ((m.quay.st = .ready ∧ m.quay.reason = 0#16) ∨ (m.quay.st = .notReady ∧ m.quay.reason ≠ 0#16))) := by
  obtain ⟨m, hstep, hview⟩ := step_bootView hempty hon
  have htick : (ticked s.m).coming = some c := hcoming
  simp only [bootView, Prod.mk.injEq] at hview
  obtain ⟨hboot, hcome, hquay, hbuild, hpower⟩ := hview
  refine ⟨fun hpick hslot => ?noImage, fun b fb why hpick hslot => ?image, fun p hpick hdark => ?waits,
    fun p hpick hquarters hhub => ?ends⟩
  case noImage =>
    obtain ⟨hboot', hcome', hst, hreason⟩ := selfTest_none (m := ticked s.m) hslot
    rw [comeUp_unpicked htick hpick] at hboot hcome hquay
    exact ⟨m, hstep, hboot.trans hboot', hcome.trans hcome', hquay ▸ hst, hquay ▸ hreason⟩
  case image =>
    obtain ⟨p, h⟩ := selfTest_some (m := ticked s.m) hslot
    rw [comeUp_unpicked htick hpick] at hcome hquay hbuild hpower
    exact ⟨m, p, hstep, hquay ▸ h.st, hquay ▸ h.reason, hbuild.trans h.build, hpower ▸ h.queue, hcome.trans h.coming, h.slot,
      h.full⟩
  case waits =>
    rw [comeUp_picked htick hpick, if_neg (by simpa [ticked] using hdark)] at hcome hquay
    exact ⟨m, hstep, hcome.trans hcoming, hquay⟩
  case ends =>
    have h := finishTest_tested (ticked s.m) c p
    rw [comeUp_picked htick hpick, if_pos (by simp [ticked, hquarters, hhub])] at hboot hcome hquay
    exact ⟨m, hstep, hboot.trans h.boot, hcome.trans h.coming, hquay ▸ h.status⟩

/-! ### Function resets (13 R343) -/

/-- No core has a request or a signal under way. -/
def CoresQuiet (m : Hw) : Prop := ∀ k ∈ m.cores, k.2.reqs = [] ∧ k.2.inbox = []

/-- No core fault waits for its rollback. -/
def FaultsQuiet (m : Hw) : Prop := ∀ c ∈ m.ctxs, c.2.recov = []

theorem CoresQuiet.core {m : Hw} (h : CoresQuiet m) (k : Nat) : (m.core k).reqs = [] ∧ (m.core k).inbox = [] := by
  unfold Hw.core mgetD
  cases hk : mget m.cores k with
  | none => exact ⟨rfl, rfl⟩
  | some c => exact h _ (mem_of_mget hk)

theorem stopThread_quiet {c : Core} (h : c.reqs = [] ∧ c.inbox = []) (t : Nat) :
    (c.stopThread t).reqs = [] ∧ (c.stopThread t).inbox = [] := by
  refine ⟨?_, h.2⟩
  unfold Core.stopThread
  dsimp only
  rw [h.1]
  rfl

theorem stopAll_quiet {c : Core} (h : c.reqs = [] ∧ c.inbox = []) : c.stopAll.reqs = [] ∧ c.stopAll.inbox = [] :=
  List.foldlRecOn (motive := fun c : Core => c.reqs = [] ∧ c.inbox = []) _ _ h fun _ h t _ => stopThread_quiet h t

theorem CoresQuiet.stopOn {m : Hw} (h : CoresQuiet m) (c k : Nat) : CoresQuiet (stopOn c m k) := by
  unfold Sys2Proof.stopOn
  split
  · intro e he
    obtain rfl | he := mem_mset he
    · exact stopAll_quiet (h.core k)
    · exact h e he
  · exact h

theorem CoresQuiet.stopThreads {m : Hw} (h : CoresQuiet m) (c : Nat) : CoresQuiet (m.stopThreads c) :=
  List.foldlRecOn (motive := CoresQuiet) _ (Sys2Proof.stopOn c) h fun _ h k _ => h.stopOn c k

/-- Every thread of every context stops. -/
def allStopped (m : Hw) : Hw := m.ctxs.foldl (fun m c => m.stopThreads c.1) m

theorem CoresQuiet.allStopped {m : Hw} (h : CoresQuiet m) : CoresQuiet (allStopped m) :=
  List.foldlRecOn (motive := CoresQuiet) _ _ h fun _ h c _ => h.stopThreads c.1

/-- The module but for its cores, contexts and memory. -/
def outside (m : Hw) : Hw := { m with cores := [], ctxs := [], mem := Hw.reset.mem }

theorem allStopped_frame (m : Hw) : { allStopped m with cores := [] } = { m with cores := [] } :=
  foldl_keeps (f := fun (m : Hw) (c : Nat × Ctx) => m.stopThreads c.1) (l := m.ctxs) (fun d : Hw => { d with cores := [] })
    (fun d c _ => (congrArg (fun x : Hw => { x with cores := [] }) (stopThreads_frame d c.1) :)) m

/-- The requests in flight of a core that runs a context complete. -/
def finishOn (m : Hw) (k : Nat × Core) : Hw :=
  match k.2.ctx with
  | some c => (m.core k.1).reqs.foldl (fun m r => m.finishReq k.1 c r) m
  | none => m

/-- The signals of cores on their way to a core are applied. -/
def signalsOn (m : Hw) (k : Nat × Core) : Hw :=
  ((m.core k.1).inbox.filter fun s => s.src < 256).foldl (fun m s => m.applySignal k.1 s) m

theorem clearAll_eq (m : Hw) : m.clearAll =
    let n := (allStopped m).cores.foldl finishOn (allStopped m)
    (n.cores.foldl signalsOn n).dropSignals fun s => 256 ≤ s.src := rfl

section

variable {m : Hw} (h : CoresQuiet m)
include h

theorem finishOn_of_quiet (k : Nat × Core) : finishOn m k = m := by
  rw [finishOn]
  cases k.2.ctx with
  | none => rfl
  | some c =>
    dsimp only
    rw [(h.core k.1).1]
    rfl

theorem signalsOn_of_quiet (k : Nat × Core) : signalsOn m k = m := by
  rw [signalsOn, (h.core k.1).2]
  rfl

theorem dropSignals_of_quiet (gone : Signal → Bool) : m.dropSignals gone = m := by
  unfold Hw.dropSignals
  refine List.foldlRecOn (motive := fun t => t = m) _ _ rfl fun t ht k hk => ?_
  dsimp only
  rw [(h k hk).2]
  exact ht

/-- Where nothing is under way on a core, clearing stops threads alone. -/
theorem clearAll_of_quiet : m.clearAll = allStopped m := by
  have hquiet := h.allStopped
  rw [clearAll_eq, List.foldl_fixed' (finishOn_of_quiet hquiet)]
  dsimp only
  rw [List.foldl_fixed' (signalsOn_of_quiet hquiet), dropSignals_of_quiet hquiet]

end

/-! ### The removal of contexts -/

theorem FaultsQuiet.ofCtxs {m t : Hw} (h : FaultsQuiet m) (ht : t.ctxs = m.ctxs) : FaultsQuiet t := by
  rw [FaultsQuiet, ht]
  exact h

/-- The module but for its memory. -/
def memless (m : Hw) : Hw := { m with mem := Hw.reset.mem }

theorem freePage_memless (m : Hw) (p : PageDesc) : memless (m.freePage p) = memless m := by
  unfold Hw.freePage
  split <;> rfl

theorem freeFrames_memless (m : Hw) (x : Ctx) : memless (m.freeFrames x) = memless m := by
  unfold Hw.freeFrames
  dsimp only
  refine Eq.trans (foldl_keeps memless (fun _ _ _ => ?_) _) ?_
  · rfl
  · refine Eq.trans (foldl_keeps memless (fun _ _ _ => ?_) _) ?_
    · rfl
    · exact foldl_keeps memless (fun d p _ => freePage_memless d p.2) m

theorem coreFaultLog_outside {m : Hw} (h : FaultsQuiet m) (c e : Nat) (back : Bool) :
    outside (m.coreFaultLog c e back) = outside m ∧ FaultsQuiet (m.coreFaultLog c e back) := by
  unfold Hw.coreFaultLog
  split
  · exact ⟨rfl, h⟩
  · next x hx =>
    rw [h _ (mem_of_mget hx), List.foldl_nil, Hw.updCtx, hx]
    refine ⟨rfl, fun d hd => ?_⟩
    obtain rfl | hd := mem_mset hd
    · rfl
    · exact h d hd

/-- The contexts' frames are freed and their core faults recorded. -/
def ctxsEnded (m : Hw) : Hw := m.ctxs.foldl (fun m c => (m.coreFaultLog c.1 0 false).freeFrames c.2) m

theorem ctxsEnded_outside {m : Hw} (h : FaultsQuiet m) : outside (ctxsEnded m) = outside m :=
  (List.foldlRecOn (motive := fun t => outside t = outside m ∧ FaultsQuiet t) _ _ ⟨rfl, h⟩ fun t ⟨ht, hq⟩ c _ => by
    obtain ⟨hlog, hquiet⟩ := coreFaultLog_outside hq c.1 0 false
    have hfree := freeFrames_memless (t.coreFaultLog c.1 0 false) c.2
    exact ⟨(congrArg outside hfree :).trans (hlog.trans ht), hquiet.ofCtxs (congrArg Hw.ctxs hfree :)⟩).1

/-- The module as a function reset has ended what is under way. -/
def functionEnded (m : Hw) : Hw := ctxsEnded m.clearAll

theorem functionEnded_outside {m : Hw} (hcores : CoresQuiet m) (hfaults : FaultsQuiet m) :
    outside (functionEnded m) = outside m := by
  have hframe := allStopped_frame m
  have hctxs : (allStopped m).ctxs = m.ctxs := (congrArg Hw.ctxs hframe :)
  rw [functionEnded, clearAll_of_quiet hcores, ctxsEnded_outside (hfaults.ofCtxs hctxs)]
  exact (congrArg outside hframe :)

/-- Everything created for the function is gone. -/
def Removed (t : Hw) : Prop :=
  t.ctxs = [] ∧ t.plans = [] ∧ t.queues = [] ∧ t.jobs = [] ∧ t.streams = [] ∧ t.flows = [] ∧ t.quars = [] ∧ t.cores = [] ∧
  t.moduleRing = none ∧ t.espor = ⟨[], [], [], 0⟩ ∧ t.host.bar2 = 34 ∧ t.host.windows = [] ∧ t.host.vecs = [] ∧
  t.host.binds = [] ∧ t.snap.armTick = none ∧ t.quay.held = []

/-- The island, flash, ports, partitions, STATE and the last publication stay. -/
def Untouched (m t : Hw) : Prop :=
  t.island = m.island ∧ t.flash = m.flash ∧ t.ports = m.ports ∧ t.parts = m.parts ∧ t.quay.st = m.quay.st ∧
  t.snap = { m.snap with armTick := none }

theorem resetFunction_removed (m : Hw) (cfg : PcieCfg → PcieCfg) : Removed (m.resetFunction cfg) :=
  ⟨rfl, rfl, rfl, rfl, rfl, rfl, rfl, rfl, rfl, rfl, rfl, rfl, rfl, rfl, rfl, rfl⟩

theorem resetFunction_untouched {m : Hw} (hcores : CoresQuiet m) (hfaults : FaultsQuiet m) (cfg : PcieCfg → PcieCfg) :
    Untouched m (m.resetFunction cfg) ∧ (m.resetFunction cfg).host.up = m.host.up ∧
      (m.resetFunction cfg).host.cfg = cfg m.host.cfg := by
  have h := functionEnded_outside hcores hfaults
  exact ⟨⟨(congrArg Hw.island h :), (congrArg Hw.flash h :), (congrArg Hw.ports h :), (congrArg Hw.parts h :),
    (congrArg (fun x : Hw => x.quay.st) h :), (congrArg (fun x : Hw => { x.snap with armTick := none }) h :)⟩,
    (congrArg (fun x : Hw => x.host.up) h :), (congrArg (fun x : Hw => cfg x.host.cfg) h :)⟩

theorem functionResets {s : State} (hboot : s.m.boot = .done) (hup : s.m.host.up = true) :
    After .functionLevelReset s (fun m => Removed m ∧ (CoresQuiet s.m ∧ FaultsQuiet s.m → Untouched s.m m ∧ m.host.up = true ∧
      m.host.cfg = s.m.host.cfg.afterFlr)) ∧
    After .hotReset s (fun m => Removed m ∧ (CoresQuiet s.m ∧ FaultsQuiet s.m → Untouched s.m m ∧ m.host.up = true ∧
      m.host.cfg = s.m.host.cfg.afterHot)) := by
  have hspec (cfg : PcieCfg → PcieCfg) : let m := s.m.resetFunction cfg
      Removed m ∧ (CoresQuiet s.m ∧ FaultsQuiet s.m → Untouched s.m m ∧ m.host.up = true ∧ m.host.cfg = cfg s.m.host.cfg) := by
    refine ⟨resetFunction_removed _ _, fun ⟨hcores, hfaults⟩ => ?_⟩
    obtain ⟨hstill, hlink, hcfg⟩ := resetFunction_untouched hcores hfaults cfg
    exact ⟨hstill, hlink.trans hup, hcfg⟩
  refine ⟨⟨_, ?_, hspec PcieCfg.afterFlr⟩, ⟨_, ?_, hspec PcieCfg.afterHot⟩⟩
  · change execFunctionLevelReset s = _
    rw [execFunctionLevelReset, onHw_next, if_pos (by simp [hboot, hup])]
  · change execHotReset s = _
    rw [execHotReset, onHw_next, if_pos (by simp [hboot, hup])]

/-- The function reset once its link is down. -/
def unlinked (m : Hw) : Hw :=
  let t := m.resetFunction PcieCfg.afterHot
  { t with host := { t.host with up := false } }

theorem after_linkDown {s : State} (hup : s.m.host.up = true) : After .linkDown s fun m =>
    Removed m ∧ m.host.up = false ∧ (CoresQuiet s.m ∧ FaultsQuiet s.m → Untouched s.m m) := by
  refine ⟨unlinked s.m, ?_, resetFunction_removed s.m PcieCfg.afterHot, rfl, fun ⟨hcores, hfaults⟩ =>
    (resetFunction_untouched hcores hfaults PcieCfg.afterHot).1⟩
  change execLinkDown s = _
  rw [execLinkDown, onHw_next, if_pos hup, unlinked]

/-! ### Training of the link and the size of BAR2 (13 R339, R344) -/

/-- The module once its link has trained, before the cause of a change. -/
def trained (m : Hw) (speed width : Nat) : Hw :=
  { m with
    host := { m.host with up := true }
    quay := { m.quay with
      speed := speed, width := width, flit := speed == 6 || (Config.freeWord m.mem.free).getLsbD 0
      retrains := if m.quay.speed = 0 then 0 else sat16 m.quay.retrains
      linkLow := speed < 6 || width < 16 }
    mem := { m.mem with free := m.mem.free + 1 } }

theorem exec_pcieLinkTraining {s : State} {speed width : Nat} (hboot : s.m.boot ≠ .off) (hlow : 1 ≤ speed) (hhigh : speed ≤ 6)
    (hwidth : width ∈ [1, 2, 4, 8, 16]) : exec (.pcieLinkTraining speed width) s = .next { s with
      m := if (trained s.m speed width).quay = s.m.quay then trained s.m speed width else (trained s.m speed width).cause 5 } := by
  have hlanes : [1, 2, 4, 8, 16].contains width = true := List.contains_iff_mem.2 hwidth
  change execPcieLinkTraining speed width s = _
  rw [execPcieLinkTraining, onHw_next]
  dsimp only
  rw [hlanes, if_neg (by simp [hboot, hlow, hhigh])]
  rfl

theorem cause_up (m : Hw) (i : Nat) : (m.cause i).host.up = m.host.up := by
  unfold Hw.cause
  split
  · rfl
  · dsimp only
    split
    · exact (congrArg HostLink.up (raiseFor_frame ..) :)
    · rfl

theorem after_pcieLinkTraining {s : State} {speed width : Nat} (hboot : s.m.boot ≠ .off) (hlow : 1 ≤ speed) (hhigh : speed ≤ 6)
    (hwidth : width ∈ [1, 2, 4, 8, 16]) : After (.pcieLinkTraining speed width) s fun m => m.host.up = true ∧
      m.quay.speed = speed ∧ m.quay.width = width ∧ m.quay.linkLow = (speed < 6 || width < 16) ∧ m.ctxs = s.m.ctxs ∧
      m.mem.ram = s.m.mem.ram ∧ m.cores = s.m.cores := by
  refine ⟨_, exec_pcieLinkTraining hboot hlow hhigh hwidth, ?_⟩
  have hup : (trained s.m speed width).host.up = true := rfl
  have hspeed : (trained s.m speed width).quay.speed = speed := rfl
  have hlanes : (trained s.m speed width).quay.width = width := rfl
  have hless : (trained s.m speed width).quay.linkLow = (speed < 6 || width < 16) := rfl
  have hctxs : (trained s.m speed width).ctxs = s.m.ctxs := rfl
  have hram : (trained s.m speed width).mem.ram = s.m.mem.ram := rfl
  have hcores : (trained s.m speed width).cores = s.m.cores := rfl
  generalize trained s.m speed width = t at *
  split
  · exact ⟨hup, hspeed, hlanes, hless, hctxs, hram, hcores⟩
  · have hquay := cause_quay t 5
    refine ⟨(cause_up t 5).trans hup, (congrArg Quay.speed hquay :).trans hspeed, (congrArg Quay.width hquay :).trans hlanes,
      (congrArg Quay.linkLow hquay :).trans hless, ?_⟩
    simp only [cause_ctxs, cause_mem, cause_cores]
    exact ⟨hctxs, hram, hcores⟩

theorem leaves_bar2Resize {s : State} {n : Nat} (hup : s.m.host.up = true) (hlow : 34 ≤ n) (hhigh : n ≤ 43) :
    Leaves (.bar2Resize n) s { s.m with host := { s.m.host with bar2 := n, windows := [] } } := by
  change execBar2Resize n s = _
  rw [execBar2Resize, onHw_next, Hw.resizeBar2, if_pos (by simp [hup, hlow, hhigh])]

/-- Settles O51: a reset's state is read off, a bring-up goes by the step it is at, and a function reset with nothing under
way only removes. -/
theorem resetsEndWhatTheySay : Obligations.ResetsEndWhatTheySay := fun _ =>
  ⟨⟨resetWrites, fun hon hst v f => automaticReset_spec hon hst v f, powerOn_spec,
      fun _ _ hcoming hpicked hhung htrial f => trialImageTimeout_spec hcoming hpicked hhung htrial f⟩,
    fun hempty hon _ _ hcoming => bringUp_steps hempty hon hcoming,
    ⟨functionResets, after_linkDown⟩,
    fun _ _ hboot hlow hhigh hwidth => after_pcieLinkTraining hboot hlow hhigh hwidth,
    fun _ hup hlow hhigh => leaves_bar2Resize hup hlow hhigh⟩

end Sys2Proof
end
